-- ==== Sys2Proof/Word.lean ====
section
/-! DEFINITION. The word types of the Sheah 96 and the data that travels in it: 64-bit words with poison, 512-bit
vectors, tokens (R12, R13), and the memory operations a home can be asked to perform (R82, R89-R91, R223-R241). -/

namespace Sys2Proof

abbrev Word := BitVec 64
abbrev Byte := BitVec 8

/-- A sparse table: keys in strictly rising order, every key not listed holds the table's default. The operations are in
Machine/Maps.lean. -/
abbrev Tab (α : Type) := List (Nat × α)

/-- A 64-bit word with its poison bit (R91). -/
structure Val where
  bits : Word := 0
  pois : Bool := false
deriving DecidableEq, Repr

/-- A 512-bit vector with one poison bit per 64-bit word (R13). -/
structure VVal where
  bits : BitVec 512 := 0
  pois : BitVec 8 := 0
deriving DecidableEq, Repr

/-- A token (R12, R13). A scalar token uses the low 64 payload bits and poison bit 0. -/
structure Token where
  pay  : BitVec 512 := 0
  pois : BitVec 8 := 0
  mark : BitVec 2 := 0
  col  : BitVec 10 := 0
deriving DecidableEq, Repr

/-- Marks of R5. -/
abbrev mkD : BitVec 2 := 0
abbrev mkL : BitVec 2 := 1
abbrev mkE : BitVec 2 := 2
abbrev mkC : BitVec 2 := 3

/-- Read-modify-write functions of the atomics (R226) and reductions (R227, R260). -/
inductive Rmw where
  | add | min | max | and | or | xor | xchg | cas | fadd
deriving DecidableEq, Repr

/-- What a home is asked to do with one location. Sizes are in bytes. -/
inductive MOp where
  /-- a load of n bytes -/
  | read (n : Nat)
  /-- a store of n bytes -/
  | write (n : Nat) (v : Val)
  /-- a store of the bytes of the mask within the aligned word (R89, R194) -/
  | writeMask (mask : Byte) (v : Val)
  /-- an atomic (ret) or a reduction on n bytes; c is the value ATCAS writes -/
  | rmw (f : Rmw) (n : Nat) (ret : Bool) (b c : Val)
  /-- a reducing FADD of several values merged before their home (R277): the exact sum, rounded once -/
  | fsum (n : Nat) (vs : List Val)
  /-- the reducing elements of n bytes that a copy performs in one word as one event, each with its byte offset (R89, R260) -/
  | rmws (f : Rmw) (n : Nat) (els : List (Nat × Val))
  | ldp
  | stp (v : Val)
  | clrp
  | ldne (v : Word)
  /-- BARR; w is the waiting form (R235) -/
  | barr (w : Bool)
  /-- a waiting BARR that has arrived and found o (R235) -/
  | barrWait (o : Val)
  | mlock (tag : BitVec 32)
  | munlk
  | qenq (v : Val)
  | qdeq
  | qsteal
deriving DecidableEq, Repr

end Sys2Proof
end

