-- ==== Sys2Proof/Config.lean ====
section
/-! DEFINITION. What the part fixes (sizes and counts of spec/00-04) and the free values: uninterpreted functions of a
counter (or of the operands) for the values the spec leaves open. -/

namespace Sys2Proof.Config

/-- Places of a scalar and of a vector input channel (R14), and while a tile has taken a marker (R411). -/
def scalarCap : Nat := 4
def vectorCap : Nat := 2
def scalarCapMarked : Nat := 16
def vectorCapMarked : Nat := 8

/-- Memory operations a PE may have in flight (R218). -/
def memPort : Nat := 16
/-- fc a slot is held back before its wait is registered (R29). -/
def holdFc : Nat := 32
/-- Bytes of an MT (R74) and of one half of an Insole-paired MT. -/
def mtBytes : Nat := 0x80000
def mtHalf : Nat := 0x40000
/-- Deferred operations of an MT bank and of a DRAM channel (R83). -/
def bankDefer : Nat := 16
def dramDefer : Nat := 256
/-- Partitions, region ids, wait-for table entries (R31, R359). -/
def partitions : Nat := 64
def regionIds : Nat := 4096
def wftEntries : Nat := 8192
/-- Cobbler harts and all harts, service cores included (R314, R318). -/
def cobblers : Nat := 192
def harts : Nat := 208
/-- Bytes of a vector register of a hart: V leaves the length to the implementation (log 10). -/
def vlenb : Nat := 16
/-- Welt links (R4, R393). -/
def links : Nat := 24

/-- Physical page of a peer device at which its own table places a page of a partition's virtual space (log 17): the sender of an access
through a REMOTE capability does not know it. -/
opaque peerPage : Nat → Nat → Nat → Nat

/-- A fresh free value (log 3): nothing is known of it. -/
opaque freeWord : Nat → BitVec 64
/-- A free choice between two outcomes the spec both allows (log 3). -/
opaque freeBool : Nat → Bool
/-- Free content of a given length, in bytes (log 7, log 12). -/
opaque freeByte : Nat → Nat → BitVec 8
/-- The ML-DSA-87 signature the device makes of a message (R458), 4,627 bytes by index (log 12). -/
opaque sign : List (BitVec 8) → Nat → BitVec 8
/-- Whether a signature on a firmware image verifies against the fused key (R457) (log 12). -/
opaque verify : List (BitVec 8) → List (BitVec 8) → Bool

end Sys2Proof.Config
end

