-- ==== Sys2Proof/Machine/Maps.lean ====
section
/-! DEFINITION. Lists with keys (Tab) and byte memory as a canonical list of cells: reading and writing. -/

namespace Sys2Proof.Machine

/-- The value at key k; d where k is not listed. -/
def tget {α : Type} (t : Tab α) (d : α) (k : Nat) : α :=
  match t with
  | [] => d
  | (j, v) :: r => if j = k then v else tget r d k

/-- The value at key k, if listed. -/
def tfind {α : Type} (t : Tab α) (k : Nat) : Option α :=
  match t with
  | [] => none
  | (j, v) :: r => if j = k then some v else tfind r k

/-- List v at key k, keeping keys in rising order. -/
def tset {α : Type} (t : Tab α) (k : Nat) (v : α) : Tab α :=
  match t with
  | [] => [(k, v)]
  | (j, w) :: r => if j = k then (k, v) :: r else if k < j then (k, v) :: (j, w) :: r else (j, w) :: tset r k v

/-- Take key k off the list. -/
def tdel {α : Type} (t : Tab α) (k : Nat) : Tab α := t.filter (fun c => decide (c.1 ≠ k))

/-- Change the value at key k (d where it is not listed). -/
def tupd {α : Type} (t : Tab α) (d : α) (k : Nat) (f : α → α) : Tab α := tset t k (f (tget t d k))

/-- Change every listed value. -/
def tmap {α β : Type} (t : Tab α) (f : Nat → α → β) : Tab β := t.map (fun c => (c.1, f c.1 c.2))

/-- Byte memory in canonical form: addresses strictly rising, no listed byte 0 (an unlisted byte reads 0, log 8). -/
def Mem.wf (m : List Host.Cell) : Bool :=
  match m with
  | [] => true
  | (_, b) :: [] => decide (b ≠ 0)
  | (a, b) :: (c, d) :: r => decide (b ≠ 0) && decide (a < c) && Mem.wf ((c, d) :: r)

/-- One byte (log 8: 0 where nothing is listed). -/
def rdByte (m : List Host.Cell) (a : Nat) : Byte := tget m 0 a

/-- Store one byte, keeping the canonical form. -/
def wrByte (m : List Host.Cell) (a : Nat) (b : Byte) : List Host.Cell := if b = 0 then tdel m a else tset m a b

/-- n bytes from address a as a number, the lowest-addressed byte lowest (R49). -/
def rdNat (m : List Host.Cell) (a n : Nat) : Nat :=
  match n with
  | 0 => 0
  | k + 1 => (rdByte m a).toNat + 256 * rdNat m (a + 1) k

/-- Store the low n bytes of v from address a upward (R49). -/
def wrNat (m : List Host.Cell) (a n v : Nat) : List Host.Cell :=
  match n with
  | 0 => m
  | k + 1 => wrNat (wrByte m a (BitVec.ofNat 8 v)) (a + 1) k (v / 256)

/-- n bytes from address a. -/
def rdBytes (m : List Host.Cell) (a n : Nat) : List Byte := (List.range n).map (fun i => rdByte m (a + i))

/-- Store a list of bytes from address a upward. -/
def wrBytes (m : List Host.Cell) (a : Nat) (bs : List Byte) : List Host.Cell :=
  match bs with
  | [] => m
  | b :: r => wrBytes (wrByte m a b) (a + 1) r

/-- Set or clear a member of a sorted list of numbers. -/
def nset (l : List Nat) (k : Nat) (b : Bool) : List Nat :=
  if b then (if l.contains k then l else (l.filter (· < k)) ++ k :: l.filter (k < ·)) else l.filter (· != k)

/-- Replace position i of a list. -/
def lset {α : Type} (l : List α) (i : Nat) (v : α) : List α :=
  match l, i with
  | [], _ => []
  | _ :: r, 0 => v :: r
  | x :: r, i + 1 => x :: lset r i v

/-- Zip with the index. -/
def lenum {α : Type} (l : List α) : List (Nat × α) := (List.range l.length).zip l

end Sys2Proof.Machine
end

