-- ==== Sys2Proof/Syntax.lean ====
section
/-! DEFINITION. The steps of the Sheah 96: the decoded triggered-instruction word (R104), the Xcarnar and CSR operands
(R327, R339), the content of the messages and packets that reach the device, and the one inductive Instr. A tile
argument is LPAGE x 16 + POS of the region's Last (R119). -/

namespace Sys2Proof

/-- A predicate literal of a trigger (R104, R105). -/
structure Lit where
  en  : BitVec 1 := 0
  val : BitVec 1 := 0
  p   : BitVec 4 := 0
deriving DecidableEq, Repr

/-- A channel condition of a trigger (R104-R106). -/
structure Cond where
  en : BitVec 1 := 0
  ch : BitVec 3 := 0
  mt : BitVec 2 := 0
deriving DecidableEq, Repr

/-- The fields of a valid TI word but for V and OP (R104). -/
structure Ti where
  la  : Lit := {}
  lb  : Lit := {}
  cc  : Cond := {}
  cd  : Cond := {}
  sa  : BitVec 5 := 0
  sb  : BitVec 5 := 0
  dst : BitVec 5 := 0
  om  : BitVec 2 := 0
  puo : BitVec 2 := 0
  pui : BitVec 4 := 0
  imm : BitVec 8 := 0
deriving DecidableEq, Repr

/-- The register fields of an Xcarnar word (R327). -/
structure Xr where
  rd  : BitVec 5 := 0
  rs1 : BitVec 5 := 0
  rs2 : BitVec 5 := 0
deriving DecidableEq, Repr

/-- A RISC-V CSR instruction: funct3 (001 RW, 010 RS, 011 RC, 101-111 with an immediate), registers, CSR number (R339). -/
structure CsrOp where
  f3  : BitVec 3 := 1
  rd  : BitVec 5 := 0
  rs1 : BitVec 5 := 0
  csr : BitVec 12 := 0
deriving DecidableEq, Repr

/-- Where a soft error strikes (R404). -/
inductive SoftTarget where
  | dram (pa : Nat)
  | mt (rid addr : Nat)
  | greg (rid tile r : Nat)
  | vreg (rid tile r word : Nat)
  | acc (rid tile word : Nat)
  | chan (rid tile inp pos word : Nat)
  /-- state without poison, of class 0, 1, 2 or 4 (R400) -/
  | ctl (rid cls : Nat)
  | wft (idx : Nat)
deriving DecidableEq, Repr

/-- A KHR datagram: its source, the endpoint it is addressed to, its header and its payload words (R436, R437). With `frame` it is the Ethernet
frame as it reaches a host port, and all else is read from that; `odd` says that the payload is no whole number of words. -/
structure Khr where
  src  : BitVec 128 := 0
  port : BitVec 16 := 0
  dst  : BitVec 128 := 0
  sess : BitVec 32 := 0
  seq  : BitVec 32 := 0
  body : List Word := []
  frame : List Byte := []
  odd  : Bool := false
deriving DecidableEq, Repr

/-- A remote request as it reaches a peer's stream port (R393, R395, R428, R467). `rid` is what a lock word names; `cap` is the capability of the
sender's REMOTE entry; without one the access came through a PEER leaf and `addr` is a physical address. `desc` is the descriptor of a
context that the port is to hold; `ctx` says that the request is an event of a context, of which element, and which of the words it touches: the
port generates its address. `back` withdraws the request that has the tag (R225). `copy` is a word of a migrating page: its presence goes with it
(R389). `dst` is the device it is for (R428). -/
structure PeerReq where
  tag  : Nat
  src  : BitVec 19
  part : Nat
  rid  : Nat := 0
  cap  : Option (BitVec 128) := none
  addr : Nat := 0
  n    : Nat := 8
  op   : MOp
  desc : Option (List Word) := none
  ctx  : Option (Nat × Nat × Nat) := none
  back : Bool := false
  copy : Option Bool := none
  dst  : Nat := 0
deriving DecidableEq, Repr

/-- A peer's answer (R395, R467): performed (of a queue operation, whether an item moved), failed, or not performed: withdrawn (R225), or
behind an element of its context that failed (R393). -/
inductive PeerAns where
  | ok (v : Val) (moved : Bool)
  | fail (code : Nat)
  | back
deriving DecidableEq, Repr

/-- A firmware image as PLDM Type 5 delivers it (R448, R457). -/
structure FwImage where
  main  : Bool := true
  svn   : Word := 0
  bytes : List Byte := []
  sig   : List Byte := []
deriving DecidableEq, Repr

/-- A hart's access to a DRAM word whose poison bit is set, by the hart's own address (R470). -/
inductive HartAcc where
  | load (va : Word)
  | fetch (va : Word)
  | amo (va : Word)
  | store (va : Word) (n : Nat) (data : Word)
deriving DecidableEq, Repr

/-- One constructor for each row of spec/opcode_table.json, the words of slots and harts first. -/
inductive Instr where
  /-- NOP (R150) -/
  | nop (t : Ti)
  /-- MOV (R150) -/
  | mov (t : Ti)
  /-- ADD (R150) -/
  | add (t : Ti)
  /-- SUB (R150) -/
  | sub (t : Ti)
  /-- ADDW (R150) -/
  | addw (t : Ti)
  /-- SUBW (R150) -/
  | subw (t : Ti)
  /-- MUL (R150) -/
  | mul (t : Ti)
  /-- MULH (R150) -/
  | mulh (t : Ti)
  /-- MULHU (R150) -/
  | mulhu (t : Ti)
  /-- DIV (R150) -/
  | div (t : Ti)
  /-- DIVU (R150) -/
  | divu (t : Ti)
  /-- REM (R150) -/
  | rem (t : Ti)
  /-- REMU (R150) -/
  | remu (t : Ti)
  /-- AND (R150) -/
  | and (t : Ti)
  /-- OR (R150) -/
  | or (t : Ti)
  /-- XOR (R150) -/
  | xor (t : Ti)
  /-- ANDN (R150) -/
  | andn (t : Ti)
  /-- SHL (R150) -/
  | shl (t : Ti)
  /-- SHR (R150) -/
  | shr (t : Ti)
  /-- SAR (R150) -/
  | sar (t : Ti)
  /-- ROL (R150) -/
  | rol (t : Ti)
  /-- CLZ (R150) -/
  | clz (t : Ti)
  /-- CTZ (R150) -/
  | ctz (t : Ti)
  /-- POPC (R150) -/
  | popc (t : Ti)
  /-- MIN (R150) -/
  | min (t : Ti)
  /-- MAX (R150) -/
  | max (t : Ti)
  /-- MINU (R150) -/
  | minu (t : Ti)
  /-- MAXU (R150) -/
  | maxu (t : Ti)
  /-- BEXT (R151) -/
  | bext (t : Ti)
  /-- BINS (R151) -/
  | bins (t : Ti)
  /-- SEL (R152) -/
  | sel (t : Ti)
  /-- MAC (R150) -/
  | mac (t : Ti)
  /-- CMPEQ (R153) -/
  | cmpeq (t : Ti)
  /-- CMPNE (R153) -/
  | cmpne (t : Ti)
  /-- CMPLT (R153) -/
  | cmplt (t : Ti)
  /-- CMPLTU (R153) -/
  | cmpltu (t : Ti)
  /-- CMPLE (R153) -/
  | cmple (t : Ti)
  /-- CMPLEU (R153) -/
  | cmpleu (t : Ti)
  /-- TSTB (R153) -/
  | tstb (t : Ti)
  /-- TSTAND (R153) -/
  | tstand (t : Ti)
  /-- SEXT (R150) -/
  | sext (t : Ti)
  /-- ZEXT (R150) -/
  | zext (t : Ti)
  /-- FWD (R155) -/
  | fwd (t : Ti)
  /-- DROP (R156) -/
  | drop (t : Ti)
  /-- MARK (R157) -/
  | mark (t : Ti)
  /-- EMITC (R158) -/
  | emitc (t : Ti)
  /-- JOIN (R159) -/
  | join (t : Ti)
  /-- CNTSET (R160) -/
  | cntset (t : Ti)
  /-- CNTINC (R161) -/
  | cntinc (t : Ti)
  /-- CNTRD (R162) -/
  | cntrd (t : Ti)
  /-- SPAWN (R164) -/
  | spawn (t : Ti)
  /-- SENDC (R166) -/
  | sendc (t : Ti)
  /-- CRET (R167) -/
  | cret (t : Ti)
  /-- COLR (R157) -/
  | colr (t : Ti)
  /-- PRD (R169) -/
  | prd (t : Ti)
  /-- PWR (R170) -/
  | pwr (t : Ti)
  /-- DONE (R171) -/
  | done (t : Ti)
  /-- TRAP (R172) -/
  | trap (t : Ti)
  /-- FADD_D (R177) -/
  | faddD (t : Ti)
  /-- FSUB_D (R177) -/
  | fsubD (t : Ti)
  /-- FMUL_D (R177) -/
  | fmulD (t : Ti)
  /-- FFMA_D (R177) -/
  | ffmaD (t : Ti)
  /-- FMIN_D (R177) -/
  | fminD (t : Ti)
  /-- FMAX_D (R177) -/
  | fmaxD (t : Ti)
  /-- FDIV_D (R177) -/
  | fdivD (t : Ti)
  /-- FSQRT_D (R177) -/
  | fsqrtD (t : Ti)
  /-- FADD_S (R177) -/
  | faddS (t : Ti)
  /-- FSUB_S (R177) -/
  | fsubS (t : Ti)
  /-- FMUL_S (R177) -/
  | fmulS (t : Ti)
  /-- FFMA_S (R177) -/
  | ffmaS (t : Ti)
  /-- FMIN_S (R177) -/
  | fminS (t : Ti)
  /-- FMAX_S (R177) -/
  | fmaxS (t : Ti)
  /-- FDIV_S (R177) -/
  | fdivS (t : Ti)
  /-- FSQRT_S (R177) -/
  | fsqrtS (t : Ti)
  /-- FCMPEQ (R178) -/
  | fcmpeq (t : Ti)
  /-- FCMPLT (R178) -/
  | fcmplt (t : Ti)
  /-- FCMPLE (R178) -/
  | fcmple (t : Ti)
  /-- FCMPUN (R178) -/
  | fcmpun (t : Ti)
  /-- FCVT (R179) -/
  | fcvt (t : Ti)
  /-- FCVTI (R179) -/
  | fcvti (t : Ti)
  /-- ICVTF (R179) -/
  | icvtf (t : Ti)
  /-- FEXP2_S (R61) -/
  | fexp2S (t : Ti)
  /-- FLOG2_S (R61) -/
  | flog2S (t : Ti)
  /-- FRCP_S (R61) -/
  | frcpS (t : Ti)
  /-- FRSQ_S (R61) -/
  | frsqS (t : Ti)
  /-- FCLASS (R180) -/
  | fclass (t : Ti)
  /-- VADD (R185) -/
  | vadd (t : Ti)
  /-- VSUB (R185) -/
  | vsub (t : Ti)
  /-- VMUL (R185) -/
  | vmul (t : Ti)
  /-- VFMA (R185) -/
  | vfma (t : Ti)
  /-- VMIN (R185) -/
  | vmin (t : Ti)
  /-- VMAX (R185) -/
  | vmax (t : Ti)
  /-- VABS (R185) -/
  | vabs (t : Ti)
  /-- VNEG (R185) -/
  | vneg (t : Ti)
  /-- VEXP2 (R186) -/
  | vexp2 (t : Ti)
  /-- VRCP (R186) -/
  | vrcp (t : Ti)
  /-- VRSQ (R186) -/
  | vrsq (t : Ti)
  /-- VLOG2 (R186) -/
  | vlog2 (t : Ti)
  /-- VCVT (R187) -/
  | vcvt (t : Ti)
  /-- VREDSUM (R188) -/
  | vredsum (t : Ti)
  /-- VREDMAX (R188) -/
  | vredmax (t : Ti)
  /-- VREDMIN (R188) -/
  | vredmin (t : Ti)
  /-- VAND (R193) -/
  | vand (t : Ti)
  /-- VOR (R193) -/
  | vor (t : Ti)
  /-- VXOR (R193) -/
  | vxor (t : Ti)
  /-- VSHL (R193) -/
  | vshl (t : Ti)
  /-- VSHR (R193) -/
  | vshr (t : Ti)
  /-- VSAR (R193) -/
  | vsar (t : Ti)
  /-- VCMPEQ (R190) -/
  | vcmpeq (t : Ti)
  /-- VCMPLT (R190) -/
  | vcmplt (t : Ti)
  /-- VCMPLE (R190) -/
  | vcmple (t : Ti)
  /-- VSEL (R191) -/
  | vsel (t : Ti)
  /-- VBCAST (R192) -/
  | vbcast (t : Ti)
  /-- VEXTR (R192) -/
  | vextr (t : Ti)
  /-- VINS (R192) -/
  | vins (t : Ti)
  /-- VSHUF (R192) -/
  | vshuf (t : Ti)
  /-- VPACK (R192) -/
  | vpack (t : Ti)
  /-- VUNPK (R192) -/
  | vunpk (t : Ti)
  /-- VLREC (R189) -/
  | vlrec (t : Ti)
  /-- VSCAN (R189) -/
  | vscan (t : Ti)
  /-- VMOV (R192) -/
  | vmov (t : Ti)
  /-- VLD (R194) -/
  | vld (t : Ti)
  /-- VST (R194) -/
  | vst (t : Ti)
  /-- MMA (R207) -/
  | mma (t : Ti)
  /-- MMAS (R210) -/
  | mmas (t : Ti)
  /-- MMAX (R211) -/
  | mmax (t : Ti)
  /-- ACCZ (R212) -/
  | accz (t : Ti)
  /-- ACCRD (R213) -/
  | accrd (t : Ti)
  /-- ACCWR (R214) -/
  | accwr (t : Ti)
  /-- ACCSCL (R215) -/
  | accscl (t : Ti)
  /-- ACCADD (R216) -/
  | accadd (t : Ti)
  /-- LD (R220) -/
  | ld (t : Ti)
  /-- ST (R220) -/
  | st (t : Ti)
  /-- LDW (R220) -/
  | ldw (t : Ti)
  /-- STW (R220) -/
  | stw (t : Ti)
  /-- LDP (R223) -/
  | ldp (t : Ti)
  /-- STP (R223) -/
  | stp (t : Ti)
  /-- CLRP (R223) -/
  | clrp (t : Ti)
  /-- LDNE (R223) -/
  | ldne (t : Ti)
  /-- ATADD (R226) -/
  | atadd (t : Ti)
  /-- ATMIN (R226) -/
  | atmin (t : Ti)
  /-- ATMAX (R226) -/
  | atmax (t : Ti)
  /-- ATAND (R226) -/
  | atand (t : Ti)
  /-- ATOR (R226) -/
  | ator (t : Ti)
  /-- ATXOR (R226) -/
  | atxor (t : Ti)
  /-- ATXCHG (R226) -/
  | atxchg (t : Ti)
  /-- ATCAS (R226) -/
  | atcas (t : Ti)
  /-- REDADD (R227) -/
  | redadd (t : Ti)
  /-- REDFADD (R227) -/
  | redfadd (t : Ti)
  /-- GATH (R222) -/
  | gath (t : Ti)
  /-- SCAT (R222) -/
  | scat (t : Ti)
  /-- HWAIT (R228) -/
  | hwait (t : Ti)
  /-- HREL (R229) -/
  | hrel (t : Ti)
  /-- HCLM (R228) -/
  | hclm (t : Ti)
  /-- HFIN (R229) -/
  | hfin (t : Ti)
  /-- HSTAT (R228) -/
  | hstat (t : Ti)
  /-- FENCE (R230) -/
  | fence (t : Ti)
  /-- WREG (R234) -/
  | wreg (t : Ti)
  /-- WHOLD (R234) -/
  | whold (t : Ti)
  /-- WDROP (R234) -/
  | wdrop (t : Ti)
  /-- BARR (R235) -/
  | barr (t : Ti)
  /-- MLOCK (R237) -/
  | mlock (t : Ti)
  /-- MUNLK (R238) -/
  | munlk (t : Ti)
  /-- EQPUSH (R283) -/
  | eqpush (t : Ti)
  /-- EQFLUSH (R287) -/
  | eqflush (t : Ti)
  /-- EQSTAT (R288) -/
  | eqstat (t : Ti)
  /-- EQPRI (R289) -/
  | eqpri (t : Ti)
  /-- NLBIN (R305) -/
  | nlbin (t : Ti)
  /-- NLSWEEP (R308) -/
  | nlsweep (t : Ti)
  /-- NLMOVE (R306) -/
  | nlmove (t : Ti)
  /-- NLSTAT (R311) -/
  | nlstat (t : Ti)
  /-- NLCLR (R303) -/
  | nlclr (t : Ti)
  /-- SCOPY (R267) -/
  | scopy (t : Ti)
  /-- SCSTAT (R269) -/
  | scstat (t : Ti)
  /-- QENQ (R241) -/
  | qenq (t : Ti)
  /-- QDEQ (R241) -/
  | qdeq (t : Ti)
  /-- QSTEAL (R241) -/
  | qsteal (t : Ti)
  /-- SYSC (R242) -/
  | sysc (t : Ti)
  /-- BRK (R244) -/
  | brk (t : Ti)
  /-- CFGSW (R245) -/
  | cfgsw (t : Ti)
  /-- RDCYC (R246) -/
  | rdcyc (t : Ti)
  /-- CRN_FLOAD (R329) -/
  | crnFload (x : Xr)
  /-- CRN_FKILL (R331) -/
  | crnFkill (x : Xr)
  /-- CRN_FSHADOW (R333) -/
  | crnFshadow (x : Xr)
  /-- CRN_FSWAP (R333) -/
  | crnFswap (x : Xr)
  /-- CRN_FRUN (R329) -/
  | crnFrun (x : Xr)
  /-- CRN_FHALT (R329) -/
  | crnFhalt (x : Xr)
  /-- CRN_FMARK (R329) -/
  | crnFmark (x : Xr)
  /-- CRN_FSCAN (R423) -/
  | crnFscan (x : Xr)
  /-- CRN_FREST (R424) -/
  | crnFrest (x : Xr)
  /-- CRN_FMOVE (R351) -/
  | crnFmove (x : Xr)
  /-- CRN_FPATCH (R383) -/
  | crnFpatch (x : Xr)
  /-- CRN_FINVAL (R384) -/
  | crnFinval (x : Xr)
  /-- CRN_FTOK (R334) -/
  | crnFtok (x : Xr)
  /-- CRN_FINJECT (R334) -/
  | crnFinject (x : Xr)
  /-- CRN_FSTAT (R335) -/
  | crnFstat (x : Xr)
  /-- CRN_FPAR (R336) -/
  | crnFpar (x : Xr)
  /-- CRN_WFTRD (R337) -/
  | crnWftrd (x : Xr)
  /-- CRN_WFTCLR (R337) -/
  | crnWftclr (x : Xr)
  /-- CRNFREC_WRITE (R341) -/
  | crnfrecWrite (c : CsrOp)
  /-- HCRNPMAP_WRITE (R432) -/
  | hcrnpmapWrite (c : CsrOp)
  /-- CSR_WRITE (R339) -/
  | csrWrite (c : CsrOp)
  /-- LONG_OP_COMPLETE (R22) -/
  | longOpComplete (rid tile op : Nat)
  /-- TENSOR_COMPLETE (R206) -/
  | tensorComplete (rid tile op : Nat)
  /-- HOME_ACCESS (R82) -/
  | homeAccess (rid acc : Nat)
  /-- DEFERRAL_ADMIT (R83) -/
  | deferralAdmit (rid acc : Nat)
  /-- QUEUE_CONTROLLER_OP (R241) -/
  | queueControllerOp (rid acc : Nat)
  /-- TOKEN_ARRIVAL (R14) -/
  | tokenArrival (rid tile inp : Nat)
  /-- WELT_TOKEN_ARRIVAL (R136) -/
  | weltTokenArrival (rid tile inp : Nat) (tok : Token)
  /-- WELT_CREDIT (R136) -/
  | weltCredit (rid tile out : Nat)
  /-- CONTROL_PULSE (R27) -/
  | controlPulse (rid tile ci : Nat)
  /-- WAIT_REGISTER (R29) -/
  | waitRegister (rid tile slot : Nat)
  /-- CYCLE_CONFIRM (R367) -/
  | cycleConfirm (cyc : Nat)
  /-- COLOUR_CLEAR_DONE (R168) -/
  | colourClearDone (rid col : Nat)
  /-- FRAME_FIRING (R465) -/
  | frameFiring (rid tile : Nat)
  /-- FRAME_FORWARD (R465) -/
  | frameForward (rid tile : Nat)
  /-- FRAME_STORE (R34) -/
  | frameStore (rid tile inp : Nat)
  /-- RUN_COMPLETE (R39) -/
  | runComplete (rid : Nat)
  /-- REPLAY_START (R39) -/
  | replayStart (rid : Nat)
  /-- STREAM_START (R252) -/
  | streamStart (rid ctx : Nat)
  /-- BOX_START (R257) -/
  | boxStart (rid ctx : Nat)
  /-- STREAM_ELEMENT (R249) -/
  | streamElement (rid ctx : Nat)
  /-- EXTENT_REFILL (R378) -/
  | extentRefill (rid ctx : Nat)
  /-- BOX_COMPLETE (R250) -/
  | boxComplete (rid ctx box : Nat)
  /-- STREAM_COMPLETION_WORD (R262) -/
  | streamCompletionWord (rid ctx : Nat)
  /-- WRITE_STREAM_TAKE (R254) -/
  | writeStreamTake (rid ctx : Nat)
  /-- TAP_ARRIVAL (R263) -/
  | tapArrival (rid ctx : Nat)
  /-- COPY_START (R267) -/
  | copyStart (rid tile op : Nat)
  /-- COPY_COMPLETE (R267) -/
  | copyComplete (rid ctx : Nat)
  /-- FIFO_TAKE (R273) -/
  | fifoTake (rid tile : Nat)
  /-- FIFO_GIVE (R273) -/
  | fifoGive (rid tile : Nat)
  /-- LINE_TOKEN (R274) -/
  | lineToken (rid tile : Nat)
  /-- GATH_MT_GATHER (R276) -/
  | gathMtGather (rid tile : Nat)
  /-- GATH_MT_SCATTER (R276) -/
  | gathMtScatter (rid tile : Nat)
  /-- GATH_MT_ORDERING_TOKEN (R276) -/
  | gathMtOrderingToken (rid tile : Nat)
  /-- SUU_UPDATE (R277) -/
  | suuUpdate (rid tile sel : Nat)
  /-- COMP_TILE_RECORD (R278) -/
  | compTileRecord (rid tile : Nat)
  /-- EXQ_PUSH_ACCEPT (R283) -/
  | exqPushAccept (rid acc : Nat)
  /-- QUEUE_AGED (R285) -/
  | queueAged (rid tile q : Nat)
  /-- EXQ_CHOOSE (R285) -/
  | exqChoose (rid tile : Nat)
  /-- EXQ_BATCH_TOKEN (R286) -/
  | exqBatchToken (rid tile : Nat)
  /-- EXQ_FLUSH_TOKEN (R287) -/
  | exqFlushToken (rid tile : Nat)
  /-- EXQ_RING_REFILL (R291) -/
  | exqRingRefill (rid tile : Nat)
  /-- EXC_PAIR (R295) -/
  | excPair (rid tile : Nat)
  /-- EXC_EMIT (R295) -/
  | excEmit (rid tile : Nat)
  /-- EXC_END (R295) -/
  | excEnd (rid tile : Nat)
  /-- NLE_TAKE_OP (R300) -/
  | nleTakeOp (rid eng : Nat)
  /-- NLE_PAIR_TOKEN (R310) -/
  | nlePairToken (rid eng dst : Nat)
  /-- NLSTAT_ARRIVE (R300) -/
  | nlstatArrive (rid eng op : Nat)
  /-- SWAP_TAKE (R405) -/
  | swapTake (rid tile inp : Nat)
  /-- SWAP_DISCARD (R407) -/
  | swapDiscard (rid tile inp : Nat)
  /-- MARKER_TAKE (R410) -/
  | markerTake (rid tile : Nat)
  /-- MARKER_EMIT (R410) -/
  | markerEmit (rid tile : Nat)
  /-- PMARK_LOG_END (R411) -/
  | pmarkLogEnd (rid tile inp : Nat)
  /-- PMARK_LATE_INJECT (R409) -/
  | pmarkLateInject (rid : Nat)
  /-- MARK_DRAIN_COMPLETE (R413) -/
  | markDrainComplete (rid : Nat)
  /-- DRAIN_TIMEOUT (R414) -/
  | drainTimeout (rid : Nat)
  /-- FREEZE_STOP (R401) -/
  | freezeStop (rid : Nat)
  /-- REGION_SETTLED (R401) -/
  | regionSettled (rid : Nat)
  /-- FAULT_RECORD_DELIVER (R342) -/
  | faultRecordDeliver (h : Nat) (vs : Bool)
  /-- FAULT_INTERRUPT (R343) -/
  | faultInterrupt (h : Nat)
  /-- FOC_INTERRUPT (R343) -/
  | focInterrupt (h : Nat)
  /-- SOFT_ERROR (R404) -/
  | softError (target : SoftTarget)
  /-- LOAD_COMPLETE (R330) -/
  | loadComplete (rid : Nat)
  /-- SHADOW_LOAD_COMPLETE (R333) -/
  | shadowLoadComplete (rid : Nat)
  /-- SCAN_OUT_COMPLETE (R423) -/
  | scanOutComplete (rid : Nat)
  /-- RESTORE_COMPLETE (R424) -/
  | restoreComplete (rid : Nat)
  /-- MOVE_COMPLETE (R351) -/
  | moveComplete (rid : Nat)
  /-- SCRUB_COMPLETE (R331) -/
  | scrubComplete (rid : Nat)
  /-- LAUNCH_TAIL_WRITE (R344) -/
  | launchTailWrite (part q : Nat) (tail : Word)
  /-- LAUNCH_TAKE (R346) -/
  | launchTake (part : Nat)
  /-- COMPACTION (R352) -/
  | compaction (part : Nat)
  /-- AUTO_MOVE (R353) -/
  | autoMove (rid : Nat)
  /-- BUDGET_EXPIRY (R357) -/
  | budgetExpiry (rid : Nat)
  /-- SLICE_SWITCH (R356) -/
  | sliceSwitch (rid : Nat)
  /-- SLICE_CUT_TIMEOUT (R356) -/
  | sliceCutTimeout (rid : Nat)
  /-- STAGE_YIELD (R358) -/
  | stageYield (rid : Nat)
  /-- GROUP_END (R471) -/
  | groupEnd (rid : Nat)
  /-- HEAT_ACCOUNT (R386) -/
  | heatAccount (rid ctx : Nat)
  /-- HEAT_EPOCH_END (R388) -/
  | heatEpochEnd (part : Nat)
  /-- MIGRATION_REQUEST (R387) -/
  | migrationRequest (part : Nat)
  /-- MIGRATION_START (R389) -/
  | migrationStart (part : Nat)
  /-- MIGRATION_DRAINED (R389) -/
  | migrationDrained (part : Nat)
  /-- MIGRATION_COPY_DONE (R389) -/
  | migrationCopyDone (part : Nat)
  /-- PEER_REQUEST (R467) -/
  | peerRequest (link : Nat) (req : PeerReq)
  /-- PEER_ACK (R395) -/
  | peerAck (link tag : Nat) (ans : PeerAns)
  /-- LINK_TRAIN (R428) -/
  | linkTrain (link : Nat) (switched : Bool) (far : BitVec 19)
  /-- LINK_LOSS (R428) -/
  | linkLoss (link : Nat)
  /-- NO_ROUTE_FLIT (R466) -/
  | noRouteFlit (link : Nat) (dev : BitVec 19)
  /-- PART_SET (R430) -/
  | partSet
  /-- PART_GET (R429) -/
  | partGet
  /-- PART_SEAL (R431) -/
  | partSeal
  /-- PART_RESET (R434) -/
  | partReset
  /-- LINK_GET (R428) -/
  | linkGet
  /-- ATT_REPORT (R458) -/
  | attReport
  /-- ATT_EXTEND (R458) -/
  | attExtend
  /-- ICMPV6_FRAME (R436) -/
  | icmpv6Frame (port : Nat) (frame : List Byte)
  /-- KHR_OPEN (R438) -/
  | khrOpen (k : Khr)
  /-- KHR_CLOSE (R439) -/
  | khrClose (k : Khr)
  /-- KHR_LAUNCH (R440) -/
  | khrLaunch (k : Khr)
  /-- KHR_REPLAY (R439) -/
  | khrReplay (k : Khr)
  /-- KHR_COPYIN (R440) -/
  | khrCopyin (k : Khr)
  /-- KHR_COPYOUT (R440) -/
  | khrCopyout (k : Khr)
  /-- KHR_EVSUB (R439) -/
  | khrEvsub (k : Khr)
  /-- KHR_SRVREG (R439) -/
  | khrSrvreg (k : Khr)
  /-- KHR_FILE_RESPONSE (R442) -/
  | khrFileResponse (k : Khr) (call : Nat) (status : Word) (data : List Byte)
  /-- KHR_PCFG (R439) -/
  | khrPcfg (k : Khr)
  /-- KHR_VFRESET (R434) -/
  | khrVfreset (k : Khr)
  /-- CKPT_CONFIG (R450) -/
  | ckptConfig (k : Khr)
  /-- CKPT_QUIESCE (R452) -/
  | ckptQuiesce (k : Khr)
  /-- CKPT_WRITE (R453) -/
  | ckptWrite (k : Khr)
  /-- CKPT_RESUME (R453) -/
  | ckptResume (k : Khr)
  /-- CKPT_STATUS (R454) -/
  | ckptStatus (k : Khr)
  /-- CKPT_RESTORE (R454) -/
  | ckptRestore (k : Khr)
  /-- FOPEN (R442) -/
  | fopen (rid tile op : Nat)
  /-- FREAD (R442) -/
  | fread (rid tile op : Nat)
  /-- FWRITE (R442) -/
  | fwrite (rid tile op : Nat)
  /-- FCLOSE (R442) -/
  | fclose (rid tile op : Nat)
  /-- FSIZE (R442) -/
  | fsize (rid tile op : Nat)
  /-- SCONNECT (R444) -/
  | sconnect (rid tile op : Nat)
  /-- SLISTEN (R442) -/
  | slisten (rid tile op : Nat)
  /-- SACCEPT (R444) -/
  | saccept (rid tile op : Nat)
  /-- SCLOSE (R446) -/
  | sclose (rid tile op : Nat)
  /-- MZERO (R442) -/
  | mzero (rid tile op : Nat)
  /-- MHEAT (R442) -/
  | mheat (rid tile op : Nat)
  /-- FILE_SERVER_TIMEOUT (R442) -/
  | fileServerTimeout (part call : Nat)
  /-- CONN_TX_SEND (R445) -/
  | connTxSend (part conn : Nat)
  /-- CONN_RX_DELIVER (R445) -/
  | connRxDeliver (part conn : Nat) (bytes : List Byte)
  /-- CONN_PEER_FIN (R446) -/
  | connPeerFin (part conn : Nat)
  /-- CONN_RESET (R446) -/
  | connReset (part conn : Nat) (rst : Bool)
  /-- MGMT_READ_DESCRIPTOR (R447) -/
  | mgmtReadDescriptor (part : Nat)
  /-- MGMT_VF_RESET (R447) -/
  | mgmtVfReset (part : Nat) (scrub : Bool)
  /-- MGMT_DEVICE_RESET (R448) -/
  | mgmtDeviceReset (dev : Option (BitVec 19))
  /-- MGMT_SET_HYPERVISOR (R447) -/
  | mgmtSetHypervisor (ep : BitVec 128) (cobs : BitVec 192)
  /-- PLDM_SENSOR_READ (R447) -/
  | pldmSensorRead (sensor : Nat)
  /-- PLDM_POWER_CAP (R460) -/
  | pldmPowerCap (watts : Nat)
  /-- PLDM_FRU_READ (R447) -/
  | pldmFruRead (field : Nat)
  /-- PLDM_FIRMWARE_UPDATE (R448) -/
  | pldmFirmwareUpdate (fw : FwImage)
  /-- PLDM_BASE (R447) -/
  | pldmBase (cmd : Nat)
  /-- CLOCK_THROTTLE (R460) -/
  | clockThrottle (watts : Nat)
  /-- POWER_48V_ON (R459) -/
  | power48vOn
  /-- POWER_ENABLE (R459) -/
  | powerEnable (byPin : Bool)
  /-- POWER_STANDBY (R459) -/
  | powerStandby (byPin : Bool)
  /-- POWER_48V_OFF (R459) -/
  | power48vOff
  /-- RESET_N (R459) -/
  | resetN
  /-- POISONED_HART_ACCESS (R470) -/
  | poisonedHartAccess (h : Nat) (a : HartAcc)
  /-- TCP_PEER_CONNECT (R442) -/
  | tcpPeerConnect (part call : Nat) (refused : Bool)
deriving DecidableEq, Repr

end Sys2Proof
end

