-- ==== Sys2Proof/Machine/State.lean ====
section
/-! DEFINITION. The whole state of the machine as plain data, the state after reset, and the reasons a step can stop.
A Tab lists only what differs from the default a reader of it names; keys are numbers. A tile's key is LPAGE x 16 + POS. -/

namespace Sys2Proof.Machine

/-! ## Channels, counters and operations of a tile -/

/-- An input channel (R14): the buffer, head first; places freed in this fc, counted free only from the next fc (R21,
log 2); tokens on the route to it, each with the earliest fc in which it may arrive (R126, log 11); and how many tokens at the tail
of the buffer arrived in this fc, which nothing takes before the next (R21). -/
structure Chan where
  buf    : List Token := []
  popped : Nat := 0
  wire   : List (Nat × Token) := []
  came   : Nat := 0
deriving DecidableEq, Repr

/-- One emission of a tile, in firing order (R218): the operation that will fill it (0 once filled), the outputs it goes
to together (R15), the token, and whether the outputs are those of the plane a SWAP has put in the Insole (R405). -/
structure Emit where
  old  : Bool := false
  op   : Nat := 0
  outs : List Nat := []
  tok  : Option Token := none
deriving DecidableEq, Repr

/-- A loop counter (R26). -/
structure Ctr where
  val : BitVec 32 := 0
  run : Bool := true
deriving DecidableEq, Repr

/-- A long or blocking operation that has fired and not completed (R22): what it latched, the fc in which it completes
when its unit fixes one (R146), its accesses, and for fixed results the result. -/
structure PendOp where
  slot : Nat := 0
  code : Nat := 0
  ti   : Ti := {}
  seq  : Nat := 0
  a    : Val := {}
  b    : Val := {}
  c    : Val := {}
  va   : VVal := {}
  vb   : VVal := {}
  vd   : VVal := {}
  mask : BitVec 128 := 0
  snap : List Val := []
  snab : List Val := []
  /-- the accumulator words as they stood when a tensor operation fired (R202) -/
  accL : Tab Val := []
  col  : BitVec 10 := 0
  due  : Option Nat := none
  accs : List Nat := []
  ph   : Nat := 0
  res  : Val := {}
  cond : Bool := false
deriving DecidableEq, Repr

/-- A PE (R17): its mark of having fired in this fc and of a cancelled firing (log 2); configuration, registers with poison, pending marks
(R22), operations, control inputs (R27), and the initial values that a replay puts back (R17, R124). -/
structure Ct where
  mode  : Word := 0
  slots : Tab Word := []
  td    : Tab Word := []
  kcfg  : Tab Word := []
  g     : Tab Val := []
  v     : Tab VVal := []
  acc   : Tab Val := []
  p     : BitVec 12 := 0
  k     : Tab Ctr := []
  arb   : Nat := 8
  sr    : BitVec 32 := 1
  pg    : BitVec 14 := 0
  pv    : BitVec 8 := 0
  pacc  : BitVec 4 := 0
  pp    : BitVec 12 := 0
  ops   : Tab PendOp := []
  ci    : Tab Nat := []
  ciNet : Tab Nat := []
  ciDone : List Nat := []
  /-- the one cause that holds a slot back: its kind, what it is of, and for how many fc (R29, R368); kind 255 waits for the region to
  resume after a registration refused under TRAP (R369) -/
  hold  : Tab (Nat × Word × Nat) := []
  untr  : List Nat := []
  /-- slots whose untracked wait WREG holds: kind, object, and fc since it was last refused a place (R368) -/
  untx  : Tab (Nat × Word × Nat) := []
  fired : Bool := false
  /-- the slot that fired in this fc: its wait ends (R29) -/
  firedN : Option Nat := none
  halted : Bool := false
  gI    : Tab Val := []
  vI    : Tab VVal := []
  accI  : Tab Val := []
  pI    : BitVec 12 := 0
  seed  : BitVec 32 := 0
deriving DecidableEq, Repr

/-- The states of a buffer handle (R86), coded as in R228. -/
abbrev hFree : BitVec 2 := 0
abbrev hFilling : BitVec 2 := 1
abbrev hFull : BitVec 2 := 2
abbrev hDraining : BitVec 2 := 3

/-- A buffer handle of an MT (R86, R133): its record, its state, the state it takes at the end of the fc (R21), the agent
granted a claim in this fc (R87: side 0-3 of the MT, 4 the stream
port), the box, colour and space output of the multicast read that filled it (R259), and the model's own mark that a completion of
this fc changed its state, which a claim sees in the next fc (R21, R87). -/
structure Hnd where
  word  : Word := 0
  st    : BitVec 2 := 0
  nxt   : Option (BitVec 2) := none
  grant : Option Nat := none
  space : Option (Nat × Nat × BitVec 10) := none
  moved : Bool := false
deriving DecidableEq, Repr

/-- A request a GATH MT has taken (R276): kind 0 gather, 1 scatter, 2 E on mi0, 3 E on mi1; where its element lies (space, address,
capability), as checked when it was taken; the value a scatter writes; its access, 0 until issued; ordinal. -/
structure GReq where
  kind : Nat := 0
  idx  : Word := 0
  tok  : Token := {}
  loc  : Nat × Nat × Nat := (0, 0, 0)
  val  : Val := {}
  acc  : Nat := 0
  ord  : Nat := 0
deriving DecidableEq, Repr

/-- An update in the reorder window of an SUU MT (R277): accesses 0 until issued; values merged into it. -/
structure SUpd where
  addr : Nat := 0
  vals : List Val := []
  acc  : Nat := 0
  ord  : Nat := 0
  ends : Option Token := none
deriving DecidableEq, Repr

/-- One entry of an EXQ store (R283) with its arrival order and fc of acceptance, or a place of its spill ring (R291). -/
structure QEnt where
  q      : Nat := 0
  stamp  : BitVec 32 := 0
  ord    : Nat := 0
  fc     : Nat := 0
  w0     : Val := {}
  w1     : Val := {}
  chosen : Bool := false
deriving DecidableEq, Repr

/-- A mark of an EQFLUSH (R287): the arrival order at its tail, its operation, colour, result, and the fc of its acceptance. -/
structure Flush where
  mark : Nat := 0
  tile : Nat := 0
  op   : Nat := 0
  col  : BitVec 10 := 0
  n    : Nat := 0
  fc   : Nat := 0
deriving DecidableEq, Repr

/-- One queue of an EXQ tile (R285, R287, R289). -/
structure QSt where
  x     : Option (BitVec 32) := none
  flush : List Flush := []
  cls   : BitVec 2 := 0
deriving DecidableEq, Repr

/-- The unit state of an MT, by mode (R273-R278, R283-R295, R419): rhead and rtail count the entries of a FIFO or of a spill
ring; rows and outIx are the rows of a LINE, or the tokens received and emitted of a COMP tile. frFwd is the input a FRAME node
chose at the start of this fc to forward from (R465); first says which head of a GATH tile arrived first (1 the gather's, 2 the
scatter's, 0 none, R276); chk is the check of its table or ring in this run: 0 not made, 1 passed, 2 failed (R252, R272, R291); halt says that a combine tile
has raised a trap whose heads stay, and makes that test again when its region resumes (R295). -/
structure MtU where
  rows   : Nat := 0
  col    : Nat := 0
  frDone : List Nat := []
  frBusy : Option (Nat × Nat) := none
  frFwd  : Option Nat := none
  first  : Nat := 0
  chk    : Nat := 0
  halt   : Bool := false
  greqs  : List GReq := []
  sreqs  : List SUpd := []
  reqOrd : Nat := 0
  outIx  : Nat := 0
  lclk   : BitVec 32 := 0
  ents   : List QEnt := []
  ring   : List QEnt := []
  rhead  : Word := 0
  rtail  : Word := 0
  qs     : Tab QSt := []
  batch  : Option (Nat × Nat × Bool) := none
  qord   : Nat := 0
  wbase  : Word := 0
  win    : Tab (List (Nat × Val × VVal)) := []
deriving DecidableEq, Repr

/-- One plane of a tile (R134, R405): which part of the image configures it, its PE or MT, its routes, control routes and
Welt bindings, its input channels and the emissions under way, and the credits of its send bindings (R136). -/
structure Plane where
  shadow : Bool := false
  ct     : Ct := {}
  mode   : List Word := []
  hs     : Tab Hnd := []
  u      : MtU := {}
  routes : Tab (List Word) := []
  croute : Tab (List Word) := []
  welt   : Tab Word := []
  inp    : Tab Chan := []
  outq   : List Emit := []
  credit : Tab Nat := []
  used   : List Nat := []
deriving DecidableEq, Repr

/-- What crosses a Welt binding to its peer (R136): a credit for a free place, the withdrawal of all credits given, a token. -/
inductive WeltMsg where
  | credit
  | stop
  | tok (t : Token)
deriving DecidableEq, Repr

/-- A tile: its active and Insole planes, the credits its receive bindings have given (input: DEVID, TAG, count, R136), swap parities
(R406), a SWAP being taken (fc left and outputs, R405), and its part in a marker drain (R410, R411): taken, emitted, and the inputs whose
log has ended. -/
structure Tile where
  act    : Plane := {}
  ins    : Plane := {}
  given  : Tab (Nat × Nat × Nat) := []
  swS    : Bool := false
  swW    : List Nat := []
  swBusy : Option Nat := none
  mark   : Bool := false
  markEm : Bool := false
  logEnd : List Nat := []
deriving DecidableEq, Repr

/-! ## Memory accesses, streams and copies -/

/-- Who issued an access, and which part of its work it is. -/
inductive Owner where
  /-- PE operation `op` of a tile, part `ix` -/
  | pe (tile op ix : Nat)
  /-- element of a stream context; aux 1 for metadata, 2 for a completion word, 3 for a tap -/
  | strm (ctx elem aux : Nat)
  /-- element of a copy context, 0 read, 1 write, 2 completion word; destination ordinal -/
  | copy (ctx elem aux dst : Nat)
  /-- request of an MT unit -/
  | unit (tile tag : Nat)
  /-- request of a peer that arrived over a link (R467) -/
  | peer (link tag : Nat)
deriving DecidableEq, Repr

/-- Where an access stands: travelling to its home, waiting in the network for a place in a deferral store (R83),
deferred there, stalled on translation or at a Welt link (R381, R395), performed, or failed at the home. An expert-queue push that has
reached its tile waits there, its fc of arrival in `pa` (R283). -/
inductive AccSt where
  | travel | waiting | deferred (ord : Nat) | stalled (code : Nat) | done | failed (code : Nat)
deriving DecidableEq, Repr

/-- Where a translated access goes: a DRAM address, or a peer device and the physical address there. -/
inductive Home where
  | dram (pa : Nat)
  | peer (dev pa : Nat)
deriving DecidableEq, Repr

/-- A memory access issued to its home (R71, R217). Space 0 addresses are linear in the region's MTs, space 1 hold the
virtual address, space 2 the frame address, space 3 an expert queue; `seq` is the issue order (R93); `home` is set when it
was translated before it was issued, or leads to a peer (R377); `peer` is the tag of a remote request, `via` the link it was
sent over and not yet answered, `back` that its withdrawal has been sent (R225, R395); `remote` is the region a peer's request comes from. -/
structure Access where
  own  : Owner
  op   : MOp
  sp   : Nat := 0
  addr : Nat := 0
  capx : Nat := 0
  seq  : Nat := 0
  rel  : Bool := false
  ea   : Word := 0
  st   : AccSt := .travel
  ans  : Val := {}
  pa   : Nat := 0
  peer : Option Nat := none
  via  : Option Nat := none
  back : Bool := false
  remote : Option Nat := none
  home : Option Home := none
deriving DecidableEq, Repr

/-- An extent (R377) and when it was last used. -/
structure Extent where
  vpn  : Nat := 0
  npg  : Nat := 0
  ppn  : Nat := 0
  dev  : Nat := 0
  peer : Bool := false
  pr   : Bool := false
  w    : Bool := false
  r    : Bool := false
  use  : Nat := 0
deriving DecidableEq, Repr

/-- A stream or copy context (R247-R264, R265-R269, R420). -/
structure Strm where
  /-- tile, ITEM and plane of a stream, or the tile of the SCOPY; the descriptor or copy block; state code of R420 -/
  tile  : Nat := 0
  item  : Nat := 0
  plane : Nat := 0
  desc  : List Word := []
  st    : Nat := 0
  /-- next element to issue, next to deliver or to write; the partial token and its elements -/
  next  : Nat := 0
  got   : Nat := 0
  part  : Token := {}
  nPart : Nat := 0
  /-- the box started on a handle; completed boxes; whether the E token has gone, or an E token has ended it -/
  box   : Option Nat := none
  done  : List Nat := []
  eTok  : Bool := false
  ended : Bool := false
  /-- the completion word: 0 not issued, 1 issued, 2 performed; tap arrivals owed -/
  compl : Nat := 0
  taps  : Nat := 0
  /-- tokens taken from the output and elements used of the first -/
  held  : List Token := []
  tokIx : Nat := 0
  ext   : List Extent := []
  /-- a copy's id, completion word address, values read, and destination words written -/
  copy  : Bool := false
  cid   : Nat := 0
  cw    : Word := 0
  cells : List (Nat × Val) := []
  wrote : List (Nat × Nat) := []
  /-- stopped at a swap or cut; a PMARK is to follow the elements issued -/
  stop  : Bool := false
  pmark : Bool := false
  /-- why it does not go on: 0 nothing, 1 its start check failed, 2 a copy stalled at its source, 3 stalled elsewhere (R252, R380) -/
  halt  : Nat := 0
  /-- the page it walks, as capability x 2^26 + physical page + 1, what it counts there, and the fc it has stayed (R386) -/
  hpg   : Nat := 0
  hcnt  : Nat := 0
  hstay : Nat := 0
  /-- sides of the context whose descriptor the peer's port holds: 0 the stream or source, 1 + m destination m (R393) -/
  dsent : List Nat := []
deriving DecidableEq, Repr

/-! ## Neighbour-list engines -/

/-- A particle (R298, R304, R305): its placed coordinates in the storage format, id, binned coordinates, cell, slot. -/
structure Particle where
  x    : List Nat := []
  id   : BitVec 32 := 0
  bin  : List Nat := []
  cell : Nat := 0
  slot : Nat := 0
deriving DecidableEq, Repr

/-- A neighbour-list engine bound to the region (R298-R311): the cluster's engine, state code, configuration block,
particles, CODE and INFO of a fault, the operation in progress (tile, operation), tokens of a sweep not yet sent by
destination, and destinations served in this fc. -/
structure Nle where
  phys  : Nat := 0
  st    : Nat := 0
  cfg   : List Word := []
  parts : List Particle := []
  code  : Nat := 0
  info  : Nat := 0
  busy  : Option (Nat × Nat) := none
  /-- operations that have arrived and wait, in order of arrival (R300) -/
  queue : List (Nat × Nat) := []
  /-- a sweep's tokens still to go, by destination, each with its place in the sweep; how many each destination has had; the
  destinations served in this fc (R309, R310) -/
  sweep : List (List (Nat × Token)) := []
  gone  : List Nat := []
  sent  : List Nat := []
deriving DecidableEq, Repr

/-! ## Regions -/

/-- A fault record waiting for delivery (R342, R399): its words, the member records that follow it, and its fault domain at the trap
(R340): Cobbler, whether its VS copy, vector. -/
structure Rec where
  w : List Word := []
  more : List Word := []
  fcob : Nat := 0
  vs   : Bool := false
  fvec : Nat := 0
deriving DecidableEq, Repr

/-- A colour's state (R35). -/
inductive ColSt where
  | free | live | clearing
deriving DecidableEq, Repr

structure Colour where
  st  : ColSt := .free
  par : BitVec 10 := 0
deriving DecidableEq, Repr

/-- The states of R325. -/
abbrev rNone : Nat := 0
abbrev rReady : Nat := 1
abbrev rRunning : Nat := 2
abbrev rFrozen : Nat := 3
abbrev rIdle : Nat := 4
abbrev rOut : Nat := 5
abbrev rShadow : Nat := 6
abbrev rDying : Nat := 7

/-- A long operation of a region in progress (R329, R332): funct7, its operands, who issued it (hart, 208 for KHR and launch queues, 209
for the allocator; whether at VS), whether a run follows, and an address it works on. -/
structure LongOp where
  f7   : Nat := 0
  a    : Word := 0
  b    : Word := 0
  hart : Nat := 0
  vs   : Bool := false
  start : Bool := false
  addr : Nat := 0
  cw   : List Nat := []
deriving DecidableEq, Repr

/-- What the device keeps of a region that has been saved where its image has no place for it (R415, log 21): presence and poison of the inactive
parameter buffer; by context, the tokens a write stream has taken and the elements used of the first; statuses of copies; by 2 x tile +
plane, the windows and the requests of MT units, and by access what those that have been performed answered (0, or the code of a failure). It
belongs to the image whose region count is `rcyc`. -/
structure Kept where
  rcyc  : Word := 0
  parPres : List Nat := []
  parPois : List Nat := []
  held  : Tab (List Token × Nat) := []
  cstat : Tab (Word × Nat) := []
  units : Tab MtU := []
  accs  : Tab (Nat × Val) := []
deriving DecidableEq, Repr

/-- A region (R31, R320). -/
structure Region where
  rid   : Nat := 0
  /-- physical address of the RCB, partition, device words 8-11 as fields -/
  rcb   : Nat := 0
  part  : Nat := 0
  st    : Nat := 0
  busy  : Bool := false
  lastop : BitVec 4 := 0
  lstat : BitVec 8 := 0
  res   : Bool := false
  frz   : BitVec 2 := 0
  sdem  : Bool := false
  rpq   : Bool := false
  fidl  : Bool := false
  doneC : Nat := 0
  origin : Nat := 0
  eprio : Nat := 0
  untrk : Nat := 0
  runs  : Nat := 0
  /-- effective words 3-5 as last read (R321, R323); whether OPR, ONL are given here -/
  eff3  : Word := 0
  eff4  : Word := 0
  eff5  : Word := 0
  /-- the chain of nodes as last read (R323): RCB address and effective word 3 of each -/
  chain : List (Nat × Word) := []
  onl   : Bool := false
  /-- header of the image: W, H, DONE; whether a shadow part exists; pages are Insole-paired; image address -/
  w     : Nat := 0
  h     : Nat := 0
  doneN : Nat := 0
  shp   : Bool := false
  pair  : Bool := false
  image : Nat := 0
  /-- the tiles, the capability table (4 words an entry), MT bytes with presence and poison, the inactive buffer -/
  tiles : Tab Tile := []
  caps  : Tab (List Word) := []
  mt    : List Host.Cell := []
  pres  : List Nat := []
  pois  : List Nat := []
  par   : List Host.Cell := []
  parPres : List Nat := []
  parPois : List Nat := []
  patch : Bool := false
  /-- colours: pool size N, the pool in issue order, states; grants of this fc; changes at the end of the fc -/
  coln  : Nat := 0
  pool  : List Nat := []
  cols  : Tab Colour := []
  grants : Tab Nat := []
  colEnd : List (Nat × Colour) := []
  /-- accesses issued, the sequence of issue and of operations, and the order of deferral -/
  flight : Tab Access := []
  seq   : Nat := 1
  /-- counts: region count (R246), run count; fc since a drain began -/
  rcyc  : Word := 0
  drain : Option Nat := none
  drainSl : Bool := false
  settled : Bool := false
  cut   : Bool := false
  /-- a freeze asked for and not yet begun (R401): its FRZ code, and the fc since -/
  frzReq : Option (BitVec 2) := none
  frzAge : Nat := 0
  /-- tokens and credits sent over Welt bindings (R136): device, tag, the token or a credit -/
  tx    : List (Nat × Nat × WeltMsg) := []
  /-- streams and copies by context number, the copy counter, ended copies' statuses -/
  strms : Tab Strm := []
  copies : Tab Strm := []
  cpyid : Nat := 0
  cstat : Tab (Word × Nat) := []
  /-- engines -/
  nles  : Tab Nle := []
  /-- fault records written and not yet in a queue or ring -/
  recs  : List Rec := []
  /-- the long operation in progress -/
  lop   : Option LongOp := none
  /-- time slicing: partner region, active, parked, fc consumed of the budget; pages held in another's planes -/
  partner : Option Nat := none
  active : Bool := true
  parked : Bool := false
  /-- a move is in progress (R351) -/
  moving : Bool := false
  spent : Nat := 0
  quiet : Nat := 0
  /-- the model's own: the state in which the fc began, when the region is resident and unparked (else 0) -/
  cnt   : Nat := 0
  /-- a restore from NONE is in progress: STATE reads NONE; the state held before SHADOW -/
  rest  : Bool := false
  shState : Nat := 0
  host  : Option Nat := none
  /-- completion words of the launches of this run, and of the queued replay (R347) -/
  cmplt : List Nat := []
  cmpltQ : List Nat := []
  /-- completion words of a run that is over, and the sequence number before which the writes it issued lie (R347) -/
  cwEnd : List (Nat × Nat) := []
  /-- MACHINE_CHECK of class 0-2 (R404) -/
  mcheck : Bool := false
  /-- region heat by stack and capability (R349, R386) -/
  rheat : Tab Nat := []
  /-- counts of pages its contexts have left, by capability x 2^26 + physical page, until they are added to the heat (R386) -/
  heatP : Tab Nat := []
  /-- pages that a crn.finval in progress holds back: the first and their number (R384) -/
  pause : Option (Nat × Nat) := none
  /-- edge stream port contexts bound to the region's descriptors and bindings: link and context (R393, log 31) -/
  wctx : Tab (Nat × Nat) := []
  /-- tags of requests sent to a peer and not acknowledged whose accesses are to be issued again (R395) -/
  ptags : List (Owner × Nat) := []
  /-- system calls answered while the region is stopped (R243) -/
  sysAns : Tab (Nat × Word) := []
  kept : Kept := {}
deriving DecidableEq, Repr

/-! ## The wait-for table, partitions, harts, links and the device -/

/-- An entry of the wait-for table (R359); id is the model's own name for it while it lives (log 14). -/
structure Wfe where
  id   : Nat := 0
  exp  : Bool := false
  rpt  : Bool := false
  part : Nat := 0
  rid  : Nat := 0
  page : Nat := 0
  pos  : Nat := 0
  slot : Nat := 0
  prio : Nat := 0
  kind : Nat := 0
  hv   : Bool := false
  hrid : Nat := 0
  obj  : Word := 0
  treg : Word := 0
deriving DecidableEq, Repr

/-- A found cycle awaiting confirmation (R366, R367): the entries' names in cycle order, partition, count at which it is
confirmed, TRUNC. -/
structure Cycle where
  ents  : List Nat := []
  part  : Nat := 0
  due   : Nat := 0
  trunc : Bool := false
deriving DecidableEq, Repr

/-- A system call in progress at a service core (R441-R444): the operation it belongs to, number, arguments, buffers, the virtual address of its second
argument as its region had it when the call was taken; lst is the listener of a
SACCEPT, or 1 for a file call whose answer waits for translation and 2 for one that waits for its turn. -/
structure Call where
  rid  : Nat := 0
  key  : Nat := 0
  op   : Nat := 0
  num  : Nat := 0
  args : List Word := []
  data : List Byte := []
  va   : Nat := 0
  lst  : Nat := 0
deriving DecidableEq, Repr

/-- A connection (R444-R446): its block's virtual address, ring sizes, the counts the service core holds, its state, what has been said to the
peer, whether a write of the program's counts broke their limits, and what the peer has sent that the block could not yet show (1 a FIN, 2 an
RST). -/
structure Conn where
  blk    : Nat := 0
  txl    : Nat := 0
  rxl    : Nat := 0
  txhead : Nat := 0
  txtail : Nat := 0
  rxtail : Nat := 0
  rxhead : Nat := 0
  st     : Nat := 1
  finTx  : Bool := false
  bad    : Bool := false
  owed   : Nat := 0
deriving DecidableEq, Repr

/-- A system call that waits for a service core (R430, R441): its place, and SVW and SYSQ when it arrived. -/
structure Arrival where
  rid  : Nat := 0
  key  : Nat := 0
  op   : Nat := 0
  svw  : Nat := 0
  sysq : Nat := 0
deriving DecidableEq, Repr

/-- A migration in progress (R389): the request, the leaf and its place, page size, the target, the step; requests to a peer
not answered (tag, word) and the words read there; the accesses that stalled or were withdrawn, in order. -/
structure Mig where
  kind : Nat := 0
  vpn  : Nat := 0
  cw   : Nat := 0
  dev  : Nat := 0
  l0   : Word := 0
  leaf : Nat := 0
  big  : Bool := false
  tgt  : Nat := 0
  step : Nat := 1
  tags : List (Nat × Nat) := []
  words : List (Nat × Val × Bool) := []
  stalled : List (Nat × Nat) := []
deriving DecidableEq, Repr

/-- A partition: its committed descriptor (R426), root RCB (R339), slicing count (R355), the leaves its cluster caches hold (R376),
stopped launch queues (R344), the head of each whose dependences are in use with those satisfied (R346), untracked waits and spilled
entries (R368), WHOLD declarations (kind, object, region: R234), service state (R441-R446), migration in progress and to come (R387-R389),
heat epochs ended (R386). -/
structure Part where
  desc   : List Word := []
  root   : Word := 0
  slice  : Word := 0
  tlb    : Tab (Word × Nat) := []
  lqStop : List Nat := []
  lqSeen : Tab (Nat × List Nat) := []
  untrk  : Nat := 0
  spill  : Tab Wfe := []
  holds  : List (Nat × Word × Nat) := []
  calls  : Tab Call := []
  /-- calls that wait, in order of arrival (R441) -/
  arr    : List Arrival := []
  files  : List Nat := []
  conns  : Tab Conn := []
  lists  : Tab (Nat × Nat) := []
  server : Option Nat := none
  mig    : Option Mig := none
  migq   : List (List Word) := []
  epoch  : Nat := 0
deriving DecidableEq, Repr

/-- A KHR session (R438): endpoint (a partition id, or 64 for the hypervisor's), source address and port, last sequence
number, held requests, cached responses, subscriptions. -/
structure Sess where
  ep   : Nat := 0
  src  : BitVec 128 := 0
  port : BitVec 16 := 0
  last : Nat := 0
  held : List (Nat × Khr) := []
  cache : List (Nat × Int × List Word) := []
  subs : List Nat := []
deriving DecidableEq, Repr

/-- What the device has sent out of itself. -/
inductive Out where
  /-- a KHR response (type, session, sequence number, status, payload) or message to the host -/
  | khr (typ sess seq : Nat) (stat : Int) (body : List Word)
  /-- bytes, FIN or RST of a connection, a connection attempt, or a socket that listens -/
  | tcp (part conn : Nat) (bytes : List Byte)
  | fin (part conn : Nat)
  | rst (part conn : Nat)
  | syn (part call : Nat) (dst : List Byte)
  | listen (part lst port backlog : Nat)
  /-- an ICMPv6 reply on a host port -/
  | icmp (port : Nat) (frame : List Byte)
  /-- a packet on a link, with its destination, source, partition and tag (R428): a request to a peer, its answer, and a token or credit of the
  Welt binding whose channel tag is `chan` -/
  | peerReq (link : Nat) (req : PeerReq)
  | peerAns (link dst src part tag : Nat) (ans : PeerAns)
  | welt (link dst src part tag chan : Nat) (msg : WeltMsg)
  /-- an answer on the side-band port -/
  | mgmt (body : List Word)
deriving DecidableEq, Repr

/-- A Welt link (R428, R466), the tags it has performed with their answers (R395), and the requests not yet performed, by their
access in the flight of key 4096. -/
structure Link where
  trained  : Bool := false
  up       : Bool := false
  switched : Bool := false
  far      : Nat := 0
  noRoute  : List Nat := []
  tags     : List (Nat × Nat × PeerAns) := []
  pend     : Tab PeerReq := []
deriving DecidableEq, Repr

/-- A context of an edge stream port that serves a peer's descriptor (R393): the device, region and context it belongs to, the partition,
capability and descriptor, whether an element failed since the descriptor came, and its counts of heat (R386). -/
structure PortCtx where
  src  : Nat := 0
  rid  : Nat := 0
  ctx  : Nat := 0
  part : Nat := 0
  cap  : BitVec 128 := 0
  desc : List Word := []
  fail : Bool := false
  hpg  : Nat := 0
  hcnt : Nat := 0
  hstay : Nat := 0
deriving DecidableEq, Repr

/-- The privilege levels of R317. -/
inductive Priv where
  | m | hs | vs | u | vu
deriving DecidableEq, Repr

/-- The trap registers of one level (log 10). -/
structure Trs where
  tvec  : Word := 0
  epc   : Word := 0
  cause : Word := 0
  tval  : Word := 0
  ie    : Bool := false
  pie   : Bool := false
  pp    : BitVec 2 := 0
  enab  : Word := 0
deriving DecidableEq, Repr

/-- The Xcarnar CSRs of one context (R339), the count of records produced and the count acknowledged as last read (R341),
its delivery queue (R342), and the vector of the record in each place of its ring (R339), by its count modulo 65,536. -/
structure Fctx where
  tvec  : Word := 0
  ovf   : Bool := false
  foc   : Bool := false
  frec  : Word := 0
  prod  : Word := 0
  cons  : Word := 0
  queue : List Rec := []
  vecs  : Tab Nat := []
deriving DecidableEq, Repr

/-- A hart (R318): a Cobbler (0-191) or a service core (192-207). -/
structure Hart where
  x       : Tab Word := []
  pc      : Word := 0
  priv    : Priv := .m
  stopped : Bool := false
  ms      : Trs := {}
  hs      : Trs := {}
  vs      : Trs := {}
  /-- the rest of mstatus (FS, VS, MPRV, SUM, MXR, TVM, TW, TSR, GVA), of vsstatus (FS, VS, SUM, MXR) and of hstatus (GVA, SPVP, HU, VTVM, VTW,
  VTSR), each bit where that register has it -/
  mst     : Word := 0
  vst     : Word := 0
  hst     : Word := 0
  mpv     : Bool := false
  spv     : Bool := false
  medeleg : Word := 0
  hedeleg : Word := 0
  hideleg : Word := 0
  mideleg : Word := 0
  /-- software's pending bits of mip; every other CSR that holds a value, by its number; instructions retired -/
  ip      : Word := 0
  csr     : Tab Word := []
  ninst   : Word := 0
  /-- floating-point registers and fcsr; the bytes of the vector registers, v0 first, with vl, vtype, vstart and vcsr -/
  f       : Tab Word := []
  fcsr    : BitVec 8 := 0
  vb      : Tab Byte := []
  vl      : Nat := 0
  vtype   : Word := 0x8000000000000000
  vstart  : Nat := 0
  vcsr    : BitVec 3 := 0
  hgatp   : Word := 0
  htval   : Word := 0
  mtval2  : Word := 0
  fh      : Fctx := {}
  fv      : Fctx := {}
  pmap    : Word := 0
  quota   : Word := 0
  policy  : Word := 0
deriving DecidableEq, Repr

/-- The checkpoint logic (R449-R454): the plan, one that the buddy has yet to accept, whether one stands, the STATUS of R454, the QUIESCE, WRITE or RESTORE being carried
out (session, sequence number) and its step (1, 2 QUIESCE; 10 CONFIG; 20-22 WRITE; 30, 31 RESTORE), the epoch of the last
commit and of the checkpoint being taken, what QUIESCE stopped (region and its state), the operations it withdrew (region, tile,
operation, R453), the words sent to or asked of the buddy and not yet answered (tag, address, word), the words it answered, and
whether it refused one. -/
structure Ckpt where
  plan  : List Word := []
  new   : List Word := []
  has   : Bool := false
  st    : Nat := 0
  busy  : Option (Nat × Nat) := none
  step  : Nat := 0
  last  : Option Nat := none
  cur   : Nat := 0
  held  : List (Nat × Nat) := []
  wd    : List (Nat × Nat × Nat) := []
  wait  : List (Nat × Nat × Word) := []
  got   : List (Nat × Word) := []
  bad   : Bool := false
deriving DecidableEq, Repr

/-- Who ordered a partition operation (R430): a hart, a KHR session with its request (session, sequence number, TYPE), or the side-band port. -/
inductive MgrSrc where
  | hart (h : Nat)
  | khr (sess seq typ : Nat)
  | port
deriving DecidableEq, Repr

/-- A partition operation that waits for its turn (R430). -/
structure MgrOp where
  src  : MgrSrc := .port
  fid  : Nat := 0
  pid  : Nat := 0
  a2   : Word := 0
  desc : List Word := []
deriving DecidableEq, Repr

/-- A reset of a partition in progress (R434, R435): the partition, SCRUB, and who waits for it. -/
structure Rst where
  pid   : Nat := 0
  scrub : Bool := false
  who   : List MgrSrc := []
deriving DecidableEq, Repr

/-- The power states of R459. -/
inductive Power where
  | off | standby | on
deriving DecidableEq, Repr

/-- The management side and the device's own settings (R428, R447, R448, R456-R460). -/
structure Device where
  power  : Power := .on
  v48    : Bool := true
  devId  : BitVec 19 := 0
  devIdN : BitVec 19 := 0
  mhz    : Nat := 1050
  cap    : Nat := 3300
  mr     : Tab (BitVec 512) := []
  svnM   : Word := 0
  svnF   : Word := 0
  floorM : Word := 0
  floorF : Word := 0
  staged : List FwImage := []
  fwFault : Bool := false
  /-- the main side is coming up: its rails have risen, its memory and links train (R459 step 3) -/
  rise   : Bool := false
  hcob   : BitVec 192 := 1
  hcobN  : Option (BitVec 192) := none
  hep    : BitVec 128 := 0
  hepN   : Option (BitVec 128) := none
deriving DecidableEq, Repr

/-- Who moves next (log 1): the arbiter of a tile, a hart, an event of the table, or the clock. -/
inductive Mover where
  | tile (rid key : Nat)
  | hart (h : Nat)
  | event (e : Instr)
  | tick
deriving DecidableEq, Repr

/-- The whole state. -/
structure State where
  /-- the model's own: who moves next (log 1), the PE slot and the hart being run, the count of fc and whether the commits of
  the fc have begun (log 2), the count of free values drawn (log 3), the next name of an entry, call, session or tag -/
  agenda : List Mover := []
  curRid : Nat := 0
  curKey : Nat := 0
  curSlot : Nat := 0
  curHart : Nat := 0
  fc     : Nat := 0
  ending : Bool := false
  freeC  : Nat := 0
  fresh  : Nat := 1
  /-- DRAM bytes (the shadow of presence bits among them) and poisoned words, by physical address -/
  mem    : List Host.Cell := []
  dpois  : List Nat := []
  /-- the order of deferral at the homes -/
  dord   : Nat := 0
  /-- the regions by id; key 4096 holds only the accesses of peers' requests (R467) -/
  regions : Tab Region := []
  parts  : Tab Part := []
  wft    : Tab Wfe := []
  cycles : List Cycle := []
  harts  : Tab Hart := []
  /-- the 64-byte block each hart holds reserved (LR), by its address / 64 -/
  rsv    : Tab Nat := []
  /-- what regions no longer on the device have emitted into Welt bindings and no link has taken yet: partition, DEVID, TAG (R136) -/
  txQ    : List (Nat × Nat × Nat × WeltMsg) := []
  /-- the fc in which a region's latest operation was taken, and the hart that issued it (208 a KHR request), for the order of R326 -/
  crnAt  : Tab (Nat × Nat) := []
  /-- records that find their delivery queue full, in order of arrival (R342) -/
  recQ   : List Rec := []
  links  : Tab Link := []
  /-- contexts of the edge stream ports that serve peers (R393) -/
  ports  : List PortCtx := []
  sess   : Tab Sess := []
  /-- the partition manager: the reset in progress, the operations that wait, and by hart the function, partition, error and result of an
  operation that is over and not yet returned (R429, R430) -/
  rst    : Option Rst := none
  mgrQ   : List MgrOp := []
  mgrDone : Tab (Nat × Nat × Int × List Word) := []
  /-- writes of words since the service cores last looked, while a connection is open: address and value (R445) -/
  notes  : List (Nat × Word) := []
  ckpt   : Ckpt := {}
  dev    : Device := {}
  out    : List Out := []
deriving DecidableEq, Repr

/-- The machine right after reset: powered up, its cores started, no partition, no region (R459). -/
def State.reset : State := {}

/-- Why the machine stops: nothing in the spec stops it. An access where the spec places no memory is an exception of its hart or a trap of
its region. -/
inductive Fault where
deriving DecidableEq, Repr

/-- Why an instruction is refused: no instruction is. -/
inductive Refusal where
  /-- the arm of an instruction not yet modelled; no arm is (safe) -/
  | notModelled (mnemonic : String)
deriving DecidableEq, Repr

abbrev Res := Host.Outcome State Fault Refusal

end Sys2Proof.Machine
end

