-- ==== Sys2Proof/Machine/Bits.lean ====
section
/-! DEFINITION. Places in a Last, fields of words, tokens and the arithmetic of tile positions (R8, R9, R73). -/

namespace Sys2Proof.Machine

/-- Insert an element before the first that does not come strictly before it. -/
def insBy {α : Type} (le : α → α → Bool) (x : α) : List α → List α
  | [] => [x]
  | y :: l => if le x y then x :: y :: l else y :: insBy le x l

/-- Stable insertion sort. -/
def sortBy {α : Type} (le : α → α → Bool) (l : List α) : List α := l.foldr (insBy le) []

/-- Field [hi:lo] of a word. -/
def fld (w : Word) (hi lo : Nat) : Nat := w.toNat / 2 ^ lo % 2 ^ (hi + 1 - lo)

/-- Bit i of a word. -/
def bitOf (w : Word) (i : Nat) : Bool := w.getLsbD i

/-- Sign extension of the low n bits of a number to a word. -/
def sxTo (n v : Nat) : Word := BitVec.ofInt 64 (let x := v % 2 ^ n; if 0 < n ∧ 2 ^ (n - 1) ≤ x then (x : Int) - (2 ^ n : Nat) else x)

def wofb (b : Bool) : Word := if b then 1 else 0

/-- A tile's key is LPAGE x 16 + POS. -/
def keyPage (key : Nat) : Nat := key / 16
def keyPos (key : Nat) : Nat := key % 16
def keyOf (page pos : Nat) : Nat := page * 16 + pos

/-- A position is a CT when i + j is even (R8). -/
def posIsCt (pos : Nat) : Bool := (pos / 4 + pos % 4) % 2 == 0
def keyIsCt (key : Nat) : Bool := posIsCt (keyPos key)

/-- CT index or MT index of a position (R8). -/
def posIndex (pos : Nat) : Nat := 2 * (pos / 4) + pos % 4 / 2

/-- Position of the MT of an index. -/
def mtPos (mi : Nat) : Nat :=
  let i := mi / 2
  4 * i + 2 * (mi % 2) + (if i % 2 = 0 then 1 else 0)

/-- Row and column of a tile within a Last W pages wide. -/
def keyRow (w key : Nat) : Nat := keyPage key / w * 4 + keyPos key / 4
def keyCol (w key : Nat) : Nat := keyPage key % w * 4 + keyPos key % 4
def keyAt (w row col : Nat) : Nat := keyOf (row / 4 * w + col / 4) (row % 4 * 4 + col % 4)

/-- The neighbour in direction 0 N, 1 E, 2 S, 3 W, within a Last of W x H pages (R9). -/
def neighbour (w h key dir : Nat) : Option Nat :=
  let r := keyRow w key
  let c := keyCol w key
  match dir with
  | 0 => if r = 0 then none else some (keyAt w (r - 1) c)
  | 1 => if c + 1 < 4 * w then some (keyAt w r (c + 1)) else none
  | 2 => if r + 1 < 4 * h then some (keyAt w (r + 1) c) else none
  | _ => if c = 0 then none else some (keyAt w r (c - 1))

/-- The side of an MT on which a PE lies that names it in direction d, in the order of R87. -/
def claimSide (dir : Nat) : Nat := match dir with | 2 => 0 | 3 => 1 | 0 => 2 | _ => 3

/-- Linear address in the region's MTs of byte `off` of the MT at `key`: the address bits of R73. -/
def mtAddr (key off : Nat) : Nat := (keyPage key * 8 + posIndex (keyPos key)) * Config.mtBytes + off

/-- Tile key of the MT that holds a linear MT address. -/
def mtAddrKey (a : Nat) : Nat := keyOf (a / (8 * Config.mtBytes)) (mtPos (a / Config.mtBytes % 8))

/-! ## Tokens -/

def tokS (v : Val) (mark : BitVec 2) (col : BitVec 10) : Token :=
  { pay := v.bits.zeroExtend 512, pois := if v.pois then 1 else 0, mark := mark, col := col }
def tokV (v : VVal) (mark : BitVec 2) (col : BitVec 10) : Token :=
  { pay := v.bits, pois := v.pois, mark := mark, col := col }
def tokVal (t : Token) : Val := { bits := t.pay.truncate 64, pois := t.pois.getLsbD 0 }
def tokVVal (t : Token) : VVal := { bits := t.pay, pois := t.pois }

/-- Command code of a control token (R16). -/
def tokCode (t : Token) : Nat := t.pay.toNat % 256

/-- A hardware control token (R16): a C token with code 0xF0-0xFF that is not poisoned in its code word. -/
def tokHw (t : Token) : Bool := t.mark == mkC && decide (0xF0 ≤ tokCode t) && !t.pois.getLsbD 0

def tokSwap : Token := { pay := 0xF1, mark := mkC }
def tokPmark : Token := { pay := 0xF2, mark := mkC }
def tokIsSwap (t : Token) : Bool := tokHw t && tokCode t == 0xF1
def tokIsPmark (t : Token) : Bool := tokHw t && tokCode t == 0xF2

/-- Word k of a vector. -/
def vword (v : BitVec 512) (k : Nat) : Word := BitVec.ofNat 64 (v.toNat / 2 ^ (64 * k))
/-- Replace word k of a vector. -/
def vsetWord (v : BitVec 512) (k : Nat) (w : Word) : BitVec 512 :=
  (v &&& ~~~((0xFFFFFFFFFFFFFFFF : BitVec 512) <<< (64 * k))) ||| (w.zeroExtend 512) <<< (64 * k)
/-- A vector from its words, lowest first. -/
def vofWords (ws : List Val) : VVal :=
  { bits := BitVec.ofNat 512 ((ws.map (fun x => x.bits.toNat)).foldr (fun x acc => x + 2 ^ 64 * acc) 0),
    pois := BitVec.ofNat 8 ((ws.map (fun x => if x.pois then 1 else 0)).foldr (fun x acc => x + 2 * acc) 0) }

/-- The set bits of a mask below n, ascending. -/
def bitsOf (m n : Nat) : List Nat := (List.range n).filter (fun i => m.testBit i)

end Sys2Proof.Machine
end

