-- ==== Sys2Proof/Machine/Sha3.lean ====
section
/-! DEFINITION. SHA3-512 (R417, R458), from the steps of FIPS 202 (log 12): lane (x, y) of the state is word x + 5 y; the constants are computed as
the standard defines them, none is tabled. -/

namespace Sys2Proof.Machine

/-- The bit register behind the round constants, t steps on. -/
def shaLfsr : Nat → Nat
  | 0 => 1
  | t + 1 => let r := 2 * shaLfsr t; if r < 256 then r else r ^^^ 0x171

/-- The constant of round i: bit j of its seven stands at place 2^j - 1. -/
def shaIota (i : Nat) : Word :=
  BitVec.ofNat 64 (((List.range 7).map (fun j => shaLfsr (7 * i + j) % 2 * 2 ^ (2 ^ j - 1))).foldl (· + ·) 0)

def shaLane (a : List Word) (p : Nat × Nat) : Word := a.getD (p.1 + 5 * p.2) 0

/-- Theta: every lane takes the parities of the columns beside its own, the next one's turned by one. -/
def shaTheta (a : List Word) : List Word :=
  let cols := (List.range 5).map (fun x => (List.range 5).foldl (fun w y => w ^^^ shaLane a (x, y)) 0)
  let mix := (List.range 5).map (fun x => cols.getD ((x + 4) % 5) 0 ^^^ (cols.getD ((x + 1) % 5) 0).rotateLeft 1)
  (List.range 5).foldl (fun l y => l ++ (List.range 5).map (fun x => shaLane a (x, y) ^^^ mix.getD x 0)) []

/-- Rho and pi along their one orbit: from (1, 0) on, each lane moves to the next place, turned by a triangular number. -/
def shaOrbit (a : List Word) : Nat → Nat → Nat × Nat → List Word → List Word
  | 0, _, _, l => l
  | n + 1, t, p, l =>
    let q := (p.2, (2 * p.1 + 3 * p.2) % 5)
    shaOrbit a n (t + 1) q (lset l (q.1 + 5 * q.2) ((shaLane a p).rotateLeft (t * (t + 1) / 2 % 64)))

/-- Chi on one row of five. -/
def shaRow (r : List Word) : List Word :=
  (List.range 5).map (fun x => r.getD x 0 ^^^ (r.getD ((x + 2) % 5) 0 &&& ~~~(r.getD ((x + 1) % 5) 0)))
def shaChi (a : List Word) : List Word := ((List.range 5).map (fun y => shaRow ((a.drop (5 * y)).take 5))).flatten

/-- The permutation: rounds i to 23. -/
def shaRounds : Nat → List Word → List Word
  | 0, a => a
  | n + 1, a =>
    let b := shaTheta a
    let c := shaChi (shaOrbit b 24 1 (1, 0) b)
    shaRounds n (lset c 0 (shaLane c (0, 0) ^^^ shaIota (23 - n)))

/-- Byte k of a block: of the message where it has one left, then 6 in its first place, zeros, and bit 7 of the last block's last. -/
def shaByte (left : List Byte) (last : Bool) (k : Nat) : Byte :=
  left.getD k (if last && k == left.length then 6 else 0) ||| (if last && k == 71 then 0x80 else 0)

/-- A block enters the first nine lanes: what is left of the message from it on. -/
def shaAbsorb (left : List Byte) (a : List Word) : List Word :=
  (List.range 9).foldl (fun a i =>
    lset a i (a.getD i 0 ^^^ BitVec.ofNat 64
      ((List.range 8).foldr (fun j x => (shaByte left (decide (left.length < 72)) (8 * i + j)).toNat + 256 * x) 0))) a

/-- SHA3-512 of bytes: 64 bytes as eight words, the lowest-addressed byte lowest. -/
def sha3 (bs : List Byte) : List Word :=
  ((List.range (bs.length / 72 + 1)).foldl (fun a k => shaRounds 24 (shaAbsorb (bs.drop (72 * k)) a)) (List.replicate 25 0)).take 8

end Sys2Proof.Machine
end

