-- ==== Sys2Proof/WellFormed.lean ====
section
/-! DEFINITION. Which instructions are well formed: the field rules that R137 checks with CFG_BADENC on a slot record
(R105, R108-R115, R138, R149, R154, R173-R175, R184, R199, R219, R266, R282, R302), by opcode. -/

namespace Sys2Proof

/-- Classes by OP (R107). -/
inductive Cls where
  | scalar | vector | tensor | memory
deriving DecidableEq, Repr

def clsOf (op : Nat) : Cls :=
  if op < 0x60 then .scalar else if op < 0xA0 then .vector else if op < 0xC0 then .tensor else .memory

/-- A disabled literal or condition holds 0 in every other bit (R105). -/
def Lit.ok (l : Lit) : Bool := l.en == 1 || (l.val == 0 && l.p == 0)
def Cond.ok (c : Cond) : Bool := c.en == 1 || (c.ch == 0 && c.mt == 0)

/-! ## Selectors (R108, R109, R112) -/

def selImm (s : BitVec 5) : Bool := s == 14
def selZero (s : BitVec 5) : Bool := s == 15
def selPop (s : BitVec 5) : Bool := decide (16 ≤ s.toNat) && decide (s.toNat ≤ 23)
def selChan (s : BitVec 5) : Bool := decide (16 ≤ s.toNat)
def dG (d : BitVec 5) : Bool := decide (d.toNat ≤ 13)
def dNone (d : BitVec 5) : Bool := d == 14
def dCh (d : BitVec 5) : Bool := decide (16 ≤ d.toNat) && decide (d.toNat ≤ 25)
def dAny (d : BitVec 5) : Bool := dG d || dNone d || dCh d
def vVec (s : BitVec 5) : Bool := decide (s.toNat ≤ 15)
def vG (s : BitVec 5) : Bool := decide (16 ≤ s.toNat) && decide (s.toNat ≤ 29)
def vZero (s : BitVec 5) : Bool := s == 31
def vDst (d : BitVec 5) : Bool := decide (d.toNat ≤ 11)
def vReg (d : BitVec 5) : Bool := decide (d.toNat ≤ 7)

/-- IMM8 is read only through an IMM selector, or is 0 (R112, R148). -/
def immOnly (t : Ti) : Bool := t.imm == 0 || selImm t.sa || selImm t.sb

/-! ## Fields of IMM8 -/

def fmtOf (t : Ti) : Nat := t.imm.toNat % 16
def roOf (t : Ti) : Nat := t.imm.toNat / 16 % 4
def satOf (t : Ti) : Bool := t.imm.getLsbD 6
def mskOf (t : Ti) : Bool := t.imm.getLsbD 7

/-- RO field of R174. -/
def ropOk (t : Ti) : Bool :=
  t.imm.toNat % 16 == 0 && (if t.imm.getLsbD 7 then decide (t.imm.toNat / 16 % 8 ≤ 5) else t.imm.toNat / 16 % 8 == 0)

/-- CV field of R175. -/
def cvOk (sb : BitVec 5) : Bool :=
  if sb.getLsbD 3 then decide (sb.toNat % 8 ≤ 5) else sb.toNat % 8 == 0

/-- FENCE, HREL and HFIN scope codes are 0-4 (R6, R111, R219). -/
def scopeOk (n : Nat) : Bool := decide (n ≤ 4)

/-- The mark rule of R114: C only on EMITC and FWD; 00 where DST is not a channel. -/
def omOk (op : Nat) (t : Ti) : Bool :=
  let ch := match clsOf op with | .vector => decide (8 ≤ t.dst.toNat) && decide (t.dst.toNat ≤ 11) | .tensor => false | _ => dCh t.dst
  if op = 0x33 then t.om == 3
  else if op = 0x30 then (if t.imm.getLsbD 0 then t.om == 0 else true)
  else if op = 0xF3 then t.om == 0
  else if ch then t.om != 3 else t.om == 0

/-- Scalar OPs (R149, R154, R173). -/
def scalarOk (op : Nat) (t : Ti) : Bool :=
  let a := t.sa; let b := t.sb; let d := t.dst
  let noImm := !selImm a && !selImm b
  if op = 0x00 then selZero a && selZero b && dNone d && t.imm == 0
  else if op = 0x01 ∨ (0x15 ≤ op ∧ op ≤ 0x17) then selZero b && dAny d && immOnly t
  else if op = 0x1D ∨ op = 0x1F then dG d && immOnly t
  else if op = 0x1E then noImm && dAny d && decide (t.imm.toNat < 16)
  else if op ≤ 0x29 then dAny d && immOnly t
  else if op = 0x30 then selZero b && !selImm a && dCh d && decide (t.imm.toNat ≤ 1) && (t.imm == 0 || selChan a)
  else if op = 0x31 then selPop a && (selPop b || selZero b) && dNone d && t.imm == 0
  else if op = 0x32 then selChan a && selZero b && dAny d && t.imm == 0
  else if op = 0x33 ∨ op = 0x38 ∨ op = 0x3A then selZero b && dCh d && immOnly t
  else if op = 0x34 then selPop a && selPop b && a != b && dAny d && t.imm == 0
  else if op = 0x35 then !selImm a && selZero b && dNone d && decide (t.imm.toNat < 12) && (decide (t.imm.toNat < 8) || selZero a)
  else if op = 0x36 then selZero a && selZero b && dNone d && decide (t.imm.toNat < 4)
  else if op = 0x37 then selZero a && selZero b && dAny d && decide (t.imm.toNat < 4)
  else if op = 0x39 then dCh d && immOnly t
  else if op = 0x3B then selZero b && dAny d && immOnly t
  else if op = 0x3C then selZero a && selZero b && dAny d && t.imm == 0
  else if op = 0x3D then dNone d && immOnly t && t.puo == 0
  else if op = 0x3E then (selPop a || selZero a) && selZero b && dNone d && t.imm == 0
  else if op = 0x3F then !selImm a && selZero b && dNone d
  else if op = 0x43 ∨ op = 0x4B then noImm && dG d && ropOk t
  else if op = 0x44 ∨ op = 0x45 ∨ op = 0x4C ∨ op = 0x4D then noImm && dAny d && t.imm == 0
  else if op = 0x47 ∨ op = 0x4F then !selImm a && selZero b && dAny d && ropOk t
  else if 0x40 ≤ op ∧ op ≤ 0x4F then noImm && dAny d && ropOk t
  else if 0x50 ≤ op ∧ op ≤ 0x53 then noImm && dAny d && decide (t.imm.toNat ≤ 1)
  else if op = 0x54 then
    !selImm a && cvOk b && dAny d && (decide (fmtOf t ≤ 8) || fmtOf t == 14) && (decide (t.imm.toNat / 16 ≤ 8) || t.imm.toNat / 16 == 14)
  else if op = 0x55 then !selImm a && cvOk b && !b.getLsbD 4 && dAny d && decide (fmtOf t ≤ 8) && decide (t.imm.toNat / 16 ≤ 7)
  else if op = 0x56 then !selImm a && cvOk b && dAny d && decide (fmtOf t ≤ 8) && decide (t.imm.toNat / 16 ≤ 7)
  else if 0x57 ≤ op ∧ op ≤ 0x5A then !selImm a && selZero b && dAny d && t.imm == 0
  else if op = 0x5B then !selImm a && selZero b && dAny d && decide (t.imm.toNat ≤ 8)
  else false

/-- Vector OPs (R184). -/
def vectorOk (op : Nat) (t : Ti) : Bool :=
  let a := t.sa; let b := t.sb; let d := t.dst
  let f := fmtOf t
  let int := decide (9 ≤ f) && decide (f ≤ 13)
  let sat0 := !satOf t
  let ro0 := roOf t == 0
  let m0 := !mskOf t
  let vgz := fun s => vVec s || vG s || vZero s
  let vg := fun s => vVec s || vG s
  let gz := fun s => vG s || vZero s
  if op = 0x63 then decide (f ≤ 13) && vgz a && vgz b && vReg d && (!int || ro0)
  else if op ≤ 0x62 then decide (f ≤ 13) && vgz a && vgz b && vDst d && (!int || ro0)
  else if op = 0x64 ∨ op = 0x65 then decide (f ≤ 13) && vg a && vg b && vDst d && sat0 && ro0
  else if op = 0x66 ∨ op = 0x67 then decide (f ≤ 13) && vg a && vZero b && vDst d && (int || sat0) && ro0
  else if 0x68 ≤ op ∧ op ≤ 0x6B then (f == 1 || f == 2 || f == 3) && vg a && vZero b && vDst d && decide (roOf t ≤ 1)
  else if op = 0x6C then decide (f ≤ 14) && vg a && decide (b.toNat ≤ 14) && vDst d
  else if op = 0x6D then decide (f ≤ 13) && vVec a && vZero b && (vDst d || vG d || dNone d) && (int || sat0) && (!int || ro0)
  else if op = 0x6E ∨ op = 0x6F then decide (f ≤ 13) && vVec a && vZero b && (vDst d || vG d || dNone d) && sat0 && ro0
  else if 0x70 ≤ op ∧ op ≤ 0x72 then decide (f ≤ 14) && vgz a && vgz b && vDst d && sat0 && ro0
  else if 0x73 ≤ op ∧ op ≤ 0x75 then int && vg a && vg b && vDst d && sat0 && ro0
  else if 0x76 ≤ op ∧ op ≤ 0x78 then decide (f ≤ 13) && vgz a && vgz b && (vDst d || dNone d) && sat0 && ro0
  else if op = 0x79 then decide (f ≤ 14) && vgz a && vgz b && vDst d && sat0 && ro0 && m0
  else if op = 0x7A then decide (f ≤ 14) && vVec a && gz b && vDst d && sat0 && ro0
  else if op = 0x7B then decide (f ≤ 14) && vVec a && gz b && (vG d || dNone d) && sat0 && ro0 && m0
  else if op = 0x7C then decide (f ≤ 14) && gz a && gz b && vReg d && sat0 && ro0 && m0
  else if op = 0x7D then
    (decide (f ≤ 5) || f == 9 || f == 10 || f == 12 || f == 13 || f == 14) && vVec a && vVec b && vDst d && sat0 && ro0
  else if op = 0x7E then decide (f ≤ 14) && vVec a && vVec b && vDst d && sat0 && ro0
  else if op = 0x7F then decide (f ≤ 14) && vVec a && vZero b && vDst d && sat0 && ro0
  else if op = 0x80 then (decide (f ≤ 3) || f == 12 || f == 13) && vg a && vg b && vReg d && (!int || ro0) && m0
  else if op = 0x81 then (decide (f ≤ 3) || f == 12 || f == 13) && vVec a && vgz b && vDst d && (!int || ro0) && m0
  else if op = 0x82 then decide (f ≤ 14) && vg a && vZero b && vDst d && sat0 && ro0
  else if op = 0x83 then decide (f ≤ 14) && vG a && vZero b && vDst d && sat0 && ro0
  else if op = 0x84 then
    decide (f ≤ 14) && vG a && vVec b && (vG d || dNone d) && sat0 && ro0 && (m0 || !(f == 6 || f == 7 || f == 8 || f == 11))
  else false

/-- Tensor OPs (R110, R199). -/
def tensorOk (op : Nat) (t : Ti) : Bool :=
  let i := t.imm.toNat
  decide (t.dst.toNat < 4) && decide (i < 64) &&
  (if op ≤ 0xA2 then true
   else if op = 0xA3 then t.sa == 0 && t.sb == 0 && t.imm == 0
   else if op = 0xA4 then t.sb == 0 && decide (i < 16)
   else if op ≤ 0xA7 then t.sb == 0 && decide (i < 32) && !t.imm.getLsbD 3
   else false)

/-- Memory-class OPs (R219, R266, R282, R302). -/
def memoryOk (op : Nat) (t : Ti) : Bool :=
  let a := t.sa; let b := t.sb; let d := t.dst
  let i := t.imm.toNat
  let addr := !selImm a
  let z2 := selZero a && selZero b
  -- where IMM8 has a meaning, an IMM selector in SB reads the same IMM8 (R112)
  if op = 0xC0 ∨ op = 0xC4 ∨ op = 0xC6 ∨ op = 0xDF then addr && selZero b && dAny d
  else if op = 0xC1 ∨ op = 0xC5 ∨ op = 0xC7 ∨ (0xC8 ≤ op ∧ op ≤ 0xCE) ∨ op = 0xD0 ∨ op = 0xDE then addr && dAny d
  else if op = 0xCF then addr && dG d
  else if op = 0xC2 then addr && selZero b && dAny d && decide (i < 8) && decide (i % 4 ≠ 3)
  else if op = 0xC3 then addr && dAny d && decide (i < 4) && decide (i % 4 ≠ 3)
  else if op = 0xD1 then addr && dAny d && decide (i < 2)
  else if op = 0xD2 then addr && dAny d && decide (i < 8) && decide (i ≠ 7)
  else if op = 0xD3 then addr && dG d && decide (i < 4)
  else if op = 0xD4 then z2 && dNone d && decide (i < 128)
  else if op = 0xD5 ∨ op = 0xD7 then z2 && dNone d && scopeOk (i / 32)
  else if op = 0xD6 then z2 && dNone d && decide (i < 64)
  else if op = 0xD8 then z2 && dAny d && decide (i < 32)
  else if op = 0xD9 then z2 && dNone d && decide (i < 32) && scopeOk (i / 4) && decide (i % 4 ≠ 3)
  else if op = 0xDA then addr && selZero b && dAny d && (i == 0 || i == 1 || i == 3 || i == 4 || i == 5)
  else if op = 0xDB then addr && selZero b && dAny d && (i == 0 || i == 1 || i == 3 || i == 5)
  else if op = 0xDC then
    addr && selZero b && dAny d && decide (i < 32) &&
      (i % 16 == 0 || i % 16 == 1 || i % 16 == 3 || (i % 16 == 4 && decide (i < 16)) || i % 16 == 5)
  else if op = 0xDD then addr && selZero b && dAny d && decide (i < 2)
  else if op = 0xE0 then addr && dAny d && decide (i < 14)
  else if op = 0xE1 ∨ op = 0xE2 then addr && selZero b && dAny d && t.imm == 0
  else if op = 0xE3 then addr && dAny d && t.imm == 0
  else if op = 0xE4 ∨ op = 0xE6 then addr && dAny d && decide (i < 48)
  else if op = 0xE5 then z2 && dAny d && decide (i % 64 < 48)
  else if op = 0xE7 then z2 && dAny d && decide (i < 48)
  else if op = 0xE8 then addr && selZero b && dAny d && decide (i < 48)
  else if op = 0xE9 then addr && (dG b || selZero b) && dAny d && t.imm == 0
  else if op = 0xEA then selZero b && dAny d && immOnly t
  else if op = 0xEB then addr && dAny d && t.imm == 0
  else if op = 0xEC ∨ op = 0xED then addr && selZero b && dAny d && t.imm == 0
  else if op = 0xF0 then addr && dAny d && t.imm == 0
  else if op = 0xF1 then z2 && dNone d
  else if op = 0xF3 then z2 && dCh d && t.imm == 0
  else if op = 0xF4 then z2 && dAny d && decide (i < 2)
  else false

/-- Every field rule of a slot's TI word with a given OP. -/
def tiWf (op : Nat) (t : Ti) : Bool :=
  t.la.ok && t.lb.ok && t.cc.ok && t.cd.ok && (t.puo != 0 || t.pui == 0) && (t.puo == 0 || decide (t.pui.toNat ≤ 11)) && omOk op t &&
  (match clsOf op with
   | .scalar => scalarOk op t
   | .vector => vectorOk op t
   | .tensor => tensorOk op t
   | .memory => memoryOk op t)

end Sys2Proof
end

