-- ==== Sys2Proof/Decode.lean ====
section
/-! DEFINITION. From words to instructions and back: the TI word of a slot (R104, R116), the Xcarnar word and the CSR
instructions of a hart (R327, R329, R339), and the table words the host asks about. -/

namespace Sys2Proof

/-- Why a word is no instruction. -/
inductive DecErr where
  /-- V = 0: the slot is ignored (R138) -/
  | invalidSlot
  /-- CFG_BADOP (R116) -/
  | badOp
  /-- CFG_BADENC (R137, R138) -/
  | badEnc
  /-- an encoding that raises the illegal-instruction exception at every level (R327) -/
  | illegal
  /-- a RISC-V word outside the opcode table -/
  | notInTable
deriving DecidableEq, Repr

/-! ## TI words -/

def litOf (w : BitVec 64) (hi : Nat) : Lit :=
  { en := w.extractLsb' hi 1, val := w.extractLsb' (hi - 1) 1, p := w.extractLsb' (hi - 5) 4 }

def condOf (w : BitVec 64) (hi : Nat) : Cond :=
  { en := w.extractLsb' hi 1, ch := w.extractLsb' (hi - 3) 3, mt := w.extractLsb' (hi - 5) 2 }

/-- The fields of a TI word (R104). -/
def tiOf (w : BitVec 64) : Ti :=
  { la := litOf w 62, lb := litOf w 56, cc := condOf w 50, cd := condOf w 44,
    sa := w.extractLsb' 26 5, sb := w.extractLsb' 21 5, dst := w.extractLsb' 16 5, om := w.extractLsb' 14 2,
    puo := w.extractLsb' 12 2, pui := w.extractLsb' 8 4, imm := w.extractLsb' 0 8 }

def opOf (w : BitVec 64) : BitVec 8 := w.extractLsb' 31 8
def validOf (w : BitVec 64) : Bool := w.getLsbD 63

/-- The TI word of fields and OP (R104), field by field from bit 63 down. -/
def tiWord (op : BitVec 8) (t : Ti) : BitVec 64 :=
  ((1 : BitVec 1) ++ t.la.en ++ t.la.val ++ t.la.p ++ t.lb.en ++ t.lb.val ++ t.lb.p ++ t.cc.en ++ t.cc.ch ++ t.cc.mt
    ++ t.cd.en ++ t.cd.ch ++ t.cd.mt ++ op ++ t.sa ++ t.sb ++ t.dst ++ t.om ++ t.puo ++ t.pui ++ t.imm)

/-- The instruction of an OP value (R116). -/
def peOf (op : Nat) (t : Ti) : Option Instr :=
  match op with
  | 0x00 => some (.nop t)
  | 0x01 => some (.mov t)
  | 0x02 => some (.add t)
  | 0x03 => some (.sub t)
  | 0x04 => some (.addw t)
  | 0x05 => some (.subw t)
  | 0x06 => some (.mul t)
  | 0x07 => some (.mulh t)
  | 0x08 => some (.mulhu t)
  | 0x09 => some (.div t)
  | 0x0A => some (.divu t)
  | 0x0B => some (.rem t)
  | 0x0C => some (.remu t)
  | 0x0D => some (.and t)
  | 0x0E => some (.or t)
  | 0x0F => some (.xor t)
  | 0x10 => some (.andn t)
  | 0x11 => some (.shl t)
  | 0x12 => some (.shr t)
  | 0x13 => some (.sar t)
  | 0x14 => some (.rol t)
  | 0x15 => some (.clz t)
  | 0x16 => some (.ctz t)
  | 0x17 => some (.popc t)
  | 0x18 => some (.min t)
  | 0x19 => some (.max t)
  | 0x1A => some (.minu t)
  | 0x1B => some (.maxu t)
  | 0x1C => some (.bext t)
  | 0x1D => some (.bins t)
  | 0x1E => some (.sel t)
  | 0x1F => some (.mac t)
  | 0x20 => some (.cmpeq t)
  | 0x21 => some (.cmpne t)
  | 0x22 => some (.cmplt t)
  | 0x23 => some (.cmpltu t)
  | 0x24 => some (.cmple t)
  | 0x25 => some (.cmpleu t)
  | 0x26 => some (.tstb t)
  | 0x27 => some (.tstand t)
  | 0x28 => some (.sext t)
  | 0x29 => some (.zext t)
  | 0x30 => some (.fwd t)
  | 0x31 => some (.drop t)
  | 0x32 => some (.mark t)
  | 0x33 => some (.emitc t)
  | 0x34 => some (.join t)
  | 0x35 => some (.cntset t)
  | 0x36 => some (.cntinc t)
  | 0x37 => some (.cntrd t)
  | 0x38 => some (.spawn t)
  | 0x39 => some (.sendc t)
  | 0x3A => some (.cret t)
  | 0x3B => some (.colr t)
  | 0x3C => some (.prd t)
  | 0x3D => some (.pwr t)
  | 0x3E => some (.done t)
  | 0x3F => some (.trap t)
  | 0x40 => some (.faddD t)
  | 0x41 => some (.fsubD t)
  | 0x42 => some (.fmulD t)
  | 0x43 => some (.ffmaD t)
  | 0x44 => some (.fminD t)
  | 0x45 => some (.fmaxD t)
  | 0x46 => some (.fdivD t)
  | 0x47 => some (.fsqrtD t)
  | 0x48 => some (.faddS t)
  | 0x49 => some (.fsubS t)
  | 0x4A => some (.fmulS t)
  | 0x4B => some (.ffmaS t)
  | 0x4C => some (.fminS t)
  | 0x4D => some (.fmaxS t)
  | 0x4E => some (.fdivS t)
  | 0x4F => some (.fsqrtS t)
  | 0x50 => some (.fcmpeq t)
  | 0x51 => some (.fcmplt t)
  | 0x52 => some (.fcmple t)
  | 0x53 => some (.fcmpun t)
  | 0x54 => some (.fcvt t)
  | 0x55 => some (.fcvti t)
  | 0x56 => some (.icvtf t)
  | 0x57 => some (.fexp2S t)
  | 0x58 => some (.flog2S t)
  | 0x59 => some (.frcpS t)
  | 0x5A => some (.frsqS t)
  | 0x5B => some (.fclass t)
  | 0x60 => some (.vadd t)
  | 0x61 => some (.vsub t)
  | 0x62 => some (.vmul t)
  | 0x63 => some (.vfma t)
  | 0x64 => some (.vmin t)
  | 0x65 => some (.vmax t)
  | 0x66 => some (.vabs t)
  | 0x67 => some (.vneg t)
  | 0x68 => some (.vexp2 t)
  | 0x69 => some (.vrcp t)
  | 0x6A => some (.vrsq t)
  | 0x6B => some (.vlog2 t)
  | 0x6C => some (.vcvt t)
  | 0x6D => some (.vredsum t)
  | 0x6E => some (.vredmax t)
  | 0x6F => some (.vredmin t)
  | 0x70 => some (.vand t)
  | 0x71 => some (.vor t)
  | 0x72 => some (.vxor t)
  | 0x73 => some (.vshl t)
  | 0x74 => some (.vshr t)
  | 0x75 => some (.vsar t)
  | 0x76 => some (.vcmpeq t)
  | 0x77 => some (.vcmplt t)
  | 0x78 => some (.vcmple t)
  | 0x79 => some (.vsel t)
  | 0x7A => some (.vbcast t)
  | 0x7B => some (.vextr t)
  | 0x7C => some (.vins t)
  | 0x7D => some (.vshuf t)
  | 0x7E => some (.vpack t)
  | 0x7F => some (.vunpk t)
  | 0x80 => some (.vlrec t)
  | 0x81 => some (.vscan t)
  | 0x82 => some (.vmov t)
  | 0x83 => some (.vld t)
  | 0x84 => some (.vst t)
  | 0xA0 => some (.mma t)
  | 0xA1 => some (.mmas t)
  | 0xA2 => some (.mmax t)
  | 0xA3 => some (.accz t)
  | 0xA4 => some (.accrd t)
  | 0xA5 => some (.accwr t)
  | 0xA6 => some (.accscl t)
  | 0xA7 => some (.accadd t)
  | 0xC0 => some (.ld t)
  | 0xC1 => some (.st t)
  | 0xC2 => some (.ldw t)
  | 0xC3 => some (.stw t)
  | 0xC4 => some (.ldp t)
  | 0xC5 => some (.stp t)
  | 0xC6 => some (.clrp t)
  | 0xC7 => some (.ldne t)
  | 0xC8 => some (.atadd t)
  | 0xC9 => some (.atmin t)
  | 0xCA => some (.atmax t)
  | 0xCB => some (.atand t)
  | 0xCC => some (.ator t)
  | 0xCD => some (.atxor t)
  | 0xCE => some (.atxchg t)
  | 0xCF => some (.atcas t)
  | 0xD0 => some (.redadd t)
  | 0xD1 => some (.redfadd t)
  | 0xD2 => some (.gath t)
  | 0xD3 => some (.scat t)
  | 0xD4 => some (.hwait t)
  | 0xD5 => some (.hrel t)
  | 0xD6 => some (.hclm t)
  | 0xD7 => some (.hfin t)
  | 0xD8 => some (.hstat t)
  | 0xD9 => some (.fence t)
  | 0xDA => some (.wreg t)
  | 0xDB => some (.whold t)
  | 0xDC => some (.wdrop t)
  | 0xDD => some (.barr t)
  | 0xDE => some (.mlock t)
  | 0xDF => some (.munlk t)
  | 0xE0 => some (.eqpush t)
  | 0xE1 => some (.eqflush t)
  | 0xE2 => some (.eqstat t)
  | 0xE3 => some (.eqpri t)
  | 0xE4 => some (.nlbin t)
  | 0xE5 => some (.nlsweep t)
  | 0xE6 => some (.nlmove t)
  | 0xE7 => some (.nlstat t)
  | 0xE8 => some (.nlclr t)
  | 0xE9 => some (.scopy t)
  | 0xEA => some (.scstat t)
  | 0xEB => some (.qenq t)
  | 0xEC => some (.qdeq t)
  | 0xED => some (.qsteal t)
  | 0xF0 => some (.sysc t)
  | 0xF1 => some (.brk t)
  | 0xF3 => some (.cfgsw t)
  | 0xF4 => some (.rdcyc t)
  | _ => none

/-- OP value and fields of a PE instruction (R116). -/
def peCode (i : Instr) : Option (Nat × Ti) :=
  match i with
  | .nop t => some (0x00, t)
  | .mov t => some (0x01, t)
  | .add t => some (0x02, t)
  | .sub t => some (0x03, t)
  | .addw t => some (0x04, t)
  | .subw t => some (0x05, t)
  | .mul t => some (0x06, t)
  | .mulh t => some (0x07, t)
  | .mulhu t => some (0x08, t)
  | .div t => some (0x09, t)
  | .divu t => some (0x0A, t)
  | .rem t => some (0x0B, t)
  | .remu t => some (0x0C, t)
  | .and t => some (0x0D, t)
  | .or t => some (0x0E, t)
  | .xor t => some (0x0F, t)
  | .andn t => some (0x10, t)
  | .shl t => some (0x11, t)
  | .shr t => some (0x12, t)
  | .sar t => some (0x13, t)
  | .rol t => some (0x14, t)
  | .clz t => some (0x15, t)
  | .ctz t => some (0x16, t)
  | .popc t => some (0x17, t)
  | .min t => some (0x18, t)
  | .max t => some (0x19, t)
  | .minu t => some (0x1A, t)
  | .maxu t => some (0x1B, t)
  | .bext t => some (0x1C, t)
  | .bins t => some (0x1D, t)
  | .sel t => some (0x1E, t)
  | .mac t => some (0x1F, t)
  | .cmpeq t => some (0x20, t)
  | .cmpne t => some (0x21, t)
  | .cmplt t => some (0x22, t)
  | .cmpltu t => some (0x23, t)
  | .cmple t => some (0x24, t)
  | .cmpleu t => some (0x25, t)
  | .tstb t => some (0x26, t)
  | .tstand t => some (0x27, t)
  | .sext t => some (0x28, t)
  | .zext t => some (0x29, t)
  | .fwd t => some (0x30, t)
  | .drop t => some (0x31, t)
  | .mark t => some (0x32, t)
  | .emitc t => some (0x33, t)
  | .join t => some (0x34, t)
  | .cntset t => some (0x35, t)
  | .cntinc t => some (0x36, t)
  | .cntrd t => some (0x37, t)
  | .spawn t => some (0x38, t)
  | .sendc t => some (0x39, t)
  | .cret t => some (0x3A, t)
  | .colr t => some (0x3B, t)
  | .prd t => some (0x3C, t)
  | .pwr t => some (0x3D, t)
  | .done t => some (0x3E, t)
  | .trap t => some (0x3F, t)
  | .faddD t => some (0x40, t)
  | .fsubD t => some (0x41, t)
  | .fmulD t => some (0x42, t)
  | .ffmaD t => some (0x43, t)
  | .fminD t => some (0x44, t)
  | .fmaxD t => some (0x45, t)
  | .fdivD t => some (0x46, t)
  | .fsqrtD t => some (0x47, t)
  | .faddS t => some (0x48, t)
  | .fsubS t => some (0x49, t)
  | .fmulS t => some (0x4A, t)
  | .ffmaS t => some (0x4B, t)
  | .fminS t => some (0x4C, t)
  | .fmaxS t => some (0x4D, t)
  | .fdivS t => some (0x4E, t)
  | .fsqrtS t => some (0x4F, t)
  | .fcmpeq t => some (0x50, t)
  | .fcmplt t => some (0x51, t)
  | .fcmple t => some (0x52, t)
  | .fcmpun t => some (0x53, t)
  | .fcvt t => some (0x54, t)
  | .fcvti t => some (0x55, t)
  | .icvtf t => some (0x56, t)
  | .fexp2S t => some (0x57, t)
  | .flog2S t => some (0x58, t)
  | .frcpS t => some (0x59, t)
  | .frsqS t => some (0x5A, t)
  | .fclass t => some (0x5B, t)
  | .vadd t => some (0x60, t)
  | .vsub t => some (0x61, t)
  | .vmul t => some (0x62, t)
  | .vfma t => some (0x63, t)
  | .vmin t => some (0x64, t)
  | .vmax t => some (0x65, t)
  | .vabs t => some (0x66, t)
  | .vneg t => some (0x67, t)
  | .vexp2 t => some (0x68, t)
  | .vrcp t => some (0x69, t)
  | .vrsq t => some (0x6A, t)
  | .vlog2 t => some (0x6B, t)
  | .vcvt t => some (0x6C, t)
  | .vredsum t => some (0x6D, t)
  | .vredmax t => some (0x6E, t)
  | .vredmin t => some (0x6F, t)
  | .vand t => some (0x70, t)
  | .vor t => some (0x71, t)
  | .vxor t => some (0x72, t)
  | .vshl t => some (0x73, t)
  | .vshr t => some (0x74, t)
  | .vsar t => some (0x75, t)
  | .vcmpeq t => some (0x76, t)
  | .vcmplt t => some (0x77, t)
  | .vcmple t => some (0x78, t)
  | .vsel t => some (0x79, t)
  | .vbcast t => some (0x7A, t)
  | .vextr t => some (0x7B, t)
  | .vins t => some (0x7C, t)
  | .vshuf t => some (0x7D, t)
  | .vpack t => some (0x7E, t)
  | .vunpk t => some (0x7F, t)
  | .vlrec t => some (0x80, t)
  | .vscan t => some (0x81, t)
  | .vmov t => some (0x82, t)
  | .vld t => some (0x83, t)
  | .vst t => some (0x84, t)
  | .mma t => some (0xA0, t)
  | .mmas t => some (0xA1, t)
  | .mmax t => some (0xA2, t)
  | .accz t => some (0xA3, t)
  | .accrd t => some (0xA4, t)
  | .accwr t => some (0xA5, t)
  | .accscl t => some (0xA6, t)
  | .accadd t => some (0xA7, t)
  | .ld t => some (0xC0, t)
  | .st t => some (0xC1, t)
  | .ldw t => some (0xC2, t)
  | .stw t => some (0xC3, t)
  | .ldp t => some (0xC4, t)
  | .stp t => some (0xC5, t)
  | .clrp t => some (0xC6, t)
  | .ldne t => some (0xC7, t)
  | .atadd t => some (0xC8, t)
  | .atmin t => some (0xC9, t)
  | .atmax t => some (0xCA, t)
  | .atand t => some (0xCB, t)
  | .ator t => some (0xCC, t)
  | .atxor t => some (0xCD, t)
  | .atxchg t => some (0xCE, t)
  | .atcas t => some (0xCF, t)
  | .redadd t => some (0xD0, t)
  | .redfadd t => some (0xD1, t)
  | .gath t => some (0xD2, t)
  | .scat t => some (0xD3, t)
  | .hwait t => some (0xD4, t)
  | .hrel t => some (0xD5, t)
  | .hclm t => some (0xD6, t)
  | .hfin t => some (0xD7, t)
  | .hstat t => some (0xD8, t)
  | .fence t => some (0xD9, t)
  | .wreg t => some (0xDA, t)
  | .whold t => some (0xDB, t)
  | .wdrop t => some (0xDC, t)
  | .barr t => some (0xDD, t)
  | .mlock t => some (0xDE, t)
  | .munlk t => some (0xDF, t)
  | .eqpush t => some (0xE0, t)
  | .eqflush t => some (0xE1, t)
  | .eqstat t => some (0xE2, t)
  | .eqpri t => some (0xE3, t)
  | .nlbin t => some (0xE4, t)
  | .nlsweep t => some (0xE5, t)
  | .nlmove t => some (0xE6, t)
  | .nlstat t => some (0xE7, t)
  | .nlclr t => some (0xE8, t)
  | .scopy t => some (0xE9, t)
  | .scstat t => some (0xEA, t)
  | .qenq t => some (0xEB, t)
  | .qdeq t => some (0xEC, t)
  | .qsteal t => some (0xED, t)
  | .sysc t => some (0xF0, t)
  | .brk t => some (0xF1, t)
  | .cfgsw t => some (0xF3, t)
  | .rdcyc t => some (0xF4, t)
  | _ => none

/-- Decode a slot's word (R104, R137, R138). -/
def decodeSlot (w : BitVec 64) : Except DecErr Instr :=
  if validOf w then
    match peOf (opOf w).toNat (tiOf w) with
    | none => .error .badOp
    | some i => if tiWf (opOf w).toNat (tiOf w) then .ok i else .error .badEnc
  else .error .invalidSlot

/-! ## Hart words -/

/-- The Xcarnar instruction of a funct7 (R329). -/
def crnOf (f7 : Nat) (x : Xr) : Option Instr :=
  match f7 with
  | 0x00 => some (.crnFload x)
  | 0x01 => some (.crnFkill x)
  | 0x02 => some (.crnFshadow x)
  | 0x03 => some (.crnFswap x)
  | 0x04 => some (.crnFrun x)
  | 0x05 => some (.crnFhalt x)
  | 0x06 => some (.crnFmark x)
  | 0x07 => some (.crnFscan x)
  | 0x08 => some (.crnFrest x)
  | 0x09 => some (.crnFmove x)
  | 0x0A => some (.crnFpatch x)
  | 0x0B => some (.crnFinval x)
  | 0x0C => some (.crnFtok x)
  | 0x0D => some (.crnFinject x)
  | 0x0E => some (.crnFstat x)
  | 0x0F => some (.crnFpar x)
  | 0x10 => some (.crnWftrd x)
  | 0x11 => some (.crnWftclr x)
  | _ => none

def crnCode (i : Instr) : Option (Nat × Xr) :=
  match i with
  | .crnFload x => some (0x00, x)
  | .crnFkill x => some (0x01, x)
  | .crnFshadow x => some (0x02, x)
  | .crnFswap x => some (0x03, x)
  | .crnFrun x => some (0x04, x)
  | .crnFhalt x => some (0x05, x)
  | .crnFmark x => some (0x06, x)
  | .crnFscan x => some (0x07, x)
  | .crnFrest x => some (0x08, x)
  | .crnFmove x => some (0x09, x)
  | .crnFpatch x => some (0x0A, x)
  | .crnFinval x => some (0x0B, x)
  | .crnFtok x => some (0x0C, x)
  | .crnFinject x => some (0x0D, x)
  | .crnFstat x => some (0x0E, x)
  | .crnFpar x => some (0x0F, x)
  | .crnWftrd x => some (0x10, x)
  | .crnWftclr x => some (0x11, x)
  | _ => none

def xrOf (w : BitVec 32) : Xr := { rd := w.extractLsb' 7 5, rs1 := w.extractLsb' 15 5, rs2 := w.extractLsb' 20 5 }
def csrOf (w : BitVec 32) : CsrOp :=
  { f3 := w.extractLsb' 12 3, rd := w.extractLsb' 7 5, rs1 := w.extractLsb' 15 5, csr := w.extractLsb' 20 12 }

/-- Xcarnar instructions that use rs2 (R329). -/
def crnUsesRs2 (f7 : Nat) : Bool := !(f7 == 1 || f7 == 4 || f7 == 5 || f7 == 6 || f7 == 17)

/-- The Xcarnar CSRs listed in R339. -/
def csrListed (n : Nat) : Bool :=
  (decide (0x5C0 ≤ n) && decide (n ≤ 0x5C5)) || (decide (0x6C0 ≤ n) && decide (n ≤ 0x6C2)) || (decide (0x6E2 ≤ n) && decide (n ≤ 0x6E4))

/-- The numbers in which an unlisted CSR is illegal (R339). -/
def csrRange (n : Nat) : Bool := (decide (0x5C0 ≤ n) && decide (n ≤ 0x5FF)) || (decide (0x6C0 ≤ n) && decide (n ≤ 0x6FF))

/-- Decode a hart's word: Xcarnar on custom-0 (R327), CSR instructions on the Xcarnar CSRs (R339, log 10). An unlisted
number of their range is illegal. Other RISC-V words lie outside the table. -/
def decodeHart (w : BitVec 32) : Except DecErr Instr :=
  let maj := (w.extractLsb' 0 7).toNat
  let f3 := (w.extractLsb' 12 3).toNat
  let f7 := (w.extractLsb' 25 7).toNat
  if maj = 0x0B then
    if f3 ≠ 0 then .error .illegal
    else
      match crnOf f7 (xrOf w) with
      | none => .error .illegal
      | some i => .ok i
  else if maj = 0x73 ∧ f3 ≠ 0 ∧ f3 ≠ 4 then
    let c := csrOf w
    if csrRange c.csr.toNat then
      if !csrListed c.csr.toNat then .error .illegal
      else if c.csr.toNat = 0x5C4 ∨ c.csr.toNat = 0x6E4 then .ok (.crnfrecWrite c)
      else if c.csr.toNat = 0x6C0 then .ok (.hcrnpmapWrite c)
      else .ok (.csrWrite c)
    else .error .notInTable
  else .error .notInTable

/-- The word of an Xcarnar instruction (R327). -/
def crnWord (f7 : BitVec 7) (x : Xr) : BitVec 32 := f7 ++ x.rs2 ++ x.rs1 ++ (0 : BitVec 3) ++ x.rd ++ (0x0B : BitVec 7)

/-- The word of a CSR instruction (RISC-V SYSTEM opcode, log 10). -/
def csrWord (c : CsrOp) : BitVec 32 := c.csr ++ c.rs1 ++ c.f3 ++ c.rd ++ (0x73 : BitVec 7)

/-- An instruction as its bytes hold it: a TI word or a hart word. -/
inductive Enc where
  | ti (w : BitVec 64)
  | hart (w : BitVec 32)
deriving DecidableEq, Repr

/-- The words of an instruction that has an encoding. -/
def encode (i : Instr) : Option Enc :=
  match peCode i with
  | some (op, t) => some (.ti (tiWord (BitVec.ofNat 8 op) t))
  | none =>
    match crnCode i with
    | some (f7, x) => some (.hart (crnWord (BitVec.ofNat 7 f7) x))
    | none =>
      match i with
      | .crnfrecWrite c => some (.hart (csrWord c))
      | .hcrnpmapWrite c => some (.hart (csrWord c))
      | .csrWrite c => some (.hart (csrWord c))
      | _ => none

/-- Decode either kind of word. -/
def decodeEnc (e : Enc) : Except DecErr Instr :=
  match e with
  | .ti w => decodeSlot w
  | .hart w => decodeHart w

/-- Well-formed: the fields of a PE instruction obey tiWf; a CSR instruction names its CSR with a legal funct3. An event
that is no instruction of a slot or a hart is well formed whatever its content. -/
def Instr.wf (i : Instr) : Bool :=
  match peCode i with
  | some (op, t) => tiWf op t
  | none =>
    match i with
    | .crnfrecWrite c => (c.csr == 0x5C4 || c.csr == 0x6E4) && c.f3 != 0 && c.f3 != 4
    | .hcrnpmapWrite c => c.csr == 0x6C0 && c.f3 != 0 && c.f3 != 4
    | .csrWrite c => csrListed c.csr.toNat && c.csr != 0x5C4 && c.csr != 0x6E4 && c.csr != 0x6C0 && c.f3 != 0 && c.f3 != 4
    | _ => true

/-- Bytes of a number, lowest first. -/
def leBytes (n w : Nat) : List Byte :=
  match n with
  | 0 => []
  | k + 1 => BitVec.ofNat 8 w :: leBytes k (w / 256)

/-- The number that bytes hold, lowest first. -/
def leNat (bs : List Byte) : Nat :=
  match bs with
  | [] => 0
  | b :: r => b.toNat + 256 * leNat r

/-- Decode an instruction from its bytes: eight of a slot's word, or four of a hart's; any other length is none. -/
def decodeBytes (bs : List Byte) : Except DecErr Instr :=
  if bs.length = 8 then decodeSlot (BitVec.ofNat 64 (leNat bs))
  else if bs.length = 4 then decodeHart (BitVec.ofNat 32 (leNat bs))
  else .error .notInTable

/-- What the decoder reads from a table row's bits: 32 are a hart word, 64 a TI word. -/
def decodeTableWord (nbits w : Nat) : Option Instr :=
  match decodeBytes (leBytes (nbits / 8) w) with
  | .ok i => some i
  | .error _ => none

end Sys2Proof
end

