-- ==== Sys2Proof/Machine/Num.lean ====
section
/-! DEFINITION. Number formats and rounding (R45-R61): values, one rounding of an exact value, SR steps, and the
correctly rounded functions. A float is handled as its bits in a Nat; an exact value as RVal. -/

namespace Sys2Proof.Machine

/-- A magnitude: m x 2^e, n/d x 2^e, the square root of m x 2^e, or a value strictly between m and m+1 times 2^e. -/
inductive Mag where
  | dyad (m : Nat) (e : Int)
  | rat (n d : Nat) (e : Int)
  | root (m : Nat) (e : Int)
  | above (m : Nat) (e : Int)
deriving DecidableEq, Repr

/-- An exact result: NaN, an infinity, or a sign and a magnitude. -/
inductive RVal where
  | nan
  | inf (neg : Bool)
  | fin (neg : Bool) (m : Mag)
deriving DecidableEq, Repr

/-- x shifted left by a possibly negative amount, with whether bits were lost. -/
def shiftInt (x : Nat) (k : Int) : Nat × Bool :=
  match k with
  | .ofNat n => (x * 2 ^ n, false)
  | .negSucc n => (x / 2 ^ (n + 1), decide (x % 2 ^ (n + 1) ≠ 0))

/-- floor(x / 2^u) and whether that is inexact. -/
def Mag.floorAt (x : Mag) (u : Int) : Nat × Bool :=
  match x with
  | .dyad m e => shiftInt m (e - u)
  | .above m e => ((shiftInt m (e - u)).1, true)
  | .rat n d e =>
    if d = 0 then (0, false) else
    if 0 ≤ e - u then ((n * 2 ^ (e - u).toNat) / d, decide ((n * 2 ^ (e - u).toNat) % d ≠ 0))
    else (n / (d * 2 ^ (u - e).toNat), decide (n % (d * 2 ^ (u - e).toNat) ≠ 0))
  | .root m e =>
    let k := e - 2 * u
    let (y, l) := shiftInt m k
    (y.sqrt, l || decide (y.sqrt * y.sqrt ≠ y))

/-- floor(log2 x) of a non-zero magnitude. -/
def Mag.log (x : Mag) : Int :=
  match x with
  | .dyad m e => (Nat.log2 m : Int) + e
  | .above m e => (Nat.log2 m : Int) + e
  | .rat n d e =>
    let g : Int := (Nat.log2 n : Int) - (Nat.log2 d : Int)
    if (Mag.rat n d 0).floorAt g = (0, true) then g - 1 + e else g + e
  | .root m e => ((Nat.log2 m : Int) + e) / 2

def Mag.isZero (x : Mag) : Bool :=
  match x with
  | .dyad m _ => m == 0
  | .above _ _ => false
  | .rat n _ _ => n == 0
  | .root m _ => m == 0

/-! ## Formats (R4, R45-R48) -/

/-- Exponent bits, mantissa bits, bias of the float formats 0-8. -/
def fmtE (f : Nat) : Nat := match f with | 0 => 11 | 1 => 8 | 2 => 5 | 3 => 8 | 4 => 4 | 5 => 5 | 6 => 3 | _ => 2
def fmtM (f : Nat) : Nat := match f with | 0 => 52 | 1 => 23 | 2 => 10 | 3 => 7 | 4 => 3 | 5 => 2 | 6 => 2 | 7 => 3 | _ => 1
def fmtB (f : Nat) : Nat := match f with | 0 => 1023 | 1 => 127 | 2 => 15 | 3 => 127 | 4 => 7 | 5 => 15 | 6 => 3 | _ => 1

/-- Width in bits of an element of each format (R181). -/
def fmtW (f : Nat) : Nat :=
  match f with
  | 0 => 64 | 1 => 32 | 2 => 16 | 3 => 16 | 4 => 8 | 5 => 8 | 6 => 6 | 7 => 6 | 8 => 4 | 9 => 8 | 10 => 8 | 11 => 4
  | 12 => 32 | 13 => 16 | _ => 8

def fmtIsFloat (f : Nat) : Bool := decide (f ≤ 8)
def fmtIsInt (f : Nat) : Bool := decide (9 ≤ f) && decide (f ≤ 13)
/-- Signed integer formats: all but UINT8 (10). -/
def fmtSigned (f : Nat) : Bool := decide (f ≠ 10)

/-- Formats with infinities (R45). -/
def fmtHasInf (f : Nat) : Bool := f == 0 || f == 1 || f == 2 || f == 3 || f == 5

/-- Canonical NaN of R51 (0 where the format has none). -/
def fmtNaN (f : Nat) : Nat :=
  match f with
  | 0 => 0x7FF8000000000000 | 1 => 0x7FC00000 | 2 => 0x7E00 | 3 => 0x7FC0 | 4 => 0x7F | 5 => 0x7E | 14 => 0xFF | _ => 0

/-- Bits of +largest finite (R45). -/
def fmtMax (f : Nat) : Nat :=
  match f with
  | 0 => 0x7FEFFFFFFFFFFFFF | 1 => 0x7F7FFFFF | 2 => 0x7BFF | 3 => 0x7F7F | 4 => 0x7E | 5 => 0x7B | 6 => 0x1F | 7 => 0x1F
  | _ => 0x7

def fmtInf (f : Nat) : Nat := (2 ^ fmtE f - 1) * 2 ^ fmtM f
def fmtSign (f : Nat) : Nat := 2 ^ (fmtE f + fmtM f)
def withSign (f : Nat) (neg : Bool) (b : Nat) : Nat := if neg then fmtSign f + b else b

/-- The value of a float's bits (R46). -/
def fdec (f bits : Nat) : RVal :=
  let m := bits % 2 ^ fmtM f
  let e := bits / 2 ^ fmtM f % 2 ^ fmtE f
  let s := decide (bits / fmtSign f % 2 = 1)
  if e = 0 then .fin s (.dyad m (1 - (fmtB f : Int) - (fmtM f : Int)))
  else if e = 2 ^ fmtE f - 1 ∧ fmtHasInf f = true then (if m = 0 then .inf s else .nan)
  else if f = 4 ∧ e = 15 ∧ m = 7 then .nan
  else .fin s (.dyad (2 ^ fmtM f + m) ((e : Int) - (fmtB f : Int) - (fmtM f : Int)))

/-- The value of any operand element: a float, an E8M0 scale (R47) or an integer (R48). -/
def idec (f bits : Nat) : Int :=
  let w := fmtW f
  let b := bits % 2 ^ w
  if fmtSigned f && decide (2 ^ (w - 1) ≤ b) then (b : Int) - (2 ^ w : Nat) else b

def edec (f bits : Nat) : RVal :=
  if f = 14 then (if bits % 256 = 255 then .nan else .fin false (.dyad 1 (((bits % 256 : Nat) : Int) - 127)))
  else if fmtIsInt f then
    let i := idec f bits
    .fin (decide (i < 0)) (.dyad i.natAbs 0)
  else fdec f bits

/-! ## Rounding (R53-R58) -/

/-- One step of the SR state (R57). -/
def srStep (s : BitVec 32) : BitVec 32 :=
  let f := (s >>> 31 ^^^ s >>> 21 ^^^ s >>> 1 ^^^ s) &&& 1
  (s <<< 1) ||| f

/-- floor of a magnitude at 2^u rounded to an integer multiple by a mode; `s` is the SR state after its step. -/
def roundAt (mode : Nat) (neg : Bool) (s : BitVec 32) (x : Mag) (u : Int) : Nat :=
  let (q, st) := x.floorAt (u - 33)
  let lo := q / 2 ^ 33
  let fr := q % 2 ^ 33
  let exact := fr == 0 && !st
  let half : Nat := 2 ^ 32
  let up :=
    match mode with
    | 0 => decide (half < fr) || (fr == half && (st || lo % 2 == 1))
    | 1 => false
    | 2 => !exact && !neg
    | 3 => !exact && neg
    | 4 => decide (half ≤ fr)
    | _ => decide (2 ^ 32 ≤ fr / 2 + s.toNat)
  if up then lo + 1 else lo

/-- The result of an overflow (R55). -/
def overflow (f mode : Nat) (sat neg : Bool) : Nat :=
  let away := mode == 0 || mode == 4 || (mode == 2 && !neg) || (mode == 3 && neg)
  if sat || !away then withSign f neg (fmtMax f)
  else if fmtHasInf f then withSign f neg (fmtInf f)
  else if f = 4 then fmtNaN 4
  else withSign f neg (fmtMax f)

/-- An infinity delivered in a format: `conv` tells a conversion, where saturation acts on it (R55). -/
def infBits (f : Nat) (sat conv neg : Bool) : Nat :=
  if fmtHasInf f && !(sat && conv) then withSign f neg (fmtInf f)
  else if sat && conv then withSign f neg (fmtMax f)
  else if f = 4 then fmtNaN 4
  else withSign f neg (fmtMax f)

/-- rnd(fmt, mode, x) of R53 with the overflow of R55; SR takes its one step (R58). -/
def rnd (f mode : Nat) (sat conv : Bool) (sr : BitVec 32) (x : RVal) : Nat × BitVec 32 :=
  let s := if mode = 5 then srStep sr else sr
  let r :=
    match x with
    | .nan => fmtNaN f
    | .inf neg => infBits f sat conv neg
    | .fin neg m =>
      if m.isZero then withSign f neg 0
      else
        let emin : Int := 1 - (fmtB f : Int) - (fmtM f : Int)
        let u := max (m.log - (fmtM f : Int)) emin
        let q := roundAt mode neg s m u
        let big := fmtMax f
        -- the pattern of q x 2^u as one number above the mantissa of the subnormals
        let code := if q < 2 ^ fmtM f then q else q + (u - emin).toNat * 2 ^ fmtM f
        if big < code then overflow f mode sat neg else withSign f neg code
  (r, s)

/-- Round to an integer (R56, R58). -/
def rndInt (mode : Nat) (sr : BitVec 32) (neg : Bool) (m : Mag) : Int × BitVec 32 :=
  let s := if mode = 5 then srStep sr else sr
  let q := if m.isZero then 0 else roundAt mode neg s m 0
  (if neg then -(q : Int) else q, s)

/-- Clamp to a range. -/
def clampInt (lo hi i : Int) : Int := if i < lo then lo else if hi < i then hi else i

/-- Range of an integer type of a width. -/
def intMin (w : Nat) (sg : Bool) : Int := if sg then -((2 ^ (w - 1) : Nat) : Int) else 0
def intMax (w : Nat) (sg : Bool) : Int := if sg then ((2 ^ (w - 1) : Nat) : Int) - 1 else ((2 ^ w : Nat) : Int) - 1

/-- The SR state after an element of an integer format that its instruction computes with rnd(): under SR it takes its one step though
nothing is rounded away (R58, log 29). -/
def srTake (mode : Nat) (sr : BitVec 32) : BitVec 32 := if mode = 5 then srStep sr else sr

/-- Low w bits of an integer. -/
def intBits (w : Nat) (i : Int) : Nat := (i % ((2 ^ w : Nat) : Int)).toNat

/-- Float to integer (R56). -/
def fToInt (w : Nat) (sg : Bool) (mode : Nat) (sr : BitVec 32) (x : RVal) : Int × BitVec 32 :=
  let s := if mode = 5 then srStep sr else sr
  match x with
  | .nan => (0, s)
  | .inf neg => (if neg then intMin w sg else intMax w sg, s)
  | .fin neg m => let (i, _) := rndInt mode sr neg m; (clampInt (intMin w sg) (intMax w sg) i, s)

/-- Float to E8M0 (R56): the magnitude rounded to a power of two. -/
def toE8M0 (mode : Nat) (sr : BitVec 32) (x : RVal) : Nat × BitVec 32 :=
  let s := if mode = 5 then srStep sr else sr
  match x with
  | .nan => (0xFF, s)
  | .inf _ => (0xFF, s)
  | .fin _ m =>
    if m.isZero then (0, s) else
    let n := m.log
    let (q, st) := m.floorAt (n - 33)
    let fr := q % 2 ^ 33
    let exact := fr == 0 && !st
    let half : Nat := 2 ^ 32
    let e := n + 127
    let up :=
      match mode with
      | 0 => decide (half < fr) || (fr == half && (st || e % 2 == 1))
      | 1 => false
      | 2 => !exact
      | 3 => false
      | 4 => decide (half ≤ fr)
      | _ => decide (2 ^ 32 ≤ fr / 2 + s.toNat)
    ((clampInt 0 254 (if up then e + 1 else e)).toNat, s)

/-- Convert one element between formats (R55, R56, R179, R187): a format is narrower unless it has more bits or is the same (log 29).
DESIGN CHOICE (log 55): an integer converts to E8M0 as a float of its magnitude, 0 to 0x00, and E8M0 to an integer as a float does; R56
gives E8M0 from floats only. -/
def cvtElem (df sf mode : Nat) (sat : Bool) (sr : BitVec 32) (bits : Nat) : Nat × BitVec 32 :=
  let s := if mode = 5 then srStep sr else sr
  if df = 14 then
    if sf = 14 then (bits % 256, s) else toE8M0 mode sr (edec sf bits)
  else if fmtIsInt df then
    if fmtIsInt sf then
      let i := idec sf bits
      let w := fmtW df
      (intBits w (if sat then clampInt (intMin w (fmtSigned df)) (intMax w (fmtSigned df)) i else i), s)
    else
      let (i, s') := fToInt (fmtW df) (fmtSigned df) mode sr (edec sf bits)
      (intBits (fmtW df) i, s')
  else rnd df mode sat (decide (fmtW df < fmtW sf ∨ (fmtW df = fmtW sf ∧ df ≠ sf))) sr (edec sf bits)

/-! ## Arithmetic on exact values (R60, R61, R177) -/

/-- Sum of two dyadic numbers with signs, as an integer times a power of two. -/
def dyAdd (a b : Int × Int) : Int × Int :=
  let e := min a.2 b.2
  (a.1 * ((2 ^ (a.2 - e).toNat : Nat) : Int) + b.1 * ((2 ^ (b.2 - e).toNat : Nat) : Int), e)

def RVal.dy (x : RVal) : Int × Int :=
  match x with
  | .fin n (.dyad m e) => (if n then -(m : Int) else m, e)
  | _ => (0, 0)

def RVal.neg (x : RVal) : RVal :=
  match x with
  | .nan => .nan
  | .inf n => .inf (!n)
  | .fin n m => .fin (!n) m

def RVal.isNeg (x : RVal) : Bool :=
  match x with
  | .nan => false
  | .inf n => n
  | .fin n _ => n

def RVal.isZero (x : RVal) : Bool :=
  match x with
  | .fin _ m => m.isZero
  | _ => false

def RVal.isNan (x : RVal) : Bool := match x with | .nan => true | _ => false

/-- Sum of a list of terms, exactly (R60, R65): zero is -0 when every term is -0 or the mode is RDN. -/
def sumVals (mode : Nat) (ts : List RVal) : RVal :=
  if ts.any RVal.isNan then .nan
  else
    let pi := ts.any (fun t => t == .inf false)
    let ni := ts.any (fun t => t == .inf true)
    if pi && ni then .nan
    else if pi then .inf false
    else if ni then .inf true
    else
      let (i, e) := ts.foldl (fun acc t => dyAdd acc t.dy) (0, 0)
      if i = 0 then
        .fin (decide (mode = 3) || ts.all (fun t => t.isZero && t.isNeg)) (.dyad 0 0)
      else .fin (decide (i < 0)) (.dyad i.natAbs e)

/-- Exact sum of two terms: an exact zero of x + (-x) follows R60 (mode RDN gives -0). -/
def addVals (mode : Nat) (a b : RVal) : RVal := sumVals mode [a, b]

/-- Exact product (R177: 0 x inf is NaN). -/
def mulVals (a b : RVal) : RVal :=
  match a, b with
  | .nan, _ => .nan
  | _, .nan => .nan
  | .inf s, .inf t => .inf (s != t)
  | .inf s, .fin t m => if m.isZero then .nan else .inf (s != t)
  | .fin s m, .inf t => if m.isZero then .nan else .inf (s != t)
  | .fin s (.dyad m e), .fin t (.dyad n f) => .fin (s != t) (.dyad (m * n) (e + f))
  | .fin s _, .fin t _ => .fin (s != t) (.dyad 0 0)

/-- Exact quotient (R177). -/
def divVals (a b : RVal) : RVal :=
  match a, b with
  | .nan, _ => .nan
  | _, .nan => .nan
  | .inf _, .inf _ => .nan
  | .inf s, .fin t _ => .inf (s != t)
  | .fin s _, .inf t => .fin (s != t) (.dyad 0 0)
  | .fin s (.dyad m e), .fin t (.dyad n f) =>
    if n = 0 then (if m = 0 then .nan else .inf (s != t))
    else if m = 0 then .fin (s != t) (.dyad 0 0)
    else .fin (s != t) (.rat m n (e - f))
  | .fin s _, .fin t _ => .fin (s != t) (.dyad 0 0)

/-- Square root (R177). -/
def sqrtVal (a : RVal) : RVal :=
  match a with
  | .nan => .nan
  | .inf s => if s then .nan else .inf false
  | .fin s (.dyad m e) =>
    if m = 0 then .fin s (.dyad 0 0) else if s then .nan
    else .fin false (.root m e)
  | .fin s _ => .fin s (.dyad 0 0)

/-- 2^f for a fraction f given by its bits below the point, high first, to 256 fixed bits: the product of the
successive square roots of 2. -/
def exp2Frac (bits : List Bool) (root acc : Nat) : Nat :=
  match bits with
  | [] => acc
  | b :: r => let root' := (root * 2 ^ 256).sqrt; exp2Frac r root' (if b then acc * root' / 2 ^ 256 else acc)

/-- 2^x (R61). -/
def exp2Val (x : RVal) : RVal :=
  match x with
  | .nan => .nan
  | .inf s => if s then .fin false (.dyad 0 0) else .inf false
  | .fin s (.dyad m e) =>
    if m = 0 then .fin false (.dyad 1 0) else
    let v : Int := if s then -(m : Int) else m
    if 0 ≤ e then
      let i := v * ((2 ^ (min e 16).toNat : Nat) : Int)
      .fin false (.dyad 1 (clampInt (-4096) 4096 i))
    else
      let k := (-e).toNat
      let n := v / ((2 ^ k : Nat) : Int)
      let f := (v % ((2 ^ k : Nat) : Int)).toNat
      let n' := clampInt (-4096) 4096 n
      if f = 0 then .fin false (.dyad 1 n')
      else .fin false (.above (exp2Frac ((List.range k).map (fun i => f.testBit (k - 1 - i))) (2 * 2 ^ 256) (2 ^ 256)) (n' - 256))
  | .fin _ _ => .nan

/-- k bits of log2 of y / 2^256, for y / 2^256 in [1, 2), by repeated squaring. -/
def log2Frac (k y acc : Nat) : Nat :=
  match k with
  | 0 => acc
  | j + 1 =>
    let z := y * y / 2 ^ 256
    if 2 ^ 257 ≤ z then log2Frac j (z / 2) (2 * acc + 1) else log2Frac j z (2 * acc)

/-- log2 x (R61). -/
def log2Val (x : RVal) : RVal :=
  match x with
  | .nan => .nan
  | .inf s => if s then .nan else .inf false
  | .fin s (.dyad m e) =>
    if m = 0 then .inf true else if s then .nan
    else
      let n : Int := (Nat.log2 m : Int) + e
      if m = 2 ^ Nat.log2 m then .fin (decide (n < 0)) (.dyad n.natAbs 0)
      else
        let y := (Mag.dyad m (256 - (Nat.log2 m : Int))).floorAt 0
        let f := log2Frac 128 y.1 0
        let t : Int := n * ((2 ^ 128 : Nat) : Int) + f
        if t < 0 then .fin true (.above (t.natAbs - 1) (-128)) else .fin false (.above t.natAbs (-128))
  | .fin _ _ => .nan

/-- 1/x (R61). -/
def rcpVal (x : RVal) : RVal :=
  match x with
  | .fin s m => if m.isZero then .inf s else divVals (.fin false (.dyad 1 0)) x
  | .inf s => .fin s (.dyad 0 0)
  | .nan => .nan

/-- 1/sqrt x (R61). -/
def rsqVal (x : RVal) : RVal :=
  match x with
  | .nan => .nan
  | .inf s => if s then .nan else .fin false (.dyad 0 0)
  | .fin s (.dyad m e) =>
    if m = 0 then .inf s else if s then .nan
    else
      -- 1/sqrt(m 2^e) = sqrt(2^600 / m) 2^(-300 - e/2), with e made even
      let (m', e') := if e % 2 = 0 then (m, e) else (2 * m, e - 1)
      let q := 2 ^ 600 / m'
      if 2 ^ 600 % m' = 0 then .fin false (.root q (-600 - e'))
      else .fin false (.above q.sqrt (-300 - e' / 2))
  | .fin _ _ => .nan

/-! ## Comparisons (R177, R178) -/

/-- Order of two non-NaN values: negative, zero or positive difference. -/
def cmpVals (a b : RVal) : Int :=
  match a, b with
  | .inf s, .inf t => if s = t then 0 else if s then -1 else 1
  | .inf s, _ => if s then -1 else 1
  | _, .inf t => if t then 1 else -1
  | x, y => (dyAdd x.dy (-(y.dy.1), y.dy.2)).1

def fLt (f a b : Nat) : Bool :=
  let x := fdec f a; let y := fdec f b
  !x.isNan && !y.isNan && decide (cmpVals x y < 0)
def fLe (f a b : Nat) : Bool :=
  let x := fdec f a; let y := fdec f b
  !x.isNan && !y.isNan && decide (cmpVals x y ≤ 0)
def fEq (f a b : Nat) : Bool :=
  let x := fdec f a; let y := fdec f b
  !x.isNan && !y.isNan && decide (cmpVals x y = 0)
def fUn (f a b : Nat) : Bool := (fdec f a).isNan || (fdec f b).isNan

/-- FMIN: -0 below +0; one NaN gives the other operand (R177). -/
def fMin (f a b : Nat) : Nat :=
  let x := fdec f a; let y := fdec f b
  if x.isNan then (if y.isNan then fmtNaN f else b)
  else if y.isNan then a
  else
    let c := cmpVals x y
    if c < 0 then a else if 0 < c then b else if x.isNeg then a else b

def fMax (f a b : Nat) : Nat :=
  let x := fdec f a; let y := fdec f b
  if x.isNan then (if y.isNan then fmtNaN f else b)
  else if y.isNan then a
  else
    let c := cmpVals x y
    if c < 0 then b else if 0 < c then a else if x.isNeg then b else a

/-- The class bit of R180. -/
def fClass (f a : Nat) : Nat :=
  match fdec f a with
  | .inf s => if s then 0 else 7
  | .nan => if f ≠ 4 ∧ a / 2 ^ (fmtM f - 1) % 2 = 0 then 8 else 9
  | .fin s m =>
    if m.isZero then (if s then 3 else 4)
    else if a / 2 ^ fmtM f % 2 ^ fmtE f = 0 then (if s then 2 else 5)
    else (if s then 1 else 6)

end Sys2Proof.Machine
end

