-- ==== Sys2Proof/Machine/Ops.lean ====
section
/-! DEFINITION. The named operations over a region that every family uses: reaching a tile, popping and emitting on
channels (R14-R16, R22, R218), the MT bytes with presence and poison (R81, R91), counters and pulses (R25-R27), and
raising a fabric trap: the one description of taking it (R24, R396-R401), and the return from it. -/

namespace Sys2Proof.Machine

/-! ## Reaching a tile -/

def Region.tile (r : Region) (key : Nat) : Tile := tget r.tiles {} key
def Region.setTile (r : Region) (key : Nat) (t : Tile) : Region := { r with tiles := tset r.tiles key t }
def Region.pl (r : Region) (key : Nat) : Plane := (r.tile key).act
def Region.setPl (r : Region) (key : Nat) (p : Plane) : Region := r.setTile key { r.tile key with act := p }
def Region.updPl (r : Region) (key : Nat) (f : Plane → Plane) : Region := r.setPl key (f (r.pl key))
def Region.updCt (r : Region) (key : Nat) (f : Ct → Ct) : Region := r.updPl key (fun p => { p with ct := f p.ct })
def Region.ct (r : Region) (key : Nat) : Ct := (r.pl key).ct
def Region.updU (r : Region) (key : Nat) (f : MtU → MtU) : Region := r.updPl key (fun p => { p with u := f p.u })
def Region.updIn (r : Region) (key inp : Nat) (f : Chan → Chan) : Region :=
  r.updPl key (fun p => { p with inp := tupd p.inp {} inp f })
def Region.chan (r : Region) (key inp : Nat) : Chan := tget (r.pl key).inp {} inp
def Region.updHnd (r : Region) (key h : Nat) (f : Hnd → Hnd) : Region :=
  r.updPl key (fun p => { p with hs := tupd p.hs {} h f })
def Region.hnd (r : Region) (key h : Nat) : Hnd := tget (r.pl key).hs {} h

/-- Mode code of an MT (R271); no record is TILE. -/
def planeMode (p : Plane) : Nat := fld (p.mode.getD 0 0) 63 60

/-- The region's tiles, in ascending LPAGE and POS. -/
def Region.keys (r : Region) : List Nat := r.tiles.map (·.1)

/-! ## Input channels (R14, R16) -/

/-- Places of an input channel: more while its tile has taken a marker (R411). -/
def chanCap (t : Tile) (inp : Nat) : Nat :=
  if inp < 8 then (if t.mark then Config.scalarCapMarked else Config.scalarCap)
  else (if t.mark then Config.vectorCapMarked else Config.vectorCap)

/-- The head of a channel's buffer as it stood at the start of the fc: none once it has been popped in this fc, and a token that arrived
in this fc is seen from the next (R21). -/
def Chan.front (c : Chan) : Option Token := if c.popped ≠ 0 ∨ c.buf.length ≤ c.came then none else c.buf.head?

/-- The token a trigger or a source sees: the head, unless it is a hardware control token (R16). -/
def Region.head (r : Region) (key inp : Nat) : Option Token := (r.chan key inp).front.filter (fun t => !tokHw t)

/-- Places free for a sender, counting those freed in this fc as still taken (R21). -/
def Region.inSpace (r : Region) (key inp : Nat) : Nat :=
  let c := r.chan key inp
  chanCap (r.tile key) inp - (c.buf.length + c.popped + c.wire.length)

/-- The Welt binding word of item k of a tile's active plane (R136). -/
def weltOf (p : Plane) (item : Nat) : Option Word := tfind p.welt item

/-- Pop the head of a channel. -/
def Region.popIn (r : Region) (key inp : Nat) : Region :=
  r.updIn key inp (fun c => { c with buf := c.buf.drop 1, popped := c.popped + 1 })

/-! ## Outputs (R14, R15, R126, R218) -/

/-- Destinations of an output: tile, input, added delay. -/
def outDests (p : Plane) (o : Nat) : List (Nat × Nat × Nat) :=
  (tget p.routes [] o).map (fun w => (keyOf (fld w 63 54) (fld w 53 50), fld w 49 46, fld w 43 38))

/-- The write stream that drains an output of a plane (R254). -/
def Region.drainOf (r : Region) (p : Plane) (key o : Nat) : Option Nat :=
  let sh := if p.shadow then 1 else 0
  (r.strms.find? (fun c => c.2.tile == key && c.2.plane == sh && bitOf (c.2.desc.getD 1 0) 63 && bitOf (c.2.desc.getD 1 0) 62
    && fld (c.2.desc.getD 1 0) 61 58 == o)).map (·.1)

/-- Places already promised on an output. -/
def resvOn (p : Plane) (o : Nat) : Nat := (p.outq.filter (fun e => e.outs.contains o)).length

/-- Whether an output has space for one more token (R14, R136, R254). -/
def Region.outSpace (r : Region) (key o : Nat) : Bool :=
  let p := r.pl key
  let n := resvOn p o
  if !(outDests p o).isEmpty then (outDests p o).all (fun d => decide (n < r.inSpace d.1 d.2.1))
  else if (weltOf p o).isSome then decide (n < tget p.credit 0 o)
  else
    match r.drainOf p key o with
    | some c => let st := tget r.strms {} c; st.st == 1 && !st.ended && decide (n + st.held.length < 1)
    | none => false

/-- Whether everything an output of a plane feeds can take a token now; a SWAP never waits at a write stream (R254). -/
def Region.hasRoom (r : Region) (p : Plane) (key o : Nat) (tok : Token) : Bool :=
  if !(outDests p o).isEmpty then (outDests p o).all (fun d => decide (0 < r.inSpace d.1 d.2.1))
  else if (weltOf p o).isSome then tokHw tok || decide (0 < tget p.credit 0 o)
  else
    match r.drainOf p key o with
    | some c => tokIsSwap tok || (tget r.strms {} c).held.isEmpty
    | none => true

/-- Put a token on everything an output of a plane feeds; it can arrive from the next fc on, DLY later (R126). A hardware control
token never enters a Welt link (R136); a write stream takes and discards a SWAP (R254). -/
def Region.sendOut (fc : Nat) (r : Region) (p : Plane) (key o : Nat) (tok : Token) : Region :=
  if !(outDests p o).isEmpty then
    (outDests p o).foldl (fun r d =>
      r.updIn d.1 d.2.1 (fun c => { c with wire := c.wire ++ [(fc + 1 + d.2.2, tok)] })) r
  else
    match weltOf p o with
    | some w =>
      if tokHw tok then r
      else
        { r.updPl key (fun p => { p with credit := tset p.credit o (tget p.credit 0 o - 1) }) with
          tx := r.tx ++ [(fld w 63 45, fld w 44 37, .tok tok)] }
    | none =>
      match r.drainOf p key o with
      | some c => if tokIsSwap tok then r else { r with strms := tupd r.strms {} c (fun st => { st with held := st.held ++ [tok] }) }
      | none => r

/-- Send what may go: an emission whose token is there, that waits behind no earlier one on any of its outputs, and that
all of them have room for. -/
def Region.drainList (fc : Nat) (key : Nat) (l : List Emit) (blocked : List Nat) (r : Region) : List Emit × Region :=
  match l with
  | [] => ([], r)
  | e :: rest =>
    let p := if e.old then (r.tile key).ins else r.pl key
    match e.tok with
    | some tok =>
      if e.outs.any (fun o => blocked.contains o || !r.hasRoom p key o tok) then
        let (l', r') := Region.drainList fc key rest (blocked ++ e.outs) r
        (e :: l', r')
      else
        Region.drainList fc key rest blocked
          (e.outs.foldl (fun r o => r.sendOut fc (if e.old then (r.tile key).ins else r.pl key) key o tok) r)
    | none =>
      let (l', r') := Region.drainList fc key rest (blocked ++ e.outs) r
      (e :: l', r')

def Region.drainOut (fc : Nat) (r : Region) (key : Nat) : Region :=
  let (l, r') := Region.drainList fc key (r.pl key).outq [] r
  r'.updPl key (fun p => { p with outq := l })

/-- Emit one token on outputs, in firing order (R15, R218). -/
def Region.emit (fc : Nat) (r : Region) (key : Nat) (outs : List Nat) (tok : Token) : Region :=
  if outs.isEmpty then r
  else (r.updPl key (fun p => { p with outq := p.outq ++ [{ op := 0, outs := outs, tok := some tok }] })).drainOut fc key

/-- Reserve a place for the result of operation `op` (R22). -/
def Region.reserve (r : Region) (key op : Nat) (outs : List Nat) : Region :=
  if outs.isEmpty then r
  else r.updPl key (fun p => { p with outq := p.outq ++ [{ op := op, outs := outs, tok := none }] })

/-- Fill the place of operation `op` (R22). -/
def Region.fill (fc : Nat) (r : Region) (key op : Nat) (tok : Token) : Region :=
  (r.updPl key (fun p => { p with outq := p.outq.map (fun e => if e.op = op then { e with op := 0, tok := some tok } else e) })).drainOut fc key

/-- Give up the place of operation `op` (R398). -/
def Region.unreserve (fc : Nat) (r : Region) (key op : Nat) : Region :=
  (r.updPl key (fun p => { p with outq := p.outq.filter (fun e => e.op ≠ op) })).drainOut fc key

/-! ## MT bytes (R71, R72, R81, R91, R122) -/

def Region.mtRead (r : Region) (a n : Nat) : Val :=
  { bits := BitVec.ofNat 64 (rdNat r.mt a n), pois := r.pois.contains (a / 8) }

/-- A store of n bytes: 8 bytes copy the poison; fewer leave a poisoned word poisoned and poison it when v is (R91). -/
def Region.mtWrite (r : Region) (a n : Nat) (v : Val) : Region :=
  { r with mt := wrNat r.mt a n v.bits.toNat,
           pois := nset r.pois (a / 8) (if n = 8 then v.pois else v.pois || r.pois.contains (a / 8)) }

/-- A store of the bytes of a mask in the aligned word at a (R89, R194). -/
def Region.mtMask (r : Region) (a : Nat) (m : Byte) (v : Val) : Region :=
  let old := rdNat r.mt a 8
  let new := (List.range 8).foldl (fun acc i => acc + (if m.getLsbD i then v.bits.toNat else old) / 2 ^ (8 * i) % 256 * 2 ^ (8 * i)) 0
  { r with mt := wrNat r.mt a 8 new,
           pois := nset r.pois (a / 8) (if m = 255 then v.pois else v.pois || r.pois.contains (a / 8)) }

/-- Eight words from an address, as values with poison. -/
def Region.mtWords (r : Region) (a n : Nat) : List Val := (List.range n).map (fun i => r.mtRead (a + 8 * i) 8)

/-! ## Counters and pulses (R25-R27) -/

/-- Limit of a counter (R25): 0 in the record means 2^32. -/
def kLim (cfg : Word) : Nat := if fld cfg 63 32 = 0 then 2 ^ 32 else fld cfg 63 32

/-- A counter as it stands: after load a RUN counter runs, an ARMED one waits (R25). -/
def kGet (c : Ct) (n : Nat) : Ctr := tget c.k { val := 0, run := !bitOf (tget c.kcfg 0 n) 27 } n

/-- The flag of a counter (R26), mirrored in p12-p15. -/
def kFlag (c : Ct) (n : Nat) : Bool :=
  (kGet c n).run && decide ((kGet c n).val.toNat + 1 = kLim (tget c.kcfg 0 n))

/-- All sixteen predicates (R17). -/
def predOf (c : Ct) (i : Nat) : Bool := if i < 12 then c.p.getLsbD i else kFlag c (i - 12)

/-- A pulse sent on control output co enters the control network towards every input it is routed to (R129). -/
def Region.pulseOut (r : Region) (key co : Nat) : Region :=
  (tget (r.pl key).croute [] co).foldl (fun r w =>
    r.updCt (keyOf (fld w 63 54) (fld w 53 50)) (fun c =>
      { c with ciNet := tset c.ciNet (fld w 49 48) (tget c.ciNet 0 (fld w 49 48) + 1) })) r

/-- One increment of counter n with its carries and finish pulses (R26); whether it wrapped. -/
def Region.kInc (fuel : Nat) (r : Region) (key n : Nat) : Region × Bool :=
  match fuel with
  | 0 => (r, false)
  | f + 1 =>
    let c := r.ct key
    let x := kGet c n
    let cfg := tget c.kcfg 0 n
    if !x.run then (r, false)
    else if x.val.toNat + 1 = kLim cfg then
      let r := r.updCt key (fun c => { c with k := tset c.k n { val := 0, run := !bitOf cfg 24 } })
      let r := [1, 2, 3].foldl (fun r m =>
        let mc := tget c.kcfg 0 m
        if n < m ∧ fld mc 31 30 = 1 ∧ fld mc 29 28 = n then (Region.kInc f r key m).1 else r) r
      (if bitOf cfg 23 then r.pulseOut key (fld cfg 22 21) else r, true)
    else (r.updCt key (fun c => { c with k := tset c.k n { x with val := x.val + 1 } }), false)

/-- Offer one pending pulse of input ci to the counters that name it, in ascending number, each as it stands at its turn (R27). DESIGN CHOICE (log 47): where the
only counters that name the input are ARMED ones whose PULSE source it is and whose start is another input, the pulse acts on none and
stays pending; the rule does not name that case. -/
def Region.offerPulse (r : Region) (key ci : Nat) : Region :=
  let c := r.ct key
  let pend := tget c.ci 0 ci
  if pend = 0 ∨ c.ciDone.contains ci then r
  else
    let names := [0, 1, 2, 3].filter (fun n =>
      let cfg := tget c.kcfg 0 n
      (fld cfg 31 30 == 2 && fld cfg 29 28 == ci) || (bitOf cfg 27 && fld cfg 26 25 == ci))
    let x := names.foldl (fun (x : Region × Bool) n =>
      let c := x.1.ct key
      let cfg := tget c.kcfg 0 n
      if !(kGet c n).run then
        (if bitOf cfg 27 && fld cfg 26 25 == ci then
          (x.1.updCt key (fun c => { c with k := tset c.k n { val := 0, run := true } }), true) else x)
      else if fld cfg 31 30 == 2 && fld cfg 29 28 == ci then ((Region.kInc 4 x.1 key n).1, true) else x) (r, false)
    x.1.updCt key (fun c => { c with ciDone := ci :: c.ciDone, ci := if x.2 || names.isEmpty then tset c.ci ci (pend - 1) else c.ci })

/-- A pulse waiting in the network enters the pending count, if that stands below 15 (R27). -/
def Region.pulseArrive (r : Region) (key ci : Nat) : Region :=
  let c := r.ct key
  if tget c.ciNet 0 ci = 0 ∨ 15 ≤ tget c.ci 0 ci then r
  else r.updCt key (fun c => { c with ciNet := tset c.ciNet ci (tget c.ciNet 0 ci - 1), ci := tset c.ci ci (tget c.ci 0 ci + 1) })

/-! ## Fabric traps (R24, R396-R400) -/

/-- What a trap says of itself (R399, R400). -/
structure TrapInfo where
  code : Nat
  src  : Nat := 0
  key  : Nat := 0
  slot : Nat := 0
  elem : Nat := 0
  va   : Nat := 0
  aux  : Nat := 0
  capx : Option Nat := none
  tiw  : Word := 0
  unit : Nat := 0
  nmem : Nat := 0
  more : List Word := []

/-- The fault record of R399; a parked member's units lie in the Insole plane (R358). -/
def recOf (r : Region) (t : TrapInfo) : Rec :=
  let first := r.frzReq.isNone && (r.st == rRunning || r.st == rIdle)
  let w0 := t.code * 2 ^ 57 + t.src * 2 ^ 54 + r.part * 2 ^ 48 + r.rid * 2 ^ 36 + keyPage t.key * 2 ^ 26
    + keyPos t.key * 2 ^ 22 + t.slot * 2 ^ 18 + (if first then 2 ^ 16 else 0) + (if r.active then 0 else 2 ^ 17)
    + (match t.capx with | some c => c * 2 ^ 8 + 2 ^ 7 | none => 0) + t.nmem
  { w := [BitVec.ofNat 64 w0, BitVec.ofNat 64 t.elem, BitVec.ofNat 64 t.va, BitVec.ofNat 64 t.aux, t.tiw, r.rcyc,
          BitVec.ofNat 64 (t.unit % 2 ^ 16), 0], more := t.more }

/-- TAKING A FABRIC TRAP: its record is written for delivery, and a region that runs or is idle is asked to freeze with
FRZ 01 (R396, R397, R401). -/
def Region.raise (r : Region) (t : TrapInfo) : Region :=
  { r with recs := r.recs ++ [recOf r t],
           frzReq := if r.st == rRunning || r.st == rIdle then some (r.frzReq.getD 1) else r.frzReq }

/-- THE RETURN FROM A FREEZE (R325, R403): to IDLE when the region froze while IDLE, else to RUNNING. -/
def Region.resume (r : Region) : Region :=
  if r.fidl then { r with st := rIdle, fidl := false, frz := 0, settled := false, cut := false }
  else { r with st := rRunning, frz := 0, settled := false, cut := false }

end Sys2Proof.Machine
end

