-- ==== Sys2Proof/Machine/Operands.lean ====
section
/-! DEFINITION. Every operand form of a PE instruction: what the selectors read (R108-R110, R113), what an instruction
needs before it is ready (R19), triggers (R18, R105, R106), and the colour of what it emits (R33). -/

namespace Sys2Proof.Machine

/-! ## Sources -/

/-- A scalar source (R108); an empty channel reads 0, and is never read by a ready slot. -/
def srcS (r : Region) (key : Nat) (t : Ti) (sel : BitVec 5) : Val :=
  let n := sel.toNat
  if n ≤ 13 then tget (r.ct key).g {} n
  else if n = 14 then { bits := t.imm.signExtend 64 }
  else if n = 15 then {}
  else match r.head key (n % 8) with
    | some tok => tokVal tok
    | none => {}

/-- Lanes of a format (R181). -/
def laneCount (f : Nat) : Nat := match fmtW f with | 64 => 8 | 32 => 16 | 16 => 32 | 8 => 64 | 6 => 64 | _ => 128

/-- Lane i of a vector (R49, R181). -/
def lane (f : Nat) (v : BitVec 512) (i : Nat) : Nat := v.toNat / 2 ^ (i * fmtW f) % 2 ^ fmtW f

/-- A vector from its lanes, lane 0 first. -/
def ofLanes (f : Nat) (ls : List Nat) : BitVec 512 :=
  BitVec.ofNat 512 (ls.foldr (fun x acc => x % 2 ^ fmtW f + 2 ^ fmtW f * acc) 0)

/-- The 64-bit words that hold a bit of lane i. -/
def laneWords (f i : Nat) : List Nat :=
  let a := i * fmtW f / 64
  let b := (i * fmtW f + fmtW f - 1) / 64
  if a = b then [a] else [a, b]

/-- A lane is poisoned when a word that holds one of its bits is (R181). -/
def lanePois (f : Nat) (v : VVal) (i : Nat) : Bool := (laneWords f i).any (fun k => v.pois.getLsbD k)

/-- A vector source (R109): register, channel, a general register in every lane, or zero. -/
def srcV (r : Region) (key f : Nat) (sel : BitVec 5) : VVal :=
  let n := sel.toNat
  if n ≤ 7 then tget (r.ct key).v {} n
  else if n ≤ 15 then
    match r.head key (8 + n % 4) with
    | some tok => tokVVal tok
    | none => {}
  else if n ≤ 29 then
    let g := tget (r.ct key).g {} (n - 16)
    { bits := ofLanes f (List.replicate (laneCount f) g.bits.toNat), pois := if g.pois then 0xFF else 0 }
  else {}

/-- The channel a selector reads, and whether it pops (R108, R109). -/
def selChanOf (cls : Cls) (sel : BitVec 5) : Option (Nat × Bool) :=
  let n := sel.toNat
  match cls with
  | .vector => if 8 ≤ n ∧ n ≤ 11 then some (n, true) else if 12 ≤ n ∧ n ≤ 15 then some (n - 4, false) else none
  | .tensor => none
  | _ => if 16 ≤ n ∧ n ≤ 23 then some (n - 16, true) else if 24 ≤ n then some (n - 24, false) else none

/-- OPs whose SB field is no selector (R175, R184). -/
def sbIsField (op : Nat) : Bool := op == 0x54 || op == 0x55 || op == 0x56 || op == 0x6C

def aChan (op : Nat) (t : Ti) : Option (Nat × Bool) := selChanOf (clsOf op) t.sa
def bChan (op : Nat) (t : Ti) : Option (Nat × Bool) := if sbIsField op then none else selChanOf (clsOf op) t.sb

/-- Channels popped, each once (R113). -/
def popsOf (op : Nat) (t : Ti) : List Nat :=
  let l := ([aChan op t, bChan op t].filterMap id).filter (fun c => c.2)
  (l.map (·.1)).eraseDups

/-- Outputs a destination names (R15, R108, R109). -/
def outsOf (op : Nat) (t : Ti) : List Nat :=
  let n := t.dst.toNat
  match clsOf op with
  | .vector => if 8 ≤ n ∧ n ≤ 11 then [n] else []
  | .tensor => []
  | _ => if 16 ≤ n ∧ n ≤ 23 then [n - 16] else if n = 24 then [0, 1, 2, 3] else if n = 25 then [4, 5, 6, 7] else []

/-- The channel of a condition (R106). -/
def condChan (op : Nat) (c : Cond) : Nat :=
  let n := c.ch.toNat
  match clsOf op with
  | .vector => if n < 4 then 8 + n else n
  | .tensor => if n < 4 then 8 + n else n
  | _ => n

/-- The colour source's colour (R33). -/
def colourOf (r : Region) (key op : Nat) (t : Ti) : BitVec 10 :=
  let ch := match aChan op t, bChan op t with
    | some (c, _), _ => some c
    | none, some (c, _) => some c
    | none, none => if t.cc.en = 1 then some (condChan op t.cc) else if t.cd.en = 1 then some (condChan op t.cd) else none
  match ch with
  | none => 0
  | some c => match r.head key c with | some tok => tok.col | none => 0

/-! ## Triggers (R18, R105) -/

def litHolds (c : Ct) (l : Lit) : Bool := l.en == 0 || predOf c l.p.toNat == (l.val == 1)

/-- A mark test (R105); only software C tokens pass CTRL (R16). -/
def markTest (m : BitVec 2) (tok : Token) : Bool :=
  match m.toNat with
  | 0 => tok.mark == mkD || tok.mark == mkL
  | 1 => tok.mark == mkL
  | 2 => tok.mark == mkE
  | _ => tok.mark == mkC && !tokHw tok

def condHolds (r : Region) (key op : Nat) (c : Cond) : Bool :=
  c.en == 0 || (match r.head key (condChan op c) with | some tok => markTest c.mt tok | none => false)

def triggered (r : Region) (key op : Nat) (t : Ti) : Bool :=
  litHolds (r.ct key) t.la && litHolds (r.ct key) t.lb && condHolds r key op t.cc && condHolds r key op t.cd

/-! ## Tensor descriptors (R64, R130, R196, R208) -/

def tdOf (r : Region) (key : Nat) (t : Ti) : Word := tget (r.ct key).td 0 (t.imm.toNat % 8)
def tdA (d : Word) : Nat := fld d 63 60
def tdB (d : Word) : Nat := fld d 59 56
/-- Depth K of one MMA (R64). -/
def fmtK (f : Nat) : Nat :=
  match f with | 0 => 4 | 1 => 8 | 2 => 16 | 3 => 16 | 4 => 32 | 5 => 32 | 6 => 64 | 7 => 64 | 8 => 64 | 9 => 32 | 10 => 32 | _ => 64
def tdK (d : Word) : Nat := fmtK (tdA d)
def tdFp64 (d : Word) : Bool := tdA d == 0
/-- Kept unit u and groups g per row of a sparse operand (R208). -/
def tdU (d : Word) : Nat := if fld d 55 54 = 1 then 4 else 8
def tdG (d : Word) : Nat := tdK d / tdU d
/-- Metadata tokens of one MMAS (R208). -/
def tdTm (d : Word) : Nat := (16 * tdG d + 63) / 64

/-- How an MMAS may fire (R209): a whole group of t tokens (and whether the last is L), the stop form, or the k tokens
ahead of an E token. -/
inductive Meta where
  | group (last : Bool)
  | stop
  | short (k : Nat)
deriving DecidableEq, Repr

def metaOf (buf : List Token) (tm : Nat) : Option Meta :=
  let l := buf.take tm
  if l.any tokHw then none
  else
    match l.findIdx? (fun t => t.mark == mkE) with
    | some 0 => some .stop
    | some k => some (.short k)
    | none => if l.length = tm then some (.group ((l.getLast?.map (fun t => t.mark == mkL)).getD false)) else none

def tdMeta (r : Region) (key : Nat) (t : Ti) : Option Meta :=
  let d := tdOf r key t
  metaOf (r.chan key (fld d 41 39)).buf (tdTm d)

/-! ## Handles named by an instruction -/

/-- A requirement on a handle of a neighbour MT: a state, or a claim for drain or for fill from a side (R86, R87). -/
inductive HReq where
  | is (key h : Nat) (st : BitVec 2)
  | claim (key h side : Nat) (fill : Bool)
  | never
deriving DecidableEq, Repr

/-- The MT and handle of a handle selector (R110). -/
def hselOf (r : Region) (key sel : Nat) : Option (Nat × Nat) :=
  (neighbour r.w r.h key (sel / 8 % 4)).map (fun k => (k, sel % 8))

def reqFull (r : Region) (key sel : Nat) : HReq :=
  match hselOf r key sel with | some (k, h) => .is k h hFull | none => .never
def reqIs (r : Region) (key sel : Nat) (st : BitVec 2) : HReq :=
  match hselOf r key sel with | some (k, h) => .is k h st | none => .never
def reqClaim (r : Region) (key sel : Nat) (fill : Bool) : HReq :=
  match hselOf r key sel with | some (k, h) => .claim k h (claimSide (sel / 8 % 4)) fill | none => .never

/-- The handle requirements of an instruction (R201, R228). -/
def hreqsOf (r : Region) (key op : Nat) (t : Ti) : List HReq :=
  let i := t.imm.toNat
  let a := t.sa.toNat
  let b := t.sb.toNat
  let ra := t.imm.getLsbD 4
  let rb := t.imm.getLsbD 5
  let d := tdOf r key t
  let two : List HReq :=
    if a = b then [if ra || rb then reqClaim r key a false else reqFull r key a]
    else [if ra then reqClaim r key a false else reqFull r key a, if rb then reqClaim r key b false else reqFull r key b]
  match op with
  | 0xA0 => two
  | 0xA1 => if tdMeta r key t = some .stop then [] else two
  | 0xA2 => two ++ [reqFull r key (fld d 51 47), reqFull r key (fld d 46 42)]
  | 0xA4 => [reqIs r key a hFilling]
  | 0xA5 => [if ra then reqClaim r key a false else reqFull r key a]
  | 0xA6 => [if ra then reqClaim r key a false else reqFull r key a]
  | 0xA7 => [if ra then reqClaim r key a false else reqFull r key a]
  | 0xD4 => [reqIs r key (i % 32) (BitVec.ofNat 2 (i / 32))]
  | 0xD6 => [reqClaim r key (i % 32) (!t.imm.getLsbD 5)]
  | _ => []

/-- How strictly a requirement is judged: really, with claims assumed granted (R87), or waived. -/
inductive Judge where
  | real | assumed | waived
deriving DecidableEq, Repr

def hreqMet (r : Region) (j : Judge) (q : HReq) : Bool :=
  match j, q with
  | .waived, _ => true
  | _, .never => false
  | _, .is k h st => (r.hnd k h).st == st
  | .assumed, .claim k h _ fill => (r.hnd k h).st == (if fill then hFree else hFull)
  | .real, .claim k h side fill => (r.hnd k h).st == (if fill then hFree else hFull) && (r.hnd k h).grant == some side

/-! ## Readiness (R19) -/

/-- General registers an instruction reads. -/
def gReads (op : Nat) (t : Ti) : List Nat :=
  let a := t.sa.toNat
  let b := t.sb.toNat
  match clsOf op with
  | .tensor => []
  | .vector => (if 16 ≤ a ∧ a ≤ 29 then [a - 16] else []) ++ (if !sbIsField op ∧ 16 ≤ b ∧ b ≤ 29 then [b - 16] else [])
  | _ => (if a ≤ 13 then [a] else []) ++ (if !sbIsField op ∧ b ≤ 13 then [b] else [])
      ++ (if op = 0xE0 then [t.imm.toNat % 16] else [])

/-- General registers an instruction writes (SPAWN also writes g13, R164). -/
def gWrites (op : Nat) (t : Ti) : List Nat :=
  let d := t.dst.toNat
  match clsOf op with
  | .tensor => []
  | .vector => if 16 ≤ d ∧ d ≤ 29 then [d - 16] else []
  | _ => (if d ≤ 13 then [d] else []) ++ (if op = 0x38 then [13] else [])

/-- Vector registers read or written; v7 as the lane mask (R109). -/
def vUses (op : Nat) (t : Ti) : List Nat :=
  match clsOf op with
  | .vector =>
    ([t.sa.toNat, t.dst.toNat] ++ (if sbIsField op then [] else [t.sb.toNat])).filter (fun n => decide (n ≤ 7))
      ++ (if mskOf t || op = 0x79 then [7] else [])
  | _ => []

/-- Accumulators an instruction uses: the pair under an FP64 descriptor (R110, R203). -/
def accUses (r : Region) (key op : Nat) (t : Ti) : List Nat :=
  match clsOf op with
  | .tensor =>
    let d := t.dst.toNat % 4
    if op ≠ 0xA3 ∧ tdFp64 (tdOf r key t) = true then [d, d + 1] else [d]
  | _ => []

/-- Operations that use the memory port (R218). -/
def usesPort (op : Nat) : Bool :=
  op == 0x83 || op == 0x84 || (decide (0xC0 ≤ op) && decide (op ≤ 0xDF)) || (decide (0xEB ≤ op) && decide (op ≤ 0xED))
    || (decide (0xF0 ≤ op) && decide (op ≤ 0xF4))

/-- Instructions that access memory, for FENCE (R230). -/
def accessesMem (op : Nat) : Bool :=
  op == 0x83 || op == 0x84 || (decide (0xA0 ≤ op) && decide (op ≤ 0xA7) && op != 0xA3) || (decide (0xC0 ≤ op) && decide (op ≤ 0xD3))
    || (decide (0xDA ≤ op) && decide (op ≤ 0xED)) || op == 0xF0

/-- Blocking operations (R22, R219). -/
def blocks (op : Nat) (t : Ti) : Bool := op == 0xC4 || op == 0xC7 || op == 0xDE || op == 0xEC || (op == 0xDD && t.imm.getLsbD 0)

/-- OPs of one non-pipelined unit: an operation of it in progress keeps the others from being ready (R146, R176, R183, R203). -/
def unitOf (op : Nat) : Nat :=
  if 0x09 ≤ op ∧ op ≤ 0x0C then 1
  else if op = 0x46 ∨ op = 0x47 ∨ op = 0x4E ∨ op = 0x4F then 2
  else if op = 0x80 ∨ op = 0x81 then 3
  else if 0xA0 ≤ op ∧ op ≤ 0xA7 then 4
  else 0

def opsList (c : Ct) : List PendOp := c.ops.map (·.2)

/-- The functional unit and the memory port can accept the operation (R19 item 5, R218, R230). SCOPY waits while the
region has 64 copies in flight (R267). -/
def unitFree (r : Region) (key op : Nat) (t : Ti) : Bool :=
  let ops := opsList (r.ct key)
  let stop := op == 0xA1 && tdMeta r key t == some .stop
  (unitOf op == 0 || stop || ops.all (fun o => unitOf o.code != unitOf op))
    && (!usesPort op || decide ((ops.filter (fun o => usesPort o.code)).length < Config.memPort))
    && (!accessesMem op || stop || ops.all (fun o => o.code != 0xD9))
    && (op != 0xE9 || decide (r.copies.length < 64))

/-- R19 items 1-8 for slot `slot`, with handles (item 3) and colours (item 8) judged as told. -/
def needsMet (hj cj : Judge) (r : Region) (key slot op : Nat) (t : Ti) : Bool :=
  let c := r.ct key
  let ops := opsList c
  ([aChan op t, bChan op t].filterMap id).all (fun x => (r.head key x.1).isSome)
    && (outsOf op t).all (fun o => r.outSpace key o)
    && (hreqsOf r key op t).all (hreqMet r hj)
    && (op != 0x36 || (kGet c (t.imm.toNat % 4)).run)
    && unitFree r key op t
    && (gReads op t ++ gWrites op t).all (fun n => !c.pg.getLsbD n)
    && (vUses op t).all (fun n => !c.pv.getLsbD n)
    && (accUses r key op t).all (fun n => !c.pacc.getLsbD n)
    && (t.puo == 0 || !c.pp.getLsbD t.pui.toNat)
    && ops.all (fun o => o.slot != slot || !blocks o.code o.ti)
    && (op != 0x38 ||
        (match cj with
         | .waived => true
         | .assumed => !r.pool.isEmpty
         | .real => (tfind r.grants (key * 16 + slot)).isSome))
    && (op != 0xA1 || (tdMeta r key t).isSome)

/-- The slot is ready (R18, R19). -/
def slotReady (r : Region) (key slot op : Nat) (t : Ti) : Bool :=
  triggered r key op t && needsMet .real .real r key slot op t

/-- A word in a slot, if valid (R104, R138). -/
def slotTi (r : Region) (key slot : Nat) : Option (Nat × Ti) :=
  let w := tget (r.ct key).slots 0 slot
  if validOf w then some ((opOf w).toNat, tiOf w) else none

def wordReady (r : Region) (key slot : Nat) : Bool :=
  match slotTi r key slot with
  | some (op, t) => slotReady r key slot op t
  | none => false

/-- The arbiter (R20): the slot it fires, FIXED or ROTATE. -/
def arbiter (r : Region) (key : Nat) : Option Nat :=
  let c := r.ct key
  let rot := bitOf c.mode 60
  if rot then
    ((List.range 8) ++ (List.range 8).map (fun i => 8 + (c.arb - 8 + i) % 8)).find? (fun s => wordReady r key s)
  else (List.range 16).find? (fun s => wordReady r key s)

/-- The region's PEs may fire at a tile: running and resident, its run not complete, no freeze begun, the tile not marked,
not taking a SWAP, and not yet fired in this fc (R20, R39, R401, R405, R410). -/
def tileLive (r : Region) (key : Nat) : Bool :=
  let t := r.tile key
  r.st == rRunning && r.res && !r.parked && !t.mark && t.swBusy.isNone && !t.act.ct.fired && !t.act.ct.halted && keyIsCt key

end Sys2Proof.Machine
end

