-- ==== Sys2Proof/Machine/Flags.lean ====
section
/-! DEFINITION. Predicate updates and the condition they take (R22, R115), and delivering a result to its destination
(R145, R182). -/

namespace Sys2Proof.Machine

/-- The predicate update of an instruction (R115): PUO 01 writes cond, 10 one, 11 zero. -/
def predUpd (c : Ct) (t : Ti) (cond : Bool) : Ct :=
  match t.puo.toNat with
  | 0 => c
  | 1 => { c with p := if cond then c.p ||| (1#12 <<< t.pui.toNat) else c.p &&& ~~~(1#12 <<< t.pui.toNat) }
  | 2 => { c with p := c.p ||| (1#12 <<< t.pui.toNat) }
  | _ => { c with p := c.p &&& ~~~(1#12 <<< t.pui.toNat) }

/-- cond of an instruction without a test: the result is not 0 (R22, R150). -/
def condNz (v : Val) : Bool := v.bits != 0

def setG (c : Ct) (n : Nat) (v : Val) : Ct := { c with g := tset c.g n v }
def setV (c : Ct) (n : Nat) (v : VVal) : Ct := { c with v := tset c.v n v }

/-- Deliver a scalar result at once: the general register, or a token with mark and colour (R145). -/
def deliverS (fc : Nat) (r : Region) (key op : Nat) (t : Ti) (v : Val) (mark : BitVec 2) (col : BitVec 10) : Region :=
  if t.dst.toNat ≤ 13 then r.updCt key (fun c => setG c t.dst.toNat v)
  else r.emit fc key (outsOf op t) (tokS v mark col)

/-- Deliver a vector result at once: the vector register, a token, or a general register from lane 0's word (R182). -/
def deliverV (fc : Nat) (r : Region) (key op : Nat) (t : Ti) (v : VVal) (col : BitVec 10) : Region :=
  let d := t.dst.toNat
  if d ≤ 7 then r.updCt key (fun c => setV c d v)
  else if 16 ≤ d then r.updCt key (fun c => setG c (d - 16) { bits := vword v.bits 0, pois := v.pois.getLsbD 0 })
  else r.emit fc key (outsOf op t) (tokV v t.om col)

end Sys2Proof.Machine
end

