-- ==== Sys2Proof/Machine/Fire.lean ====
section
/-! DEFINITION. The frame of every firing (R20-R24, R145): readiness, the trap that cancels it, pops, the arbiter pointer;
starting a long operation and its completion or failure (R22, R23, R398). -/

namespace Sys2Proof.Machine

/-- Where a PE instruction runs: tile, slot, the fc, and whether the commits of the fc have begun (log 2). -/
structure At where
  key    : Nat
  slot   : Nat
  fc     : Nat
  ending : Bool

/-- The pointer of ROTATE after slot n fires (R20). -/
def arbNext (c : Ct) (n : Nat) : Nat := if bitOf c.mode 60 && decide (8 ≤ n) then (if n = 15 then 8 else n + 1) else c.arb

/-- The end of a firing: the named channels are popped, the pointer moves, the PE has fired in this fc. -/
def afterFire (x : At) (pops : List Nat) (r : Region) : Region :=
  (pops.foldl (fun r i => r.popIn x.key i) r).updCt x.key (fun c =>
    { c with fired := true, firedN := some x.slot, arb := arbNext c x.slot, hold := tdel c.hold x.slot })

/-- The word of the slot that fires, for the record (R399). -/
def slotWord (r : Region) (x : At) : Word := tget (r.ct x.key).slots 0 x.slot

/-- Whether the slot fires now. -/
def canFire (x : At) (op : Nat) (t : Ti) (r : Region) : Bool :=
  !x.ending && tileLive r x.key && slotReady r x.key x.slot op t

/-- THE FRAME OF A FIRING. Not ready: no effect (R19). Ready: the act gives the region after its writes, or a trap that
cancels the firing (R24). -/
def fire (x : At) (op : Nat) (t : Ti) (pops : List Nat) (act : Region → Except TrapInfo Region) (r : Region) : Region :=
  if canFire x op t r then
    match act r with
    | .error e =>
      (r.raise { e with key := x.key, slot := x.slot, src := 0, tiw := slotWord r x }).updCt x.key
        (fun c => { c with fired := true, halted := true })
    | .ok r' => afterFire x pops r'
  else r

/-- Operands of a scalar or memory-class instruction, and the old value of its destination register (R145). -/
structure Opnds where
  a : Val
  b : Val
  d : Val

def opndsOf (r : Region) (key op : Nat) (t : Ti) : Opnds :=
  { a := srcS r key t t.sa, b := if sbIsField op then {} else srcS r key t t.sb, d := tget (r.ct key).g {} t.dst.toNat }

def poisonTrap : TrapInfo := { code := 0x21 }

/-- A single-cycle scalar instruction: result, cond and colour from its operands. -/
def fireScalar (x : At) (op : Nat) (t : Ti) (f : Region → Opnds → Except TrapInfo (Val × Bool)) (r : Region) : Region :=
  fire x op t (popsOf op t) (fun r =>
    match f r (opndsOf r x.key op t) with
    | .error e => .error e
    | .ok (v, cond) =>
      .ok ((deliverS x.fc r x.key op t v t.om (colourOf r x.key op t)).updCt x.key (fun c => predUpd c t cond))) r

/-- An instruction that consumes a and b (R147): poison in either traps; cond is r ≠ 0. -/
def fireAlu (x : At) (op : Nat) (t : Ti) (f : Word → Word → Word) (r : Region) : Region :=
  fireScalar x op t (fun _ o =>
    if o.a.pois || o.b.pois then .error poisonTrap
    else .ok ({ bits := f o.a.bits o.b.bits }, f o.a.bits o.b.bits != 0)) r

/-- A compare or test (R153): r and cond are the test. -/
def fireCmp (x : At) (op : Nat) (t : Ti) (f : Word → Word → Bool) (r : Region) : Region :=
  fireScalar x op t (fun _ o =>
    if o.a.pois || o.b.pois then .error poisonTrap
    else .ok ({ bits := wofb (f o.a.bits o.b.bits) }, f o.a.bits o.b.bits)) r

/-! ## Long operations -/

/-- Set or clear bits of a mark by a list of numbers. -/
def markBits {w : Nat} (m : BitVec w) (l : List Nat) (b : Bool) : BitVec w :=
  l.foldl (fun m i => if b then m ||| (BitVec.ofNat w (2 ^ i)) else m &&& ~~~(BitVec.ofNat w (2 ^ i))) m

/-- Vector register a long operation writes. -/
def vWrites (op : Nat) (t : Ti) : List Nat :=
  match clsOf op with | .vector => if t.dst.toNat ≤ 7 then [t.dst.toNat] else [] | _ => []

/-- The general register a long operation writes: SCAT names its data register and writes none (R222). -/
def gPends (op : Nat) (t : Ti) : List Nat := if op = 0xD3 then [] else gWrites op t

/-- Pending marks of the destination and the updated predicate (R22). -/
def pendMarks (r : Region) (key op : Nat) (t : Ti) (b : Bool) (c : Ct) : Ct :=
  { c with pg := markBits c.pg (gPends op t) b, pv := markBits c.pv (vWrites op t) b,
           pacc := markBits c.pacc (accUses r key op t) b,
           pp := if t.puo = 0 then c.pp else markBits c.pp [t.pui.toNat] b }

/-- Start a long operation: its place in the output, its marks, and the operation itself under a fresh number. -/
def startOp (x : At) (op : Nat) (t : Ti) (o : PendOp) (r : Region) : Region :=
  let id := r.seq
  let r := r.reserve x.key id (if op = 0xD3 then [] else outsOf op t)
  let r := r.updCt x.key (fun c =>
    let c := pendMarks r x.key op t true c
    { c with ops := tset c.ops id { o with slot := x.slot, code := op, ti := t, seq := id } })
  { r with seq := id + 1 }

/-- Fire a long operation of fixed latency (R146): it completes at the end of fc t + lat - 1. -/
def fireLong (x : At) (op : Nat) (t : Ti) (lat : Nat) (f : Region → Opnds → Except TrapInfo PendOp) (r : Region) : Region :=
  fire x op t (popsOf op t) (fun r =>
    match f r (opndsOf r x.key op t) with
    | .error e => .error e
    | .ok o => .ok (startOp x op t { o with due := some (x.fc + lat - 1), col := colourOf r x.key op t } r)) r

/-- A long operation whose result is fixed when it fires. -/
def fireLongVal (x : At) (op : Nat) (t : Ti) (lat : Nat) (f : Opnds → Except TrapInfo Val) (r : Region) : Region :=
  fireLong x op t lat (fun _ o =>
    match f o with
    | .error e => .error e
    | .ok v => .ok { res := v, cond := v.bits != 0 }) r

/-- A long integer operation that consumes its operands (R147). -/
def fireLongAlu (x : At) (op : Nat) (t : Ti) (lat : Nat) (f : Word → Word → Word) (r : Region) : Region :=
  fireLongVal x op t lat (fun o =>
    if o.a.pois || o.b.pois then .error poisonTrap else .ok { bits := f o.a.bits o.b.bits }) r

/-- An operation of a tile, if pending: of its active plane, or of one that was exchanged while the operation was pending (log 52). -/
def Region.op? (r : Region) (key id : Nat) : Option PendOp :=
  match tfind (r.ct key).ops id with
  | some o => some o
  | none => tfind (r.tile key).ins.ct.ops id

/-- A pending operation of a tile is replaced, in the plane it stands in. -/
def Region.setOp (r : Region) (key id : Nat) (o : PendOp) : Region :=
  match tfind (r.ct key).ops id, tfind (r.tile key).ins.ct.ops id with
  | none, some _ =>
    let t := r.tile key
    r.setTile key { t with ins := { t.ins with ct := { t.ins.ct with ops := tset t.ins.ct.ops id o } } }
  | _, _ => r.updCt key (fun c => { c with ops := tset c.ops id o })

/-- The planes of a tile change places, with nothing of theirs. -/
def flipTile (key : Nat) (r : Region) : Region :=
  let t := r.tile key
  r.setTile key { t with act := t.ins, ins := t.act }

/-- Take an operation off its tile: its marks, its accesses and its slot's hold are gone. -/
def dropOp (r : Region) (key id : Nat) (o : PendOp) : Region :=
  let r := r.updCt key (fun c =>
    let c := pendMarks r key o.code o.ti false c
    { c with ops := tdel c.ops id, hold := tdel c.hold o.slot })
  { r with flight := r.flight.filter (fun a => match a.2.own with | .pe k i _ => !(k == key && i == id) | _ => true) }

/-- Completion of a scalar-class or memory operation (R22, R217). -/
def completeS (fc : Nat) (r : Region) (key id : Nat) (o : PendOp) (v : Val) (cond : Bool) : Region :=
  let r := dropOp r key id o
  let r := if (gPends o.code o.ti).isEmpty then r.fill fc key id (tokS v o.ti.om o.col)
    else r.updCt key (fun c => setG c o.ti.dst.toNat v)
  r.updCt key (fun c => predUpd c o.ti cond)

/-- Completion of a vector operation (R22, R182). -/
def completeV (fc : Nat) (r : Region) (key id : Nat) (o : PendOp) (v : VVal) (cond : Bool) : Region :=
  let r := dropOp r key id o
  let d := o.ti.dst.toNat
  let r := if d ≤ 7 then r.updCt key (fun c => setV c d v)
    else if 16 ≤ d then r.updCt key (fun c => setG c (d - 16) { bits := vword v.bits 0, pois := v.pois.getLsbD 0 })
    else r.fill fc key id (tokV v o.ti.om o.col)
  r.updCt key (fun c => predUpd c o.ti cond)

/-- A long operation that traps at completion performs no completion effect (R398). -/
def failOp (fc : Nat) (r : Region) (key id : Nat) (o : PendOp) (e : TrapInfo) : Region :=
  let w := tget (r.ct key).slots 0 o.slot
  ((dropOp r key id o).unreserve fc key id).raise { e with key := key, slot := o.slot, src := 0, tiw := w }

end Sys2Proof.Machine
end

