-- ==== Sys2Proof/Machine/Pe.lean ====
section
/-! DEFINITION. The PE instruction of the current slot acts on its region and on nothing else of the state. -/

namespace Sys2Proof.Machine

def State.region (s : State) (rid : Nat) : Region := tget s.regions {} rid
def State.setRegion (s : State) (rid : Nat) (r : Region) : State := { s with regions := tset s.regions rid r }

/-- Change one region; no effect where no region has the id. -/
def onRegion (s : State) (rid : Nat) (f : Region → Region) : State :=
  match tfind s.regions rid with
  | some r => s.setRegion rid (f r)
  | none => s

/-- The current slot's place. -/
def State.here (s : State) : At := { key := s.curKey, slot := s.curSlot, fc := s.fc, ending := s.ending }

/-- The region of the current slot. -/
def State.cur (s : State) : Region := s.region s.curRid

/-- A PE instruction: its region changes, all else stands. -/
def pe (s : State) (f : At → Region → Region) : Res := .next (onRegion s s.curRid (f s.here))

end Sys2Proof.Machine
end

