-- ==== Sys2Proof/Machine/Float.lean ====
section
/-! DEFINITION. Scalar floating point, OPs 0x40-0x5B (R173-R180). A rounding operation latches its operands; the result is
formed at completion, where an SR step is taken (R59, R176). -/

namespace Sys2Proof.Machine

/-- Format of an arithmetic scalar float OP: .D 0, .S 1. -/
def fOpFmt (op : Nat) : Nat := if op < 0x48 then 0 else 1

/-- Tile default rounding mode (R54). -/
def tileRnd (c : Ct) : Nat := fld c.mode 63 61

/-- Mode of an RO field (R174). -/
def roMode (c : Ct) (imm : Byte) : Nat := if imm.getLsbD 7 then imm.toNat / 16 % 8 else tileRnd c
/-- Mode of a CV field (R175). -/
def cvMode (c : Ct) (cv : BitVec 5) : Nat := if cv.getLsbD 3 then cv.toNat % 8 else tileRnd c

/-- An FP32 operand is the low half (R173). -/
def fIn (f : Nat) (w : Word) : Nat := w.toNat % 2 ^ fmtW f

/-- Width and sign of the integer types IT (R175). -/
def itOf (it : Nat) : Nat × Bool :=
  match it with
  | 0 => (64, true) | 1 => (64, false) | 2 => (32, true) | 3 => (32, false) | 4 => (16, true) | 5 => (8, true) | 6 => (8, false) | _ => (4, true)

/-- An integer of type IT in the low bits of a register. -/
def itVal (it : Nat) (w : Word) : Int :=
  let (n, sg) := itOf it
  let b := w.toNat % 2 ^ n
  if sg && decide (2 ^ (n - 1) ≤ b) then (b : Int) - (2 ^ n : Nat) else b

def ofInt (i : Int) : RVal := .fin (decide (i < 0)) (.dyad i.natAbs 0)

/-- The result of a long scalar float operation, with the SR state after it (R177, R179, R61). -/
def floatResult (op : Nat) (t : Ti) (c : Ct) (a b d : Word) : Word × BitVec 32 :=
  let f := fOpFmt op
  let va := fdec f (fIn f a)
  let vb := fdec f (fIn f b)
  let vd := fdec f (fIn f d)
  let m := roMode c t.imm
  let cm := cvMode c t.sb
  let hi := t.imm.toNat / 16
  let lo := t.imm.toNat % 16
  let out := fun (p : Nat × BitVec 32) => (BitVec.ofNat 64 p.1, p.2)
  match op % 8, op with
  | _, 0x54 => out (cvtElem hi lo cm (t.sb.getLsbD 4) c.sr (fIn lo a))
  | _, 0x55 =>
    let (n, sg) := itOf hi
    let (i, s') := fToInt n sg cm c.sr (edec lo (fIn lo a))
    (BitVec.ofInt 64 i, s')
  | _, 0x56 => out (rnd lo cm (t.sb.getLsbD 4) true c.sr (ofInt (itVal hi a)))
  | _, 0x57 => out (rnd 1 0 false false c.sr (exp2Val (fdec 1 (fIn 1 a))))
  | _, 0x58 => out (rnd 1 0 false false c.sr (log2Val (fdec 1 (fIn 1 a))))
  | _, 0x59 => out (rnd 1 0 false false c.sr (rcpVal (fdec 1 (fIn 1 a))))
  | _, 0x5A => out (rnd 1 0 false false c.sr (rsqVal (fdec 1 (fIn 1 a))))
  | 0, _ => out (rnd f m false false c.sr (addVals m va vb))
  | 1, _ => out (rnd f m false false c.sr (addVals m va vb.neg))
  | 2, _ => out (rnd f m false false c.sr (mulVals va vb))
  | 3, _ => out (rnd f m false false c.sr (addVals m (mulVals va vb) vd))
  | 6, _ => out (rnd f m false false c.sr (divVals va vb))
  | _, _ => out (rnd f m false false c.sr (sqrtVal va))

/-- Fire a long float operation: operands latched, poison checked (R173, R176); `dst` tells that g[DST] is consumed. -/
def fireFloat (x : At) (op : Nat) (t : Ti) (lat : Nat) (dst : Bool) (r : Region) : Region :=
  fireLong x op t lat (fun _ o =>
    if o.a.pois || o.b.pois || (dst && o.d.pois) then .error poisonTrap
    else .ok { a := o.a, b := o.b, c := o.d, ph := 1 }) r

/-- A single-cycle float instruction on the low bits of its operands. -/
def fireFAlu (x : At) (op : Nat) (t : Ti) (f : Nat → Nat → Word × Bool) (fmt : Nat) (r : Region) : Region :=
  fireScalar x op t (fun _ o =>
    if o.a.pois || o.b.pois then .error poisonTrap
    else let (v, c) := f (fIn fmt o.a.bits) (fIn fmt o.b.bits); .ok ({ bits := v }, c)) r

def nzOf (n : Nat) : Word × Bool := (BitVec.ofNat 64 n, n != 0)
def tstOf (b : Bool) : Word × Bool := (wofb b, b)
/-- FCMP formats: IMM8[0] 0 FP64, 1 FP32 (R173). -/
def cmpFmt (t : Ti) : Nat := t.imm.toNat % 2

def execFaddD (t : Ti) (s : State) : Res := pe s (fun x r => fireFloat x 0x40 t 4 false r)
def execFsubD (t : Ti) (s : State) : Res := pe s (fun x r => fireFloat x 0x41 t 4 false r)
def execFmulD (t : Ti) (s : State) : Res := pe s (fun x r => fireFloat x 0x42 t 4 false r)
def execFfmaD (t : Ti) (s : State) : Res := pe s (fun x r => fireFloat x 0x43 t 4 true r)
def execFminD (t : Ti) (s : State) : Res := pe s (fun x r => fireFAlu x 0x44 t (fun a b => nzOf (fMin 0 a b)) 0 r)
def execFmaxD (t : Ti) (s : State) : Res := pe s (fun x r => fireFAlu x 0x45 t (fun a b => nzOf (fMax 0 a b)) 0 r)
def execFdivD (t : Ti) (s : State) : Res := pe s (fun x r => fireFloat x 0x46 t 24 false r)
def execFsqrtD (t : Ti) (s : State) : Res := pe s (fun x r => fireFloat x 0x47 t 30 false r)
def execFaddS (t : Ti) (s : State) : Res := pe s (fun x r => fireFloat x 0x48 t 4 false r)
def execFsubS (t : Ti) (s : State) : Res := pe s (fun x r => fireFloat x 0x49 t 4 false r)
def execFmulS (t : Ti) (s : State) : Res := pe s (fun x r => fireFloat x 0x4A t 4 false r)
def execFfmaS (t : Ti) (s : State) : Res := pe s (fun x r => fireFloat x 0x4B t 4 true r)
def execFminS (t : Ti) (s : State) : Res := pe s (fun x r => fireFAlu x 0x4C t (fun a b => nzOf (fMin 1 a b)) 1 r)
def execFmaxS (t : Ti) (s : State) : Res := pe s (fun x r => fireFAlu x 0x4D t (fun a b => nzOf (fMax 1 a b)) 1 r)
def execFdivS (t : Ti) (s : State) : Res := pe s (fun x r => fireFloat x 0x4E t 12 false r)
def execFsqrtS (t : Ti) (s : State) : Res := pe s (fun x r => fireFloat x 0x4F t 14 false r)
def execFcmpeq (t : Ti) (s : State) : Res := pe s (fun x r => fireFAlu x 0x50 t (fun a b => tstOf (fEq (cmpFmt t) a b)) (cmpFmt t) r)
def execFcmplt (t : Ti) (s : State) : Res := pe s (fun x r => fireFAlu x 0x51 t (fun a b => tstOf (fLt (cmpFmt t) a b)) (cmpFmt t) r)
def execFcmple (t : Ti) (s : State) : Res := pe s (fun x r => fireFAlu x 0x52 t (fun a b => tstOf (fLe (cmpFmt t) a b)) (cmpFmt t) r)
def execFcmpun (t : Ti) (s : State) : Res := pe s (fun x r => fireFAlu x 0x53 t (fun a b => tstOf (fUn (cmpFmt t) a b)) (cmpFmt t) r)
def execFcvt (t : Ti) (s : State) : Res := pe s (fun x r => fireFloat x 0x54 t 4 false r)
def execFcvti (t : Ti) (s : State) : Res := pe s (fun x r => fireFloat x 0x55 t 4 false r)
def execIcvtf (t : Ti) (s : State) : Res := pe s (fun x r => fireFloat x 0x56 t 4 false r)
def execFexp2S (t : Ti) (s : State) : Res := pe s (fun x r => fireFloat x 0x57 t 6 false r)
def execFlog2S (t : Ti) (s : State) : Res := pe s (fun x r => fireFloat x 0x58 t 6 false r)
def execFrcpS (t : Ti) (s : State) : Res := pe s (fun x r => fireFloat x 0x59 t 6 false r)
def execFrsqS (t : Ti) (s : State) : Res := pe s (fun x r => fireFloat x 0x5A t 6 false r)
/-- FCLASS writes one bit of ten (R180). -/
def execFclass (t : Ti) (s : State) : Res :=
  pe s (fun x r => fireFAlu x 0x5B t (fun a _ => (BitVec.ofNat 64 (2 ^ fClass (t.imm.toNat % 16) a), true)) (t.imm.toNat % 16) r)

/-- Completion of a scalar float operation. -/
def completeFloat (fc : Nat) (r : Region) (key id : Nat) (o : PendOp) : Region :=
  let (v, sr) := floatResult o.code o.ti (r.ct key) o.a.bits o.b.bits o.c.bits
  completeS fc (r.updCt key (fun c => { c with sr := sr })) key id o { bits := v } (v != 0)

end Sys2Proof.Machine
end

