-- ==== Sys2Proof/Machine/Vector.lean ====
section
/-! DEFINITION. Vector instructions but for VLD and VST, OPs 0x60-0x82 (R181-R193). -/

namespace Sys2Proof.Machine

/-- A lane of a result with the poison it carries. -/
abbrev PLane := Nat × Bool

/-- A vector from lanes with poison: a word is poisoned when a lane bit written into it is (R184). -/
def ofPLanes (f : Nat) (ls : List PLane) : VVal :=
  { bits := ofLanes f (ls.map (·.1)),
    pois := (lenum ls).foldl (fun m x => if x.2.2 then (laneWords f x.1).foldl (fun m k => m ||| BitVec.ofNat 8 (2 ^ k)) m else m) 0 }

/-- The mode of a vector instruction (R54, R109). -/
def vMode (c : Ct) (t : Ti) : Nat := match roOf t with | 0 => tileRnd c | 1 => 0 | 2 => 1 | _ => 5

/-- Wrap or clamp an exact integer to a lane format (R62). -/
def intLane (f : Nat) (sat : Bool) (i : Int) : Nat :=
  intBits (fmtW f) (if sat then clampInt (intMin (fmtW f) (fmtSigned f)) (intMax (fmtW f) (fmtSigned f)) i else i)

/-- One lane of an arithmetic instruction with the SR state after it (R185, R186). The sums and products of integer formats stand under
rnd() in R185 and R189 too, so they take a step (log 29). DESIGN CHOICE (log 50): VABS and VNEG of a UINT8 give the exact value wrapped
or clamped, so that of the minimum 0 is 0 also under SAT; R185's sentence on the integer minimum speaks of a value with no negation. -/
def laneOp (op f mode : Nat) (sat : Bool) (sr : BitVec 32) (a b d : Nat) : Nat × BitVec 32 :=
  if fmtIsInt f then
    let x := idec f a; let y := idec f b; let z := idec f d
    let r : Nat :=
      match op with
      | 0x60 => intLane f sat (x + y)
      | 0x61 => intLane f sat (x - y)
      | 0x62 => intLane f sat (x * y)
      | 0x63 => intLane f sat (x * y + z)
      | 0x64 => if x < y then a else b
      | 0x65 => if x < y then b else a
      | 0x66 => intLane f sat (x.natAbs : Int)
      | _ => intLane f sat (-x)
    (r, if op ≤ 0x63 then srTake mode sr else sr)
  else
    let x := fdec f a; let y := fdec f b; let z := fdec f d
    match op with
    | 0x60 => rnd f mode sat false sr (addVals mode x y)
    | 0x61 => rnd f mode sat false sr (addVals mode x y.neg)
    | 0x62 => rnd f mode sat false sr (mulVals x y)
    | 0x63 => rnd f mode sat false sr (addVals mode (mulVals x y) z)
    | 0x64 => (fMin f a b, sr)
    | 0x65 => (fMax f a b, sr)
    | 0x66 => (if x.isNan then fmtNaN f else a % fmtSign f, sr)
    | 0x67 => (if x.isNan then fmtNaN f else (a + fmtSign f) % (2 * fmtSign f), sr)
    | 0x68 => rnd f 0 sat false sr (exp2Val x)
    | 0x69 => rnd f 0 sat false sr (rcpVal x)
    | 0x6A => rnd f 0 sat false sr (rsqVal x)
    | _ => rnd f 0 sat false sr (log2Val x)

/-- Lanes in ascending order, each with the SR state the one before left (R59). A masked-off lane is the old lane. -/
def laneFold (n : Nat) (mask : BitVec 128) (old : Nat → PLane) (g : Nat → BitVec 32 → PLane × BitVec 32) (sr : BitVec 32) :
    List PLane × BitVec 32 :=
  (List.range n).foldl (fun acc i =>
    if mask.getLsbD i then let (x, s) := g i acc.2; (acc.1 ++ [x], s) else (acc.1 ++ [old i], acc.2)) ([], sr)

/-- What a masked-off lane holds: the old lane of a v destination, else 0 (R182). -/
def oldLane (f : Nat) (t : Ti) (d : VVal) (i : Nat) : PLane :=
  if t.dst.toNat ≤ 7 then (lane f d.bits i, lanePois f d i) else (0, false)

/-- A reduction of one level: neighbours combined in ascending position (R69). -/
def redLevel (g : Nat → Nat → BitVec 32 → Nat × BitVec 32) : List Nat → BitVec 32 → List Nat × BitVec 32
  | a :: b :: r, s =>
    let (x, s1) := g a b s
    let (l, s2) := redLevel g r s1
    (x :: l, s2)
  | l, s => (l, s)

/-- The fixed pairwise tree (R69), over at most k levels. -/
def redTree (k : Nat) (g : Nat → Nat → BitVec 32 → Nat × BitVec 32) (l : List Nat) (s : BitVec 32) : Nat × BitVec 32 :=
  match k with
  | 0 => (l.headD 0, s)
  | j + 1 => let (l', s') := redLevel g l s; redTree j g l' s'

/-- Identity of a masked-off lane in a reduction (R188). -/
def redId (op f : Nat) : Nat :=
  if fmtIsInt f then
    match op with
    | 0x6D => 0
    | 0x6E => intBits (fmtW f) (intMin (fmtW f) (fmtSigned f))
    | _ => intBits (fmtW f) (intMax (fmtW f) (fmtSigned f))
  else
    match op with
    | 0x6D => withSign f true 0
    | 0x6E => if fmtHasInf f then withSign f true (fmtInf f) else withSign f true (fmtMax f)
    | _ => if fmtHasInf f then fmtInf f else fmtMax f

/-- A reduction's value (R188). An integer sum is exact and wraps or clamps once, so no element of it is computed with rnd() (log 29). -/
def reduce (op f mode : Nat) (sat : Bool) (sr : BitVec 32) (ls : List Nat) : Nat × BitVec 32 :=
  if fmtIsInt f then
    let v : Nat :=
      match op with
      | 0x6D => intLane f sat (ls.foldl (fun acc x => acc + idec f x) 0)
      | 0x6E => ls.foldl (fun acc x => if idec f acc < idec f x then x else acc) (redId 0x6E f)
      | _ => ls.foldl (fun acc x => if idec f x < idec f acc then x else acc) (redId 0x6F f)
    (v, sr)
  else
    redTree 7 (fun a b s =>
      match op with
      | 0x6D => rnd f mode false false s (addVals mode (fdec f a) (fdec f b))
      | 0x6E => (fMax f a b, s)
      | _ => (fMin f a b, s)) ls sr

/-- A scan or recurrence (R189): the results, lane by lane. -/
def scanLanes (op f mode : Nat) (sat : Bool) : List (Nat × Nat) → Nat → BitVec 32 → List Nat × BitVec 32
  | [], _, s => ([], s)
  | (a, b) :: r, c, s =>
    let (y, s1) :=
      if op = 0x81 then laneOp 0x60 f mode sat s c a 0
      else laneOp 0x63 f mode sat s a c b
    let (l, s2) := scanLanes op f mode sat r y s1
    (y :: l, s2)

/-- A lane test (R190). -/
def laneTest (op f a b : Nat) : Bool :=
  if fmtIsInt f then
    match op with
    | 0x76 => idec f a == idec f b
    | 0x77 => decide (idec f a < idec f b)
    | _ => decide (idec f a ≤ idec f b)
  else
    match op with
    | 0x76 => fEq f a b
    | 0x77 => fLt f a b
    | _ => fLe f a b

/-- Shift amount: the low log2 w bits (R193). -/
def shiftLane (op f a b : Nat) : Nat :=
  let w := fmtW f
  let k := b % w
  match op with
  | 0x73 => a * 2 ^ k % 2 ^ w
  | 0x74 => a / 2 ^ k
  | _ => if 2 ^ (w - 1) ≤ a then a / 2 ^ k + (2 ^ w - 2 ^ (w - k)) else a / 2 ^ k

/-- What a vector instruction reads: sources, old destination, lane mask, index register. -/
structure VIn where
  a    : VVal := {}
  b    : VVal := {}
  d    : VVal := {}
  mask : BitVec 128 := 0
  j    : Val := {}

/-- The source format of VCVT's a; every other source has the instruction's format. -/
def aFmt (op : Nat) (t : Ti) : Nat := if op = 0x6C then t.sb.toNat else fmtOf t

/-- The general register that an index selector names, whole; ZERO is 0 (R184, R192). -/
def vIndex (r : Region) (key : Nat) (sel : BitVec 5) : Val :=
  if sel.toNat ≤ 29 ∧ 16 ≤ sel.toNat then tget (r.ct key).g {} (sel.toNat - 16) else {}

def vinOf (r : Region) (key op : Nat) (t : Ti) : VIn :=
  { a := srcV r key (aFmt op t) t.sa,
    b := if op = 0x6C then {} else srcV r key (fmtOf t) t.sb,
    d := if t.dst.toNat ≤ 7 then tget (r.ct key).v {} t.dst.toNat else {},
    mask := if mskOf t || op == 0x79 then (tget (r.ct key).v {} 7).bits.truncate 128 else BitVec.allOnes 128,
    j := vIndex r key t.sb }

/-- Lanes converted by VCVT (R187). -/
def cvtLanes (t : Ti) : Nat := Nat.min (laneCount t.sb.toNat) (laneCount (fmtOf t))

/-- Poison that a consuming instruction meets in the lanes it reads (R182, R184, R188, R189). -/
def vecPoison (op : Nat) (t : Ti) (x : VIn) : Bool :=
  let f := fmtOf t
  let n := laneCount f
  let act := (List.range n).filter (fun i => x.mask.getLsbD i)
  if op ≤ 0x67 ∨ (0x68 ≤ op ∧ op ≤ 0x6B) ∨ (0x70 ≤ op ∧ op ≤ 0x78) then
    act.any (fun i => lanePois f x.a i || lanePois f x.b i || (op == 0x63 && lanePois f x.d i))
  else if op = 0x6C then
    (List.range (cvtLanes t)).any (fun i => x.mask.getLsbD i && lanePois t.sb.toNat x.a i)
  else if 0x6D ≤ op ∧ op ≤ 0x6F then act.any (fun i => lanePois f x.a i)
  else if op = 0x7A ∨ op = 0x7B ∨ op = 0x7C then x.j.pois
  else if op = 0x7D then act.any (fun i => lanePois f x.b i)
  else if op = 0x80 then (List.range n).any (fun i => lanePois f x.a i || lanePois f x.b i) || lanePois f x.d (n - 1)
  else if op = 0x81 then (List.range n).any (fun i => lanePois f x.a i) || lanePois f x.b (n - 1)
  else false

/-- Index of a lane (R192). -/
def laneIx (n : Nat) (v : Nat) : Nat := v % 128 % n

/-- The result of a vector instruction, its cond, and the SR state after it. -/
def vecResult (op : Nat) (t : Ti) (c : Ct) (x : VIn) : VVal × Bool × BitVec 32 :=
  let f := fmtOf t
  let n := laneCount f
  let m := vMode c t
  let sat := satOf t
  let old := oldLane f t x.d
  let la := fun i => lane f x.a.bits i
  let lb := fun i => lane f x.b.bits i
  let pa := fun i => (lane f x.a.bits i, lanePois f x.a i)
  let pb := fun i => (lane f x.b.bits i, lanePois f x.b i)
  let fin := fun (p : List PLane × BitVec 32) => let v := ofPLanes f p.1; (v, v.bits != 0, p.2)
  if op ≤ 0x6B then
    fin (laneFold n x.mask old (fun i s => let (v, s') := laneOp op f m sat s (la i) (lb i) (lane f x.d.bits i); ((v, false), s')) c.sr)
  else if op = 0x6C then
    let k := cvtLanes t
    let (ls, s) := laneFold k x.mask old (fun i s =>
      let (v, s') := cvtElem f t.sb.toNat m sat s (lane t.sb.toNat x.a.bits i); ((v, false), s')) c.sr
    fin (ls, s)
  else if op ≤ 0x6F then
    let ls := (List.range n).map (fun i => if x.mask.getLsbD i then la i else redId op f)
    let (v, s) := reduce op f m sat c.sr ls
    fin ([(v, false)], s)
  else if op ≤ 0x72 then
    fin (laneFold n x.mask old (fun i s =>
      ((match op with | 0x70 => Nat.land (la i) (lb i) | 0x71 => Nat.lor (la i) (lb i) | _ => Nat.xor (la i) (lb i), false), s)) c.sr)
  else if op ≤ 0x75 then
    fin (laneFold n x.mask old (fun i s => ((shiftLane op f (la i) (lb i), false), s)) c.sr)
  else if op ≤ 0x78 then
    let bm := (List.range n).foldr (fun i acc => (if x.mask.getLsbD i && laneTest op f (la i) (lb i) then 1 else 0) + 2 * acc) 0
    ({ bits := BitVec.ofNat 512 bm }, bm != 0, c.sr)
  else if op = 0x79 then fin ((List.range n).map (fun i => if x.mask.getLsbD i then pa i else pb i), c.sr)
  else if op = 0x7A then fin (laneFold n x.mask old (fun _ s => (pa (laneIx n x.j.bits.toNat), s)) c.sr)
  else if op = 0x7B then
    let q := pa (laneIx n x.j.bits.toNat)
    ({ bits := BitVec.ofNat 512 q.1, pois := if q.2 then 1 else 0 }, q.1 != 0, c.sr)
  else if op = 0x7C then
    fin ((List.range n).map (fun i =>
      if i = laneIx n x.j.bits.toNat then pa 0 else (lane f x.d.bits i, lanePois f x.d i)), c.sr)
  else if op = 0x7D then fin (laneFold n x.mask old (fun i s => (pa (laneIx n (lb i)), s)) c.sr)
  else if op = 0x7E then fin (laneFold n x.mask old (fun i s => (if i < n / 2 then pa i else pb (i - n / 2), s)) c.sr)
  else if op = 0x7F then fin (laneFold n x.mask old (fun i s => (if i < n / 2 then pa (i + n / 2) else (0, false), s)) c.sr)
  else if op = 0x80 then
    let (ls, s) := scanLanes op f m sat ((List.range n).map (fun i => (la i, lb i))) (lane f x.d.bits (n - 1)) c.sr
    fin (ls.map (fun v => (v, false)), s)
  else if op = 0x81 then
    let (ls, s) := scanLanes op f m sat ((List.range n).map (fun i => (la i, 0))) (lb (n - 1)) c.sr
    fin (ls.map (fun v => (v, false)), s)
  else fin (laneFold n x.mask old (fun i s => (pa i, s)) c.sr)

/-- Fire a single-cycle vector instruction (R182, R183). -/
def fireVec (x : At) (op : Nat) (t : Ti) (r : Region) : Region :=
  fire x op t (popsOf op t) (fun r =>
    let i := vinOf r x.key op t
    if vecPoison op t i then .error poisonTrap
    else
      let (v, cond, _) := vecResult op t (r.ct x.key) i
      .ok ((deliverV x.fc r x.key op t v (colourOf r x.key op t)).updCt x.key (fun c => predUpd c t cond))) r

/-- Fire a long vector instruction: its operands are latched, its lanes are formed at completion (R59, R183). -/
def fireVecLong (x : At) (op : Nat) (t : Ti) (lat : Nat) (r : Region) : Region :=
  fire x op t (popsOf op t) (fun r =>
    let i := vinOf r x.key op t
    if vecPoison op t i then .error poisonTrap
    else .ok (startOp x op t { va := i.a, vb := i.b, vd := i.d, mask := i.mask, a := i.j, due := some (x.fc + lat - 1),
                               col := colourOf r x.key op t, ph := 2 } r)) r

/-- Completion of a long vector operation. -/
def completeVec (fc : Nat) (r : Region) (key id : Nat) (o : PendOp) : Region :=
  let (v, cond, sr) := vecResult o.code o.ti (r.ct key) { a := o.va, b := o.vb, d := o.vd, mask := o.mask, j := o.a }
  completeV fc (r.updCt key (fun c => { c with sr := sr })) key id o v cond

/-- Latency of a scan or recurrence: n + 4 (R183). -/
def seqLat (t : Ti) : Nat := laneCount (fmtOf t) + 4

def execVadd (t : Ti) (s : State) : Res := pe s (fun x r => fireVecLong x 0x60 t 4 r)
def execVsub (t : Ti) (s : State) : Res := pe s (fun x r => fireVecLong x 0x61 t 4 r)
def execVmul (t : Ti) (s : State) : Res := pe s (fun x r => fireVecLong x 0x62 t 4 r)
def execVfma (t : Ti) (s : State) : Res := pe s (fun x r => fireVecLong x 0x63 t 4 r)
def execVmin (t : Ti) (s : State) : Res := pe s (fun x r => fireVecLong x 0x64 t 4 r)
def execVmax (t : Ti) (s : State) : Res := pe s (fun x r => fireVecLong x 0x65 t 4 r)
def execVabs (t : Ti) (s : State) : Res := pe s (fun x r => fireVecLong x 0x66 t 4 r)
def execVneg (t : Ti) (s : State) : Res := pe s (fun x r => fireVecLong x 0x67 t 4 r)
def execVexp2 (t : Ti) (s : State) : Res := pe s (fun x r => fireVecLong x 0x68 t 8 r)
def execVrcp (t : Ti) (s : State) : Res := pe s (fun x r => fireVecLong x 0x69 t 8 r)
def execVrsq (t : Ti) (s : State) : Res := pe s (fun x r => fireVecLong x 0x6A t 8 r)
def execVlog2 (t : Ti) (s : State) : Res := pe s (fun x r => fireVecLong x 0x6B t 8 r)
def execVcvt (t : Ti) (s : State) : Res := pe s (fun x r => fireVecLong x 0x6C t 4 r)
def execVredsum (t : Ti) (s : State) : Res := pe s (fun x r => fireVecLong x 0x6D t 6 r)
def execVredmax (t : Ti) (s : State) : Res := pe s (fun x r => fireVecLong x 0x6E t 6 r)
def execVredmin (t : Ti) (s : State) : Res := pe s (fun x r => fireVecLong x 0x6F t 6 r)
def execVand (t : Ti) (s : State) : Res := pe s (fun x r => fireVec x 0x70 t r)
def execVor (t : Ti) (s : State) : Res := pe s (fun x r => fireVec x 0x71 t r)
def execVxor (t : Ti) (s : State) : Res := pe s (fun x r => fireVec x 0x72 t r)
def execVshl (t : Ti) (s : State) : Res := pe s (fun x r => fireVec x 0x73 t r)
def execVshr (t : Ti) (s : State) : Res := pe s (fun x r => fireVec x 0x74 t r)
def execVsar (t : Ti) (s : State) : Res := pe s (fun x r => fireVec x 0x75 t r)
def execVcmpeq (t : Ti) (s : State) : Res := pe s (fun x r => fireVec x 0x76 t r)
def execVcmplt (t : Ti) (s : State) : Res := pe s (fun x r => fireVec x 0x77 t r)
def execVcmple (t : Ti) (s : State) : Res := pe s (fun x r => fireVec x 0x78 t r)
def execVsel (t : Ti) (s : State) : Res := pe s (fun x r => fireVec x 0x79 t r)
def execVbcast (t : Ti) (s : State) : Res := pe s (fun x r => fireVec x 0x7A t r)
def execVextr (t : Ti) (s : State) : Res := pe s (fun x r => fireVec x 0x7B t r)
def execVins (t : Ti) (s : State) : Res := pe s (fun x r => fireVec x 0x7C t r)
def execVshuf (t : Ti) (s : State) : Res := pe s (fun x r => fireVec x 0x7D t r)
def execVpack (t : Ti) (s : State) : Res := pe s (fun x r => fireVec x 0x7E t r)
def execVunpk (t : Ti) (s : State) : Res := pe s (fun x r => fireVec x 0x7F t r)
def execVlrec (t : Ti) (s : State) : Res := pe s (fun x r => fireVecLong x 0x80 t (seqLat t) r)
def execVscan (t : Ti) (s : State) : Res := pe s (fun x r => fireVecLong x 0x81 t (seqLat t) r)
def execVmov (t : Ti) (s : State) : Res := pe s (fun x r => fireVec x 0x82 t r)

end Sys2Proof.Machine
end

