-- ==== Sys2Proof/Machine/Tensor.lean ====
section
/-! DEFINITION. Tensor instructions, OPs 0xA0-0xA7 (R196-R216): operands are read when the instruction fires, results are
formed and written at its completion. -/

namespace Sys2Proof.Machine

/-! ## Handles at completion (R86, R259) -/

def hndBase (h : Hnd) : Nat := fld h.word 41 23
def hndSize (h : Hnd) : Nat := fld h.word 61 42

/-- A handle returns to FREE; one that a multicast read filled gives its space token (R259). -/
def freeHnd (fc : Nat) (r : Region) (key h : Nat) : Region :=
  let x := r.hnd key h
  let r := r.updHnd key h (fun x => { x with st := hFree, nxt := none, space := none, moved := true })
  match x.space with
  | some (out, box, col) => r.emit fc key [out] (tokS { bits := BitVec.ofNat 64 box } mkD col)
  | none => r

/-- Claims of a firing (R86, R201): the handle takes its new state at the end of the fc. -/
def claimAll (r : Region) (qs : List HReq) : Region :=
  qs.foldl (fun r q =>
    match q with
    | .claim k h _ fill => r.updHnd k h (fun x => { x with nxt := some (if fill then hFilling else hDraining) })
    | _ => r) r

/-! ## Tiles (R196, R198) -/

/-- Words of the buffer of the handle a selector names. -/
def hselWords (r : Region) (key sel n : Nat) : List Val :=
  match hselOf r key sel with
  | some (k, h) => r.mtWords (mtAddr k (hndBase (r.hnd k h))) n
  | none => []

/-- Words as one number. -/
def wordsNat (ws : List Val) : Nat := ws.foldr (fun w acc => w.bits.toNat + 2 ^ 64 * acc) 0

/-- Element n of width w of a buffer given as one number (R49). -/
def elemAt (w n buf : Nat) : Nat := buf / 2 ^ (n * w) % 2 ^ w

/-- Bytes of a tile of K columns in a format. -/
def tileWords (f k : Nat) : Nat := 16 * k * fmtW f / 64

/-- Accumulator format of a descriptor (R197): FP64 0, FP32 1, INT32 12. -/
def accFmt (d : Word) : Nat :=
  if tdFp64 d then 0 else if fmtIsInt (tdA d) && !bitOf d 52 then 12 else 1

/-- Element e of an accumulator, or of the pair in FP64 (R64, R197). -/
def accElem (c : Ct) (fp64 : Bool) (d e : Nat) : Nat :=
  let half := fun n => fld ((tget c.acc {} (n * 128 + e / 2)).bits) (32 * (e % 2) + 31) (32 * (e % 2))
  if fp64 then half d + 2 ^ 32 * half (d + 1) else half d

/-- Poison of the words that hold element e. -/
def accPois (c : Ct) (fp64 : Bool) (d e : Nat) : Bool :=
  (tget c.acc {} (d * 128 + e / 2)).pois || (fp64 && (tget c.acc {} ((d + 1) * 128 + e / 2)).pois)

/-- Any poisoned word of the accumulator or pair. -/
def accAnyPois (c : Ct) (fp64 : Bool) (d : Nat) : Bool := (List.range 128).any (fun w => accPois c fp64 d (2 * w))

/-- Write all 256 elements; word w holds elements 2w and 2w + 1 (R197). -/
def accWrite (c : Ct) (fp64 : Bool) (d : Nat) (es : List PLane) : Ct :=
  let pairUp := fun (sh : Nat) => fun (w : Nat) =>
    let x := es.getD (2 * w) (0, false)
    let y := es.getD (2 * w + 1) (0, false)
    ({ bits := BitVec.ofNat 64 (x.1 / 2 ^ sh % 2 ^ 32 + 2 ^ 32 * (y.1 / 2 ^ sh % 2 ^ 32)), pois := x.2 || y.2 } : Val)
  let put := fun (a : Tab Val) (n sh : Nat) => (List.range 128).foldl (fun a w => tset a (n * 128 + w) (pairUp sh w)) a
  let a := put c.acc d 0
  { c with acc := if fp64 then put a (d + 1) 32 else a }

/-- An accumulator, or pair, becomes +0 without poison (R212, R213). -/
def accZero (c : Ct) (fp64 : Bool) (d : Nat) : Ct :=
  { c with acc := c.acc.filter (fun x => !(x.1 / 128 == d || (fp64 && x.1 / 128 == d + 1))) }

/-! ## Product sums (R64-R68, R207-R211) -/

/-- What a multiply latched: descriptor, tiles, scale tiles and metadata as numbers. -/
structure MmaIn where
  d    : Word
  a    : Nat
  b    : Nat
  sa   : Nat := 0
  sb   : Nat := 0
  bits : Nat := 0

/-- Scale a value by a power of two. -/
def scaleVal (x : RVal) (e : Int) : RVal :=
  match x with
  | .fin s (.dyad m f) => .fin s (.dyad m (f + e))
  | v => v

/-- The pairs of elements multiplied for (i, j), each with its place along K (R207, R210). -/
def mmaPairs (op : Nat) (x : MmaIn) (i j : Nat) : List (Nat × Nat × Nat) :=
  let k := tdK x.d
  let wa := fmtW (tdA x.d)
  let wb := fmtW (tdB x.d)
  if op = 0xA1 then
    let u := tdU x.d
    let g := tdG x.d
    let dense := fun (row n : Nat) => 2 * u * (n / u) + (if x.bits.testBit (row * g + n / u) then u else 0) + n % u
    (List.range k).map (fun n =>
      if bitOf x.d 53 then (n, elemAt wa (i * (2 * k) + dense j n) x.a, elemAt wb (j * k + n) x.b)
      else (n, elemAt wa (i * k + n) x.a, elemAt wb (j * (2 * k) + dense i n) x.b))
  else (List.range k).map (fun n => (n, elemAt wa (i * k + n) x.a, elemAt wb (j * k + n) x.b))

/-- The terms of S(i, j) in a floating-point sum, block scales applied (R65, R68, R211). DESIGN CHOICE (log 50): a zero product of INT8
elements has the sign of the product of their signs, a zero element counting as positive; the spec gives integers no signed zero. -/
def mmaTerms (op : Nat) (x : MmaIn) (i j : Nat) : List RVal :=
  let nb := tdK x.d / 32
  let fa := tdA x.d
  let fb := tdB x.d
  (mmaPairs op x i j).map (fun p =>
    let v := mulVals (edec fa p.2.1) (edec fb p.2.2)
    if op = 0xA2 then
      let ea := elemAt 8 (i * nb + p.1 / 32) x.sa
      let eb := elemAt 8 (j * nb + p.1 / 32) x.sb
      if ea = 255 ∨ eb = 255 then .nan
      else scaleVal v ((ea : Int) + (eb : Int) - 254 - (if fmtIsInt fa then 12 else 0))
    else v)

/-- One output element from the prior value: one rounding in the tile default mode (R64), or the low 32 bits (R66). -/
def mmaElem (op : Nat) (x : MmaIn) (mode : Nat) (sr : BitVec 32) (prior i j : Nat) : Nat × BitVec 32 :=
  let f := accFmt x.d
  if f = 12 then
    let s : Int := (mmaPairs op x i j).foldl (fun acc p => acc + idec (tdA x.d) p.2.1 * idec (tdB x.d) p.2.2) (idec 12 prior)
    (intBits 32 s, srTake mode sr)
  else rnd f mode false false sr (sumVals mode (fdec f prior :: mmaTerms op x i j))

/-- The words of an accumulator, or of the pair, as the firing finds them (R202). -/
def accLatch (c : Ct) (d : Nat) : Tab Val := c.acc.filter (fun x => x.1 / 128 == d || x.1 / 128 == d + 1)

/-- Row-major over the 256 elements, SR state threaded (R59, R206). -/
def elemFold (g : Nat → BitVec 32 → PLane × BitVec 32) (sr : BitVec 32) : List PLane × BitVec 32 :=
  (List.range 256).foldl (fun acc e => let (x, s) := g e acc.2; (acc.1 ++ [x], s)) ([], sr)

/-! ## Firing -/

/-- Words of A and of B: the dense side of an MMAS has twice the depth (R196, R208). -/
def mmaWords (op : Nat) (d : Word) : Nat × Nat :=
  let k := tdK d
  if op = 0xA1 then
    (if bitOf d 53 then (2 * tileWords (tdA d) k, tileWords (tdB d) k) else (tileWords (tdA d) k, 2 * tileWords (tdB d) k))
  else (tileWords (tdA d) k, tileWords (tdB d) k)

/-- Latency of a multiply (R203). -/
def mmaLat (d : Word) : Nat := if tdA d ≤ 1 then 16 else 8

/-- MMA, MMAS and MMAX at firing (R206): the snapshot, its poison, the claims, the metadata tokens popped. -/
def fireMma (x : At) (op : Nat) (t : Ti) (r : Region) : Region :=
  let d := tdOf r x.key t
  let ch := fld d 41 39
  let md := if op = 0xA1 then tdMeta r x.key t else none
  let npop := match md with | some (.group _) => tdTm d | some (.short k) => k | some .stop => 1 | none => 0
  fire x op t [] (fun r =>
    if md = some .stop then
      .ok ((r.popIn x.key ch).updCt x.key (fun c => predUpd c t false))
    else
      let (na, nb) := mmaWords op d
      let a := hselWords r x.key t.sa.toNat na
      let b := hselWords r x.key t.sb.toNat nb
      let sw := 16 * (tdK d / 32) / 8
      let sa := if op = 0xA2 then hselWords r x.key (fld d 51 47) sw else []
      let sb := if op = 0xA2 then hselWords r x.key (fld d 46 42) sw else []
      let toks := if op = 0xA1 then (r.chan x.key ch).buf.take npop else []
      let bad := (a ++ b ++ sa ++ sb).any (fun w => w.pois) || toks.any (fun k => k.pois.getLsbD 0)
        || (!t.imm.getLsbD 3 && accAnyPois (r.ct x.key) (tdFp64 d) (t.dst.toNat % 4))
      if bad then .error poisonTrap
      else
        let bits := wordsNat (toks.map tokVal)
        let cond := match md with | some (.group l) => l | some _ => false | none => true
        let r := claimAll r (hreqsOf r x.key op t)
        let r := startOp x op t { snap := a, snab := b, accL := accLatch (r.ct x.key) (t.dst.toNat % 4), va := vofWords sa, vb := vofWords sb, vd := { bits := BitVec.ofNat 512 bits },
                                  due := some (x.fc + mmaLat d - 1), ph := 3, cond := cond } r
        .ok ((List.range npop).foldl (fun r _ => r.popIn x.key ch) r)) r

/-- Words an accumulator instruction reads from its handle (R198). -/
def accSrcWords (op : Nat) (d : Word) : Nat :=
  if op = 0xA6 then (if tdFp64 d then 16 else 8) else (if tdFp64 d then 256 else 128)

/-- ACCWR, ACCSCL, ACCADD at firing (R214-R216); ACCSCL and ACCADD consume both operands. -/
def fireAcc (x : At) (op : Nat) (t : Ti) (lat : Word → Nat) (r : Region) : Region :=
  fire x op t [] (fun r =>
    let d := tdOf r x.key t
    let ws := hselWords r x.key t.sa.toNat (accSrcWords op d)
    let bad := op != 0xA5 && (ws.any (fun w => w.pois) || accAnyPois (r.ct x.key) (tdFp64 d) (t.dst.toNat % 4))
    if bad then .error poisonTrap
    else .ok (startOp x op t { snap := ws, accL := accLatch (r.ct x.key) (t.dst.toNat % 4), due := some (x.fc + lat d - 1), ph := 3, cond := true }
      (claimAll r (hreqsOf r x.key op t)))) r

/-- Bytes an ACCRD writes (R213). -/
def accrdBytes (d : Word) : Nat := 256 * fmtW (fld d 38 35) / 8
/-- Latency of ACCRD (R203). -/
def accrdLat (d : Word) : Nat := Nat.max 4 ((accrdBytes d + 63) / 64)

def execMma (t : Ti) (s : State) : Res := pe s (fun x r => fireMma x 0xA0 t r)
def execMmas (t : Ti) (s : State) : Res := pe s (fun x r => fireMma x 0xA1 t r)
def execMmax (t : Ti) (s : State) : Res := pe s (fun x r => fireMma x 0xA2 t r)
/-- ACCZ (R212); its cond is 1 (R205). -/
def execAccz (t : Ti) (s : State) : Res :=
  pe s (fun x r => fire x 0xA3 t [] (fun r => .ok (r.updCt x.key (fun c => predUpd (accZero c false (t.dst.toNat % 4)) t true))) r)
/-- ACCRD (R213): it moves poison and consumes none. -/
def execAccrd (t : Ti) (s : State) : Res :=
  pe s (fun x r => fire x 0xA4 t [] (fun r =>
    .ok (startOp x 0xA4 t { accL := accLatch (r.ct x.key) (t.dst.toNat % 4), due := some (x.fc + accrdLat (tdOf r x.key t) - 1), ph := 3, cond := true } r)) r)
def execAccwr (t : Ti) (s : State) : Res := pe s (fun x r => fireAcc x 0xA5 t (fun d => if tdFp64 d then 32 else 16) r)
def execAccscl (t : Ti) (s : State) : Res := pe s (fun x r => fireAcc x 0xA6 t (fun _ => 4) r)
def execAccadd (t : Ti) (s : State) : Res := pe s (fun x r => fireAcc x 0xA7 t (fun d => if tdFp64 d then 32 else 16) r)

/-! ## Completion -/

/-- The elements a completion writes into the accumulator, with the SR state after them (R206, R214-R216). The accumulator read is the
one of the firing (R202). -/
def tensorElems (c0 : Ct) (o : PendOp) (d : Word) : List PLane × BitVec 32 :=
  let c := { c0 with acc := o.accL }
  let f := accFmt d
  let fp64 := tdFp64 d
  let n := o.ti.dst.toNat % 4
  let mode := tileRnd c
  let w := if fp64 then 64 else 32
  let src := wordsNat o.snap
  if o.code ≤ 0xA2 then
    let x : MmaIn := { d := d, a := src, b := wordsNat o.snab, sa := o.va.bits.toNat, sb := o.vb.bits.toNat, bits := o.vd.bits.toNat }
    elemFold (fun e s =>
      let prior := if o.ti.imm.getLsbD 3 then 0 else accElem c fp64 n e
      let (v, s') := mmaElem o.code x mode s prior (e / 16) (e % 16)
      ((v, false), s')) c.sr
  else if o.code = 0xA5 then
    elemFold (fun e s => ((elemAt w e src, (o.snap.getD (e * w / 64) {}).pois), s)) c.sr
  else if o.code = 0xA6 then
    elemFold (fun e s =>
      let a := accElem c fp64 n e
      let k := elemAt w (e / 16) src
      if f = 12 then ((intBits 32 (idec 12 a * idec 12 k), false), srTake mode s)
      else let (v, s') := rnd f mode false false s (mulVals (fdec f a) (fdec f k)); ((v, false), s')) c.sr
  else
    elemFold (fun e s =>
      let a := accElem c fp64 n e
      let k := elemAt w e src
      if f = 12 then ((intBits 32 (idec 12 a + idec 12 k), false), srTake mode s)
      else let (v, s') := rnd f mode false false s (addVals mode (fdec f a) (fdec f k)); ((v, false), s')) c.sr

/-- ACCRD's output elements, each with the poison it moves; the accumulator is the one of the firing (R202, R213). -/
def accrdElems (c0 : Ct) (o : PendOp) (d : Word) : List PLane × BitVec 32 :=
  let c := { c0 with acc := o.accL }
  let fp64 := tdFp64 d
  let n := o.ti.dst.toNat % 4
  let mode := if bitOf d 33 then tileRnd c else fld d 32 30
  elemFold (fun e s =>
    let (v, s') := cvtElem (fld d 38 35) (accFmt d) mode (bitOf d 34) s (accElem c fp64 n e)
    ((v, accPois c fp64 n e), s')) c.sr

/-- Write a packed tile word by word, a word poisoned when an element in it is (R213). -/
def writeTile (r : Region) (a w : Nat) (es : List PLane) : Region :=
  let big := es.foldr (fun x acc => x.1 % 2 ^ w + 2 ^ w * acc) 0
  (List.range (256 * w / 64)).foldl (fun r k =>
    let bad := (lenum es).any (fun x => x.2.2 && decide (x.1 * w < 64 * (k + 1)) && decide (64 * k < x.1 * w + w))
    r.mtWrite (a + 8 * k) 8 { bits := BitVec.ofNat 64 (big / 2 ^ (64 * k)), pois := bad }) r

/-- HANDLE_STATE: the state found and the handle's selector (R86, R400). -/
def handleTrap (st : BitVec 2) (sel : Nat) : TrapInfo := { code := 0x2A, aux := st.toNat * 32 + sel }

/-- The selectors a tensor operation releases at its completion (R201). -/
def tensorRel (o : PendOp) : List Nat :=
  ((if o.ti.imm.getLsbD 4 && o.code != 0xA4 then [o.ti.sa.toNat] else [])
    ++ (if o.ti.imm.getLsbD 5 && decide (o.code ≤ 0xA2) then [o.ti.sb.toNat] else [])).eraseDups

/-- Handles a completed tensor operation releases (R201). One that another agent has moved from DRAINING stays as it is (R86), and nothing
traps: no tensor instruction traps when it completes (R200, log 52). -/
def tensorFrees (fc : Nat) (r : Region) (key : Nat) (o : PendOp) : Region :=
  (tensorRel o).foldl (fun r sel =>
    match hselOf r key sel with
    | some (k, h) => if (r.hnd k h).st = hDraining then freeHnd fc r k h else r
    | none => r) r

/-- What the completion of a tensor operation does (R206, R213-R216). -/
def tensorDone (fc : Nat) (r : Region) (key id : Nat) (o : PendOp) : Region :=
  let d := tdOf r key o.ti
  let n := o.ti.dst.toNat % 4
  let fp64 := tdFp64 d
  let r :=
    if o.code = 0xA4 then
      let (es, sr) := accrdElems (r.ct key) o d
      let r := match hselOf r key o.ti.sa.toNat with
        | some (k, h) => writeTile r (mtAddr k (hndBase (r.hnd k h))) (fmtW (fld d 38 35)) es
        | none => r
      r.updCt key (fun c => let c := { c with sr := sr }; if o.ti.imm.getLsbD 3 then accZero c fp64 n else c)
    else
      let (es, sr) := tensorElems (r.ct key) o d
      r.updCt key (fun c => accWrite { c with sr := sr } fp64 n es)
  let r := tensorFrees fc r key o
  (dropOp r key id o).updCt key (fun c => predUpd c o.ti o.cond)

/-- The tile an ACCRD writes: the linear address of its first word, and its words (R213). -/
def accrdTile (r : Region) (key : Nat) (o : PendOp) : Option (Nat × Nat) :=
  (hselOf r key o.ti.sa.toNat).map (fun x => (mtAddr x.1 (hndBase (r.hnd x.1 x.2)) / 8, 4 * fmtW (fld (tdOf r key o.ti) 38 35)))

/-- An ACCRD's writes follow every earlier Last-local access of its PE to a word of the tile (R93, R213). -/
def tensorMay (r : Region) (key id : Nat) (o : PendOp) : Bool :=
  o.code != 0xA4 || (match accrdTile r key o with
    | none => true
    | some (w, n) => r.flight.all (fun x =>
        !(decide (x.1 < id) && x.2.sp == 0 && decide (w ≤ x.2.addr / 8) && decide (x.2.addr / 8 < w + n)
          && (match x.2.own with | .pe k _ _ => k == key | _ => false)
          && (match x.2.st with | .done => false | .failed _ => false | _ => true))))

/-- Completion of a tensor operation. -/
def completeTensor (fc : Nat) (r : Region) (key id : Nat) (o : PendOp) : Region :=
  if tensorMay r key id o then tensorDone fc r key id o else r

end Sys2Proof.Machine
end

