-- ==== Sys2Proof/Machine/Dram.lean ====
section
/-! DEFINITION. DRAM (R373): its map, words with poison and presence, the bytes of a block, the bits a write sets (R391,
R450) and the events it sends (R440); partition descriptors (R426) and regions of a partition. -/

namespace Sys2Proof.Machine

/-! ## The physical map (R373) -/

/-- Base and size of the memory that holds a physical address. -/
def dramMem (pa : Nat) : Option (Nat × Nat) :=
  if pa < 12 * 2 ^ 36 then some (pa / 2 ^ 36 * 2 ^ 36, 2 ^ 36)
  else if 2 ^ 40 ≤ pa ∧ pa < 2 ^ 40 + 16 * 2 ^ 37 then some (2 ^ 40 + (pa - 2 ^ 40) / 2 ^ 37 * 2 ^ 37, 2 ^ 37)
  else none

def isDram (pa : Nat) : Bool := (dramMem pa).isSome
/-- In the shadow reserve: the top 1/64. -/
def inShadow (pa : Nat) : Bool :=
  match dramMem pa with
  | some (b, n) => decide (n - n / 64 ≤ pa - b)
  | none => false
/-- Bytes a program may own: mapped and outside the reserve. -/
def isData (pa : Nat) : Bool := isDram pa && !inShadow pa
/-- Every byte of a range lies in DRAM. -/
def dramRange (pa n : Nat) : Bool :=
  n = 0 || (match dramMem pa with | some (b, z) => decide (pa + n ≤ b + z) | none => false)

/-- Byte and bit of the presence bit of a word (R84, R385). -/
def shadowAt (pa : Nat) : Nat × Nat :=
  match dramMem pa with
  | some (b, n) => (b + (n - n / 64) + (pa - b) / 64, pa / 8 % 8)
  | none => (0, 0)

/-- Memory number of a local address: 0-11 an HBM4 stack, 12-27 an LPDDR6 channel. -/
def memIdx (pa : Nat) : Nat := if pa < 2 ^ 40 then pa / 2 ^ 36 else 12 + (pa - 2 ^ 40) / 2 ^ 37

/-! ## Descriptors (R426) -/

def State.part (s : State) (p : Nat) : Part := tget s.parts {} p
def State.updPart (s : State) (p : Nat) (f : Part → Part) : State := { s with parts := tupd s.parts {} p f }
def partWord (p : Part) (k : Nat) : Word := p.desc.getD k 0
def partValid (p : Part) : Bool := bitOf (partWord p 0) 63
/-- Current seal version (R79). -/
def sealOf (s : State) (part : Nat) : Nat := fld (partWord (s.part part) 0) 50 36
def partFpol (p : Part) : Nat := fld (partWord p 0) 55 54
def partFtt (p : Part) : Nat := fld (partWord p 19) 41 12 * 2 ^ 12
def partDirty (p : Part) : Nat := fld (partWord p 21) 41 12 * 2 ^ 12
def partHeat (p : Part) : Nat := fld (partWord p 20) 41 12 * 2 ^ 12
def partSpill (p : Part) : Nat := fld (partWord p 22) 41 12 * 2 ^ 12
def partPage (p : Part) (pg : Nat) : Bool := bitOf (partWord p (2 + pg / 64)) (pg % 64)
/-- The partition owns the memory that holds an address (R427). -/
def partOwnsMem (p : Part) (pa : Nat) : Bool :=
  isDram pa && (let m := memIdx pa; if m < 12 then bitOf (partWord p 14) (52 + m) else bitOf (partWord p 14) (36 + (m - 12)))
/-- In the partition's memory: its stacks and channels without their reserves (R427). -/
def partData (p : Part) (pa : Nat) : Bool := isData pa && partOwnsMem p pa
def partCob (p : Part) (c : Nat) : Bool := decide (c < 192) && bitOf (partWord p (16 + c / 64)) (c % 64)
def validParts (s : State) : List Nat := (s.parts.filter (fun x => partValid x.2)).map (·.1)

/-! ## Words and bytes -/

/-- The aligned word that holds a physical address. -/
def State.rd8 (s : State) (pa : Nat) : Val :=
  { bits := BitVec.ofNat 64 (rdNat s.mem (pa / 8 * 8) 8), pois := s.dpois.contains (pa / 8) }
def State.rdW (s : State) (pa : Nat) : Word := (s.rd8 pa).bits
def State.rdWs (s : State) (pa n : Nat) : List Word := (List.range n).map (fun i => s.rdW (pa + 8 * i))
def State.presAt (s : State) (pa : Nat) : Bool := let (a, b) := shadowAt pa; (rdByte s.mem a).getLsbD b

/-- Set or clear one bit of a byte of memory. -/
def setBitAt (m : List Host.Cell) (a b : Nat) (v : Bool) : List Host.Cell :=
  let o := rdByte m a
  wrByte m a (if v then o ||| (1#8 <<< b) else o &&& ~~~(1#8 <<< b))

/-- The partition whose memory holds an address. -/
def State.ownerOf (s : State) (pa : Nat) : Option Nat :=
  (s.parts.find? (fun x => partValid x.2 && partData x.2 pa)).map (·.1)

/-- A write event takes the reservations of the harts on the blocks it writes (RISC-V A, log 10). -/
def State.unreserve (s : State) (pa n : Nat) : State :=
  { s with rsv := s.rsv.filter (fun x => !(decide (pa / 64 ≤ x.2) && decide (64 * x.2 < pa + n))) }

/-- The bits a write event of a page sets: the partition's dirty bitmap (R391) and both tracking bitmaps (R450). -/
def State.track (s : State) (pa : Nat) : State :=
  match s.ownerOf pa with
  | none => s
  | some p =>
    let n := pa / 2 ^ 16 % 2 ^ 26
    let m := setBitAt s.mem (partDirty (s.part p) + n / 8) (n % 8) true
    let tb := fun k => fld (s.ckpt.plan.getD k 0) 41 23 * 2 ^ 23
    { s with mem := if s.ckpt.has then setBitAt (setBitAt m (tb 7 + n / 8) (n % 8) true) (tb 8 + n / 8) (n % 8) true else m }

/-- A write event of a presence bit is one of its page (R391). -/
def State.setPres (s : State) (pa : Nat) (v : Bool) : State :=
  let (a, b) := shadowAt pa
  ({ s with mem := setBitAt s.mem a b v } : State).track pa

/-- An EVENT for each session that has subscribed to the word (R440). -/
def State.events (s : State) (pa : Nat) : State :=
  let a := pa / 8 * 8
  let v := s.rdW a
  let es := (s.sess.filter (fun x => x.2.subs.contains a)).map (fun x => Out.khr 0x31 x.1 0 0 [BitVec.ofNat 64 a, v])
  { s with out := s.out ++ es, notes := if s.parts.any (fun p => !p.2.conns.isEmpty) then s.notes ++ [(a, v)] else s.notes }

/-- A write event of a whole aligned word at a home (R89, R91). -/
def State.wr8 (s : State) (pa : Nat) (v : Val) : State :=
  let a := pa / 8 * 8
  ((({ s with mem := wrNat s.mem a 8 v.bits.toNat, dpois := nset s.dpois (a / 8) v.pois } : State).track a).events a).unreserve a 8

/-- A word the device writes (R320, R330, R341, R344): unpoisoned. -/
def State.wrW (s : State) (pa : Nat) (w : Word) : State := s.wr8 pa { bits := w }
def State.wrWs (s : State) (pa : Nat) (ws : List Word) : State :=
  (lenum ws).foldl (fun s x => s.wrW (pa + 8 * x.1) x.2) s

/-- A write event of n bytes within a word (R91). -/
def State.wrN (s : State) (pa n : Nat) (v : Word) : State :=
  ((({ s with mem := wrNat s.mem pa n v.toNat } : State).track pa).events pa).unreserve pa n

/-- Bytes from memory, and whether a word that holds one is poisoned. -/
def State.rdBs (s : State) (pa n : Nat) : List Byte := rdBytes s.mem pa n
def State.anyPois (s : State) (pa n : Nat) : Bool :=
  s.dpois.any (fun w => decide (pa / 8 ≤ w) && decide (8 * w < pa + n))

/-- Write a block of bytes: whole words lose their poison, words written in part keep it (R91). -/
def State.wrBs (s : State) (pa : Nat) (bs : List Byte) : State :=
  let n := bs.length
  let d := s.dpois.filter (fun w => !(decide (pa ≤ 8 * w) && decide (8 * w + 8 ≤ pa + n)))
  let pages := ((List.range (n / 2 ^ 16 + 2)).map (fun k => (pa / 2 ^ 16 + k) * 2 ^ 16)).filter (fun a => decide (a < pa + n))
  let s := pages.foldl (fun s a => s.track a) { s with mem := wrBytes s.mem pa bs, dpois := d }
  let told := if s.parts.any (fun p => !p.2.conns.isEmpty) then (List.range ((pa % 8 + n + 7) / 8)).map (fun k => pa / 8 * 8 + 8 * k)
    else ((s.sess.map (fun x => x.2.subs)).flatten).eraseDups
  ((told.filter (fun a => decide (pa < a + 8) && decide (a < pa + n))).foldl (fun s a => s.events a) s).unreserve pa n

/-- A fresh name. -/
def State.new (s : State) : State × Nat := ({ s with fresh := s.fresh + 1 }, s.fresh)
/-- A free choice between two outcomes (log 3). -/
def State.flip (s : State) : State × Bool := ({ s with freeC := s.freeC + 1 }, Config.freeBool s.freeC)

/-! ## Regions -/

/-- A region in use (R324). -/
def State.region? (s : State) (rid : Nat) : Option Region :=
  match tfind s.regions rid with
  | some r => if r.st = rNone then none else some r
  | none => none

/-- RCB word 8 (R320). -/
def rcbW8 (r : Region) : Word :=
  BitVec.ofNat 64 ((if r.rest then 0 else r.st) * 2 ^ 61 + (if r.busy then 2 ^ 60 else 0) + r.lastop.toNat * 2 ^ 56 + r.lstat.toNat * 2 ^ 48
    + (if r.res then 2 ^ 47 else 0) + r.frz.toNat * 2 ^ 45 + (if r.sdem then 2 ^ 44 else 0) + (if r.rpq then 2 ^ 43 else 0)
    + (if r.fidl then 2 ^ 42 else 0) + r.doneC % 2 ^ 32)
def rcbW9 (r : Region) : Word := BitVec.ofNat 64 (r.origin * 2 ^ 54 + r.eprio * 2 ^ 50)
def rcbW10 (r : Region) : Word := BitVec.ofNat 64 (r.untrk * 2 ^ 32)
def rcbW11 (r : Region) : Word := BitVec.ofNat 64 r.runs

/-- The device writes RCB words 8-11 (R323). -/
def State.sync (s : State) (rid : Nat) : State :=
  match tfind s.regions rid with
  | none => s
  | some r => s.wrWs (r.rcb + 64) [rcbW8 r, rcbW9 r, rcbW10 r, rcbW11 r]

/-- Change one region and write its RCB words. -/
def State.updSync (s : State) (rid : Nat) (f : Region → Region) : State := (onRegion s rid f).sync rid

/-- The fields of the effective words (R320, R321). -/
def effPrio (r : Region) : Nat := fld r.eff3 5 2
def effFcob (r : Region) : Nat := fld r.eff4 63 56
def effFvec (r : Region) : Nat := fld r.eff4 55 50
def effCyc (r : Region) : Nat := fld r.eff5 63 32

/-- The page of the fabric that holds a page of the Last (R8). -/
def physPage (r : Region) (lp : Nat) : Nat := r.origin + lp / r.w * 32 + lp % r.w
/-- The cluster that holds a tile (R8). -/
def clusterOf (r : Region) (key : Nat) : Nat :=
  let p := physPage r (keyPage key)
  p / 32 / 4 * 8 + p % 32 / 4

end Sys2Proof.Machine
end

