-- ==== Sys2Proof/Machine/Addr.lean ====
section
/-! DEFINITION. Fabric addresses and capabilities: the checks of R75 up to the bounds (R73, R74, R77-R80, R194, R221). -/

namespace Sys2Proof.Machine

/-! ## Capabilities (R77, R78) -/

def capEntry (r : Region) (x : Nat) : List Word := tget r.caps [] x
def capLo (e : List Word) : Word := e.getD 0 0
def capHi (e : List Word) : Word := e.getD 1 0
def capExt (e : List Word) : Word := e.getD 2 0
def capNat (e : List Word) : Nat := (capLo e).toNat + 2 ^ 64 * (capHi e).toNat
def capBase (e : List Word) : Nat := capNat e / 2 ^ 71 % 2 ^ 57
def capLen (e : List Word) : Nat := capNat e / 2 ^ 31 % 2 ^ 40
def capRight (e : List Word) (b : Nat) : Bool := bitOf (capLo e) b
def capPart (e : List Word) : Nat := fld (capLo e) 22 15
def capSeal (e : List Word) : Nat := fld (capLo e) 14 0
def capRemote (e : List Word) : Bool := bitOf (capExt e) 63
def capDev (e : List Word) : Nat := fld (capExt e) 62 44

/-- Bits of the rights (R77). -/
abbrev bR : Nat := 30
abbrev bW : Nat := 29
abbrev bA : Nat := 28
abbrev bM : Nat := 27
abbrev bQE : Nat := 26
abbrev bQD : Nat := 25
abbrev bQS : Nat := 24
abbrev bP : Nat := 23

/-! ## MT bounds (R74) -/

/-- Bytes of an MT that the region may use. -/
def mtLimit (r : Region) : Nat := if r.pair then Config.mtHalf else Config.mtBytes

/-- The range a mode keeps for itself (R74, R271, R279, R294). -/
def mtReserved (p : Plane) : Nat × Nat :=
  let w := p.mode.getD 0 0
  match planeMode p with
  | 1 => (fld w 58 40, fld w 58 40 + fld w 39 21)
  | 2 => (fld w 55 37, fld w 55 37 + fld w 59 56 * fld w 36 24 * 8)
  | 6 => (fld w 57 39, fld w 57 39 + 0x800)
  | 7 => (0, 0x8000)
  | 8 => (0, Config.mtBytes)
  | _ => (0, 0)

/-- An access of n bytes at a linear MT address lies in the Last, in the MT and outside reserved bytes. -/
def mtOk (r : Region) (a n : Nat) : Bool :=
  let off := a % Config.mtBytes
  let (lo, hi) := mtReserved (r.pl (mtAddrKey a))
  decide (a / (8 * Config.mtBytes) < r.w * r.h) && decide (off + n ≤ mtLimit r) && !(decide (off < hi) && decide (lo < off + n))

/-- Where an address leads: an MT byte, a frame slot's byte, or a capability and its virtual address. -/
inductive Place where
  | mt (a : Nat)
  | frame (a : Nat)
  | glob (capx va : Nat) (remote : Bool)
deriving DecidableEq, Repr

/-- The frame home of a CT (R125). -/
def frameHome (r : Region) (key : Nat) : Option Nat :=
  let m := (r.ct key).mode
  if bitOf m 59 then neighbour r.w r.h key (fld m 58 57) else none

/-- Frame slots S and operands n of a FRAME MT (R34, R272). -/
def frameS (p : Plane) : Nat := fld (p.mode.getD 0 0) 56 50
def frameN (p : Plane) : Nat := fld (p.mode.getD 0 0) 59 57 + 1

/-- A capability's checks in the order of R79. -/
def capCheck (r : Region) (sl x off n : Nat) (rights : List Nat) : Except TrapInfo Place :=
  let e := capEntry r x
  let va := capBase e + off
  let t := fun c => ({ code := c, va := va, aux := n, capx := some x } : TrapInfo)
  if capSeal e = 0 ∨ capSeal e ≠ sl then .error (t 0x12)
  else if !capRemote e ∧ capPart e ≠ r.part then .error (t 0x11)
  else if !(rights.all (capRight e)) then .error (t 0x11)
  else if capLen e < off + n then .error (t 0x10)
  else .ok (.glob x va (capRemote e))

/-- Steps 1-3 of R75 for an access of n bytes at EA by the PE at `key`. A frame that reaches past the MT space as a whole is out of
bounds (R275). -/
def locate (r : Region) (key sl : Nat) (ea : Word) (n : Nat) (rights : List Nat) (frameOk wr : Bool) : Except TrapInfo Place :=
  let v := ea.toNat
  let t := fun c => ({ code := c, va := v, aux := n } : TrapInfo)
  match fld ea 63 62 with
  | 0 =>
    if fld ea 61 32 ≠ 0 then .error (t 0x14)
    else if v % n ≠ 0 then .error (t 0x15)
    else if !mtOk r v n then .error (t 0x13)
    else .ok (.mt v)
  | 1 => if v % n ≠ 0 then .error (t 0x15) else capCheck r sl (fld ea 61 54) (fld ea 53 0) n rights
  | 2 =>
    if fld ea 61 42 ≠ 0 ∨ fld ea 31 16 ≠ 0 ∨ !frameOk then .error (t 0x14)
    else
      match frameHome r key with
      | none => .error (t 0x14)
      | some h =>
        let p := r.pl h
        let slot := fld ea 15 0
        let off := (fld ea 41 32 * frameS p + slot) * 8
        if slot * 8 % n ≠ 0 then .error (t 0x15)
        else if frameS p * 8 < slot * 8 + n ∨ mtLimit r < (fld ea 41 32 + 1) * frameS p * 8 ∨ (wr ∧ slot < frameN p) then .error (t 0x13)
        else .ok (.frame (mtAddr h off))
  | _ => .error (t 0x14)

end Sys2Proof.Machine
end

