-- ==== Sys2Proof/Machine/Memory.lean ====
section
/-! DEFINITION. The memory class at firing and at completion: loads and stores, gather and scatter, presence, atomics and
reductions, barriers, locks, queues (R217-R227, R235-R241), VLD and VST (R194). What happens at the home is in Home.lean. -/

namespace Sys2Proof.Machine

/-- IMM8 as a signed offset in 8-byte units (R108, R217). -/
def offOf (t : Ti) : Word := t.imm.signExtend 64 * 8

/-- What a memory instruction asks for: address, bytes, rights, spaces, the operation at the home, release or not. -/
structure MemReq where
  ea     : Word
  n      : Nat := 8
  rights : List Nat := []
  frame  : Bool := false
  wr     : Bool := false
  op     : MOp
  rel    : Bool := false

/-- An access record of operation `id` for a place. -/
def accessOf (key id ix : Nat) (q : MemReq) (p : Place) : Access :=
  match p with
  | .mt a => { own := .pe key id ix, op := q.op, sp := 0, addr := a, seq := id, rel := q.rel, ea := q.ea }
  | .frame a => { own := .pe key id ix, op := q.op, sp := 2, addr := a, seq := id, rel := q.rel, ea := q.ea }
  | .glob x va _ => { own := .pe key id ix, op := q.op, sp := 1, addr := va, capx := x, seq := id, rel := q.rel, ea := q.ea }

/-- Issue an access: it travels to its home under a fresh number. -/
def issue (a : Access) (r : Region) : Region × Nat :=
  ({ r with flight := tset r.flight r.seq a, seq := r.seq + 1 }, r.seq)

/-- Start a memory operation: the operation, then its accesses in ascending address order. -/
def startMem (x : At) (op : Nat) (t : Ti) (o : PendOp) (as : List Access) (r : Region) : Region :=
  let id := r.seq
  let r := startOp x op t o r
  let (r, ns) := as.foldl (fun p a => let (r', n) := issue a p.1; (r', p.2 ++ [n])) (r, ([] : List Nat))
  r.updCt x.key (fun c => { c with ops := tupd c.ops {} id (fun o => { o with accs := ns }) })

/-- THE MEMORY FRAME (R217): a poisoned address traps, then the operand poison of the instruction, then the checks; a
request that passes is issued. -/
def fireMem (x : At) (op : Nat) (t : Ti) (sl : Nat) (consB : Bool) (f : Opnds → MemReq) (r : Region) : Region :=
  fire x op t (popsOf op t) (fun r =>
    let o := opndsOf r x.key op t
    let q := f o
    if o.a.pois || (consB && o.b.pois) then .error { poisonTrap with va := q.ea.toNat }
    else
      match locate r x.key sl q.ea q.n q.rights q.frame q.wr with
      | .error e => .error e
      | .ok p =>
        .ok (startMem x op t { a := o.a, b := o.b, c := o.d, ph := 4, col := colourOf r x.key op t }
          [accessOf x.key r.seq 0 q p] r)) r

/-- Low n bytes of a value. -/
def lowBytes (n : Nat) (w : Word) : Word := BitVec.ofNat 64 (w.toNat % 2 ^ (8 * n))

def szOf (t : Ti) : Nat := 2 ^ (t.imm.toNat % 4)
def eaOff (t : Ti) (o : Opnds) : Word := o.a.bits + offOf t

/-- The seal of the current region's partition. -/
def State.sealNow (s : State) : Nat := sealOf s s.cur.part

/-- A memory instruction of the current slot. -/
def mem (s : State) (op : Nat) (t : Ti) (consB : Bool) (f : Opnds → MemReq) : Res :=
  pe s (fun x r => fireMem x op t s.sealNow consB f r)

/-- The request of each memory instruction but queue operations (R217, R220-R227, R233-R238). -/
def reqOf (op : Nat) (t : Ti) (o : Opnds) : MemReq :=
  match op with
  | 0xC0 => { ea := eaOff t o, rights := [bR], frame := true, op := .read 8 }
  | 0xC1 => { ea := eaOff t o, rights := [bW], frame := true, wr := true, op := .write 8 o.b }
  | 0xC2 => { ea := o.a.bits, n := szOf t, rights := [bR], frame := true, op := .read (szOf t) }
  | 0xC3 => { ea := o.a.bits, n := szOf t, rights := [bW], frame := true, wr := true, op := .write (szOf t) o.b }
  | 0xD2 => { ea := o.a.bits + o.b.bits * BitVec.ofNat 64 (szOf t), n := szOf t, rights := [bR], frame := true, op := .read (szOf t) }
  | 0xD3 => { ea := o.a.bits + o.b.bits * BitVec.ofNat 64 (szOf t), n := szOf t, rights := [bW], frame := true, wr := true, op := .write (szOf t) o.d }
  | 0xC4 => { ea := eaOff t o, rights := [bR, bP], op := .ldp }
  | 0xC5 => { ea := eaOff t o, rights := [bW, bP], op := .stp o.b, rel := true }
  | 0xC6 => { ea := eaOff t o, rights := [bW, bP], op := .clrp }
  | 0xC7 => { ea := eaOff t o, rights := [bR, bP], op := .ldne o.b.bits }
  | 0xC8 => { ea := eaOff t o, rights := [bR, bW, bA], op := .rmw .add 8 true o.b {} }
  | 0xC9 => { ea := eaOff t o, rights := [bR, bW, bA], op := .rmw .min 8 true o.b {} }
  | 0xCA => { ea := eaOff t o, rights := [bR, bW, bA], op := .rmw .max 8 true o.b {} }
  | 0xCB => { ea := eaOff t o, rights := [bR, bW, bA], op := .rmw .and 8 true o.b {} }
  | 0xCC => { ea := eaOff t o, rights := [bR, bW, bA], op := .rmw .or 8 true o.b {} }
  | 0xCD => { ea := eaOff t o, rights := [bR, bW, bA], op := .rmw .xor 8 true o.b {} }
  | 0xCE => { ea := eaOff t o, rights := [bR, bW, bA], op := .rmw .xchg 8 true o.b {} }
  | 0xCF => { ea := eaOff t o, rights := [bR, bW, bA], op := .rmw .cas 8 true o.b o.d }
  | 0xD0 => { ea := eaOff t o, rights := [bW, bA], op := .rmw .add 8 false o.b {} }
  | 0xD1 => let n := if t.imm.getLsbD 0 then 4 else 8; { ea := o.a.bits, n := n, rights := [bW, bA], op := .rmw .fadd n false o.b {} }
  | 0xDA => { ea := o.a.bits, rights := [bR], op := .read 8 }
  | 0xDB => { ea := o.a.bits, rights := [bR], op := .read 8 }
  | 0xDC => { ea := o.a.bits, rights := [bR], op := .read 8 }
  | 0xDD => { ea := o.a.bits, rights := [bR, bW, bA], op := .barr (t.imm.getLsbD 0), rel := true }
  | 0xDE => { ea := eaOff t o, rights := [bR, bW, bA], op := .mlock (o.b.bits.truncate 32) }
  | 0xDF => { ea := eaOff t o, rights := [bR, bW, bA], op := .munlk }
  | _ => { ea := o.a.bits, op := .clrp }

/-! ## Loads and stores (R220, R222) -/

def execLd (t : Ti) (s : State) : Res := mem s 0xC0 t false (reqOf 0xC0 t)
def execSt (t : Ti) (s : State) : Res := mem s 0xC1 t false (reqOf 0xC1 t)
def execLdw (t : Ti) (s : State) : Res := mem s 0xC2 t false (reqOf 0xC2 t)
def execStw (t : Ti) (s : State) : Res := mem s 0xC3 t false (reqOf 0xC3 t)
def execGath (t : Ti) (s : State) : Res := mem s 0xD2 t true (reqOf 0xD2 t)
def execScat (t : Ti) (s : State) : Res := mem s 0xD3 t true (reqOf 0xD3 t)

/-! ## Presence and watched words (R223, R85, R94) -/

def execLdp (t : Ti) (s : State) : Res := mem s 0xC4 t false (reqOf 0xC4 t)
def execStp (t : Ti) (s : State) : Res := mem s 0xC5 t false (reqOf 0xC5 t)
def execClrp (t : Ti) (s : State) : Res := mem s 0xC6 t false (reqOf 0xC6 t)
def execLdne (t : Ti) (s : State) : Res := mem s 0xC7 t true (reqOf 0xC7 t)

/-! ## Atomics and reductions (R226, R227) -/

def execAtadd (t : Ti) (s : State) : Res := mem s 0xC8 t true (reqOf 0xC8 t)
def execAtmin (t : Ti) (s : State) : Res := mem s 0xC9 t true (reqOf 0xC9 t)
def execAtmax (t : Ti) (s : State) : Res := mem s 0xCA t true (reqOf 0xCA t)
def execAtand (t : Ti) (s : State) : Res := mem s 0xCB t true (reqOf 0xCB t)
def execAtor (t : Ti) (s : State) : Res := mem s 0xCC t true (reqOf 0xCC t)
def execAtxor (t : Ti) (s : State) : Res := mem s 0xCD t true (reqOf 0xCD t)
def execAtxchg (t : Ti) (s : State) : Res := mem s 0xCE t false (reqOf 0xCE t)
def execAtcas (t : Ti) (s : State) : Res := mem s 0xCF t true (reqOf 0xCF t)
def execRedadd (t : Ti) (s : State) : Res := mem s 0xD0 t true (reqOf 0xD0 t)
def execRedfadd (t : Ti) (s : State) : Res := mem s 0xD1 t true (reqOf 0xD1 t)

/-! ## Wait entries, barriers, locks (R233-R238): the entry or the word is acted on at the object's home -/

def execWreg (t : Ti) (s : State) : Res := mem s 0xDA t false (reqOf 0xDA t)
def execWhold (t : Ti) (s : State) : Res := mem s 0xDB t false (reqOf 0xDB t)
def execWdrop (t : Ti) (s : State) : Res := mem s 0xDC t false (reqOf 0xDC t)
def execBarr (t : Ti) (s : State) : Res := mem s 0xDD t false (reqOf 0xDD t)
def execMlock (t : Ti) (s : State) : Res := mem s 0xDE t true (reqOf 0xDE t)
def execMunlk (t : Ti) (s : State) : Res := mem s 0xDF t false (reqOf 0xDF t)

/-! ## Software queues (R240, R241): a global address, a multiple of 64 -/

/-- Space, then alignment; the capability and the descriptor are checked by the queue controller at completion (R240, R396). -/
def fireQueue (x : At) (op : Nat) (t : Ti) (rel : Bool) (f : Opnds → MOp) (r : Region) : Region :=
  fire x op t (popsOf op t) (fun r =>
    let o := opndsOf r x.key op t
    let ea := o.a.bits
    let tr := fun c => ({ code := c, va := ea.toNat, aux := 64 } : TrapInfo)
    if o.a.pois then .error { poisonTrap with va := ea.toNat }
    else if fld ea 63 62 ≠ 1 then .error (tr 0x14)
    else if ea.toNat % 64 ≠ 0 then .error (tr 0x15)
    else
      .ok (startMem x op t { a := o.a, b := o.b, ph := 4, col := colourOf r x.key op t }
        [accessOf x.key r.seq 0 { ea := ea, op := f o, rel := rel }
          (.glob (fld ea 61 54) (capBase (capEntry r (fld ea 61 54)) + fld ea 53 0) false)] r)) r

def execQenq (t : Ti) (s : State) : Res := pe s (fun x r => fireQueue x 0xEB t true (fun o => .qenq o.b) r)
def execQdeq (t : Ti) (s : State) : Res := pe s (fun x r => fireQueue x 0xEC t false (fun _ => .qdeq) r)
def execQsteal (t : Ti) (s : State) : Res := pe s (fun x r => fireQueue x 0xED t false (fun _ => .qsteal) r)

/-! ## Vector memory access (R194, R195) -/

/-- The checks of R194 in their order; the linear MT address of the 64 bytes and its space. -/
def vlocate (r : Region) (key : Nat) (ea : Word) (wr : Bool) : Except TrapInfo (Nat × Nat) :=
  let t := fun c => ({ code := c, va := ea.toNat, aux := 64 } : TrapInfo)
  if fld ea 63 62 = 1 then .error (t 0x14)
  else
    match locate r key 0 ea 64 [] true wr with
    | .error e => .error e
    | .ok (.mt a) => .ok (a, 0)
    | .ok (.frame a) => .ok (a, 2)
    | .ok (.glob _ _ _) => .error (t 0x14)

/-- Bytes of word k of a vector that active lanes cover. -/
def laneBytes (f : Nat) (mask : BitVec 128) (k : Nat) : Byte :=
  let w := fmtW f / 8
  BitVec.ofNat 8 ((List.range 8).foldr (fun b acc => (if mask.getLsbD ((8 * k + b) / Nat.max 1 w) then 1 else 0) + 2 * acc) 0)

/-- Words of a vector that hold lanes of a format: six for the 6-bit formats, whose bytes 48-63 are written 0 and ignored (R181). -/
def fmtWords (f : Nat) : Nat := if fmtW f = 6 then 6 else 8

/-- The bytes a VST of a format writes: those of active lanes (R194). -/
def vstBytes (t : Ti) (mask : BitVec 128) (k : Nat) : Byte :=
  if mskOf t then laneBytes (fmtOf t) mask k else if k < fmtWords (fmtOf t) then 255 else 0

/-- VLD: eight reads in ascending address order. -/
def execVld (t : Ti) (s : State) : Res :=
  pe s (fun x r => fire x 0x83 t [] (fun r =>
    let a := vIndex r x.key t.sa
    if a.pois then .error { poisonTrap with va := a.bits.toNat }
    else
      match vlocate r x.key a.bits false with
      | .error e => .error e
      | .ok (p, sp) =>
        let i := vinOf r x.key 0x83 t
        .ok (startMem x 0x83 t { a := a, vd := i.d, mask := i.mask, ph := 4, col := colourOf r x.key 0x83 t }
          ((List.range 8).map (fun k => { own := .pe x.key r.seq k, op := .read 8, sp := sp, addr := p + 8 * k, seq := r.seq, ea := a.bits })) r)) r)

/-- VST: one write for each word with an active lane; poisoned lanes carry their word's poison (R194). -/
def execVst (t : Ti) (s : State) : Res :=
  pe s (fun x r => fire x 0x84 t (popsOf 0x84 t) (fun r =>
    let a := vIndex r x.key t.sa
    if a.pois then .error { poisonTrap with va := a.bits.toNat }
    else
      match vlocate r x.key a.bits true with
      | .error e => .error e
      | .ok (p, sp) =>
        let i := vinOf r x.key 0x84 t
        let ks := (List.range 8).filter (fun k => vstBytes t i.mask k != 0)
        .ok (startMem x 0x84 t { a := a, ph := 4 }
          (ks.map (fun k => { own := .pe x.key r.seq k, sp := sp, addr := p + 8 * k, seq := r.seq, ea := a.bits,
                              op := .writeMask (vstBytes t i.mask k) { bits := vword i.b.bits k, pois := i.b.pois.getLsbD k } })) r)) r)

/-! ## Completion (R217, R220-R227, R235-R241) -/

/-- The accesses of an operation. -/
def opAccs (r : Region) (o : PendOp) : List Access := o.accs.filterMap (fun n => tfind r.flight n)

/-- Every access has been performed or has failed. -/
def accsDone (r : Region) (o : PendOp) : Bool :=
  (opAccs r o).all (fun a => match a.st with | .done => true | .failed _ => true | _ => false)

/-- The first failure of an operation's accesses. -/
def accsFail (r : Region) (o : PendOp) : Option (Nat × Access) :=
  (opAccs r o).findSome? (fun a => match a.st with | .failed c => some (c, a) | _ => none)

/-- Sign or zero extension of a loaded value of n bytes. -/
def loadExt (n : Nat) (sg : Bool) (v : Val) : Val :=
  { v with bits := if sg then sxTo (8 * n) v.bits.toNat else lowBytes n v.bits }

/-- Result r and cond of a memory operation from its answers. -/
def memResult (r : Region) (o : PendOp) : Val × Bool :=
  let a := ((opAccs r o).headD { own := .pe 0 0 0, op := .clrp }).ans
  let nz := fun (v : Val) => (v, condNz v)
  match o.code with
  | 0xC0 => nz a
  | 0xC2 => nz (loadExt (szOf o.ti) (o.ti.imm.getLsbD 2) a)
  | 0xD2 => nz (loadExt (szOf o.ti) (o.ti.imm.getLsbD 2) a)
  | 0xC4 => nz a
  | 0xC7 => nz a
  | 0xC8 => nz a
  | 0xC9 => nz a
  | 0xCA => nz a
  | 0xCB => nz a
  | 0xCC => nz a
  | 0xCD => nz a
  | 0xCE => nz a
  | 0xCF => (a, a.bits == o.b.bits)
  | 0xDD => (a, decide (fld a.bits 15 0 ≠ 0) && !a.pois && fld a.bits 31 16 + 1 == fld a.bits 15 0)
  | 0xDF => (a, bitOf a.bits 63 && fld a.bits 43 32 == r.rid && !a.pois)
  | 0xEB => (a, a.bits != 0)
  | 0xEC => (a, true)
  | 0xED => ((opAccs r o).headD { own := .pe 0 0 0, op := .clrp }).ans |> fun v => (v, o.cond)
  | _ => ({}, false)

/-- A load of a vector (R194): active lanes from memory, masked-off lanes as R182. -/
def vldResult (r : Region) (o : PendOp) : VVal :=
  let mem := vofWords ((opAccs r o).map (fun a => a.ans))
  let f := fmtOf o.ti
  if mskOf o.ti then
    ofPLanes f ((List.range (laneCount f)).map (fun i =>
      if o.mask.getLsbD i then (lane f mem.bits i, lanePois f mem i) else oldLane f o.ti o.vd i))
  else vofWords (((opAccs r o).map (fun a => a.ans)).take (fmtWords f))

end Sys2Proof.Machine
end

