-- ==== Sys2Proof/Machine/Xlate.lean ====
section
/-! DEFINITION. Translation (R374-R376, R379): the walk of a partition's table, the cluster caches, and the rights of a leaf. -/

namespace Sys2Proof.Machine

/-- A leaf and the level it stands on. -/
abbrev Leaf := Word × Nat

/-- Why a walk fails (R379, R400): the level, and whether the entry was poisoned. -/
structure Miss where
  lvl  : Nat
  pois : Bool := false
deriving DecidableEq, Repr

/-- Index of an address at a level (R374). -/
def lvlIdx (lvl va : Nat) : Nat :=
  match lvl with
  | 1 => va / 2 ^ 48 % 512 | 2 => va / 2 ^ 39 % 512 | 3 => va / 2 ^ 30 % 512 | 4 => va / 2 ^ 21 % 512 | _ => va / 2 ^ 16 % 32

def leafPpn (w : Word) : Nat := fld w 41 16
def leafPeer (w : Word) : Bool := bitOf w 42
def leafDev (w : Word) : Nat := fld w 61 43
def leafR (w : Word) : Bool := bitOf w 1
def leafW (w : Word) : Bool := bitOf w 2
def leafPr (w : Word) : Bool := bitOf w 3

/-- A valid, well-formed leaf at its level (R375). -/
def leafOk (lvl : Nat) (w : Word) : Bool :=
  decide (4 ≤ lvl) && fld w 15 4 == 0 && !bitOf w 0 && (lvl != 4 || leafPpn w % 32 == 0)
/-- A valid, well-formed pointer at its level (R375). -/
def ptrOk (lvl : Nat) (w : Word) : Bool :=
  decide (lvl < 5) && fld w 61 42 == 0 && fld w 7 0 == 0 && (lvl == 4 || fld w 41 8 % 16 == 0)

/-- The walk from a table at level `lvl` (R374, R375): the leaf, and where it lies. -/
def walkFrom (fuel : Nat) (s : State) (lvl base va : Nat) : Except Miss (Leaf × Nat) :=
  match fuel with
  | 0 => .error { lvl := lvl }
  | f + 1 =>
    let a := base + 8 * lvlIdx lvl va
    let e := s.rd8 a
    if e.pois then .error { lvl := lvl, pois := true }
    else if !bitOf e.bits 63 then .error { lvl := lvl }
    else if bitOf e.bits 62 then (if leafOk lvl e.bits then .ok ((e.bits, lvl), a) else .error { lvl := lvl })
    else if ptrOk lvl e.bits then walkFrom f s (lvl + 1) (fld e.bits 41 8 * 256) va
    else .error { lvl := lvl }

/-- A walk of a partition's table. -/
def State.walk (s : State) (part va : Nat) : Except Miss (Leaf × Nat) := walkFrom 5 s 1 (partFtt (s.part part)) (va % 2 ^ 57)

/-- Physical address of a virtual address under a leaf. -/
def leafPa (l : Leaf) (va : Nat) : Nat := leafPpn l.1 * 2 ^ 16 + (if l.2 = 4 then va % 2 ^ 21 else va % 2 ^ 16)

/-- The cluster caches (R376): a cached leaf may serve or may have been dropped (log 15); a walk caches the leaf it finds. -/
def State.lookup (s : State) (part cl va : Nat) : State × Except Miss Leaf :=
  let k := cl * 2 ^ 41 + va % 2 ^ 57 / 2 ^ 16
  let go := fun (s : State) =>
    match s.walk part va with
    | .error e => (s, .error e)
    | .ok (l, _) => (s.updPart part (fun p => { p with tlb := tset p.tlb k l }), .ok l)
  match tfind (s.part part).tlb k with
  | some l => let (s, hit) := s.flip; if hit then (s, .ok l) else go s
  | none => go s

/-- Leaf rights an operation needs: read, write, presence (R376). -/
def opNeeds (op : MOp) : Bool × Bool × Bool :=
  match op with
  | .read _ => (true, false, false)
  | .write _ _ => (false, true, false)
  | .writeMask _ _ => (false, true, false)
  | .rmw _ _ ret _ _ => (ret, true, false)
  | .fsum _ _ => (false, true, false)
  | .rmws _ _ _ => (false, true, false)
  | .ldp => (true, false, true)
  | .ldne _ => (true, false, true)
  | .stp _ => (false, true, true)
  | .clrp => (false, true, true)
  | _ => (true, true, false)

def opWrites (op : MOp) : Bool := (opNeeds op).2.1

/-- A leaf's rights and place for an access (R376, R379): XLATE_PERM, or the home. -/
def leafHome (p : Part) (l : Leaf) (va : Nat) (op : MOp) : Option Home :=
  let (r, w, pr) := opNeeds op
  if (r && !leafR l.1) || (w && !leafW l.1) || (pr && !leafPr l.1) then none
  else if leafPeer l.1 then some (.peer (leafDev l.1) (leafPa l va))
  else if partData p (leafPa l va) then some (Home.dram (leafPa l va))
  else none

/-- The trap of a failed walk (R379, R400). -/
def missTrap (m : Miss) (elem va : Nat) : TrapInfo :=
  { code := 0x18, elem := elem, va := va, aux := m.lvl % 8 + (if m.pois then 8 else 0) }

/-- Translation of a single access through the cluster of its tile (R376, R379). -/
def State.xlate (s : State) (part cl va elem : Nat) (op : MOp) : State × Except TrapInfo Home :=
  match s.lookup part cl va with
  | (s, .error m) => (s, .error (missTrap m elem va))
  | (s, .ok l) =>
    match leafHome (s.part part) l va op with
    | some h => (s, .ok h)
    | none => (s, .error { code := 0x19, elem := elem, va := va })

end Sys2Proof.Machine
end

