-- ==== Sys2Proof/Machine/Home.lean ====
section
/-! DEFINITION. The homes (R71, R81-R85, R89-R95, R223-R227, R235-R241): one operation on one location, deferral and release,
and the order a PE's accesses keep (R93, R94). -/

namespace Sys2Proof.Machine

/-! ## One operation on one location -/

/-- What becomes of an operation at its location: performed with an answer, the word it leaves and the presence bit it
leaves; failed with a trap code; deferred; arrived and now waiting as another operation. -/
inductive HRes where
  | done (ans : Val) (new : Option Val) (pres : Option Bool)
  | fail (code : Nat)
  | defer
  | arrive (new : Option Val) (wait : MOp)
deriving DecidableEq, Repr

/-- n bytes at offset o of a word. -/
def subGet (old : Val) (o n : Nat) : Val := { old with bits := BitVec.ofNat 64 (old.bits.toNat / 2 ^ (8 * o) % 2 ^ (8 * n)) }

/-- Replace n bytes at offset o: the poison of R91. DESIGN CHOICE (log 39): where a capability's BASE is no multiple of 8, an access aligned
as R75 judges it may reach past the aligned word; the bytes past it are dropped. -/
def subSet (old : Val) (o n : Nat) (v : Val) : Val :=
  let m : Word := BitVec.ofNat 64 ((2 ^ (8 * n) - 1) * 2 ^ (8 * o))
  { bits := (old.bits &&& ~~~m) ||| ((v.bits <<< (8 * o)) &&& m), pois := if n = 8 then v.pois else v.pois || old.pois }

/-- Replace the bytes of a mask (R89, R194). -/
def maskSet (old : Val) (m : Byte) (v : Val) : Val :=
  let k : Word := (List.range 8).foldl (fun (acc : Word) i => if m.getLsbD i then acc ||| ((0xFF : Word) <<< (8 * i)) else acc) 0
  { bits := (old.bits &&& ~~~k) ||| (v.bits &&& k), pois := if m = 255 then v.pois else v.pois || old.pois }

/-- The value an atomic or reduction of n bytes writes (R226, R227, R260). -/
def rmwVal (f : Rmw) (n : Nat) (o b : Word) : Word :=
  match f with
  | .add => o + b
  | .min => if (sxTo (8 * n) o.toNat).toInt ≤ (sxTo (8 * n) b.toNat).toInt then o else b
  | .max => if (sxTo (8 * n) b.toNat).toInt ≤ (sxTo (8 * n) o.toNat).toInt then o else b
  | .and => o &&& b
  | .or => o ||| b
  | .xor => o ^^^ b
  | .xchg => b
  | .cas => o
  | .fadd =>
    let ft := if n = 4 then 1 else 0
    BitVec.ofNat 64 (rnd ft 0 false false 0 (addVals 0 (fdec ft (o.toNat % 2 ^ (8 * n))) (fdec ft (b.toNat % 2 ^ (8 * n))))).1

/-- The exact sum of a location's number and some others, rounded once (R277). -/
def fsumVal (n : Nat) (o : Word) (vs : List Word) : Word :=
  let ft := if n = 4 then 1 else 0
  let d := fun (w : Word) => fdec ft (w.toNat % 2 ^ (8 * n))
  BitVec.ofNat 64 (rnd ft 0 false false 0 (vs.foldl (fun a v => addVals 0 a (d v)) (d o))).1

/-- A copy's reducing elements in one word, in order (R89, R260, R268): the word after them, or the word where one found it poisoned, with
that element's place from 1. -/
def rmwFold (f : Rmw) (n k : Nat) (w : Val) : List (Nat × Val) → Val × Nat
  | [] => (w, 0)
  | e :: l =>
    if w.pois then (w, k)
    else rmwFold f n (k + 1) (subSet w e.1 n { bits := rmwVal f n (subGet w e.1 n).bits e.2.bits, pois := e.2.pois }) l

/-- The word of a held lock (R236). -/
def lockWord (rid : Nat) (tag : BitVec 32) : Word := BitVec.ofNat 64 (2 ^ 63 + rid * 2 ^ 32 + tag.toNat)

/-- An operation on the aligned word `old` with presence `pr`, at byte offset `o`, for region `rid` (R82, R220-R227, R235-R238). -/
def homeOp (op : MOp) (rid o : Nat) (old : Val) (pr : Bool) : HRes :=
  match op with
  | .read n => .done (subGet old o n) none none
  | .write n v => .done {} (some (subSet old o n v)) none
  | .writeMask m v => .done {} (some (maskSet old m v)) none
  | .rmw f n ret b c =>
    let cur := subGet old o n
    match f with
    | .xchg => .done cur (some (subSet old o n b)) none
    | .cas =>
      if old.pois then .fail 0x21
      else if cur.bits = b.bits then .done cur (some (subSet old o n c)) none
      else .done cur none none
    | f =>
      if old.pois then .fail 0x21
      else .done (if ret then cur else {}) (some (subSet old o n { bits := rmwVal f n cur.bits b.bits, pois := b.pois })) none
  | .fsum n vs =>
    if old.pois then .fail 0x21
    else .done {} (some (subSet old o n { bits := fsumVal n (subGet old o n).bits (vs.map (fun v => v.bits)), pois := vs.any (fun v => v.pois) })) none
  | .rmws f n els =>
    let (w, k) := rmwFold f n 1 old els
    if k = 1 then .fail 0x21 else .done { bits := BitVec.ofNat 64 k } (some w) none
  | .ldp => if pr then .done old none none else .defer
  | .stp v => if pr then .fail 0x20 else .done {} (some v) (some true)
  | .clrp => .done {} none (some false)
  | .ldne v => if old.pois || old.bits != v then .done old none none else .defer
  | .barr w =>
    let tot := fld old.bits 15 0
    let cnt := fld old.bits 31 16
    let gen := fld old.bits 63 32
    if old.pois ∨ tot = 0 ∨ tot ≤ cnt then .done old none none
    else if cnt + 1 = tot then .done old (some { bits := BitVec.ofNat 64 ((gen + 1) % 2 ^ 32 * 2 ^ 32 + tot) }) none
    else
      let new : Val := { bits := BitVec.ofNat 64 (gen * 2 ^ 32 + (cnt + 1) * 2 ^ 16 + tot) }
      if w then .arrive (some new) (.barrWait old) else .done old (some new) none
  | .barrWait v => if fld old.bits 63 32 != fld v.bits 63 32 then .done v none none else .defer
  | .mlock tag => if old.pois || bitOf old.bits 63 then .defer else .done {} (some { bits := lockWord rid tag }) none
  | .munlk =>
    if !old.pois && bitOf old.bits 63 && fld old.bits 43 32 == rid then .done old (some {}) none else .done old none none
  | .qenq _ => .defer
  | .qdeq => .defer
  | .qsteal => .defer

/-! ## Locations -/

/-- A location as the homes know it: a word of a region's MTs or a DRAM word. -/
inductive Loc where
  | mt (rid a : Nat)
  | dram (pa : Nat)
deriving DecidableEq, Repr

def State.locVal (s : State) (l : Loc) : Val :=
  match l with
  | .mt rid a => (s.region rid).mtRead (a / 8 * 8) 8
  | .dram pa => s.rd8 pa

def State.locPres (s : State) (l : Loc) : Bool :=
  match l with
  | .mt rid a => (s.region rid).pres.contains (a / 8)
  | .dram pa => s.presAt pa

def State.locWrite (s : State) (l : Loc) (v : Val) : State :=
  match l with
  | .mt rid a => onRegion s rid (fun r => r.mtWrite (a / 8 * 8) 8 v)
  | .dram pa => s.wr8 pa v

def State.locSetPres (s : State) (l : Loc) (b : Bool) : State :=
  match l with
  | .mt rid a => onRegion s rid (fun r => { r with pres := nset r.pres (a / 8) b })
  | .dram pa => s.setPres pa b

/-- The location of an access that has reached its home. -/
def accLoc (rid : Nat) (a : Access) : Loc := if a.sp = 1 then .dram (a.pa / 8 * 8) else .mt rid (a.addr / 8 * 8)
def accOff (a : Access) : Nat := (if a.sp = 1 then a.pa else a.addr) % 8

/-- The tile an access issues from. -/
def ownerTile (r : Region) (a : Access) : Nat :=
  match a.own with
  | .pe k _ _ => k
  | .strm c _ _ => (tget r.strms {} c).tile
  | .copy c _ _ _ => (tget r.copies {} c).tile
  | .unit k _ => k
  | .peer _ _ => 0

/-- Change an access of a region. -/
def setAcc (s : State) (rid acc : Nat) (f : Access → Access) : State :=
  onRegion s rid (fun r =>
    match tfind r.flight acc with
    | some a => { r with flight := tset r.flight acc (f a) }
    | none => r)

/-! ## Software queues (R240, R241) -/

/-- Effect of a queue operation on HEAD, TAIL and an item; none when it must wait. -/
def queueStep (op : MOp) (head tail n : Word) : Option (Bool × Word × Word × Nat) :=
  match op with
  | .qenq _ => if (tail - head).toNat < n.toNat then some (true, head, tail + 1, (tail.toNat % n.toNat)) else some (false, head, tail, 0)
  | .qdeq => if tail ≠ head then some (true, head + 1, tail, head.toNat % n.toNat) else none
  | .qsteal => if tail ≠ head then some (true, head, tail - 1, (tail - 1).toNat % n.toNat) else some (false, head, tail, 0)
  | _ => none

/-- What a queue operation does to the queue whose descriptor lies at pa. -/
def State.queueNext (s : State) (pa : Nat) (op : MOp) : Option (Bool × Word × Word × Nat) :=
  queueStep op (s.rdW pa) (s.rdW (pa + 8)) (BitVec.ofNat 64 (2 ^ fld (s.rdW (pa + 16)) 5 0))

/-- A queue operation moves one item: HEAD and TAIL become h and t, and the item word is written or read. -/
def State.queueMove (s : State) (pa item : Nat) (op : MOp) (h t : Word) : State × Val :=
  match op with
  | .qenq v => ((s.wr8 item v).wrW (pa + 8) t, { bits := 1 })
  | .qdeq => (s.wrW pa h, s.rd8 item)
  | _ => (s.wrW (pa + 8) t, s.rd8 item)

/-- Finish a queue access: its answer, and whether an item moved, kept by the operation of a PE or by a peer's access. -/
def doneQueue (s : State) (rid acc : Nat) (v : Val) (moved : Bool) : State :=
  let s := setAcc s rid acc (fun a => { a with st := .done, ans := v })
  match (tfind (s.region rid).flight acc).map (fun (a : Access) => a.own) with
  | some (Owner.pe k id _) =>
    onRegion s rid (fun r => match r.op? k id with | some o => r.setOp k id { o with cond := moved } | none => r)
  | some (Owner.peer _ _) => setAcc s rid acc (fun a => { a with rel := moved })
  | _ => s

/-- Deferred accesses at a location, oldest first: region, access. -/
def State.deferredAt (s : State) (l : Loc) : List (Nat × Nat × Access) :=
  let all := (s.regions.map (fun x => x.2.flight.filterMap (fun a =>
    match a.2.st with
    | .deferred n => if accLoc x.1 a.2 = l then some (n, x.1, a.1, a.2) else none
    | _ => none))).flatten
  (sortBy (fun x y => decide (x.1 ≤ y.1)) all).map (fun x => x.2)

/-- Apply a performed operation to its location. -/
def State.apply (s : State) (l : Loc) (new : Option Val) (pres : Option Bool) : State :=
  let s := match new with | some v => s.locWrite l v | none => s
  match pres with | some b => s.locSetPres l b | none => s

/-- Release deferred operations whose requirement now holds, oldest first (R224). -/
def State.release (fuel : Nat) (s : State) (l : Loc) : State :=
  match fuel with
  | 0 => s
  | f + 1 =>
    let ready := (s.deferredAt l).filterMap (fun x =>
      match homeOp x.2.2.op (x.2.2.remote.getD x.1) (accOff x.2.2) (s.locVal l) (s.locPres l) with
      | .done ans new pres => some (x.1, x.2.1, ans, new, pres)
      | _ => none)
    match ready with
    | [] => s
    | (rid, acc, ans, new, pres) :: _ =>
      State.release f (setAcc (s.apply l new pres) rid acc (fun a => { a with st := .done, ans := ans })) l

/-- The MT of the fabric that holds a linear address of a region: its page and its place in the page. Regions that share an Insole-paired
page share its MTs (R468). -/
def physMt (r : Region) (a : Nat) : Nat × Nat := (physPage r (keyPage (mtAddrKey a)), keyPos (mtAddrKey a))

/-- Every access of a location's deferral store: the MT bank of R468, or the DRAM memory (R83, log 16). -/
def State.storeCount (s : State) (l : Loc) : Nat × Nat :=
  let same := fun (m : Loc) =>
    match l, m with
    | .mt r a, .mt q b =>
      (if r = q then a / Config.mtBytes == b / Config.mtBytes else physMt (s.region r) a == physMt (s.region q) b) && a / 8 % 32 == b / 8 % 32
    | .dram a, .dram b => memIdx a == memIdx b
    | _, _ => false
  ((s.regions.map (fun x => (x.2.flight.filter (fun a =>
      (match a.2.st with | .deferred _ => true | _ => false) && same (accLoc x.1 a.2))).length)).foldl (· + ·) 0,
    match l with | .mt _ _ => Config.bankDefer | .dram _ => Config.dramDefer)

/-- An access takes a place in the deferral store of its location, or waits in the network until one is free (R83). -/
def State.deferAcc (s : State) (rid acc : Nat) (l : Loc) (op : MOp) : State :=
  let (k, cap) := s.storeCount l
  if k < cap then { setAcc s rid acc (fun a => { a with st := .deferred s.dord, op := op }) with dord := s.dord + 1 }
  else setAcc s rid acc (fun a => { a with st := .waiting, op := op })

/-- An access performs at its location as one event, or is deferred, or waits for a place in the store (R82, R83, R89). DESIGN CHOICE
(log 50): a BARR in its waiting form counts its arrival when it reaches its home, also where the store is full; only its wait then stands
in the network. R235 and R83 do not say when it counts. -/
def State.perform (s : State) (rid acc : Nat) (a : Access) : State :=
  let l := accLoc rid a
  let fuel := 1 + (s.deferredAt l).length
  match homeOp a.op (a.remote.getD rid) (accOff a) (s.locVal l) (s.locPres l) with
  | .done ans new pres =>
    State.release fuel (setAcc (s.apply l new pres) rid acc (fun a => { a with st := .done, ans := ans })) l
  | .fail c => setAcc s rid acc (fun a => { a with st := .failed c })
  | .arrive new w => State.release fuel ((s.apply l new none).deferAcc rid acc l w) l
  | .defer => s.deferAcc rid acc l a.op

/-- A wait entry into a deferral store that has a place now (R83). -/
def State.admitOne (s : State) (rid acc : Nat) (a : Access) : State :=
  let l := accLoc rid a
  let (k, cap) := s.storeCount l
  if k < cap then
    let n := s.dord
    let s := { setAcc s rid acc (fun a => { a with st := .deferred n }) with dord := n + 1 }
    State.release (1 + (s.deferredAt l).length) s l
  else s

/-! ## The order of a PE's accesses (R93, R94) -/

def accOpen (a : Access) : Bool := match a.st with | .done => false | .failed _ => false | _ => true

/-- Tile of the PE that issued an access; the accesses of a neighbour-list operation are its engine's (R99, R300). -/
def accPe (r : Region) (a : Access) : Option Nat :=
  match a.own with
  | .pe k id _ => (match tfind (r.ct k).ops id with
    | some o => if 0xE4 ≤ o.code ∧ o.code ≤ 0xE8 then none else some k
    | none => some k)
  | _ => none

/-- Where an access leads once translated (R71): a word of the region's MTs, of DRAM, or of a peer. -/
inductive Spot where
  | mt (w : Nat)
  | dram (w : Nat)
  | peer (dev w : Nat)
deriving DecidableEq, Repr

/-- Physical address at a peer of a virtual address that travels (log 17). -/
def peerPa (dev part va : Nat) : Nat := Config.peerPage dev part (va % 2 ^ 57 / 2 ^ 16) % 2 ^ 26 * 2 ^ 16 + va % 2 ^ 16

/-- The place of an access: the home it was translated to, or the one its table gives now; none where no leaf leads. -/
def State.spotOf (s : State) (r : Region) (a : Access) : Option Spot :=
  if a.sp ≠ 1 then some (.mt (a.addr / 8))
  else
    match a.home with
    | some (.dram pa) => some (.dram (pa / 8))
    | some (.peer d pa) => some (.peer d (pa / 8))
    | none =>
      if a.capx < 256 ∧ capRemote (capEntry r a.capx) = true then
        some (.peer (capDev (capEntry r a.capx)) (peerPa (capDev (capEntry r a.capx)) r.part a.addr / 8))
      else
        match a.st with
        | .travel | .stalled _ =>
          (match s.walk r.part a.addr with
           | .ok (l, _) => some (if leafPeer l.1 then .peer (leafDev l.1) (leafPa l a.addr / 8) else .dram (leafPa l a.addr / 8))
           | .error _ => none)
        | _ => some (.dram (a.pa / 8))

/-- The same location through the same address space (R93): the same address, or two addresses whose pages lead to one word. -/
def State.sameLoc (s : State) (r : Region) (a b : Access) : Bool :=
  a.sp == b.sp && (
    (a.addr / 8 == b.addr / 8 && (a.sp != 1 || capRemote (capEntry r a.capx) == capRemote (capEntry r b.capx)))
    || (a.sp == 1 && (s.spotOf r a).isSome && s.spotOf r a == s.spotOf r b))

/-- Words of the region's MTs that a pending operation of a PE will still access itself when it completes or starts: the tile an ACCRD
writes (R213), the block an SCOPY reads (R267); first word and count. -/
def latentWords (r : Region) (key : Nat) (o : PendOp) : Option (Nat × Nat) :=
  if o.code = 0xA4 then
    accrdTile r key o
  else if o.code = 0xE9 ∧ o.ph = 7 ∧ o.accs.isEmpty then some (o.a.bits.toNat / 8, 8)
  else none

/-- No earlier operation of the PE has an access of that kind still to make that access `a` must follow (R93, R94 item 5). -/
def latentDone (r : Region) (key : Nat) (a : Access) (rel : Bool) : Bool :=
  (r.ct key).ops.all (fun o =>
    !decide (o.1 < a.seq) || (match latentWords r key o.2 with
      | some (w, n) => !rel && !(a.sp == 0 && decide (w ≤ a.addr / 8) && decide (a.addr / 8 < w + n))
      | none => true))

/-- An access must follow an earlier one: of the same PE (R93, R94 item 5), the eight events of a vector access in ascending order (R89,
R194), those of the same engine at the same location (R249, R276, R277), and those of one neighbour-list operation (R305). -/
def State.follows (s : State) (r : Region) (x a : Access) (rel : Bool) : Bool :=
  match accPe r a with
  | some k => accPe r x == some k && (x.seq == a.seq || rel || s.sameLoc r x a)
  | none =>
    let ctx := fun (o : Owner) =>
      match o with | .strm c _ _ => some (0, c) | .copy c _ _ _ => some (1, c) | .unit k _ => some (2, k) | _ => none
    match a.own with
    | .pe k id _ => (match x.own with | .pe j i _ => j == k && i == id | _ => false)
    | _ => (ctx x.own).isSome && ctx x.own == ctx a.own && s.sameLoc r x a

/-- Every access that access `acc` must follow has been performed. -/
def mustPrecede (s : State) (r : Region) (acc : Nat) (a : Access) (rel : Bool) : Bool :=
  r.flight.all (fun x => !(decide (x.1 < acc) && accOpen x.2 && s.follows r x.2 a rel))
    && (match accPe r a with | some k => latentDone r k a rel | none => true)

/-- A release operation at this moment: MUNLK is one when it releases (R94 item 5). -/
def isRelease (s : State) (rid : Nat) (a : Access) : Bool :=
  match a.op with
  | .munlk => let v := s.locVal (accLoc rid a); !v.pois && bitOf v.bits 63 && fld v.bits 43 32 == rid
  | _ => a.rel

/-- What orders an access to a peer: whether a MUNLK releases is known only there, so it waits as a release does (R94 item 5). -/
def relAway (a : Access) : Bool := a.rel || (match a.op with | .munlk => true | _ => false)

/-! ## Peers (R395, R427, R428, R466, R467) -/

/-- A link is up toward a device (R466). -/
def linkUp (k : Link) (dev : Nat) : Bool :=
  k.trained && k.up && (if k.switched then !k.noRoute.contains dev else k.far == dev)

/-- The route toward a device (R427). -/
def State.route (s : State) (part dev : Nat) : Option Nat :=
  let p := s.part part
  ((List.range 8).map (fun k => partWord p (44 + k))).findSome? (fun w =>
    if bitOf w 20 ∧ fld w 63 45 ≤ dev ∧ dev ≤ fld w 44 26 ∧ linkUp (tget s.links {} (fld w 25 21)) dev = true
    then some (fld w 25 21) else none)

/-- The link a route toward a device names, up or not: for the record of WELT_DOWN. -/
def State.routeAny (s : State) (part dev : Nat) : Nat :=
  let p := s.part part
  (((List.range 8).map (fun k => partWord p (44 + k))).findSome? (fun w =>
    if bitOf w 20 ∧ fld w 63 45 ≤ dev ∧ dev ≤ fld w 44 26 then some (fld w 25 21) else none)).getD 0

/-- Bytes an operation accesses. -/
def opBytes (op : MOp) : Nat :=
  match op with | .read n => n | .write n _ => n | .rmw _ n _ _ _ => n | .fsum n _ => n | .rmws _ n _ => n | _ => 8

/-- Particle that word ix of a neighbour-list operation's reads belongs to (R400). -/
def nlElem (r : Region) (o : PendOp) (ix : Nat) : Nat :=
  if o.code = 0xE8 then 0
  else
    let z := if bitOf ((tget r.nles {} (o.ti.imm.toNat % 64)).cfg.getD 0 0) 63 then 4 else 2
    (if o.code = 0xE6 then fld o.b.bits 47 32 else 0) + ix / z

/-- The MT output a unit's access serves (R399; log 53): mo1 for a scatter, the bound output of the queue of a spill record, else mo0. -/
def unitOut (r : Region) (key : Nat) (a : Access) : Nat :=
  let p := r.pl key
  match planeMode p with
  | 4 => (match a.op with | .write _ _ => 1 | _ => 0)
  | 7 =>
    let w := p.mode.getD 1 0
    let n := 2 ^ (fld (p.mode.getD 0 0) 44 41 + 8)
    let at0 := (a.addr - (capBase (capEntry r (fld w 61 54)) + fld w 53 0)) / 32
    (match p.u.ring[(at0 + (n - p.u.rhead.toNat % n)) % n]? with | some e => fld (p.mode.getD (2 + e.q) 0) 15 13 | none => 0)
  | _ => 0

/-! ### Contexts whose memory lies at a peer (R393) -/

/-- An event of a context: its context, element, side (0 the stream or the source, 1 + m destination m), and which word of the element. -/
def remEvent (o : Owner) : Option (Nat × Nat × Nat × Nat) :=
  match o with
  | .strm c e x => if x = 0 then some (c, e, 0, 0) else none
  | .copy c e x m => if x = 0 then some (c, e, 0, 0) else if x = 1 ∨ x = 3 then some (c, e, 1 + m, x / 2) else none
  | _ => none

/-- The delivery of a descriptor to the peer's port: its context and side. -/
def remDesc (o : Owner) : Option (Nat × Nat) :=
  match o with
  | .strm c _ x => if x = 4 then some (c, 0) else none
  | .copy c _ x m => if x = 4 then some (c, m) else none
  | _ => none

/-- The stream or copy a context number names. -/
def ctxStrm (r : Region) (c : Nat) : Strm := match tfind r.strms c with | some z => z | none => tget r.copies {} c

/-- The number by which a port knows a side of a context. -/
def portCtxOf (c side : Nat) : Nat := c * 256 + side

/-- The descriptor a port is to hold for a side of a context: its word 0 is the address of that side. -/
def remWords (r : Region) (c side capx : Nat) : List Word :=
  let d := (ctxStrm r c).desc
  let off := fld (d.getD (if side = 0 then 0 else 7) 0) 53 0
  BitVec.ofNat 64 (2 ^ 62 + capx * 2 ^ 54 + off) :: d.drop 1

/-- The first element of a context whose event has not been acknowledged (R395). -/
def firstOpen (r : Region) (c e : Nat) : Nat :=
  r.flight.foldl (fun m x => match remEvent x.2.own with | some (k, i, _, _) => if k = c ∧ accOpen x.2 = true then Nat.min m i else m | none => m) e

/-- The trap of an access that stalls (R381, R395): recorded for its owner. A read of metadata is of the two elements of its group (R256). -/
def stallTrap (r : Region) (a : Access) (e : TrapInfo) : TrapInfo :=
  let e := if a.sp = 1 then { e with capx := some a.capx, va := if e.va = 0 ∧ e.code ≠ 0x60 then a.addr else e.va } else e
  let group := fun (x el : Nat) => if x = 1 then 2 * el else el
  match a.own with
  | .pe k id ix =>
    let slot := ((r.op? k id).map (fun o => o.slot)).getD 0
    let e := { e with key := k, slot := slot, src := 0, tiw := tget (r.ct k).slots 0 slot }
    (match r.op? k id with
     | some o => if 0xE4 ≤ o.code ∧ o.code ≤ 0xE8 then { e with unit := o.ti.imm.toNat % 64, elem := nlElem r o ix } else e
     | none => e)
  | .strm c el x =>
    let st := tget r.strms {} c
    { e with key := st.tile, slot := st.item, src := 1, elem := if e.code = 0x60 then firstOpen r c (group x el) else group x el, tiw := st.desc.getD 1 0 }
  | .copy c el _ _ =>
    let st := tget r.copies {} c
    { e with key := st.tile, src := 2, elem := if e.code = 0x60 then firstOpen r c el else el, tiw := st.desc.getD 1 0, unit := st.cid }
  | .unit k _ => { e with key := k, src := 3, unit := unitOut r k a }
  | .peer _ _ => e

/-- An access stalls with its trap and stays pending (R381, R395). -/
def State.stall (s : State) (rid acc : Nat) (a : Access) (e : TrapInfo) : State :=
  let s := setAcc s rid acc (fun a => { a with st := .stalled e.code, via := none, back := false })
  onRegion s rid (fun r => r.raise (stallTrap r a e))

/-- A checkpoint is quiesced, or QUIESCE is being carried out (R452). -/
def State.ckptOn (s : State) : Bool := s.ckpt.st != 0 || s.ckpt.step == 1 || s.ckpt.step == 2

/-- Another access of the same context has stalled for want of a link: its record names the first element (R395). -/
def ctxDown (r : Region) (a : Access) : Bool :=
  let ctx := fun (o : Owner) =>
    match o with | .strm c _ _ => some (0, c, 0) | .copy c _ _ _ => some (1, c, 0) | .unit k _ => some (2, k, 0) | .pe k i _ => some (3, k, i) | .peer _ _ => none
  r.flight.any (fun x => x.2.st == .stalled 0x60 && ctx x.2.own == ctx a.own)

/-- What a request says of its context: a descriptor for the port to hold, or an event whose address the port generates (R393). -/
def reqCtx (r : Region) (a : Access) (q : PeerReq) : PeerReq :=
  match remDesc a.own, remEvent a.own with
  | some (c, side), _ => { q with desc := some (remWords r c side a.capx), ctx := some (portCtxOf c side, 0, 0), addr := 0, n := 0 }
  | none, some (c, e, side, i) => { q with ctx := some (portCtxOf c side, e, i), addr := 0 }
  | none, none => q

/-- The port does not hold the descriptor of this event's context yet. -/
def descDue (r : Region) (a : Access) : Bool :=
  match remEvent a.own with | some (c, _, side, _) => !(ctxStrm r c).dsent.contains side | none => false

/-- An earlier event of the same side of a context has not been sent. -/
def behindUnsent (r : Region) (acc : Nat) (a : Access) : Bool :=
  match remEvent a.own with
  | some (c, _, side, _) => r.flight.any (fun x =>
      decide (x.1 < acc) && x.2.via.isNone && accOpen x.2
        && (match remEvent x.2.own with | some (k, _, sd, _) => k == c && sd == side | none => false))
  | none => false

/-- Issue the delivery of the descriptor of an event's context, once (R393). -/
def issueDesc (a : Access) (r : Region) : Region :=
  match remEvent a.own with
  | some (c, e, side, _) =>
    if r.flight.any (fun x => remDesc x.2.own == some (c, side)) then r
    else
      let own : Owner := match a.own with | .copy _ _ _ _ => .copy c e 4 side | _ => .strm c e 4
      (issue { own := own, op := .read 0, sp := 1, addr := a.addr, capx := a.capx, seq := r.seq } r).1
  | none => r

/-- The tag of a request: the one it has, or had before its region was saved, or a new one (R395). -/
def State.tagOf (s : State) (r : Region) (a : Access) : Nat :=
  a.peer.getD (((r.ptags.find? (fun t => t.1 == a.own)).map (fun t => t.2)).getD s.fresh)

/-- The link of a context's binding, as the loader chose it, while it is up toward the device (R393, R430); else the route there is (R466). -/
def State.linkFor (s : State) (r : Region) (key dev : Nat) : Option Nat :=
  match tfind r.wctx key with
  | some (k, _) => if linkUp (tget s.links {} k) dev then some k else s.route r.part dev
  | none => s.route r.part dev

/-- The link of an access to a peer. -/
def State.accLink (s : State) (r : Region) (a : Access) (dev : Nat) : Option Nat :=
  match a.own with | .strm c _ _ => s.linkFor r (2 ^ 30 + c) dev | _ => s.route r.part dev

/-- Send a request to a peer on its route, or stall with WELT_DOWN (R395). The events of a context follow its descriptor, in order (R393).
From step 4 of QUIESCE on no new one is sent, and one that is not acknowledged waits for a link (R452). -/
def State.sendPeer (s : State) (rid acc : Nat) (a : Access) (dev : Nat) (cap : Option (BitVec 128)) (addr : Nat) : State :=
  let r := s.region rid
  let quiet := s.ckpt.st != 0 || s.ckpt.step == 2
  if a.via.isSome || (quiet && a.peer.isNone) then s
  else
    match s.accLink r a dev with
    | none =>
      if quiet then s
      else if ctxDown r a then setAcc s rid acc (fun a => { a with st := .stalled 0x60, via := none })
      else s.stall rid acc a { code := 0x60, va := 0, aux := s.routeAny r.part dev }
    | some k =>
      if cap.isSome && descDue r a then onRegion s rid (issueDesc a)
      else if cap.isSome && behindUnsent r acc a then s
      else
        let tag := s.tagOf r a
        let q : PeerReq := { tag := tag, src := s.dev.devId, dst := dev, part := r.part, rid := rid, cap := cap, addr := addr, n := opBytes a.op, op := a.op }
        let s := { s with fresh := if tag = s.fresh then s.fresh + 1 else s.fresh }
        let s := setAcc s rid acc (fun a =>
          { a with peer := some tag, via := some k, home := if cap.isSome then a.home else some (.peer dev addr) })
        { s with out := s.out ++ [.peerReq k (if cap.isSome then reqCtx r a q else q)] }

/-- The device an access to a peer goes to. -/
def accDev (r : Region) (a : Access) : Nat :=
  match a.home with | some (.peer d _) => d | _ => capDev (capEntry r a.capx)

/-- An operation that its home may defer (R224). -/
def mayDefer (op : MOp) : Bool :=
  match op with | .ldp => true | .ldne _ => true | .barr w => w | .barrWait _ => true | .mlock _ => true | .qdeq => true | _ => false

/-- Withdraw a request at the peer it was sent to: the answer says whether it had been performed (R225). Without a link it stays
unacknowledged. -/
def State.recall (s : State) (rid acc : Nat) (a : Access) : State :=
  match a.via, a.peer with
  | some k, some tag =>
    let s := setAcc s rid acc (fun a => { a with back := true })
    { s with out := s.out ++ [.peerReq k { tag := tag, src := s.dev.devId, dst := accDev (s.region rid) a, part := (s.region rid).part, rid := rid, op := a.op, back := true }] }
  | _, _ => s

/-- A request that its peer may defer, sent and not recalled. -/
def mayRecall (a : Access) : Bool := a.st == .travel && a.via.isSome && mayDefer a.op && !a.back

/-- A page under migration (R389 step 1): accesses that translate to it stall. -/
def pageFrozen (p : Part) (va : Nat) : Bool :=
  match p.mig with
  | none => false
  | some m =>
    let n := if m.big then 32 else 1
    decide (m.vpn / n = va % 2 ^ 57 / 2 ^ 16 / n)

/-- A page of a range that a crn.finval of the region has not finished with: what would translate into it waits (R384 step 1). -/
def pagePaused (r : Region) (va : Nat) : Bool :=
  match r.pause with
  | none => false
  | some (v, n) => decide (v ≤ va % 2 ^ 57 / 2 ^ 16) && decide (va % 2 ^ 57 / 2 ^ 16 < v + n)

/-- An access to a page under migration takes its place among those that stalled (R389). -/
def State.migStall (s : State) (part rid acc : Nat) : State :=
  s.updPart part (fun p => { p with mig := p.mig.map (fun m =>
    if m.stalled.contains (rid, acc) then m else { m with stalled := m.stalled ++ [(rid, acc)] }) })

/-- The capability of an entry as a number. -/
def capBits (e : List Word) : BitVec 128 := BitVec.ofNat 128 (capNat e)

/-- An operation of the queue controller (R241). -/
def isQueueOp (op : MOp) : Bool := match op with | .qenq _ => true | .qdeq => true | .qsteal => true | _ => false

/-- HOME_ACCESS: one access of a region reaches its home (R71). -/
def State.homeAccess (s : State) (rid acc : Nat) : State :=
  let r := s.region rid
  match tfind r.flight acc with
  | none => s
  | some a =>
    if a.st ≠ .travel ∨ a.sp = 3 ∨ r.st = rNone ∨ r.st = rDying ∨ r.st = rOut ∨ isQueueOp a.op = true then s
    else if (remDesc a.own).isNone && !mustPrecede s r acc a a.rel then s
    else if let some (.dram pa) := a.home then (setAcc s rid acc (fun a => { a with pa := pa })).perform rid acc { a with pa := pa }
    else if let some (.peer dev pa) := a.home then (if mustPrecede s r acc a (relAway a) then s.sendPeer rid acc a dev none pa else s)
    else if a.sp ≠ 1 then
      if !mustPrecede s r acc a (isRelease s rid a) then s else s.perform rid acc a
    else
      let e := capEntry r a.capx
      if a.capx < 256 ∧ capRemote e = true then
        (if (remDesc a.own).isSome || mustPrecede s r acc a (relAway a) then s.sendPeer rid acc a (capDev e) (some (capBits e)) a.addr else s)
      else if pageFrozen (s.part r.part) a.addr then s.migStall r.part rid acc
      else if pagePaused r a.addr then s
      else
        let tile := ownerTile r a
        let (s, x) := s.xlate r.part (clusterOf r tile) a.addr 0 a.op
        match x with
        | .error t => s.stall rid acc a t
        | .ok (.peer dev pa) => if mustPrecede s r acc a (relAway a) then s.sendPeer rid acc a dev none pa else s
        | .ok (.dram pa) =>
          let a := { a with pa := pa }
          if !mustPrecede s r acc a (isRelease s rid a) then s
          else (setAcc s rid acc (fun _ => a)).perform rid acc a

/-! ## The queue controller (R240, R241) -/

/-- The capability checks of a queue at its completion: REMOTE first (R240), then R79's (log 52). -/
def queueCap (sl part right : Nat) (e : List Word) : Option Nat :=
  if capRemote e then some 0x11
  else if capSeal e = 0 ∨ capSeal e ≠ sl then some 0x12
  else if capPart e ≠ part ∨ !capRight e right then some 0x11
  else none

/-- The right a queue operation needs (R240). -/
def queueRight (op : MOp) : Nat := match op with | .qenq _ => bQE | .qdeq => bQD | _ => bQS

/-- Capability bounds and descriptor checks of R240 items 2-4. -/
def queueBad (s : State) (e : List Word) (off pa : Nat) : Bool :=
  let w2 := s.rdW (pa + 16)
  let lg := fld w2 5 0
  let n := 2 ^ lg
  decide (lg < 1) || decide (20 < lg) || fld w2 63 6 != 0 || (List.range 5).any (fun k => s.rdW (pa + 24 + 8 * k) != 0)
    || decide (capLen e < off + 64 + 8 * n) || decide (n < (s.rdW (pa + 8) - s.rdW pa).toNat)

/-- What a queue operation comes to at its queue: it is over, it waits for an item, or its item's page is held. -/
inductive QRes where
  | did (s : State)
  | empty
  | held
deriving DecidableEq, Repr

/-- The key of the regions' table under which peers' requests stand. -/
abbrev portRid : Nat := Config.regionIds

/-- The place of a request after the checks of R467; none while the page migrates. -/
def State.portCheck (s : State) (q : PeerReq) : Except Nat (Option Nat) :=
  match q.cap with
  | none =>
    let ok := s.parts.any (fun x => partValid x.2 && (List.range 4).any (fun j =>
      let w := partWord x.2 (52 + 2 * j)
      let v := partWord x.2 (53 + 2 * j)
      let lo := fld v 41 16 * 2 ^ 16
      let n := (if fld v 15 0 = 0 then 65536 else fld v 15 0) * 2 ^ 16
      bitOf w 38 && fld w 63 45 == q.src.toNat && fld w 44 39 == q.part && decide (lo ≤ q.addr) && decide (q.addr + q.n ≤ lo + n)))
    if ok then .ok (some q.addr) else .error 0x19
  | some c =>
    let part := fld (BitVec.ofNat 64 c.toNat) 22 15
    let p := s.part part
    if part ≠ q.part ∨ !partValid p then .error 0x11
    else
      match s.walk part q.addr with
      | .error _ => .error 0x18
      | .ok (l, _) =>
        match leafHome p l q.addr q.op with
        | some (.dram pa) => if pageFrozen p q.addr then .ok none else .ok (some pa)
        | _ => .error 0x19

/-- The request an access at the port carries out. -/
def State.portReq (s : State) (acc : Nat) (a : Access) : Option PeerReq :=
  match a.own with | .peer link _ => tfind (tget s.links {} link).pend acc | _ => none

/-- Where item i of the queue at pa lies: its own address is translated where it is on another page than the descriptor. DESIGN CHOICE
(log 39): a peer's request names the queue by its physical address, its items follow there, and all of them must lie in the lend window; an
item of this device's queue on a page of a peer stalls as a missing right. -/
def State.queueItem (s : State) (rid acc : Nat) (a : Access) (pa i : Nat) : State × Except TrapInfo (Option Nat) :=
  let va := a.addr + 64 + 8 * i
  if a.remote.isSome then
    (s, match s.portReq acc a with
      | some q =>
        match s.portCheck { q with n := 64 + 8 * 2 ^ fld (s.rdW (pa + 16)) 5 0 } with
        | .ok _ => .ok (some (pa + 64 + 8 * i))
        | .error c => .error { code := c }
      | none => .ok (some (pa + 64 + 8 * i)))
  else if va / 2 ^ 16 = a.addr / 2 ^ 16 then (s, .ok (some (pa + 64 + 8 * i)))
  else
    let r := s.region rid
    if pageFrozen (s.part r.part) va || pagePaused r va then (s, .ok none)
    else
      match s.xlate r.part (clusterOf r (ownerTile r a)) va 0 a.op with
      | (s, .error t) => (s, .error t)
      | (s, .ok (.peer _ _)) => (s, .error { code := 0x19, va := va })
      | (s, .ok (.dram x)) => (s, .ok (some x))

/-- A queue operation at the descriptor at pa: the checks of the queue, and the operation as one event (R240, R241). -/
def State.queueAt (s : State) (rid acc : Nat) (a : Access) (pa : Nat) : QRes :=
  let e := if a.remote.isSome then [-1, -1] else capEntry (s.region rid) a.capx
  let off := if a.remote.isSome then 0 else a.addr - capBase e
  if queueBad s e off pa then .did (setAcc s rid acc (fun a => { a with st := .failed 0x10 }))
  else
    match s.queueNext pa a.op with
    | none => .empty
    | some (false, _, _, _) => .did (doneQueue s rid acc {} false)
    | some (true, h, t, i) =>
      match s.queueItem rid acc a pa i with
      | (s, .error t) =>
        .did (if a.remote.isSome then setAcc s rid acc (fun a => { a with st := .failed t.code }) else s.stall rid acc a t)
      | (_, .ok none) => .held
      | (s, .ok (some item)) =>
        let (s, v) := s.queueMove pa item a.op h t
        .did (doneQueue s rid acc v true)

/-- Every deferred access, oldest first: region, access. -/
def State.deferredAll (s : State) : List (Nat × Nat × Access) :=
  let all := (s.regions.map (fun x => x.2.flight.filterMap (fun a =>
    match a.2.st with | .deferred n => some (n, x.1, a.1, a.2) | _ => none))).flatten
  (sortBy (fun x y => decide (x.1 ≤ y.1)) all).map (fun x => x.2)

/-- A deferred access whose requirement holds now is performed: a QDEQ at its queue, any other at its location. -/
def State.releaseOne (s : State) (x : Nat × Nat × Access) : Option State :=
  if x.2.2.op = .qdeq then
    match s.queueAt x.1 x.2.1 x.2.2 x.2.2.pa with
    | .did s => some s
    | _ => none
  else
    let l := accLoc x.1 x.2.2
    match homeOp x.2.2.op (x.2.2.remote.getD x.1) (accOff x.2.2) (s.locVal l) (s.locPres l) with
    | .done ans new pres => some (setAcc (s.apply l new pres) x.1 x.2.1 (fun a => { a with st := .done, ans := ans }))
    | _ => none

def State.wakeAll (fuel : Nat) (s : State) : State :=
  match fuel with
  | 0 => s
  | f + 1 =>
    match s.deferredAll.findSome? s.releaseOne with
    | some s' => State.wakeAll f s'
    | none => s

/-- Every deferred operation whose requirement holds after a write is performed next, oldest first, a queue's QDEQs among them (R82, R224,
R241). -/
def State.wake (s : State) : State := s.wakeAll s.deferredAll.length

/-- A queue operation whose descriptor lies at pa: over, deferred until an item arrives, or held where it stands. -/
def State.queueTake (s : State) (rid acc : Nat) (a : Access) (pa : Nat) : State :=
  match s.queueAt rid acc a pa with
  | .did s => s.wake
  | .empty => s.deferAcc rid acc (.dram pa) a.op
  | .held => if (s.part (s.region rid).part).mig.isSome then s.migStall (s.region rid).part rid acc else s

/-- The checks, the translation and the operation of a queue access. -/
def State.queueGo (s : State) (r : Region) (rid acc : Nat) (a : Access) : State :=
  let e := capEntry r a.capx
  if !mustPrecede s r acc a a.rel then s
  else if (queueCap (sealOf s r.part) r.part (queueRight a.op) e).isSome then
    setAcc s rid acc (fun a => { a with st := .failed ((queueCap (sealOf s r.part) r.part (queueRight a.op) e).getD 0x11) })
  else if capLen e < a.addr - capBase e + 64 then setAcc s rid acc (fun a => { a with st := .failed 0x10 })
  else if pageFrozen (s.part r.part) a.addr then s.migStall r.part rid acc
  else if pagePaused r a.addr then s
  else
    let tile := ownerTile r a
    let (s, x) := s.xlate r.part (clusterOf r tile) a.addr 0 a.op
    match x with
    | .error t => s.stall rid acc a t
    | .ok (.peer dev pa) => s.sendPeer rid acc a dev none pa
    | .ok (.dram pa) => (setAcc s rid acc (fun a => { a with pa := pa })).queueTake rid acc { a with pa := pa } pa

/-- QUEUE_CONTROLLER_OP: the controller takes one queue operation (R240, R241). -/
def State.queueAccess (s : State) (rid acc : Nat) : State :=
  let r := s.region rid
  match tfind r.flight acc with
  | none => s
  | some a =>
    if a.st ≠ .travel ∨ r.st = rNone ∨ r.st = rDying ∨ r.st = rOut ∨ a.sp ≠ 1 then s
    else
      if isQueueOp a.op then s.queueGo r rid acc a else s
def execHomeAccess (rid acc : Nat) (s : State) : Res := .next (s.homeAccess rid acc).wake

/-- DEFERRAL_ADMIT: an access that waits in the network is deferred when a place frees (R83). -/
def execDeferralAdmit (rid acc : Nat) (s : State) : Res :=
  match tfind (s.region rid).flight acc with
  | some a => .next (if a.st = .waiting ∧ a.sp ≠ 3 then (s.admitOne rid acc a).wake else s)
  | none => .next s

def execQueueControllerOp (rid acc : Nat) (s : State) : Res := .next (s.queueAccess rid acc)

end Sys2Proof.Machine
end

