-- ==== Sys2Proof/Machine/Wft.lean ====
section
/-! DEFINITION. The wait-for table (R231-R234, R359-R369): objects, holders, registration within the limits, spilling and
untracked waits, effective priority, the search for cycles and their confirmation, and the kill of a holder. -/

namespace Sys2Proof.Machine

/-! ## Objects (R360) -/

def objMt (rid a : Nat) : Word := BitVec.ofNat 64 (rid * 2 ^ 50 + a / 8 * 8)
def objDram (pa : Nat) : Word := BitVec.ofNat 64 (2 ^ 62 + pa / 8 * 8)
def objPeer (dev pa : Nat) : Word := BitVec.ofNat 64 (2 * 2 ^ 62 + dev * 2 ^ 43 + pa / 8 * 8 % 2 ^ 42)
def objHandle (rid key h : Nat) : Word :=
  BitVec.ofNat 64 (3 * 2 ^ 62 + rid * 2 ^ 46 + keyPage key * 2 ^ 36 + posIndex (keyPos key) * 2 ^ 33 + h * 2 ^ 30)
def objPool (rid : Nat) : Word := BitVec.ofNat 64 (3 * 2 ^ 62 + 2 ^ 58 + rid * 2 ^ 46)
def objExq (rid key out : Nat) : Word :=
  BitVec.ofNat 64 (3 * 2 ^ 62 + 2 * 2 ^ 58 + rid * 2 ^ 46 + keyPage key * 2 ^ 36 + posIndex (keyPos key) * 2 ^ 33 + out * 2 ^ 29)
def objWelt (link row : Nat) (send : Bool) : Word :=
  BitVec.ofNat 64 (3 * 2 ^ 62 + 3 * 2 ^ 58 + link * 2 ^ 53 + row * 2 ^ 50 + (if send then 2 ^ 49 else 0))

/-- The object an access names (R232, R360): its home and the address there after translation, also while it is still on its way; none
where no leaf leads. -/
def State.objOf (s : State) (r : Region) (a : Access) : Option Word :=
  match s.spotOf r a with
  | some (.mt w) => some (objMt r.rid (8 * w))
  | some (.dram w) => some (objDram (8 * w))
  | some (.peer dev w) => some (objPeer dev (8 * w))
  | none => none

/-- The location an object names, when it is a word of this device. -/
def objLoc (o : Word) : Option Loc :=
  match fld o 63 62 with
  | 0 => some (.mt (fld o 61 50) (fld o 31 0))
  | 1 => some (.dram (fld o 41 0))
  | _ => none

/-! ## Entries -/

/-- Entries in ascending index, spilled ones after (R366). -/
def State.entries (s : State) : List Wfe := s.wft.map (·.2) ++ (s.parts.map (fun p => p.2.spill.map (·.2))).flatten

/-- The 32 bytes of an entry (R359). -/
def wfeWords (e : Wfe) : List Word :=
  [BitVec.ofNat 64 (2 ^ 63 + (if e.exp then 2 ^ 62 else 0) + (if e.rpt then 2 ^ 61 else 0) + e.part * 2 ^ 55 + e.rid * 2 ^ 43
    + e.page * 2 ^ 33 + e.pos * 2 ^ 29 + e.slot * 2 ^ 25 + e.prio * 2 ^ 21 + e.kind * 2 ^ 17
    + (if e.hv then 2 ^ 16 + e.hrid * 2 ^ 4 else 0)), e.obj, e.treg, 0]

/-- Write a place of the spill area (R368). -/
def State.spillWrite (s : State) (part k : Nat) (e : Option Wfe) : State :=
  s.wrWs (partSpill (s.part part) + 32 * k) (match e with | some e => wfeWords e | none => [0, 0, 0, 0])

/-- Change every entry that a test picks; spilled ones are rewritten in their area. -/
def State.mapEntries (s : State) (f : Wfe → Wfe) : State :=
  let s := { s with wft := tmap s.wft (fun _ e => f e) }
  s.parts.foldl (fun s p =>
    p.2.spill.foldl (fun s x =>
      if f x.2 = x.2 then s
      else (s.updPart p.1 (fun q => { q with spill := tset q.spill x.1 (f x.2) })).spillWrite p.1 x.1 (some (f x.2))) s) s

/-! ## Holders (R88, R231, R236, R363, R364) -/

/-- A holder counts only as a live region of the waiter's partition (R363). -/
def liveHolder (s : State) (part h : Nat) : Option Nat :=
  match s.region? h with
  | some r => if r.part = part ∧ r.st ≠ rDying then some h else none
  | none => none

/-- The holder of an object for a wait of a kind. -/
def State.holderOf (s : State) (part kind : Nat) (obj : Word) : Option Nat :=
  let decl := ((s.part part).holds.find? (fun d => d.1 == kind && d.2.1 == obj)).bind (fun d => liveHolder s part d.2.2)
  match kind with
  | 2 =>
    let rid := fld obj 57 46
    let h := (s.region rid).hnd (keyOf (fld obj 45 36) (mtPos (fld obj 35 33))) (fld obj 32 30)
    if h.st = hFilling ∨ h.st = hDraining then liveHolder s part rid else none
  | 4 =>
    match objLoc obj with
    | some l => let v := s.locVal l; if bitOf v.bits 63 ∧ !v.pois then liveHolder s part (fld v.bits 43 32) else none
    | none => none
  | 6 => none
  | 7 => none
  | 8 => none
  | _ => decl

/-- A write event of 0 to a lock word at its home, which grants the oldest deferred MLOCK (R364, R237). -/
def State.clearLock (s : State) (l : Loc) : State := State.release (1 + (s.deferredAt l).length) (s.locWrite l {}) l

/-- A LOCK wait that finds a word naming a region in NONE or DYING has the home write 0 (R364). -/
def State.deadLock (s : State) (kind : Nat) (obj : Word) : State :=
  if kind ≠ 4 then s
  else
    match objLoc obj with
    | none => s
    | some l =>
      let v := s.locVal l
      let r := s.region (fld v.bits 43 32)
      if bitOf v.bits 63 && !v.pois && (r.st == rNone || r.st == rDying) then s.clearLock l else s

/-! ## Effective priority (R365) -/

/-- One round of inheritance over the entries. -/
def eprioRound (es : List Wfe) (ep : Tab Nat) : Tab Nat :=
  es.foldl (fun ep e => if e.hv then tset ep e.hrid (Nat.min (tget ep 15 e.hrid) (tget ep 15 e.rid)) else ep) ep

def iterate {α : Type} (n : Nat) (f : α → α) (x : α) : α := match n with | 0 => x | k + 1 => iterate k f (f x)

/-- Recompute EPRIO of every region, WPRIO of every entry and RCB word 9 where it changes. -/
def State.eprios (s : State) : State :=
  let own : Tab Nat := s.regions.map (fun x => (x.1, effPrio x.2))
  let ep := iterate s.regions.length (eprioRound s.entries) own
  let s := s.mapEntries (fun e => { e with prio := tget ep 15 e.rid })
  s.regions.foldl (fun s x =>
    if x.2.eprio = tget ep 15 x.1 ∨ x.2.st = rNone then s else s.updSync x.1 (fun r => { r with eprio := tget ep 15 x.1 })) s

/-! ## Cycles (R366) -/

/-- Depth-first search for w from region x with `n` of the 16 members left: the entries of the cycle, and whether the depth
ended the search somewhere. -/
def cycSearch (n : Nat) (es : List Wfe) (w x : Nat) (path : List Nat) : Option (List Nat) × Bool :=
  if x = w then (some path, false)
  else
    match n with
    | 0 => (none, true)
    | k + 1 =>
      (es.filter (fun e => e.hv && e.rid == x)).foldl (fun acc e =>
        match acc with
        | (some p, t) => (some p, t)
        | (none, t) => let (p, t') := cycSearch k es w e.hrid (path ++ [e.id]); (p, t || t')) (none, false)

/-- The single path beyond 16 members, up to 4,096 steps. -/
def cycPath (n : Nat) (es : List Wfe) (w x : Nat) (path : List Nat) : Option (List Nat) :=
  match n with
  | 0 => none
  | k + 1 =>
    if x = w then some path
    else
      match es.find? (fun e => e.hv && e.rid == x) with
      | some e => cycPath k es w e.hrid (path ++ [e.id])
      | none => none

/-- Search from an entry with a known holder; a found cycle is confirmed 1,024 fc later (R366, R367). -/
def State.search (s : State) (e : Wfe) : State :=
  if !e.hv then s
  else
    let due := (s.part e.part).slice.toNat + 1024
    match cycSearch 15 s.entries e.rid e.hrid [e.id] with
    | (some p, _) => { s with cycles := s.cycles ++ [{ ents := p, part := e.part, due := due }] }
    | (none, true) =>
      match cycPath 4096 s.entries e.rid e.hrid [e.id] with
      | some p => { s with cycles := s.cycles ++ [{ ents := p, part := e.part, due := due, trunc := true }] }
      | none => s
    | (none, false) => s

/-- Set the holder of an entry; RPT clears and a search starts when it changes (R366, R367). -/
def State.setHolder (s : State) (id : Nat) (h : Option Nat) : State :=
  match s.entries.find? (fun e => e.id == id) with
  | none => s
  | some e =>
    let cur := if e.hv then some e.hrid else none
    if cur = h then s
    else
      let e' := { e with hv := h.isSome, hrid := h.getD 0, rpt := false }
      (s.mapEntries (fun x => if x.id = id then e' else x)).search e'

/-- Holders follow declarations, handles and lock words; priorities follow them (R363, R365). -/
def State.rehold (s : State) : State :=
  if s.wft.isEmpty ∧ s.parts.all (fun p => p.2.spill.isEmpty) then s
  else (s.entries.foldl (fun s e => s.setHolder e.id (s.holderOf e.part e.kind e.obj)) s).eprios

/-! ## Limits (R322, R362) -/

/-- Room for one more on-die entry of a region: the table, the partition's share, and MAXWF at every node of its chain. -/
def State.wftFits (s : State) (r : Region) : Bool :=
  let mine := s.wft.filter (fun e => e.2.part == r.part)
  decide (s.wft.length < Config.wftEntries) && decide (mine.length < fld (partWord (s.part r.part) 1) 63 50)
    && r.chain.all (fun n =>
      decide ((mine.filter (fun e => (s.region e.2.rid).chain.any (fun m => m.1 == n.1))).length < fld n.2 53 40))

/-- The least free index of a table below n. -/
def freeIdx {α : Type} (t : Tab α) (n : Nat) : Option Nat := (List.range n).find? (fun i => (tfind t i).isNone)

/-- The slot holds an untracked wait (R368): its own, or one of WREG. -/
def hasUntracked (c : Ct) (slot : Nat) : Bool := c.untr.contains slot || (tfind c.untx slot).isSome

/-- The untracked wait of this kind at a slot: its own, or that of WREG on this object. -/
def untrackedHere (c : Ct) (slot : Nat) (x : Option (Nat × Word)) : Bool :=
  match x with
  | none => c.untr.contains slot
  | some y => (tfind c.untx slot).map (fun z => (z.1, z.2.1)) == some y

/-- An untracked wait ends (R368): the slot's own (no object given), or the one WREG holds on an object. -/
def State.endUntracked (s : State) (rid key slot : Nat) (x : Option (Nat × Word)) : State :=
  if untrackedHere ((s.region rid).ct key) slot x then
    let s := s.updPart (s.region rid).part (fun p => { p with untrk := p.untrk - 1 })
    s.updSync rid (fun r =>
      { r.updCt key (fun c => match x with
          | none => { c with untr := nset c.untr slot false }
          | some _ => { c with untx := tdel c.untx slot }) with untrk := r.untrk - 1 })
  else s

/-- REGISTRATION of a wait (R29, R362, R368, R369). Answers 1 tracked, 0 untracked, 2 refused under TRAP. -/
def State.register (s : State) (rid key slot kind : Nat) (obj : Word) (exp : Bool) : State × Nat :=
  let s := s.deadLock kind obj
  let r := s.region rid
  let p := s.part r.part
  let h := s.holderOf r.part kind obj
  let e : Wfe := { id := s.fresh, exp := exp, part := r.part, rid := rid, page := keyPage key, pos := keyPos key, slot := slot,
                   prio := r.eprio, kind := kind, hv := h.isSome, hrid := h.getD 0, obj := obj, treg := p.slice }
  let fin := fun (s : State) =>
    (((s.endUntracked rid key slot (if exp then some (kind, obj) else none)).search e).eprios, 1)
  if s.wftFits r then
    match freeIdx s.wft Config.wftEntries with
    | some i => fin { s with wft := tset s.wft i e, fresh := s.fresh + 1 }
    | none => (s, 2)
  else if bitOf (partWord p 0) 53 then (s, 2)
  else
    match freeIdx p.spill (fld (partWord p 23) 31 0) with
    | some k =>
      fin (({ s with fresh := s.fresh + 1 }.updPart r.part (fun p => { p with spill := tset p.spill k e })).spillWrite r.part k (some e))
    | none =>
      if hasUntracked (r.ct key) slot then (s, 0)
      else
        let s := s.updPart r.part (fun p => { p with untrk := p.untrk + 1 })
        (s.updSync rid (fun r =>
          { r.updCt key (fun c => if exp then { c with untx := tset c.untx slot (kind, obj, 0) } else { c with untr := nset c.untr slot true })
            with untrk := r.untrk + 1 }), 0)

/-- The oldest spilled entry of a partition that now fits moves on-die (R362). -/
def State.unspill (s : State) (part : Nat) : State :=
  let cand := (sortBy (fun x y => decide (x.2.id ≤ y.2.id)) (((s.part part).spill.filter (fun x => s.wftFits (s.region x.2.rid)))))
  match cand, freeIdx s.wft Config.wftEntries with
  | x :: _, some i =>
    ({ s with wft := tset s.wft i x.2 }.updPart part (fun p => { p with spill := tdel p.spill x.1 })).spillWrite part x.1 none
  | _, _ => s

/-- Remove an entry by name (R29, R337, R362). -/
def State.dropEntry (s : State) (id : Nat) : State :=
  match s.wft.find? (fun x => x.2.id == id) with
  | some x => ({ s with wft := tdel s.wft x.1 }.unspill x.2.part).eprios
  | none =>
    match (s.parts.map (fun p => (p.2.spill.filter (fun x => x.2.id == id)).map (fun x => (p.1, x.1)))).flatten with
    | (p, k) :: _ => ((s.updPart p (fun q => { q with spill := tdel q.spill k })).spillWrite p k none).eprios
    | [] => s

/-- Remove every entry a test picks. -/
def State.dropEntries (s : State) (f : Wfe → Bool) : State :=
  ((s.entries.filter f).map (fun e => e.id)).foldl (fun s i => s.dropEntry i) s

/-- Entries of a slot that are not explicit: the slot's own wait. -/
def slotEntry (rid key slot : Nat) (e : Wfe) : Bool :=
  e.rid == rid && e.page == keyPage key && e.pos == keyPos key && e.slot == slot && !e.exp

/-- The wait of a slot ends (R29, R368). -/
def State.endWait (s : State) (rid key slot : Nat) : State :=
  let s := if s.entries.any (slotEntry rid key slot) then s.dropEntries (slotEntry rid key slot) else s
  s.endUntracked rid key slot none

/-- The blocking operation of a kind that a slot has pending (R231). -/
def blockKind (op : Nat) : Nat :=
  match op with | 0xC4 => 0 | 0xC7 => 1 | 0xDE => 4 | 0xEC => 3 | _ => 5

/-- The slots of a tile's outgoing plane wait no more: their triggers hold no longer (R29, R405). What WREG registered stays. -/
def State.endTileWaits (s : State) (rid key : Nat) : State :=
  (List.range 16).foldl (fun s n => s.endWait rid key n) s

/-- Every wait of a region ends (R29, R331, R362). -/
def State.endWaits (s : State) (rid : Nat) : State :=
  let s := s.dropEntries (fun e => e.rid == rid)
  let r := s.region rid
  let s := s.updPart r.part (fun p => { p with untrk := p.untrk - r.untrk })
  onRegion s rid (fun r => { r with untrk := 0, tiles := tmap r.tiles (fun _ t => { t with act := { t.act with ct := { t.act.ct with untr := [], untx := [] } } }) })

/-! ## Declarations (R234) -/

def State.declare (s : State) (rid kind : Nat) (obj : Word) : State :=
  let part := (s.region rid).part
  (s.updPart part (fun p =>
    { p with holds := p.holds.filter (fun d => !(d.1 == kind && d.2.1 == obj)) ++ [(kind, obj, rid)] })).rehold

def State.undeclare (s : State) (rid kind : Nat) (obj : Word) : State :=
  let part := (s.region rid).part
  (s.updPart part (fun p => { p with holds := p.holds.filter (fun d => !(d.1 == kind && d.2.1 == obj && d.2.2 == rid)) })).rehold

/-! ## Raising on another region -/

/-- A device trap of a region (R396, R399): SRC 4. -/
def State.raiseOn (s : State) (rid : Nat) (t : TrapInfo) : State :=
  onRegion s rid (fun r => r.raise { t with src := 4 })

/-! ## Confirmation (R367) -/

/-- Member records: two entries each, the last padded with zeros. -/
def memberWords (es : List Wfe) : List Word :=
  let ws := (es.map wfeWords).flatten
  ws ++ List.replicate (if es.length % 2 = 1 then 4 else 0) 0

/-- CYCLE_CONFIRM: the cycle at position `cyc` of the list is confirmed or has broken. -/
def execCycleConfirm (cyc : Nat) (s : State) : Res :=
  match s.cycles[cyc]? with
  | none => .next s
  | some c =>
    if (s.part c.part).slice.toNat < c.due then .next s
    else
      let s := { s with cycles := s.cycles.eraseIdx cyc }
      let es := c.ents.filterMap (fun i => s.entries.find? (fun e => e.id == i))
      let linked := (es.zip (es.drop 1 ++ es.take 1)).all (fun x => x.1.hv && x.1.hrid == x.2.rid)
      if es.length ≠ c.ents.length ∨ !linked ∨ es.all (fun e => e.rpt) then .next s
      else
        let s := s.mapEntries (fun e => if c.ents.contains e.id then { e with rpt := true } else e)
        let es := es.map (fun e => { e with rpt := true })
        let ms := es.take 16
        let m := ms.length
        let worse := fun (a b : Wfe) =>
          let pa := effPrio (s.region a.rid); let pb := effPrio (s.region b.rid)
          if pa < pb ∨ (pa = pb ∧ a.rid < b.rid) then b else a
        match ms with
        | [] => .next s
        | e :: rest =>
          let v := rest.foldl worse e
          .next (s.raiseOn v.rid { code := 0x28, key := keyOf v.page v.pos, elem := m % 32 + (if c.trunc then 32 else 0),
                                   aux := v.obj.toNat, nmem := (m + 1) / 2, more := memberWords ms })

/-! ## The kill of a holder (R331, R364): every registered LOCK wait whose word names the region has its word cleared -/

def State.wftKill (s : State) (rid : Nat) : State :=
  let s := s.endWaits rid
  let s := { s with parts := tmap s.parts (fun _ p => { p with holds := p.holds.filter (fun d => d.2.2 != rid) }) }
  let s := (s.entries.filter (fun e => e.kind == 4)).foldl (fun s e =>
    match objLoc e.obj with
    | some l =>
      let v := s.locVal l
      if bitOf v.bits 63 && fld v.bits 43 32 == rid then s.clearLock l else s
    | none => s) s
  let orph := s.entries.filter (fun e => e.kind != 4 && e.hv && e.hrid == rid)
  let s := s.mapEntries (fun e => if e.hv && e.hrid == rid then { e with hv := false, hrid := 0, rpt := false } else e)
  let s := orph.foldl (fun s e =>
    s.raiseOn e.rid { code := 0x28, key := keyOf e.page e.pos, elem := 1 + 64, aux := e.obj.toNat, nmem := 1,
                      more := memberWords [e] }) s
  s.eprios

end Sys2Proof.Machine
end

