-- ==== Sys2Proof/Machine/Sync.lean ====
section
/-! DEFINITION. Handles, fences, wait declarations' completion, system calls, breakpoints, CFGSW, RDCYC (R228-R230,
R242-R246), SCOPY and SCSTAT at firing (R266, R267, R269). -/

namespace Sys2Proof.Machine

/-! ## Scopes under a partition's policy (R98, R229, R433) -/

/-- Whether a scope is demoted under a policy; STRICT traps. -/
def scopeCheck (fpol sc : Nat) : Except TrapInfo Bool :=
  if sc < 3 ∨ fpol = 0 then .ok false
  else if fpol = 1 then .ok true
  else .error { code := 0x48, aux := sc }

def State.fpolNow (s : State) : Nat := partFpol (s.part s.cur.part)

/-- Set SDEM when a scope was demoted. -/
def sdemSet (b : Bool) (r : Region) : Region := if b then { r with sdem := true } else r

/-! ## Handles (R228, R229) -/

/-- Whether HFIN or HREL finds the state it needs. -/
def hndMay (op : Nat) (st : BitVec 2) : Bool := if op = 0xD7 then st == hFilling else st == hFull || st == hDraining

/-- The state of the handle a selector names; a handle with no record is FREE. -/
def hselState (r : Region) (key sel : Nat) : BitVec 2 :=
  match hselOf r key sel with | some (k, h) => (r.hnd k h).st | none => hFree

/-- HFIN and HREL at firing: the scope, then the handle's state. DESIGN CHOICE (log 55): where both fail, SCOPE_DEMOTED is raised. -/
def fireHnd (x : At) (op : Nat) (t : Ti) (fpol : Nat) (r : Region) : Region :=
  fire x op t [] (fun r =>
    let sel := t.imm.toNat % 32
    match scopeCheck fpol (t.imm.toNat / 32) with
    | .error e => .error e
    | .ok dem =>
      if !hndMay op (hselState r x.key sel) then .error (handleTrap (hselState r x.key sel) sel)
      else .ok (startOp x op t { ph := 5, cond := true } (sdemSet dem r))) r

def execHwait (t : Ti) (s : State) : Res := pe s (fun x r => fireScalar x 0xD4 t (fun _ _ => .ok ({}, true)) r)
def execHrel (t : Ti) (s : State) : Res := pe s (fun x r => fireHnd x 0xD5 t s.fpolNow r)
def execHclm (t : Ti) (s : State) : Res :=
  pe s (fun x r => fire x 0xD6 t [] (fun r =>
    .ok ((claimAll r (hreqsOf r x.key 0xD6 t)).updCt x.key (fun c => predUpd c t true))) r)
def execHfin (t : Ti) (s : State) : Res := pe s (fun x r => fireHnd x 0xD7 t s.fpolNow r)
def execHstat (t : Ti) (s : State) : Res :=
  pe s (fun x r => fireScalar x 0xD8 t (fun r _ =>
    let st := hselState r x.key (t.imm.toNat % 32)
    .ok ({ bits := st.zeroExtend 64 }, st != 0)) r)

/-- Completion of HFIN and HREL (R229). -/
def completeHnd (fc : Nat) (r : Region) (key id : Nat) (o : PendOp) : Region :=
  let sel := o.ti.imm.toNat % 32
  match hselOf r key sel with
  | none => failOp fc r key id o (handleTrap hFree sel)
  | some (k, h) =>
    let st := (r.hnd k h).st
    if !hndMay o.code st then failOp fc r key id o (handleTrap st sel)
    else
      let r := if o.code = 0xD7 then r.updHnd k h (fun x => { x with st := hFull, moved := true }) else freeHnd fc r k h
      (dropOp r key id o).updCt key (fun c => predUpd c o.ti true)

/-! ## Fences (R111, R230) -/

def execFence (t : Ti) (s : State) : Res :=
  pe s (fun x r => fire x 0xD9 t [] (fun r =>
    match scopeCheck s.fpolNow (t.imm.toNat / 4 % 8) with
    | .error e => .error e
    | .ok dem => .ok (startOp x 0xD9 t { ph := 5, cond := true } (sdemSet dem r))) r)

/-- An operation of an engine, whose accesses are no accesses of its PE (R99): neighbour lists, SCOPY and SCSTAT. -/
def engineOp (op : Nat) : Bool := decide (0xE4 ≤ op) && decide (op ≤ 0xEA)

/-- Every memory access the PE issued before operation `id` has completed (R229, R230, R243, R267, R300). -/
def earlierDone (r : Region) (key id : Nat) : Bool :=
  (r.ct key).ops.all (fun o => !(decide (o.1 < id) && accessesMem o.2.code && !engineOp o.2.code))

/-- Completion of a FENCE (R230). -/
def completeFence (r : Region) (key id : Nat) (o : PendOp) : Region :=
  (dropOp r key id o).updCt key (fun c => predUpd c o.ti true)

/-! ## System calls at firing (R242, R243) -/

/-- Statuses of system calls and of Xcarnar (R243, R328, R442). -/
abbrev kvEinval : Int := -1
abbrev kvEstate : Int := -2
abbrev kvEnospc : Int := -3
abbrev kvEperm : Int := -4
abbrev kvEnoent : Int := -5
abbrev kvEbusy : Int := -6
abbrev kvEreject : Int := -7
abbrev kvReplayBusy : Int := -8
abbrev kvEcancel : Int := -16
abbrev kvEreach : Int := -17
abbrev kvEbadf : Int := -18
abbrev kvEconnrefused : Int := -19
abbrev kvEconnreset : Int := -20
abbrev kvEio : Int := -21

def kv (i : Int) : Word := BitVec.ofInt 64 i

/-- SYSC: space, alignment and the capability of the block; an unreachable block is answered KV_EREACH (R242). -/
def execSysc (t : Ti) (s : State) : Res :=
  pe s (fun x r => fire x 0xF0 t (popsOf 0xF0 t) (fun r =>
    let o := opndsOf r x.key 0xF0 t
    let ea := o.a.bits
    let tr := fun c => ({ code := c, va := ea.toNat, aux := 64 } : TrapInfo)
    let p : PendOp := { a := o.a, b := o.b, ph := 5, col := colourOf r x.key 0xF0 t }
    if o.a.pois || o.b.pois then .error { poisonTrap with va := ea.toNat }
    else if fld ea 63 62 = 3 then .error (tr 0x14)
    else if fld ea 63 62 = 0 ∨ fld ea 63 62 = 2 then .ok (startOp x 0xF0 t { p with ph := 6, res := { bits := kv kvEreach }, cond := true } r)
    else if ea.toNat % 64 ≠ 0 then .error (tr 0x15)
    else if capRemote (capEntry r (fld ea 61 54)) then .ok (startOp x 0xF0 t { p with ph := 6, res := { bits := kv kvEreach }, cond := true } r)
    else
      match capCheck r s.sealNow (fld ea 61 54) (fld ea 53 0) 64 [bR] with
      | .error e => .error e
      | .ok _ => .ok (startOp x 0xF0 t p r)) r)

/-! ## BRK, CFGSW, RDCYC (R244-R246) -/

/-- BRK always traps (R244): there is no firing that completes. -/
def execBrk (t : Ti) (s : State) : Res :=
  pe s (fun x r => fire x 0xF1 t [] (fun _ => .error { code := 0x41, elem := t.imm.toNat }) r)
/-- CFGSW (R245). DESIGN CHOICE (log 55): it has no result, so its cond under PUO 01 is 0. -/
def execCfgsw (t : Ti) (s : State) : Res :=
  pe s (fun x r => fire x 0xF3 t [] (fun r =>
    .ok ((r.emit x.fc x.key (outsOf 0xF3 t) { tokSwap with col := colourOf r x.key 0xF3 t }).updCt x.key
      (fun c => predUpd c t false))) r)
def execRdcyc (t : Ti) (s : State) : Res :=
  pe s (fun x r => fireScalar x 0xF4 t (fun r _ =>
    let v := if t.imm.getLsbD 0 then (s.part r.part).slice else r.rcyc
    .ok ({ bits := v }, v != 0)) r)

/-! ## Copies at firing (R266, R267, R269) -/

def execScopy (t : Ti) (s : State) : Res :=
  pe s (fun x r => fire x 0xE9 t (popsOf 0xE9 t) (fun r =>
    let o := opndsOf r x.key 0xE9 t
    let a := o.a.bits
    let tr := fun c => ({ code := c, va := a.toNat, aux := 64 } : TrapInfo)
    let ok : Except TrapInfo Region := .ok (startOp x 0xE9 t { a := o.a, b := o.b, ph := 7, col := colourOf r x.key 0xE9 t } r)
    if o.a.pois || (t.sb != 15 && o.b.pois) then .error { poisonTrap with va := a.toNat }
    else if fld a 63 62 ≠ 0 ∨ fld a 61 32 ≠ 0 then .error (tr 0x14)
    else if a.toNat % 64 ≠ 0 then .error (tr 0x15)
    else if !mtOk r a.toNat 64 then .error (tr 0x13)
    else if t.sb = 15 then ok
    else
      match locate r x.key s.sealNow o.b.bits 8 [bR, bW, bA] false true with
      | .error e => .error e
      | .ok _ => ok) r)

/-- SCSTAT: four fc after it fires, the status of a copy (R269). -/
def execScstat (t : Ti) (s : State) : Res :=
  pe s (fun x r => fireLong x 0xEA t 4 (fun _ o => if o.a.pois then .error poisonTrap else .ok { a := o.a, ph := 8 }) r)

/-- Boxes of a descriptor or copy block: N elements, BXE to a box (R250). -/
def dExt (d : List Word) (i : Nat) : Nat := fld (d.getD (2 + i) 0) 59 40
def dStr (d : List Word) (i : Nat) : Int := (sxTo 40 (fld (d.getD (2 + i) 0) 39 0)).toInt
def dN (d : List Word) : Nat := (List.range 5).foldl (fun n i => n * dExt d i) 1
def dBxe (d : List Word) : Nat := fld (d.getD 1 0) 12 0
def dBoxes (d : List Word) : Nat := if dBxe d = 0 then 0 else (dN d + dBxe d - 1) / dBxe d

/-- The status word of a copy (R269): running from its context, complete or faulted from the kept statuses; an id that is not among the
region's last 64 launches is unknown. -/
def copyStatus (r : Region) (id : Nat) : Word :=
  if 64 ≤ (r.cpyid + 2 ^ 16 - id - 1) % 2 ^ 16 then 0
  else match r.copies.find? (fun c => c.2.cid == id) with
  | some (_, c) => BitVec.ofNat 64 (2 ^ 62 + dBoxes c.desc * 2 ^ 16 + c.done.length)
  | none => match tfind r.cstat id with | some (w, _) => w | none => 0

def completeScstat (fc : Nat) (r : Region) (key id : Nat) (o : PendOp) : Region :=
  let w := copyStatus r (o.a.bits.toNat % 2 ^ 16)
  completeS fc r key id o { bits := w } (fld w 63 62 == 2)

/-! ## Wait entries at completion (R233, R234) -/

/-- The kind of WREG, WHOLD and WDROP. -/
def wKind (t : Ti) : Nat := t.imm.toNat % 16

/-- Completion of WREG, WHOLD or WDROP on the object its access reached. A second WREG of a slot on an object makes no second entry, of
whatever kind (R234). -/
def State.completeWait (s : State) (rid key id : Nat) (o : PendOp) : State :=
  let r := s.region rid
  let obj := ((opAccs r o).head?.bind (s.objOf r)).getD 0
  let kind := wKind o.ti
  let fin := fun (s : State) (v : Word) => onRegion s rid (fun r => completeS s.fc r key id o { bits := v } (v != 0))
  match o.code with
  | 0xDA =>
    let have' := s.entries.any (fun e => e.exp && e.rid == rid && e.page == keyPage key && e.pos == keyPos key && e.slot == o.slot
      && e.obj == obj)
    if have' then fin s 1
    else
      match s.register rid key o.slot kind obj true with
      | (s, 2) => onRegion s rid (fun r => failOp s.fc r key id o { code := 0x29, elem := kind, aux := obj.toNat })
      | (s, v) => fin s (BitVec.ofNat 64 v)
  | 0xDB => fin (s.declare rid kind obj) 1
  | _ =>
    if o.ti.imm.getLsbD 4 then fin (s.undeclare rid kind obj) 1
    else
      let s := s.dropEntries (fun e => e.exp && e.rid == rid && e.page == keyPage key && e.pos == keyPos key && e.slot == o.slot
        && e.kind == kind && e.obj == obj)
      fin (s.endUntracked rid key o.slot (some (kind, obj))) 1

end Sys2Proof.Machine
end

