-- ==== Sys2Proof/Machine/Queue.lean ====
section
/-! DEFINITION. Expert queues (R279-R293) and the combine tile (R294-R296): the queue instructions, and the events of the
tiles. A queue instruction's access has space 3 and names tile and queue. -/

namespace Sys2Proof.Machine

/-! ## Events of a unit -/

/-- Marks of Plane.used: what a unit has done in this fc. -/
abbrev uEmit : Nat := 1
abbrev uPush : Nat := 2
abbrev uRefill : Nat := 3
abbrev uTake : Nat := 4
abbrev uGive : Nat := 5

def Region.useU (r : Region) (key k : Nat) : Region := r.updPl key (fun p => { p with used := nset p.used k true })
def Region.usedU (r : Region) (key k : Nat) : Bool := (r.pl key).used.contains k

/-- The MT units of a tile run: the region runs and is resident, the tile has taken no marker (R401, R410), and the check of its table
or ring has not failed (R252). -/
def unitLive (r : Region) (key : Nat) : Bool :=
  r.st == rRunning && r.res && !r.parked && !(r.tile key).mark && (r.tile key).swBusy.isNone && !keyIsCt key
    && (r.pl key).u.chk != 2

/-- An event of a unit of a tile in a mode; no effect while the unit does not run. -/
def unitEv (s : State) (rid key mode : Nat) (f : Nat → Region → Region) : Res :=
  .next (onRegion s rid (fun r => if unitLive r key && planeMode (r.pl key) == mode then f s.fc r else r))

/-- A trap of an MT unit (R399): SRC 3. -/
def unitTrap (r : Region) (key : Nat) (t : TrapInfo) : Region := r.raise { t with key := key, src := 3 }

/-! ## The mode record of an EXQ tile (R279, R280) -/

def exqWord (p : Plane) (k : Nat) : Word := p.mode.getD k 0
def exqN (p : Plane) : Nat := fld (exqWord p 0) 49 46 + 1
def exqSpe (p : Plane) : Bool := bitOf (exqWord p 0) 45
def exqRing (p : Plane) : Nat := 2 ^ (fld (exqWord p 0) 44 41 + 8)
def exqT (p : Plane) (q : Nat) : Nat := fld (exqWord p (2 + q)) 63 56 + 1
def exqB (p : Plane) (q : Nat) : Nat := fld (exqWord p (2 + q)) 55 48 + 1
def exqA (p : Plane) (q : Nat) : Nat := fld (exqWord p (2 + q)) 47 16
def exqOut (p : Plane) (q : Nat) : Nat := fld (exqWord p (2 + q)) 15 13
def exqSt (p : Plane) (q : Nat) : QSt := tget p.u.qs { cls := BitVec.ofNat 2 (fld (exqWord p (2 + q)) 12 11) } q
def Region.setQ (r : Region) (key q : Nat) (f : QSt → QSt) : Region :=
  r.updPl key (fun p => { p with u := { p.u with qs := tset p.u.qs q (f (exqSt p q)) } })

/-! ## The queue instructions at firing (R282) -/

/-- The checks of a queue address: the tile and the queue, or the trap. -/
def exqAddr (r : Region) (a : Word) : Except TrapInfo (Nat × Nat) :=
  let t := fun c => ({ code := c, va := a.toNat, aux := 8 } : TrapInfo)
  if fld a 63 62 ≠ 0 ∨ fld a 61 32 ≠ 0 then .error (t 0x14)
  else if a.toNat % 8 ≠ 0 then .error (t 0x15)
  else
    let key := mtAddrKey a.toNat
    let q := fld a 18 0 / 8
    if r.w * r.h ≤ fld a 31 22 ∨ planeMode (r.pl key) ≠ 7 ∨ exqN (r.pl key) ≤ q then .error (t 0x13)
    else .ok (key, q)

/-- Fire a queue instruction: b is consumed where it is used (R283, R289). -/
def fireEq (x : At) (op : Nat) (t : Ti) (consB : Bool) (r : Region) : Region :=
  fire x op t (popsOf op t) (fun r =>
    let o := opndsOf r x.key op t
    if o.a.pois || (consB && o.b.pois) then .error { poisonTrap with va := o.a.bits.toNat }
    else
      match exqAddr r o.a.bits with
      | .error e => .error e
      | .ok (key, q) =>
        let w := tget (r.ct x.key).g {} (t.imm.toNat % 16)
        .ok (startMem x op t { a := o.a, b := o.b, c := w, ph := 9, col := colourOf r x.key op t }
          [{ own := .pe x.key r.seq 0, op := .read 8, sp := 3, addr := (key * 16 + q) * 8, seq := r.seq, ea := o.a.bits }] r)) r

def execEqpush (t : Ti) (s : State) : Res := pe s (fun x r => fireEq x 0xE0 t true r)
def execEqflush (t : Ti) (s : State) : Res := pe s (fun x r => fireEq x 0xE1 t false r)
def execEqstat (t : Ti) (s : State) : Res := pe s (fun x r => fireEq x 0xE2 t false r)
def execEqpri (t : Ti) (s : State) : Res := pe s (fun x r => fireEq x 0xE3 t true r)

/-! ## The store, ages and the choice (R284-R287) -/

/-- Unchosen stored entries of a queue that count at fc `fc`, oldest first (R283, R285). -/
def exqEnts (p : Plane) (fc q : Nat) : List QEnt := p.u.ents.filter (fun e => e.q == q && !e.chosen && decide (e.fc < fc))
def exqAge (p : Plane) (e : QEnt) : Nat := (p.u.lclk - e.stamp).toNat

/-- A flush E token is due: every entry pushed before its mark has been emitted (R287). -/
def exqDue (p : Plane) (q : Nat) : Bool :=
  match (exqSt p q).flush with
  | [] => false
  | f :: _ => (p.u.ents ++ p.u.ring).all (fun e => e.q != q || decide (f.mark ≤ e.ord))

def exqAged (p : Plane) (fc q : Nat) : Bool :=
  exqDue p q || (match exqEnts p fc q with
    | [] => false
    | e :: _ => decide (exqA p q ≤ exqAge p e) || !(exqSt p q).flush.isEmpty)

/-- QUEUE_AGED: an aged queue without a stamp takes X (R285). -/
def ageQueue (fc key q : Nat) (r : Region) : Region :=
  let p := r.pl key
  if q < exqN p ∧ exqAged p fc q = true ∧ (exqSt p q).x.isNone then r.setQ key q (fun z => { z with x := some p.u.lclk }) else r

def ageAll (fc key : Nat) (r : Region) : Region := (List.range (exqN (r.pl key))).foldl (fun r q => ageQueue fc key q r) r

/-- The tests and the choice of R285 are made at the start of an fc, by the end of the fc before; the events below make them in the first fc
of a region that was not running then. -/
def exqFirst (r : Region) : Bool := r.cnt != rRunning

def execQueueAged (rid tile q : Nat) (s : State) : Res :=
  unitEv s rid tile 7 (fun fc r => if exqFirst r then ageQueue fc tile q r else r)

/-- The better of two queues under an order that prefers the first on ties. -/
def pickBy (better : Nat → Nat → Bool) (qs : List Nat) : Option Nat :=
  match qs with
  | [] => none
  | q :: rest => some (rest.foldl (fun a b => if better b a then b else a) q)

/-- The queue of R285, if any. -/
def exqPick (p : Plane) (fc : Nat) : Option Nat :=
  let qs := List.range (exqN p)
  let x := fun q => ((exqSt p q).x.getD 0).toNat
  match pickBy (fun b a => decide (x b < x a)) (qs.filter (fun q => exqAged p fc q)) with
  | some q => some q
  | none =>
    let n := fun q => (exqEnts p fc q).length
    let c := fun q => (exqSt p q).cls.toNat
    pickBy (fun b a => decide (c b < c a) || (c b == c a && decide (n a < n b))) (qs.filter (fun q => decide (exqT p q ≤ n q)))

/-- THE CHOICE OF R285: an idle emitter chooses a queue: a flush token or a batch. -/
def exqChoose (fc key : Nat) (r : Region) : Region :=
  let r := ageAll fc key r
  let p := r.pl key
  if p.u.batch.isSome ∨ r.usedU key uEmit = true then r
  else
    match exqPick p fc with
    | none => r
    | some q =>
      let r := r.setQ key q (fun z => { z with x := none })
      if exqDue p q then r.updU key (fun u => { u with batch := some (q, 0, true) })
      else
        let ords := ((exqEnts p fc q).take (exqB p q)).map (fun e => e.ord)
        r.updU key (fun u =>
          { u with batch := some (q, 0, false),
                   ents := u.ents.map (fun e => { e with chosen := e.chosen || ords.contains e.ord }) })

def execExqChoose (rid tile : Nat) (s : State) : Res := unitEv s rid tile 7 (fun fc r => if exqFirst r then exqChoose fc tile r else r)

/-- EXQ_BATCH_TOKEN: the next token of a batch (R286). An entry whose word 1 goes out in the fc in which an EQFLUSH was accepted does not
count for it (R287). -/
def exqToken (fc key : Nat) (r : Region) : Region :=
  let p := r.pl key
  match p.u.batch with
  | some (q, n, false) =>
    match p.u.ents.filter (fun e => e.chosen) with
    | [] => r
    | e :: rest =>
      if r.usedU key uEmit ∨ !r.outSpace key (exqOut p q) then r
      else
        let col := BitVec.ofNat 10 (fld e.w0.bits 9 0)
        let second := n % 2 = 1
        let tok := if second then tokS e.w1 (if rest.isEmpty then mkL else mkD) col else tokS e.w0 mkD col
        let r := (r.emit fc key [exqOut p q] tok).useU key uEmit
        let r := if second then
            r.setQ key q (fun z => { z with flush := z.flush.map (fun f => if f.fc = fc ∧ e.ord < f.mark then { f with n := f.n - 1 } else f) })
          else r
        r.updU key (fun u =>
          { u with ents := if second then u.ents.filter (fun z => z.ord != e.ord) else u.ents,
                   batch := if second && rest.isEmpty then none else some (q, n + 1, false) })
  | _ => r

def execExqBatchToken (rid tile : Nat) (s : State) : Res := unitEv s rid tile 7 (fun fc r => exqToken fc tile r)

/-- An operation gets its answer; LONG_OP_COMPLETE delivers it. -/
def answerOp (r : Region) (key id : Nat) (v : Val) (cond : Bool) : Region :=
  match r.op? key id with
  | some o => r.setOp key id { o with ph := 6, res := v, cond := cond }
  | none => r

/-- EXQ_FLUSH_TOKEN: the flush E token is sent; its mark is spent and its EQFLUSH answered (R287). -/
def exqFlush (fc key : Nat) (r : Region) : Region :=
  let p := r.pl key
  match p.u.batch with
  | some (q, _, true) =>
    match (exqSt p q).flush with
    | [] => r.updU key (fun u => { u with batch := none })
    | f :: rest =>
      if r.usedU key uEmit ∨ !r.outSpace key (exqOut p q) then r
      else
        let r := (r.emit fc key [exqOut p q] { mark := mkE, col := f.col }).useU key uEmit
        let r := r.setQ key q (fun z => { z with flush := rest })
        answerOp (r.updU key (fun u => { u with batch := none })) f.tile f.op { bits := BitVec.ofNat 64 f.n } (f.n != 0)
  | _ => r

def execExqFlushToken (rid tile : Nat) (s : State) : Res := unitEv s rid tile 7 (fun fc r => exqFlush fc tile r)

/-! ## Pushes and the spill ring (R283, R291, R292) -/

/-- Virtual address and capability index of a space-01 address in a region. -/
def globVa (r : Region) (a : Word) : Nat × Nat := let x := fld a 61 54; (capBase (capEntry r x) + fld a 53 0, x)

/-- The four accesses of a spill record of the tile at `key`. -/
def ringAccs (r : Region) (key tag idx : Nat) (ops : List MOp) : List Access :=
  let p := r.pl key
  let (va, x) := globVa r (exqWord p 1)
  (lenum ops).map (fun o => { own := .unit key tag, op := o.2, sp := 1, addr := va + idx % exqRing p * 32 + 8 * o.1, capx := x, seq := tag })

def issueAll (as : List Access) (r : Region) : Region := as.foldl (fun r a => (issue a r).1) r

/-- Open accesses of a unit under a tag. -/
def unitOpen (r : Region) (key tag : Nat) : Bool := r.flight.any (fun a => a.2.own == Owner.unit key tag && accOpen a.2)

/-- Entries that the store of a tile holds: its bytes hold those of both planes (R274, R408, log 21). -/
def exqStored (t : Tile) : Nat :=
  let n := fun (p : Plane) => if planeMode p = 7 then p.u.ents.length else 0
  n t.act + n t.ins

/-- Count of entries of a queue after a push. -/
def exqCount (p : Plane) (q : Nat) : Nat := ((p.u.ents ++ p.u.ring).filter (fun e => e.q == q)).length

def doneAcc (r : Region) (acc : Nat) (a : Access) : Region := { r with flight := tset r.flight acc { a with st := .done } }

/-- Where a push stands in the order of R283: its fc of arrival, then the page and the position of its issuer. -/
def pushBefore (a b : Access) : Bool :=
  let tile := fun (o : Owner) => match o with | .pe k _ _ => k | _ => 0
  decide (a.pa < b.pa) || (a.pa == b.pa && decide (tile a.own < tile b.own))

/-- The push is the next of those that have arrived at its tile before this fc (R283). -/
def pushNext (fc acc : Nat) (a : Access) (r : Region) : Bool :=
  decide (a.pa < fc) && r.flight.all (fun x =>
    !(x.1 != acc && x.2.sp == 3 && x.2.st == .waiting && x.2.addr / 8 / 16 == a.addr / 8 / 16 && pushBefore x.2 a))

/-- EXQ_PUSH_ACCEPT: a push on its way arrives at its tile; one that has arrived in an earlier fc, and whose turn it is, enters the store or
the ring, or freezes the region (R283, R291, R292). -/
def exqPush (s : State) (fc acc : Nat) (r : Region) : Region :=
  match tfind r.flight acc with
  | some a =>
    match a.own with
    | .pe k id _ =>
      let key := a.addr / 8 / 16
      let q := a.addr / 8 % 16
      let p := r.pl key
      match r.op? k id with
      | some o =>
        if o.code ≠ 0xE0 ∨ a.sp ≠ 3 ∨ !unitLive r key then r
        else if a.st = .travel then
          (if mustPrecede s r acc a false then { r with flight := tset r.flight acc { a with st := .waiting, pa := fc } } else r)
        else if a.st ≠ .waiting ∨ r.usedU key uPush ∨ !pushNext fc acc a r then r
        else
          let e : QEnt := { q := q, stamp := p.u.lclk, ord := p.u.qord, fc := fc, w0 := o.b, w1 := o.c }
          let fin := fun (r : Region) =>
            doneAcc ((r.updU key (fun u => { u with qord := u.qord + 1 })).useU key uPush) acc a
          if exqStored (r.tile key) < 2048 ∧ p.u.ring.isEmpty = true then
            let r := fin (r.updU key (fun u => { u with ents := u.ents ++ [e] }))
            r.setOp k id { o with res := { bits := BitVec.ofNat 64 (exqCount (r.pl key) q) }, cond := true }
          else if exqSpe p = true ∧ p.u.ring.length < exqRing p then
            let r := fin (issueAll (ringAccs r key id p.u.rtail.toNat
              [.write 8 e.w0, .write 8 e.w1, .write 8 { bits := BitVec.ofNat 64 (e.stamp.toNat * 2 ^ 32 + q) }, .write 8 {}]) r)
            let r := r.updU key (fun u => { u with ring := u.ring ++ [e], rtail := u.rtail + 1 })
            r.setOp k id { o with res := { bits := BitVec.ofNat 64 (exqCount (r.pl key) q) }, cond := true }
          else
            let r := { r with flight := tset r.flight acc { a with st := .stalled 0x30 } }
            r.raise { code := 0x30, key := k, slot := o.slot, tiw := tget (r.ct k).slots 0 o.slot,
                      elem := keyPage key * 2 ^ 14 + keyPos key * 2 ^ 10 + o.slot * 2 ^ 4 + q }
      | none => r
    | _ => r
  | none => r

def execExqPushAccept (rid acc : Nat) (s : State) : Res := .next (onRegion s rid (fun r => exqPush s s.fc acc r))

/-- Tag of a tile's refill reads. -/
abbrev refillTag : Nat := 0

/-- EXQ_RING_REFILL: the ring's head record is read, then moves into the store with its stamp (R291). -/
def exqRefill (fc key : Nat) (r : Region) : Region :=
  let p := r.pl key
  match p.u.ring with
  | [] => r
  | e :: rest =>
    let mine := r.flight.filter (fun a => a.2.own == Owner.unit key refillTag)
    if mine.isEmpty then
      if exqStored (r.tile key) < 2048 ∧ r.flight.all (fun a => match a.2.own with | Owner.unit k _ => k != key || !accOpen a.2 | _ => true) = true then
        issueAll (ringAccs r key refillTag p.u.rhead.toNat [.read 8, .read 8, .read 8, .read 8]) r
      else r
    else if mine.any (fun a => accOpen a.2) ∨ r.usedU key uRefill = true then r
    else
      let v := fun i => ((mine[i]?).map (fun (a : Nat × Access) => a.2.ans)).getD {}
      let e' : QEnt := { q := fld (v 2).bits 3 0, stamp := BitVec.ofNat 32 (fld (v 2).bits 63 32), ord := e.ord, fc := fc, w0 := v 0, w1 := v 1 }
      let r := { r with flight := r.flight.filter (fun a => a.2.own != Owner.unit key refillTag) }
      (r.updU key (fun u => { u with ents := u.ents ++ [e'], ring := rest, rhead := u.rhead + 1 })).useU key uRefill

def execExqRingRefill (rid tile : Nat) (s : State) : Res := unitEv s rid tile 7 (fun fc r => exqRefill fc tile r)

/-- The status word of a queue (R288). DESIGN CHOICE (log 55): AG is judged when the status is read. -/
def exqStatus (p : Plane) (fc q : Nat) : Word :=
  let st := exqSt p q
  let stored := p.u.ents.filter (fun e => e.q == q)
  let nsp := (p.u.ring.filter (fun e => e.q == q)).length
  let oage := match stored with | [] => 0 | e :: _ => Nat.min (exqAge p e) (2 ^ 24 - 1)
  BitVec.ofNat 64 (st.cls.toNat * 2 ^ 62 + (if st.flush.isEmpty then 0 else 2 ^ 61) + (if exqAged p fc q then 2 ^ 60 else 0)
    + stored.length * 2 ^ 48 + nsp * 2 ^ 24 + oage)

/-- LONG_OP_COMPLETE for a queue instruction (R283, R287-R289): its event at the tile, or its completion. -/
def completeEq (s : State) (fc : Nat) (r : Region) (key id : Nat) (o : PendOp) : Region :=
  match o.accs.filterMap (fun n => (tfind r.flight n).map (fun a => (n, a))) with
  | [] => r
  | (n, a) :: _ =>
    let tk := a.addr / 8 / 16
    let q := a.addr / 8 % 16
    let p := r.pl tk
    if o.code = 0xE0 then
      (if a.st = .done ∧ unitOpen r tk id = false then
        completeS fc { r with flight := r.flight.filter (fun b => b.2.own != Owner.unit tk id) } key id o o.res true else r)
    else if a.st ≠ .travel ∨ !unitLive r tk ∨ !mustPrecede s r n a false then r
    else if o.code = 0xE1 then
      let rem := ((p.u.ents ++ p.u.ring).filter (fun e => e.q == q)).length
      let f : Flush := { mark := p.u.qord, tile := key, op := id, col := o.col, n := rem, fc := fc }
      (doneAcc r n a).setQ tk q (fun z => { z with flush := z.flush ++ [f] })
    else if o.code = 0xE2 then
      let w := exqStatus p fc q
      completeS fc r key id o { bits := w } (fld w 59 24 != 0)
    else
      let old := (exqSt p q).cls
      completeS fc (r.setQ tk q (fun z => { z with cls := BitVec.ofNat 2 (fld o.b.bits 1 0) })) key id o
        { bits := old.zeroExtend 64 } (old != 0)

/-! ## Combine (R294-R296) -/

def excHdr (w : Word) : Nat × Nat × Nat := (fld w 63 40, fld w 39 36, fld w 35 32)

/-- Whether id s has all its slots. -/
def excComplete (u : MtU) (s : Nat) : Bool :=
  match tget u.win [] s with
  | [] => false
  | (a, h, v) :: rest => ((a, h, v) :: rest).length == (excHdr h.bits).2.2 + 1

/-- R296: a pair that may not be recorded. -/
def excBad (u : MtU) (h : Val) : Bool :=
  let (s, slot, km1) := excHdr h.bits
  let d := (s + 2 ^ 24 - u.wbase.toNat % 2 ^ 24) % 2 ^ 24
  let got := tget u.win [] s
  decide (4096 ≤ d) || got.any (fun x => x.1 == slot) || decide (km1 < slot) || got.any (fun x => (excHdr x.2.1.bits).2.2 != km1)
    || fld h.bits 15 10 != 0

/-- A trap whose heads stay: the test is made again when the region resumes (R295). -/
def excStay (key : Nat) (r : Region) : Region :=
  unitTrap (r.updU key (fun u => { u with halt := true })) key { code := 0x31, elem := (r.pl key).u.wbase.toNat % 2 ^ 24 }

/-- EXC_PAIR: the heads of mi0 and mvi0 (R295, R296). -/
def excPair (key : Nat) (r : Region) : Region :=
  let u := (r.pl key).u
  let isC := fun (t : Token) => t.mark == mkC
  match r.head key 0, r.head key 8 with
  | some a, some b =>
    if isC a then r.popIn key 0
    else if isC b then r.popIn key 8
    else if a.mark == mkE && b.mark == mkE then r
    else if a.mark == mkE || b.mark == mkE then (if u.halt then r else excStay key r)
    else
      let h := tokVal a
      let row := tokVVal b
      let s := (excHdr h.bits).1
      let r := (r.popIn key 0).popIn key 8
      if h.pois || row.pois != 0 then unitTrap r key { code := 0x21, elem := s }
      else if excBad u h then unitTrap r key { code := 0x31, elem := s }
      else r.updU key (fun u => { u with win := tset u.win s (tget u.win [] s ++ [((excHdr h.bits).2.1, h, row)]) })
  | some a, none => if isC a then r.popIn key 0 else r
  | none, some b => if isC b then r.popIn key 8 else r
  | none, none => r

def execExcPair (rid tile : Nat) (s : State) : Res := unitEv s rid tile 8 (fun _ r => excPair tile r)

/-- The combined row of a complete id (R295): one rounding per lane. -/
def excRow (got : List (Nat × Val × VVal)) : BitVec 512 :=
  ofLanes 1 ((List.range 16).map (fun l =>
    (rnd 1 0 false false 0 (sumVals 0 (got.map (fun g => mulVals (fdec 3 (fld g.2.1.bits 31 16)) (fdec 1 (lane 1 g.2.2.bits l)))))).1))

/-- A pair of the window whose header or row is poisoned. -/
def excPois (x : Nat × Val × VVal) : Bool := x.2.1.pois || x.2.2.pois != 0

/-- EXC_EMIT: id W leaves in order; a pair that has been poisoned in the window is found when it is used, and discarded (R295, R404). -/
def excEmit (fc key : Nat) (r : Region) : Region :=
  let u := (r.pl key).u
  let w := u.wbase.toNat % 2 ^ 24
  if !excComplete u w ∨ r.usedU key uEmit ∨ !r.outSpace key 0 ∨ !r.outSpace key 8 then r
  else
    let got := tget u.win [] w
    if got.any excPois then
      unitTrap (r.updU key (fun u => { u with win := tset u.win w (got.filter (fun x => !excPois x)) })) key { code := 0x21, elem := w }
    else
    let col := BitVec.ofNat 10 (((got.find? (fun g => g.1 == 0)).map (fun g => fld g.2.1.bits 9 0)).getD 0)
    let r := r.emit fc key [0] (tokS { bits := BitVec.ofNat 64 w } mkD col)
    let r := r.emit fc key [8] (tokV { bits := excRow got } mkD col)
    (r.updU key (fun u => { u with win := tdel u.win w, wbase := BitVec.ofNat 64 ((w + 1) % 2 ^ 24) })).useU key uEmit

def execExcEmit (rid tile : Nat) (s : State) : Res := unitEv s rid tile 8 (fun fc r => excEmit fc tile r)

/-- EXC_END: E tokens at both heads (R295). -/
def excEnd (fc key : Nat) (r : Region) : Region :=
  let u := (r.pl key).u
  let w := u.wbase.toNat % 2 ^ 24
  match r.head key 0, r.head key 8 with
  | some a, some b =>
    if a.mark != mkE || b.mark != mkE || excComplete u w then r
    else if !u.win.isEmpty then (if u.halt then r else excStay key r)
    else if !r.outSpace key 0 ∨ !r.outSpace key 8 then r
    else
      let r := (r.popIn key 0).popIn key 8
      (r.emit fc key [0] a).emit fc key [8] b
  | _, _ => r

def execExcEnd (rid tile : Nat) (s : State) : Res := unitEv s rid tile 8 (fun fc r => excEnd fc tile r)

end Sys2Proof.Machine
end

