-- ==== Sys2Proof/Machine/Nle.lean ====
section
/-! DEFINITION. Neighbour-list engines (R298-R311): the instructions at firing, placement, binning, moving, sweeping. -/

namespace Sys2Proof.Machine

/-! ## Exact dyadic numbers -/

/-- An integer times a power of two. -/
abbrev Dy := Int × Int
def dyNeg (a : Dy) : Dy := (-a.1, a.2)
def dySub (a b : Dy) : Dy := dyAdd a (dyNeg b)
def dyMul (a b : Dy) : Dy := (a.1 * b.1, a.2 + b.2)
def dyScale (n : Int) (a : Dy) : Dy := (n * a.1, a.2)
def dyLt (a b : Dy) : Bool := decide ((dySub a b).1 < 0)
def dyVal (a : Dy) : RVal := .fin (decide (a.1 < 0)) (.dyad a.1.natAbs a.2)
def rndDy (f : Nat) (a : Dy) : Nat := (rnd f 0 false false 0 (dyVal a)).1
def isFinite (f bits : Nat) : Bool := match fdec f bits with | .fin _ _ => true | _ => false

/-! ## Configuration (R303) -/

def nlP64 (c : List Word) : Bool := bitOf (c.getD 0 0) 63
def nlFmt (c : List Word) : Nat := if nlP64 c then 0 else 1
/-- Axis 0 x, 1 y, 2 z. -/
def nlPer (c : List Word) (ax : Nat) : Bool := bitOf (c.getD 0 0) (60 + ax)
def nlN (c : List Word) (ax : Nat) : Nat := fld (c.getD 0 0) (23 + 6 * ax) (18 + 6 * ax) + 1
def nlD (c : List Word) (k : Nat) : Dy := (fdec 0 (c.getD k 0).toNat).dy
def nlL (c : List Word) (ax : Nat) : Dy := nlD c (1 + ax)
def nlRc (c : List Word) : Dy := nlD c 4
def nlSkin (c : List Word) : Dy := nlD c 5
def nlTst (c : List Word) : Bool := bitOf (c.getD 0 0) 59
def nlNd (c : List Word) : Nat := if bitOf (c.getD 0 0) 58 then 2 else 1
def nlDst (c : List Word) (d : Nat) : Word := c.getD (6 + d) 0
def nlCap (c : List Word) : Nat := if nlP64 c then 32768 else 65536
def nlRecBytes (c : List Word) : Nat := if nlP64 c then 32 else 16

/-- A CT input named by a route destination word. -/
def dstPlace (w : Word) : Nat × Nat := (keyOf (fld w 63 54) (fld w 53 50), fld w 49 46)

/-- Destinations of the engines of a region, but for engine `e`. -/
def nleFeeds (r : Region) (e key inp : Nat) : Bool :=
  r.nles.any (fun n => n.1 != e && n.2.st != 0 && (List.range (nlNd n.2.cfg)).any (fun d => dstPlace (nlDst n.2.cfg d) == (key, inp)))

/-- A stream belongs to the active plane of its tile; one of the Insole plane stands where it stopped (R405). -/
def strmHere (r : Region) (z : Strm) : Bool := z.plane == (if (r.pl z.tile).shadow then 1 else 0)

/-- An input is fed by a route or a read stream of the region's active planes. -/
def routeFed (r : Region) (key inp : Nat) : Bool :=
  r.tiles.any (fun t => t.2.act.routes.any (fun o => o.2.any (fun w => dstPlace w == (key, inp))))
def streamFed (r : Region) (key inp : Nat) : Bool :=
  r.strms.any (fun c => c.2.tile == key && strmHere r c.2 && !bitOf (c.2.desc.getD 1 0) 63 && bitOf (c.2.desc.getD 1 0) 62
    && fld (c.2.desc.getD 1 0) 61 58 == inp)

def nlDstBad (r : Region) (e : Nat) (w : Word) : Bool :=
  let (key, inp) := dstPlace w
  decide (r.w * r.h ≤ fld w 63 54) || !keyIsCt key || decide (inp < 8) || decide (11 < inp) || fld w 37 0 != 0
    || routeFed r key inp || streamFed r key inp || nleFeeds r e key inp

/-- The conditions under which NLCLR returns -1 (R303). -/
def nlBad (r : Region) (e : Nat) (c : List Word) : Bool :=
  let w0 := c.getD 0 0
  let pos := fun k => isFinite 0 (c.getD k 0).toNat && decide (0 < (nlD c k).1)
  let reach := dyAdd (nlRc c) (nlSkin c)
  fld w0 57 36 != 0 || fld w0 17 0 != 0 || !pos 1 || !pos 2 || !pos 3 || !pos 4
    || !isFinite 0 (c.getD 5 0).toNat || decide ((nlSkin c).1 < 0)
    || [0, 1, 2].any (fun ax => dyLt (nlL c ax) (dyScale (nlN c ax) reach) || (nlPer c ax && dyLt (nlL c ax) (dyScale 2 reach)))
    || nlDstBad r e (nlDst c 0) || (nlNd c == 2 && (nlDstBad r e (nlDst c 1) || nlDst c 0 == nlDst c 1))
    || (nlNd c == 1 && nlDst c 1 != 0)

/-! ## Placement and cells (R304) -/

/-- A coordinate as stored, or none when it is out of range. -/
def nlPlace (c : List Word) (ax bits : Nat) : Option Nat :=
  let f := nlFmt c
  if !isFinite f bits then none
  else
    let u := (fdec f bits).dy
    let l := nlL c ax
    let fix := fun (v : Dy) => let b := rndDy f v; let d := (fdec f b).dy; if d.1 = 0 ∨ !dyLt d l then 0 else b
    if !dyLt u (0, 0) ∧ dyLt u l = true then some bits
    else if !nlPer c ax then none
    else if dyLt u (0, 0) ∧ !dyLt u (dyNeg l) then some (fix (dyAdd u l))
    else if !dyLt u l ∧ dyLt u (dyScale 2 l) = true then some (fix (dySub u l))
    else none

/-- floor(u x N / L), exactly. -/
def nlCoord (c : List Word) (ax bits : Nat) : Nat :=
  let u := dyScale (nlN c ax) (fdec (nlFmt c) bits).dy
  ((List.range (nlN c ax - 1)).filter (fun (k : Nat) => !dyLt u (dyScale ((k : Int) + 1) (nlL c ax)))).length

def nlCell (c : List Word) (x : List Nat) : Nat :=
  (nlCoord c 2 (x.getD 2 0) * nlN c 1 + nlCoord c 1 (x.getD 1 0)) * nlN c 0 + nlCoord c 0 (x.getD 0 0)

/-- Place all three coordinates. -/
def nlPlace3 (c : List Word) (x : List Nat) : Option (List Nat) :=
  match nlPlace c 0 (x.getD 0 0), nlPlace c 1 (x.getD 1 0), nlPlace c 2 (x.getD 2 0) with
  | some a, some b, some d => some [a, b, d]
  | _, _, _ => none

/-- Bin particles in ascending index (R305): the particles, or the fault code and its index. -/
def nlBin (c : List Word) (ps : List Particle) : Except (Nat × Nat) (List Particle) :=
  (lenum ps).foldl (fun acc ip =>
    match acc with
    | .error e => .error e
    | .ok done =>
      match nlPlace3 c ip.2.x with
      | none => .error (0x3A, ip.1)
      | some x =>
        let cell := nlCell c x
        let n := (done.filter (fun p => p.cell == cell)).length
        if n = 63 then .error (0x38, cell)
        else .ok (done ++ [{ ip.2 with x := x, bin := x, cell := cell, slot := n }])) (.ok [])

/-! ## Distances (R306, R307) -/

/-- The minimum-image difference on one axis. -/
def nlDiff (c : List Word) (ax a b : Nat) : Dy :=
  let d := dySub (fdec (nlFmt c) b).dy (fdec (nlFmt c) a).dy
  let l := nlL c ax
  if !nlPer c ax then d
  else
    let ok := fun (v : Dy) => !dyLt (dyScale 2 v) (dyNeg l) && dyLt (dyScale 2 v) l
    ([d, dySub d l, dyAdd d l].find? ok).getD d

/-- Displacement above skin/2 (R306). -/
def nlMoved (c : List Word) (p : Particle) : Bool :=
  let sq := [0, 1, 2].foldl (fun (acc : Dy) ax => let d := nlDiff c ax (p.bin.getD ax 0) (p.x.getD ax 0); dyAdd acc (dyMul d d)) (0, 0)
  let s := nlSkin c
  let s2 := dyMul s s
  dyLt (s2.1, s2.2 - 2) sq

def nlStale (n : Nle) : Nat := (n.parts.filter (nlMoved n.cfg)).length

/-- dx, dy, dz and r2 of a pair as FP32 bits; a difference beyond FP32 is infinite, and so is r2 (R307). -/
def nlPair (c : List Word) (i j : Particle) : List Nat × Nat :=
  let ds := [0, 1, 2].map (fun ax => rndDy 1 (nlDiff c ax (i.x.getD ax 0) (j.x.getD ax 0)))
  (ds, (rnd 1 0 false false 0 (sumVals 0 (ds.map (fun d => mulVals (fdec 1 d) (fdec 1 d))))).1)

/-- The stencil of a cell, ascending (R308). -/
def nlStencil (c : List Word) (cell : Nat) : List Nat :=
  let nx := nlN c 0; let ny := nlN c 1; let nz := nlN c 2
  let axis := fun (ax n v : Nat) => ([-1, 0, 1] : List Int).filterMap (fun o =>
    let w := (v : Int) + o
    if nlPer c ax then some (w % (n : Int)).toNat else if w < 0 ∨ (n : Int) ≤ w then none else some w.toNat)
  let cs := ((axis 2 nz (cell / (nx * ny))).map (fun z => ((axis 1 ny (cell / nx % ny)).map (fun y =>
    (axis 0 nx (cell % nx)).map (fun x => (z * ny + y) * nx + x))).flatten)).flatten
  (sortBy (fun a b => decide (a ≤ b)) (cs.eraseDups))

/-- A pair record (R309) as 32 bytes. -/
def nlRecord (i j : Nat) (pi pj : Particle) (d : List Nat × Nat) : Nat :=
  i + 2 ^ 32 * j + 2 ^ 64 * d.1.getD 0 0 + 2 ^ 96 * d.1.getD 1 0 + 2 ^ 128 * d.1.getD 2 0 + 2 ^ 160 * d.2
    + 2 ^ 192 * pi.id.toNat + 2 ^ 224 * pj.id.toNat

/-- Tokens of a cell's records, two to a token, the last marked L (R308, R309). -/
def nlTokens (rs : List Nat) : List Token :=
  match rs with
  | [] => []
  | [a] => [{ pay := BitVec.ofNat 512 (a + 2 ^ 256 * (2 ^ 64 - 1)), mark := mkL }]
  | a :: b :: rest =>
    let t : Token := { pay := BitVec.ofNat 512 (a + 2 ^ 256 * b) }
    match rest with
    | [] => [{ t with mark := mkL }]
    | x :: xs => t :: nlTokens (x :: xs)

/-- All pair tokens of a sweep in order, and the pairs emitted (R308). -/
def nlSweepTokens (c : List Word) (ps : List Particle) (full list : Bool) : List Token × Nat :=
  let ips := lenum ps
  let reach := if list then dyAdd (nlRc c) (nlSkin c) else nlRc c
  let cut := rndDy 1 (dyMul reach reach)
  let bySlot := fun (cell : Nat) => (sortBy (fun a b => decide (a.2.slot ≤ b.2.slot)) (ips.filter (fun p => p.2.cell == cell)))
  (List.range (nlN c 0 * nlN c 1 * nlN c 2)).foldl (fun acc cell =>
    let recs := ((bySlot cell).map (fun i => ((nlStencil c cell).map (fun s => (bySlot s).filterMap (fun j =>
      let d := nlPair c i.2 j.2
      let less := decide (cell < s) || (cell == s && decide (i.2.slot < j.2.slot))
      if j.1 ≠ i.1 ∧ fLt 1 d.2 cut = true ∧ (full || less) = true then some (nlRecord i.1 j.1 i.2 j.2 d) else none))).flatten)).flatten
    (acc.1 ++ nlTokens recs, acc.2 + recs.length)) ([], 0)

/-! ## The instructions at firing (R302) -/

def nleCount (r : Region) : Nat := if r.onl then fld r.eff3 29 24 else 0
def nleOf (r : Region) (e : Nat) : Nle := tget r.nles {} e
def Region.setNle (r : Region) (e : Nat) (f : Nle → Nle) : Region := { r with nles := tset r.nles e (f (nleOf r e)) }
def opEng (o : PendOp) : Nat := o.ti.imm.toNat % 64

/-- The records of neighbour-list operations carry the engine's number (R399). -/
def nlUnit (e : Nat) (x : Except TrapInfo Region) : Except TrapInfo Region :=
  match x with | .error t => .error { t with unit := e } | y => y

/-- NLBIN, NLMOVE, NLCLR: engine number, then the address of what is read. -/
def fireNl (x : At) (op : Nat) (t : Ti) (sl bytes : Nat) (reads : Word → Bool) (r : Region) : Region :=
  fire x op t (popsOf op t) (fun r =>
    let o := opndsOf r x.key op t
    let e := t.imm.toNat % 64
    let ok : Except TrapInfo Region := .ok (startOp x op t { a := o.a, b := o.b, ph := 10, col := colourOf r x.key op t } r)
    nlUnit e (
      if o.a.pois || (op != 0xE8 && o.b.pois) then .error { poisonTrap with va := o.a.bits.toNat }
      else if nleCount r ≤ e then .error { code := 0x13, aux := e }
      else if !reads o.b.bits then ok
      else match locate r x.key sl o.a.bits bytes [bR] false false with
        | .error err => .error err
        | .ok _ => ok)) r

def execNlbin (t : Ti) (s : State) : Res := pe s (fun x r => fireNl x 0xE4 t s.sealNow 8 (fun b => fld b 16 0 != 0) r)
def execNlmove (t : Ti) (s : State) : Res := pe s (fun x r => fireNl x 0xE6 t s.sealNow 8 (fun _ => true) r)
def execNlclr (t : Ti) (s : State) : Res := pe s (fun x r => fireNl x 0xE8 t s.sealNow 64 (fun _ => true) r)

/-- NLSWEEP and NLSTAT have no operands. -/
def fireNl0 (x : At) (op : Nat) (t : Ti) (r : Region) : Region :=
  fire x op t [] (fun r =>
    let e := t.imm.toNat % 64
    if nleCount r ≤ e then .error { code := 0x13, aux := e, unit := e }
    else .ok (startOp x op t { ph := 10, col := colourOf r x.key op t } r)) r
def execNlsweep (t : Ti) (s : State) : Res := pe s (fun x r => fireNl0 x 0xE5 t r)
def execNlstat (t : Ti) (s : State) : Res := pe s (fun x r => fireNl0 x 0xE7 t r)

/-! ## The engine (R299, R300, R305, R306, R308) -/

/-- The operation has been sent: every access its PE issued before it has completed, as for SCOPY (R300). -/
def nlSent (r : Region) (key id : Nat) : Bool := earlierDone r key id

/-- An operation of an engine other than NLSTAT. -/
def nlIsOp (e : Nat) (o : PendOp) : Bool :=
  (o.code == 0xE4 || o.code == 0xE5 || o.code == 0xE6 || o.code == 0xE8) && opEng o == e && o.ph == 10

/-- Operations on the way to an engine that may arrive next: the oldest of each PE that has not arrived, if sent (R300). -/
def nlWaiting (r : Region) (e : Nat) : List (Nat × Nat × PendOp) :=
  let n := tget r.nles {} e
  (r.tiles.map (fun t =>
    match (t.2.act.ct.ops ++ t.2.ins.ct.ops).filter (fun o => nlIsOp e o.2 && !n.queue.contains (t.1, o.1) && n.busy != some (t.1, o.1)) with
    | [] => []
    | (id, o) :: _ => if nlSent r t.1 id then [(t.1, id, o)] else [])).flatten

/-- The reads of n records of z bytes from EA, in ascending address. -/
def nlReads (r : Region) (key id : Nat) (ea : Word) (n z : Nat) : List Access :=
  let (sp, base, x) := if fld ea 63 62 = 1 then (1, (globVa r ea).1, (globVa r ea).2) else (0, ea.toNat, 0)
  (List.range (n * z / 8)).map (fun i => { own := .pe key id i, op := .read 8, sp := sp, addr := base + 8 * i, capx := x, seq := id, ea := ea })

/-- The range check of the records (R302): the trap of the first record that fails, with its particle index from i0 on. -/
def nlRange (r : Region) (key sl : Nat) (ea : Word) (n z i0 : Nat) : Option TrapInfo :=
  if ea.toNat % z ≠ 0 then some { code := 0x15, va := ea.toNat, aux := z, elem := i0 }
  else
    (List.range n).findSome? (fun i =>
      let a := ea + BitVec.ofNat 64 (i * z)
      if fld ea 63 62 ≠ 1 ∧ a.toNat / 2 ^ 19 ≠ ea.toNat / 2 ^ 19 then some { code := 0x13, va := a.toNat, aux := z, elem := i0 + i }
      else
        match locate r key sl a z [bR] false false with
        | .error t => some { t with elem := i0 + i }
        | .ok _ => none)

/-- The engine gives its operation up with a trap at completion; NLE traps carry the engine's number (R399). -/
def nlFail (fc : Nat) (r : Region) (e key id : Nat) (o : PendOp) (t : TrapInfo) : Region :=
  (failOp fc r key id o { t with unit := e }).setNle e (fun n => { n with busy := none })

def nlAnswer (r : Region) (e key id : Nat) (v : Word) : Region :=
  (answerOp r key id { bits := v } (v != 0)).setNle e (fun n => { n with busy := none })

/-- Start the tokens of a sweep (R308): by destination. A sweep that a restored context had begun goes on behind the tokens its
destinations have had, which the image keeps in latch a (R301, log 21). -/
def nlSweep (r : Region) (e : Nat) (o : PendOp) : Region :=
  let n := nleOf r e
  let nd := nlNd n.cfg
  let had := fun d => fld o.a.bits (32 * d + 31) (32 * d)
  if n.st = 3 then
    let t : Token := { pay := BitVec.ofNat 512 (nlStale n * 2 ^ 32 + 0xEE), mark := mkC }
    r.setNle e (fun n => { n with sweep := (List.range nd).map (fun d => [(d, t)].drop (had d)), gone := (List.range nd).map had })
  else
    let ps := if n.st = 2 then n.parts else []
    let ts := (nlSweepTokens n.cfg ps (o.ti.imm.getLsbD 7) (o.ti.imm.getLsbD 6)).1
    let split := (List.range nd).map (fun d => (lenum ts).filter (fun x => x.1 % nd == d) ++ [(ts.length + d, { mark := mkE })])
    r.setNle e (fun n => { n with sweep := (lenum split).map (fun x => x.2.drop (had x.1)), gone := (List.range nd).map had })

/-- An operation is taken: what it needs from memory is read first (R300, R303, R305, R306). -/
def nlStart (fc sl : Nat) (r : Region) (e key id : Nat) (o : PendOp) : Region :=
  let n := nleOf r e
  let r := r.setNle e (fun n => { n with busy := some (key, id) })
  let go := fun (cnt z : Nat) =>
    match nlRange r key sl o.a.bits cnt z (if o.code = 0xE6 then fld o.b.bits 47 32 else 0) with
    | some t => nlFail fc r e key id o t
    | none =>
      let as := nlReads r key id o.a.bits cnt z
      let ns := (List.range as.length).map (fun i => r.seq + i)
      (issueAll as r).setOp key id { o with accs := ns, ph := 11 }
  if o.code = 0xE5 then (if n.st = 0 then nlAnswer r e key id (kv kvEinval) else nlSweep r e o)
  else if o.code = 0xE8 then
    go 1 64
  else if o.code = 0xE4 then
    let cnt := fld o.b.bits 16 0
    if n.st = 0 ∨ nlCap n.cfg < cnt then nlAnswer r e key id (kv kvEinval)
    else if cnt = 0 then r.setOp key id { o with ph := 11 }
    else go cnt (nlRecBytes n.cfg)
  else
    let cnt := fld o.b.bits 16 0
    let i0 := fld o.b.bits 47 32
    if (n.st ≠ 2 ∧ n.st ≠ 3) ∨ cnt = 0 ∨ fld o.b.bits 31 17 ≠ 0 ∨ fld o.b.bits 63 48 ≠ 0 ∨ n.parts.length < i0 + cnt then
      nlAnswer r e key id (kv kvEinval)
    else go cnt (nlRecBytes n.cfg)

/-- Records read, as particles, with the poison of each. -/
def nlRecords (c : List Word) (vs : List Val) : List (Particle × Bool) :=
  let z := nlRecBytes c / 8
  (List.range (vs.length / z)).map (fun k =>
    let v := fun i => vs.getD (k * z + i) {}
    let w := fun i => (v i).bits.toNat
    let p : Particle :=
      if nlP64 c then { x := [w 0, w 1, w 2], id := BitVec.ofNat 32 (w 3) }
      else { x := [w 0 % 2 ^ 32, w 0 / 2 ^ 32, w 1 % 2 ^ 32], id := BitVec.ofNat 32 (w 1 / 2 ^ 32) }
    (p, (List.range z).any (fun i => (v i).pois)))

/-- The effect of an operation whose reads have returned. -/
def nlFinish (fc : Nat) (r : Region) (e key id : Nat) (o : PendOp) : Region :=
  let n := nleOf r e
  let vs := (opAccs r o).map (fun a => a.ans)
  let r := { r with flight := r.flight.filter (fun a => match a.2.own with | .pe k i _ => !(k == key && i == id) | _ => true) }
  let faulted := fun (code info : Nat) (t : TrapInfo) =>
    nlFail fc (r.setNle e (fun n => { n with st := 4, parts := [], code := code, info := info })) e key id o t
  let bin := fun (ps : List Particle) =>
    match nlBin n.cfg ps with
    | .error (c, i) => faulted c i { code := c, elem := i }
    | .ok ps =>
      nlAnswer (r.setNle e (fun n => { n with st := 2, parts := ps, code := 0, info := 0 })) e key id (BitVec.ofNat 64 ps.length)
  if o.code = 0xE8 then
    let blk := vs.map (fun v => v.bits)
    if vs.any (fun v => v.pois) then nlFail fc r e key id o { code := 0x21, va := o.a.bits.toNat }
    else if nlBad r e blk then nlAnswer r e key id (kv kvEinval)
    else nlAnswer (r.setNle e (fun n => { n with st := 1, cfg := blk, parts := [], code := 0, info := 0 })) e key id 0
  else if o.code = 0xE4 then
    if fld o.b.bits 16 0 = 0 then bin n.parts
    else
      let ps := nlRecords n.cfg vs
      match (lenum ps).find? (fun x => x.2.2) with
      | some (i, _) => faulted 0x21 i { code := 0x21, elem := i, va := o.a.bits.toNat }
      | none => bin (ps.map (fun x => x.1))
  else
    let i0 := fld o.b.bits 47 32
    let ps := nlRecords n.cfg vs
    let bad := (lenum ps).findSome? (fun x =>
      if x.2.2 then some (0x21, x.1) else if (nlPlace3 n.cfg x.2.1.x).isNone then some (0x3A, x.1) else none)
    match bad with
    | some (c, k) => nlFail fc r e key id o { code := c, elem := i0 + k, va := if c = 0x21 then o.a.bits.toNat else 0 }
    | none =>
      let r := r.setNle e (fun n =>
        { n with parts := (lenum n.parts).map (fun x =>
            if i0 ≤ x.1 ∧ x.1 < i0 + ps.length then
              { x.2 with x := (nlPlace3 n.cfg ((ps.getD (x.1 - i0) ({}, false)).1.x)).getD x.2.x }
            else x.2) })
      let k := nlStale (nleOf r e)
      nlAnswer (r.setNle e (fun n => { n with st := if k = 0 then 2 else 3 })) e key id (BitVec.ofNat 64 k)

/-- The end of a sweep whose tokens have all entered their destinations (R308, R310). -/
def nlSweepEnd (fc : Nat) (r : Region) (e key id : Nat) (o : PendOp) : Region :=
  let n := nleOf r e
  let r := r.setNle e (fun n => { n with sweep := [], gone := [] })
  if n.st = 3 then
    (if nlTst n.cfg then nlFail fc r e key id o { code := 0x39, elem := nlStale n } else nlAnswer r e key id 0)
  else
    let ps := if n.st = 2 then n.parts else []
    nlAnswer r e key id (BitVec.ofNat 64 (nlSweepTokens n.cfg ps (o.ti.imm.getLsbD 7) (o.ti.imm.getLsbD 6)).2)

/-- The region's engines run (R301, R401). -/
def nlLive (r : Region) : Bool := r.st == rRunning && r.res && !r.parked && r.drain.isNone

/-- One operation on its way arrives, by a free choice among PEs, while the engine holds fewer than 8 (R300). -/
def nlArrive (pick e : Nat) (r : Region) : Region :=
  let ws := nlWaiting r e
  match ws[pick % Nat.max 1 ws.length]? with
  | some (key, id, _) => if (nleOf r e).queue.length < 8 then r.setNle e (fun n => { n with queue := n.queue ++ [(key, id)] }) else r
  | none => r

/-- The operations that had arrived stand in the queue again, in the order in which the image puts them (R301, R418). -/
def nlRefill (k e : Nat) (r : Region) : Region :=
  match k with
  | 0 => r
  | k + 1 =>
    match (nlWaiting r e).foldl (fun (m : Option (Nat × Nat)) x => match m with
        | some p => if x.2.1 < p.2 then some (x.1, x.2.1) else m
        | none => some (x.1, x.2.1)) none with
    | some p => nlRefill k e (r.setNle e (fun n => { n with queue := n.queue ++ [p] }))
    | none => r

/-- The tokens of a sweep have entered their destinations: none is left, and none is on the way to an input the engine feeds (R310). -/
def nlSwept (r : Region) (e : Nat) : Bool :=
  let n := nleOf r e
  n.sweep.all (fun l => l.isEmpty)
    && (List.range (nlNd n.cfg)).all (fun d => let p := dstPlace (nlDst n.cfg d); (r.chan p.1 p.2).wire.isEmpty)

/-- NLE_TAKE_OP: operations arrive; an idle engine takes the first that arrived; an operation whose reads have returned takes its effect
(R300). -/
def nlTake (fc sl pick e : Nat) (r : Region) : Region :=
  if !nlLive r then r
  else
    match (nleOf r e).busy with
    | none =>
      let r := nlArrive pick e r
      match (nleOf r e).queue with
      | (key, id) :: rest =>
        let r := r.setNle e (fun n => { n with queue := rest })
        (match r.op? key id with
         | some o => nlStart fc sl r e key id o
         | none => r)
      | [] => r
    | some (key, id) =>
      match r.op? key id with
      | none => r.setNle e (fun n => { n with busy := none, sweep := [], gone := [] })
      | some o =>
        if o.code = 0xE5 ∧ nlSwept r e = true then nlSweepEnd fc r e key id o
        else if o.code ≠ 0xE5 ∧ o.ph = 11 ∧ accsDone r o = true then nlFinish fc r e key id o
        else nlArrive pick e r

def execNleTakeOp (rid eng : Nat) (s : State) : Res :=
  let sl := sealOf s (s.region rid).part
  .next (onRegion { s with freeC := s.freeC + 1 } rid (nlTake s.fc sl (Config.freeWord s.freeC).toNat eng))

/-- The output queue has a place for the token of a place of the sweep: fewer than 8 tokens before it still wait (R310). -/
def nlQueued (n : Nle) (j : Nat) : Bool := decide (((n.sweep.flatten).filter (fun x => decide (x.1 < j))).length < 8)

/-- NLE_PAIR_TOKEN: the next token of a sweep enters a destination with space, one each fc (R309, R310). -/
def nlPairToken (fc e d : Nat) (r : Region) : Region :=
  let n := nleOf r e
  let w := nlDst n.cfg d
  let (key, inp) := dstPlace w
  match n.sweep.getD d [] with
  | [] => r
  | (j, t) :: rest =>
    if !nlLive r ∨ n.sent.contains d = true ∨ !nlQueued n j ∨ r.inSpace key inp = 0 then r
    else
      let r := r.updIn key inp (fun c => { c with wire := c.wire ++ [(fc + 1 + fld w 43 38, t)] })
      r.setNle e (fun n => { n with sweep := lset n.sweep d rest, gone := lset n.gone d (n.gone.getD d 0 + 1), sent := d :: n.sent })

def execNlePairToken (rid eng dst : Nat) (s : State) : Res := .next (onRegion s rid (nlPairToken s.fc eng dst))

/-- The tile and operation of an operation number. -/
def findOp (r : Region) (id : Nat) : Option (Nat × PendOp) :=
  r.tiles.findSome? (fun t => (r.op? t.1 id).map (fun o => (t.1, o)))

/-- NLSTAT_ARRIVE: behind every operation its PE fired earlier on the engine; the status is taken at the end of this fc and
delivered three fc after it (R300). -/
def nlStatArrive (fc id : Nat) (r : Region) : Region :=
  match findOp r id with
  | some (key, o) =>
    let prior := (r.ct key).ops.any (fun p => decide (p.1 < id) && nlIsOp (opEng o) p.2 && !nlSent r key p.1)
    if o.code ≠ 0xE7 ∨ o.ph ≠ 10 ∨ prior = true ∨ !nlLive r then r
    else r.setOp key id { o with ph := 12, due := some (fc + 3) }
  | none => r

def execNlstatArrive (rid eng op : Nat) (s : State) : Res :=
  .next (onRegion s rid (fun r =>
    match findOp r op with
    | some (_, o) => if opEng o = eng then nlStatArrive s.fc op r else r
    | none => r))

/-- The status word (R311). -/
def nlStatus (r : Region) (e : Nat) : Word :=
  let n := nleOf r e
  let busy := n.busy.isSome || !n.queue.isEmpty || !(nlWaiting r e).isEmpty
  let info := if n.st = 4 then n.info else if n.st = 3 then nlStale n else 0
  BitVec.ofNat 64 (n.st * 2 ^ 61 + (if busy then 2 ^ 60 else 0) + (if n.st = 4 then n.code * 2 ^ 40 else 0) + n.parts.length * 2 ^ 23 + info)

/-- At the end of an fc: statuses asked for in it are taken (R300). -/
def nlSample (r : Region) : Region :=
  let asks := (r.tiles.map (fun t => ((t.2.act.ct.ops ++ t.2.ins.ct.ops).filter (fun o => o.2.ph == 12)).map (fun o => (t.1, o.1, o.2)))).flatten
  let r := asks.foldl (fun r x =>
    let w := nlStatus r (opEng x.2.2)
    r.setOp x.1 x.2.1 { x.2.2 with ph := 6, res := { bits := w }, cond := fld w 39 23 != 0 }) r
  { r with nles := tmap r.nles (fun _ n => { n with sent := [] }) }

end Sys2Proof.Machine
end

