-- ==== Sys2Proof/Machine/Stream.lean ====
section
/-! DEFINITION. Streams (R247-R264, R377-R382): the walk, the checks at the start of a run, extents, elements, boxes,
tokens and marks, multicast and permits, completion words and taps, heat. Copies share the contexts (Copy.lean). -/

namespace Sys2Proof.Machine

/-! ## Descriptor fields (R247) -/

def dW1 (d : List Word) : Word := d.getD 1 0
def dWrite (d : List Word) : Bool := bitOf (dW1 d) 63
def dChan (d : List Word) : Bool := bitOf (dW1 d) 62
def dEndp (d : List Word) : Nat := fld (dW1 d) 61 58
def dEsz (d : List Word) : Nat := 2 ^ fld (dW1 d) 57 56
def dWcv (d : List Word) : Bool := bitOf (dW1 d) 55
def dSxt (d : List Word) : Bool := bitOf (dW1 d) 54
def dExp (d : List Word) : Bool := bitOf (dW1 d) 53
def dRed (d : List Word) : Nat := fld (dW1 d) 52 50
def dMcw (d : List Word) : Nat := fld (dW1 d) 49 47
def dMch (d : List Word) : Nat := fld (dW1 d) 46 44
def dPerm (d : List Word) : Bool := bitOf (dW1 d) 43
def dPin (d : List Word) : Nat := fld (dW1 d) 42 40
def dSout (d : List Word) : Nat := fld (dW1 d) 39 37
def dCol (d : List Word) : BitVec 10 := BitVec.ofNat 10 (fld (dW1 d) 34 25)
def dAuxk (d : List Word) : Nat := fld (dW1 d) 24 23
def dCsc (d : List Word) : Nat := fld (dW1 d) 22 20
def dLmd (d : List Word) : Nat := fld (dW1 d) 19 17
def dEos (d : List Word) : Bool := bitOf (dW1 d) 16
def dAux (d : List Word) : Word := d.getD 7 0
/-- Bytes of an element in a handle's buffer: 8 under width conversion (R250, R255, R257). -/
def dHeb (d : List Word) : Nat := if dWcv d then 8 else if dExp d then 2 * dEsz d else dEsz d
/-- Destination element size (R250). -/
def dDeb (d : List Word) : Nat := if dWcv d && !dWrite d then 8 else if dExp d then 2 * dEsz d else dEsz d

/-! ## The walk (R249, R250) -/

/-- Indices of element e. -/
def elemIdx (d : List Word) (e i : Nat) : Nat := e / ((List.range i).foldl (fun n j => n * dExt d j) 1) % Nat.max 1 (dExt d i)
def elemOff (d : List Word) (e : Nat) : Int := (List.range 5).foldl (fun a i => a + (elemIdx d e i : Int) * dStr d i) 0
def wrapN (n : Nat) (i : Int) : Nat := (i % ((2 ^ n : Nat) : Int)).toNat

/-- Address of element e from a base address: space, linear or virtual address, capability. -/
def elemAddr (r : Region) (base : Word) (d : List Word) (e : Nat) : Nat × Nat × Nat :=
  if fld base 63 62 = 1 then
    let x := fld base 61 54
    (1, capBase (capEntry r x) + wrapN 54 ((fld base 53 0 : Int) + elemOff d e), x)
  else (0, base.toNat / 2 ^ 19 * 2 ^ 19 % 2 ^ 32 + wrapN 19 ((fld base 18 0 : Int) + elemOff d e), 0)

/-- Offsets of the lowest byte and one past the highest byte of the hull (R252). -/
def hullOf (d : List Word) : Int × Int :=
  (List.range 5).foldl (fun a i =>
    let x := ((dExt d i : Int) - 1) * dStr d i
    (a.1 + min 0 x, a.2 + max 0 x)) (0, (dEsz d : Int))

/-- Last element of the stream's current box. -/
def boxEnd (d : List Word) (b : Nat) : Nat := Nat.min (dN d) ((b + 1) * dBxe d)
/-- Element e ends an LMD run (R253). -/
def runEnds (d : List Word) (e : Nat) : Bool :=
  decide (0 < dLmd d) && (List.range (dLmd d)).all (fun i => elemIdx d e i + 1 == dExt d i)

/-! ## The checks of R252 -/

/-- A hull against a capability or an MT, in the order of R75: a reserved bit, the alignment of the first element, the bounds. R252 does
not name the first two: DEDUCED (log 55). -/
def hullCheck (r : Region) (sl : Nat) (base : Word) (lo hi : Int) (sz : Nat) (rights : List Nat) : Except TrapInfo Unit :=
  let glob := fld base 63 62 == 1
  if !glob && fld base 61 32 != 0 then .error { code := 0x14, va := base.toNat, aux := sz }
  else if (if glob then fld base 53 0 else fld base 18 0) % Nat.min 8 sz ≠ 0 then .error { code := 0x15, va := base.toNat, aux := sz }
  else if glob then
    let x := fld base 61 54
    let e := capEntry r x
    let off : Int := fld base 53 0
    match capCheck r sl x (fld base 53 0) 0 rights with
    | .error t => .error { t with aux := sz }
    | .ok _ =>
      if off + lo < 0 ∨ (capLen e : Int) < off + hi then
        .error { code := 0x10, va := capBase e + fld base 53 0, aux := sz, capx := some x }
      else .ok ()
  else
    let off : Int := fld base 18 0
    let a := base.toNat % 2 ^ 32
    if off + lo < 0 ∨ !mtOk r (a / 2 ^ 19 * 2 ^ 19 + (off + lo).toNat) (hi - lo).toNat then .error { code := 0x13, va := base.toNat, aux := sz }
    else .ok ()

/-- Rights of a write, reducing when RED is set (R80). -/
def wrRights (red : Nat) : List Nat := if red = 0 then [bW] else [bW, bA]

/-- The checks before a descriptor moves any element (R252, R433). -/
def startCheck (r : Region) (sl fpol : Nat) (d : List Word) : Except TrapInfo Bool :=
  let (lo, hi) := hullOf d
  match hullCheck r sl (d.getD 0 0) lo hi (dEsz d) (if dWrite d then wrRights (dRed d) else [bR]) with
  | .error t => .error t
  | .ok _ =>
    let aux : Except TrapInfo Unit :=
      match dAuxk d with
      | 0 => .ok ()
      | 3 => hullCheck r sl (dAux d) 0 (((dN d + 1) / 2 + 1) / 2 : Nat) 1 [bR]
      | _ => hullCheck r sl (dAux d) 0 8 8 [bR, bW, bA]
    match aux with
    | .error t => .error t
    | .ok _ => scopeCheck fpol (dCsc d)

/-! ## Contexts -/

/-- Number of a copy's context among the contexts. -/
abbrev copyBase : Nat := 2 ^ 20
def Region.strm (r : Region) (c : Nat) : Strm := if c < copyBase then tget r.strms {} c else tget r.copies {} c
def Region.setStrm (r : Region) (c : Nat) (f : Strm → Strm) : Region :=
  if c < copyBase then { r with strms := tupd r.strms {} c f } else { r with copies := tupd r.copies {} c f }
def hasStrm (r : Region) (c : Nat) : Bool := if c < copyBase then (tfind r.strms c).isSome else (tfind r.copies c).isSome

/-- A SWAP stands at the head of an input. -/
def swapHead (r : Region) (key inp : Nat) : Bool :=
  match (r.chan key inp).front with | some t => tokIsSwap t | none => false

/-- The SWAP at an input exchanges the planes: the region has a shadow part, and the new parity differs from S. -/
def swapPasses (r : Region) (key inp : Nat) : Bool :=
  let t := r.tile key
  r.shp && (!t.swW.contains inp) != t.swS

/-- A tile that waits to take a SWAP: its engines go no further than a box boundary (R405, R406). -/
def swapWaits (r : Region) (key : Nat) : Bool := r.shp && (r.pl key).inp.any (fun c => swapHead r key c.1)

/-- A refill FIFO of a stage (R358). -/
def refillTile (p : Plane) : Bool := planeMode p == 1 && fld (p.mode.getD 0 0) 20 13 != 0
/-- The region is a stage and parked: its refill FIFOs and the engines that feed them go on (R358). -/
def refilling (r : Region) (key : Nat) : Bool := r.st == rRunning && r.parked && !r.active && refillTile (r.pl key)

/-- Engines run: the region runs and is resident (R401), or a parked stage's stream feeds a refill FIFO (R358); a stream's plane is
the active one; an overlapping copy runs on in a freeze (R268). -/
def strmLive (r : Region) (c : Nat) : Bool :=
  let z := r.strm c
  hasStrm r c && ((r.st == rRunning && r.res && !r.parked) || (z.copy && (r.st == rFrozen || r.parked) && !r.settled && z.ended)
      || (refilling r z.tile && !z.copy && dChan z.desc && !dWrite z.desc))
    && (z.copy || z.plane == (if (r.pl z.tile).shadow then 1 else 0)) && (z.copy || (r.tile z.tile).swBusy.isNone)

def strmOwner (c e aux : Nat) : Owner := if c < copyBase then .strm c e aux else .copy c e aux 0

/-- The trap of a context (R379, R399). -/
def strmTrap (r : Region) (c : Nat) (t : TrapInfo) : Region :=
  let z := r.strm c
  r.raise { t with key := z.tile, slot := if z.copy then 0 else z.item, src := if z.copy then 2 else 1, tiw := z.desc.getD 1 0,
                   unit := if z.copy then z.cid else 0 }

/-! ## Extents (R377, R378) -/

def extCovers (x : Extent) (va : Nat) : Bool := let v := va % 2 ^ 57 / 2 ^ 16; decide (x.vpn ≤ v) && decide (v < x.vpn + x.npg)
def extFind (z : Strm) (va : Nat) : Option Extent := z.ext.find? (fun x => extCovers x va)
def extHome (x : Extent) (va : Nat) : Home :=
  let pa := (x.ppn + (va % 2 ^ 57 / 2 ^ 16 - x.vpn)) * 2 ^ 16 + va % 2 ^ 16
  if x.peer then .peer x.dev pa else .dram pa

/-- Pages that follow a leaf, consecutive in both spaces and with equal rights. -/
def coalesce (fuel : Nat) (s : State) (part va : Nat) (x : Extent) : Extent :=
  match fuel with
  | 0 => x
  | f + 1 =>
    let nva := va + x.npg * 2 ^ 16
    match s.walk part nva with
    | .ok (l, _) =>
      let ppn := leafPa l nva / 2 ^ 16
      if ppn = x.ppn + x.npg ∧ leafR l.1 = x.r ∧ leafW l.1 = x.w ∧ leafPr l.1 = x.pr ∧ leafPeer l.1 = x.peer ∧ (leafPeer l.1 = false ∨ leafDev l.1 = x.dev) then
        coalesce f s part va { x with npg := x.npg + 1 }
      else x
    | .error _ => x

/-- The extent of a leaf for the pages from va on. -/
def extentOf (s : State) (part va : Nat) (l : Leaf) : Extent :=
  coalesce 65535 s part va
    { vpn := va % 2 ^ 57 / 2 ^ 16, npg := 1, ppn := leafPa l va / 2 ^ 16, dev := leafDev l.1, peer := leafPeer l.1, pr := leafPr l.1,
      w := leafW l.1, r := leafR l.1, use := s.fc }

/-- The AGT of a tile: the column of the fabric, and its north or south edge by the half of the fabric the tile lies in. R251 gives
both AGTs of a column 16 contexts between them and does not say which serves which: DESIGN CHOICE (log 38). -/
def agtOf (r : Region) (key : Nat) : Nat × Bool :=
  let p := physPage r (keyPage key)
  (p % 32 * 4 + keyPos key % 4, decide (p / 32 < 12))

/-- Contexts that hold extents in an AGT: those of every region whose tiles it serves, parked ones too, with the extents of each (R377). -/
def State.agtCtxs (s : State) (g : Nat × Bool) : List (Nat × Nat × List Extent) :=
  ((s.regions.filter (fun q => q.2.st != rOut)).map (fun q =>
    ((q.2.strms ++ q.2.copies).filter (fun x => agtOf q.2 x.2.tile == g && !x.2.ext.isEmpty)).map (fun x => (q.1, x.1, x.2.ext)))).flatten

/-- The least recently used extent goes. -/
def dropOldest (l : List Extent) : List Extent :=
  let oldest := l.foldl (fun m y => Nat.min m y.use) (l.headD {}).use
  l.eraseIdx ((l.findIdx? (fun y => y.use == oldest)).getD 0)

/-- Install an extent: a free one of the AGT's 16, or in place of the context's least recently used (R377, R378). DESIGN CHOICE (log 38): a
context with none of its own takes the least recently used of another context of the AGT. -/
def State.addExt (s : State) (rid c : Nat) (x : Extent) : State :=
  let r := s.region rid
  let all := s.agtCtxs (agtOf r (r.strm c).tile)
  let put := fun (s : State) => onRegion s rid (fun r => r.setStrm c (fun z => { z with ext := z.ext ++ [x] }))
  if (all.map (fun y => y.2.2.length)).foldl (· + ·) 0 < 16 then put s
  else if !(r.strm c).ext.isEmpty then put (onRegion s rid (fun r => r.setStrm c (fun z => { z with ext := dropOldest z.ext })))
  else
    let oldest := all.foldl (fun (m : Nat) y => y.2.2.foldl (fun m e => Nat.min m e.use) m) s.fc
    match all.find? (fun y => y.2.2.any (fun e => e.use == oldest)) with
    | some y => put (onRegion s y.1 (fun r => r.setStrm y.2.1 (fun z => { z with ext := dropOldest z.ext })))
    | none => put s

/-- The memory-side address of element e: the source of a copy. -/
def strmAddr (r : Region) (c e : Nat) : Nat × Nat × Nat := elemAddr r ((r.strm c).desc.getD 0 0) (r.strm c).desc e

/-- Bytes an element of a copy writes at its destination: a reduction acts on ESZ bytes (R250, R260). -/
def cpWid (d : List Word) : Nat := if dRed d = 0 then dDeb d else dEsz d

/-- The addresses whose translations a context waits for: its next element's, or those of a copy's next destination element, which may reach
into a second page. -/
def wantAddr (r : Region) (c : Nat) : List (Nat × Nat × Nat) :=
  let z := r.strm c
  let n := dN z.desc
  if z.copy then
    (if z.next < n then [strmAddr r c z.next] else []) ++
      ((List.range (dMcw z.desc + 1)).map (fun m =>
        let b := z.desc.getD 7 0
        let b := if fld b 63 62 = 1 then b + BitVec.ofNat 64 (m * 2 ^ 54) else b
        let a := elemAddr r b z.desc (Nat.min z.got (n - 1))
        let last := (a.2.1 + cpWid z.desc - 1) / 8 * 8
        if last / 2 ^ 16 = a.2.1 / 2 ^ 16 then [a] else [a, (a.1, last, a.2.2)])).flatten
  else if z.next < n then [strmAddr r c z.next] else []

/-- The element whose address `wantAddr` gives: a copy's source is at `next`, its destinations at `got` (R379, R400). -/
def wantElem (r : Region) (c : Nat) (a : Nat × Nat × Nat) : Nat :=
  let z := r.strm c
  if z.copy && !(decide (z.next < dN z.desc) && strmAddr r c z.next == a) then z.got else z.next

/-- A context stalls on translation at its source, or elsewhere (R380). -/
def stallStrm (c : Nat) (atSrc : Bool) (r : Region) : Region :=
  r.setStrm c (fun z => { z with st := 3, halt := if z.copy && atSrc then 2 else 3 })

/-- EXTENT_REFILL: an AGT walks the table for an address outside its context's extents (R378, R379). -/
def State.refill (s : State) (rid c : Nat) : State :=
  let r := s.region rid
  if !strmLive r c ∨ (r.strm c).st ≠ 1 then s
  else
    match (wantAddr r c).find? (fun a => a.1 == 1 && !capRemote (capEntry r a.2.2) && (extFind (r.strm c) a.2.1).isNone) with
    | none => s
    | some (sp, va, x) =>
      if pageFrozen (s.part r.part) va || pagePaused r va then s
      else
        match s.walk r.part va with
        | .error m =>
          onRegion s rid (fun r =>
            stallStrm c (wantElem r c (sp, va, x) == (r.strm c).next)
              (strmTrap r c { missTrap m (wantElem r c (sp, va, x)) va with capx := some x }))
        | .ok (l, _) => s.addExt rid c (extentOf s r.part va l)

def execExtentRefill (rid ctx : Nat) (s : State) : Res := .next (s.refill rid ctx)

/-- The home of an access of a context through its extents: XLATE_PERM stalls the context (R379, R380); none while no extent
covers the address. -/
def strmHome (p : Part) (z : Strm) (va : Nat) (op : MOp) : Except Nat (Option Home) :=
  match extFind z va with
  | none => .ok none
  | some x =>
    let (r, w, _) := opNeeds op
    if (r && !x.r) || (w && !x.w) then .error 0x19
    else
      match extHome x va with
      | .dram pa => if partData p pa then .ok (some (.dram pa)) else .error 0x19
      | h => .ok (some h)

/-- A context counts at the page it walks; the count of a page it leaves goes to the region's pending heat (R386). -/
def countHeat (c k n : Nat) (r : Region) : Region :=
  let z := r.strm c
  if z.hpg = k + 1 then r.setStrm c (fun z => { z with hcnt := z.hcnt + n })
  else
    let r := if z.hpg = 0 ∨ z.hcnt = 0 then r else { r with heatP := tupd r.heatP 0 (z.hpg - 1) (· + z.hcnt) }
    r.setStrm c (fun z => { z with hpg := k + 1, hcnt := n, hstay := 0 })

/-- A context leaves the page it walks. -/
def leaveHeat (c : Nat) (r : Region) : Region :=
  let z := r.strm c
  let r := if z.hpg = 0 ∨ z.hcnt = 0 then r else { r with heatP := tupd r.heatP 0 (z.hpg - 1) (· + z.hcnt) }
  r.setStrm c (fun z => { z with hpg := 0, hcnt := 0, hstay := 0 })

/-- An element delivered or taken through a local page (R386). -/
def elemHeat (c : Nat) (a : Access) (r : Region) : Region :=
  match a.home with | some (.dram pa) => countHeat c (a.capx * 2 ^ 26 + pa / 2 ^ 16) 1 r | _ => r

/-- Whether an access of a context can be issued: its home where an extent gives one, none while it must wait, or XLATE_PERM (R377, R379). -/
def strmMay (s : State) (r : Region) (z : Strm) (a : Nat × Nat × Nat) (op : MOp) : Except Nat (Option (Option Home)) :=
  if a.1 ≠ 1 ∨ capRemote (capEntry r a.2.2) = true then .ok (some none)
  else if pageFrozen (s.part r.part) a.2.1 || pagePaused r a.2.1 then .ok none
  else
    match strmHome (s.part r.part) z a.2.1 op with
    | .error c => .error c
    | .ok h => .ok (h.map some)

/-- Issue one access of a context: through its extents, or to the peer, or to an MT (R377, R393). False while it must wait. -/
def strmIssue (s : State) (rid c e aux dst : Nat) (a : Nat × Nat × Nat) (op : MOp) : State × Bool :=
  let r := s.region rid
  let z := r.strm c
  let own : Owner := if c < copyBase then .strm c e aux else .copy c e aux dst
  let acc : Access := { own := own, op := op, sp := a.1, addr := a.2.1, capx := a.2.2, seq := r.seq }
  let go := fun (acc : Access) => (onRegion s rid (fun r => (issue acc r).1), true)
  match strmMay s r z a op with
  | .error code =>
    (onRegion s rid (fun r =>
      stallStrm c (opWrites op == false) (strmTrap r c { code := code, elem := e, va := a.2.1, capx := some a.2.2 })), false)
  | .ok none => (s, false)
  | .ok (some none) => go acc
  | .ok (some (some h)) =>
    let s := onRegion s rid (fun r => r.setStrm c (fun z =>
      { z with ext := z.ext.map (fun x => if extCovers x a.2.1 then { x with use := s.fc } else x) }))
    let take := fun (r : Region) => if opWrites op then elemHeat c { acc with home := some h } r else r
    (onRegion s rid (fun r => (issue { acc with home := some h } (take r)).1), true)

/-! ## Start (R252) -/

/-- A stream may start: its plane is active, the run is on, and its check has not failed since the region last resumed (R252). -/
def canStart (r : Region) (c : Nat) : Bool :=
  strmLive r c && (r.strm c).st == 0 && !(r.strm c).copy && (r.strm c).halt == 0 && r.drain.isNone

/-- The descriptor of a side of a context goes to the peer's port when the context starts, where that side lies at a peer (R393). -/
def startDesc (c e side : Nat) (a : Nat × Nat × Nat) (r : Region) : Region :=
  if a.1 = 1 ∧ capRemote (capEntry r a.2.2) = true then
    issueDesc { own := if c < copyBase then .strm c e 0 else .copy c e (if side = 0 then 0 else 1) (side - 1), op := .read 0, sp := 1, addr := a.2.1, capx := a.2.2 } r
  else r

/-- STREAM_START: the checks, then running, with the descriptor at the peer; a failure leaves it not started (R252, R393). -/
def State.streamStart (s : State) (rid c : Nat) : State :=
  let r := s.region rid
  if !canStart r c then s
  else
    match startCheck r (sealOf s r.part) (partFpol (s.part r.part)) (r.strm c).desc with
    | .error t => onRegion s rid (fun r => (strmTrap r c t).setStrm c (fun z => { z with halt := 1 }))
    | .ok dem => onRegion s rid (fun r => startDesc c 0 0 (strmAddr r c 0) ((sdemSet dem r).setStrm c (fun z => { z with st := 1 })))

/-- A context that stalled on translation goes on when the region resumes (R380, R381). -/
def resumeStrm (z : Strm) : Strm := { z with st := if z.st = 3 ∨ z.st = 4 then 1 else z.st, halt := if z.halt = 4 then 4 else 0, stop := false, pmark := false, dsent := [] }

/-! ## Boxes on handles (R257-R259) -/

/-- Destination tiles of a context's endpoint: the page block of R258. -/
def mcTiles (r : Region) (key : Nat) (d : List Word) : List Nat :=
  let p := keyPage key
  ((List.range (dMch d + 1)).map (fun i => (List.range (dMcw d + 1)).map (fun j =>
    keyOf ((p / r.w + i) * r.w + p % r.w + j) (keyPos key)))).flatten

/-- Claims granted to the stream port (R87): the handle is in the From state and no PE has been granted it. -/
def portMay (r : Region) (key h : Nat) (fill : Bool) : Bool :=
  let x := r.hnd key h
  x.st == (if fill then hFree else hFull) && (x.grant == none || x.grant == some 4) && x.nxt.isNone && !x.moved

/-- A handle stream has a box to start. -/
def boxOpen (r : Region) (c : Nat) : Bool :=
  let z := r.strm c
  strmLive r c && z.st == 1 && !z.copy && !dChan z.desc && z.box.isNone && !z.stop && decide (z.done.length < dBoxes z.desc) && !swapWaits r z.tile

/-- A descriptor of the same MT with a lower ITEM could start its box now: the port serves it first (R251). -/
def portTaken (r : Region) (c : Nat) : Bool :=
  let z := r.strm c
  r.strms.any (fun x => x.1 != c && x.2.tile == z.tile && decide (x.2.item < z.item) && boxOpen r x.1 && (mcTiles r x.2.tile x.2.desc).all (fun k => portMay r k (dEndp x.2.desc % 8) (!dWrite x.2.desc))
    && (!dPerm x.2.desc || x.2.done.isEmpty || (r.head x.2.tile (dPin x.2.desc)).isSome))

/-- An E or C token on a running stream's permit input, which is discarded (R259). -/
def permitSkip (r : Region) (c : Nat) : Bool :=
  let z := r.strm c
  strmLive r c && z.st != 0 && !z.copy && dPerm z.desc
    && (match r.head z.tile (dPin z.desc) with | some t => t.mark == mkE || t.mark == mkC | none => false)

/-- BOX_START: the next box of a handle stream claims its handles, with its permit; an E or C token on the permit input is discarded
first (R257-R259). -/
def boxStart (c : Nat) (r : Region) : Region :=
  let z := r.strm c
  let d := z.desc
  let b := z.done.length
  if permitSkip r c then r.popIn z.tile (dPin d)
  else if boxOpen r c = false ∨ portTaken r c = true then r
  else
    let ts := mcTiles r z.tile d
    let fill := !dWrite d
    let needPermit := dPerm d && decide (0 < b)
    if needPermit && (r.head z.tile (dPin d)).isNone then r
    else if !ts.all (fun k => portMay r k (dEndp d % 8) fill) then r
    else
      let r := if needPermit then r.popIn z.tile (dPin d) else r
      let multi := decide (1 < ts.length)
      let r := ts.foldl (fun r k => r.updHnd k (dEndp d % 8) (fun x =>
        { x with nxt := some (if fill then hFilling else hDraining),
                 space := if multi then some (dSout d, b, dCol d) else x.space })) r
      r.setStrm c (fun z => { z with box := some b })

def execStreamStart (rid ctx : Nat) (s : State) : Res := .next (s.streamStart rid ctx)
def execBoxStart (rid ctx : Nat) (s : State) : Res := .next (onRegion s rid (boxStart ctx))

/-! ## Elements (R253-R256, R260) -/

/-- Read-modify-write function of a RED code (R247, R260). -/
def redFn (red : Nat) : Rmw :=
  match red with | 1 => .add | 2 => .fadd | 3 => .min | 4 => .max | 5 => .and | 6 => .or | _ => .xor

/-- The write of an element value (R255, R260). -/
def writeOp (d : List Word) (v : Val) : MOp :=
  let n := dEsz d
  if dRed d = 0 then .write n { v with bits := lowBytes n v.bits } else .rmw (redFn (dRed d)) n false { v with bits := lowBytes n v.bits } {}

/-- An element as it is delivered: widened under WCV (R255). -/
def deliverVal (d : List Word) (v : Val) : Val :=
  if dWcv d then { v with bits := if dSxt d then sxTo (8 * dEsz d) v.bits.toNat else lowBytes (dEsz d) v.bits } else v

/-- Find the performed access of element e of a context, by part. -/
def findAcc (r : Region) (own : Owner) : Option (Nat × Access) := r.flight.find? (fun a => a.2.own == own)
def accValue (r : Region) (own : Owner) : Option Val :=
  match findAcc r own with
  | some (_, a) => if a.st = .done then some a.ans else none
  | none => none
def dropAcc (r : Region) (own : Owner) : Region := { r with flight := r.flight.filter (fun a => a.2.own != own) }

/-- Bytes of a vector channel's token, or a scalar's. -/
def tokBytes (d : List Word) : Nat := if 8 ≤ dEndp d then 64 else 8

/-- Put element k bytes wide into a token at index i. -/
def tokPut (t : Token) (w i : Nat) (v : Val) : Token :=
  { t with pay := t.pay ||| (BitVec.ofNat 512 (v.bits.toNat % 2 ^ (8 * w)) <<< (8 * w * i)),
           pois := if v.pois then t.pois ||| (1#8 <<< (w * i / 8)) else t.pois }

/-- The handle address of the current box's element, by destination tile. -/
def boxAddr (r : Region) (key : Nat) (d : List Word) (off : Nat) : Nat := mtAddr key (hndBase (r.hnd key (dEndp d % 8)) + off)

/-- Deliver the next element of a read stream, if its value has come back (R253, R255-R258). Under EXP24 element e fills the two dense
places 2e and 2e + 1 of its box once both elements of its group and the nibble have come back; a group may span two boxes (R256). -/
def deliverElem (fc c : Nat) (r : Region) : Option Region :=
  let z := r.strm c
  let d := z.desc
  let e := z.got
  let own := strmOwner c e 0
  match findAcc r own with
  | none => none
  | some (_, a) =>
    match a.st with
    | .failed code => some (strmTrap (dropAcc r own) c { code := code, elem := e, va := a.addr })
    | .done =>
      let r := elemHeat c a r
      let v := deliverVal d a.ans
      if dChan d then
        let w := dDeb d
        let close := z.nPart + 1 == tokBytes d / w || runEnds d e || e + 1 == dN d
        if close && r.inSpace z.tile (dEndp d) == 0 then none
        else
          let t := tokPut z.part w z.nPart v
          let r := dropAcc r own
          if close then
            let t := { t with mark := if runEnds d e then mkL else mkD, col := dCol d }
            let r := r.updIn z.tile (dEndp d) (fun ch => { ch with wire := ch.wire ++ [(fc, t)] })
            some (r.setStrm c (fun z => { z with got := e + 1, part := {}, nPart := 0, taps := if dAuxk d = 2 ∧ t.mark = mkL then z.taps + 1 else z.taps }))
          else some (r.setStrm c (fun z => { z with got := e + 1, part := t, nPart := z.nPart + 1 }))
      else
        match z.box with
        | none => none
        | some b =>
        if boxEnd d b ≤ e then none
        else if dExp d then
          let m := e / 2
          match accValue r (strmOwner c (2 * m) 0), accValue r (strmOwner c (2 * m + 1) 0), accValue r (strmOwner c m 1) with
          | some v0, some v1, some mb =>
            let nib := mb.bits.toNat / 2 ^ (4 * (m % 2)) % 16
            let p := nib % 4
            let q := nib / 4
            let w := dEsz d
            let pois := v0.pois || v1.pois || mb.pois
            let r := (mcTiles r z.tile d).foldl (fun r k => [0, 1].foldl (fun r i =>
              let j := 2 * (e % 2) + i
              let x : Word := if j = q then v1.bits else if j = p then v0.bits else 0
              r.mtWrite (boxAddr r k d (2 * w * (e - b * dBxe d)) + w * i) w { bits := lowBytes w x, pois := pois }) r) r
            let r := if e % 2 = 1 then dropAcc (dropAcc (dropAcc r (strmOwner c (2 * m) 0)) own) (strmOwner c m 1) else r
            some (r.setStrm c (fun z => { z with got := e + 1 }))
          | _, _, _ => none
        else
          let w := dDeb d
          let r := (mcTiles r z.tile d).foldl (fun r k => r.mtWrite (boxAddr r k d (w * (e - b * dBxe d))) w v) r
          some ((dropAcc r own).setStrm c (fun z => { z with got := e + 1 }))
    | _ => none

/-- Retire a performed element write of a write stream in any order. -/
def retireWrite (c : Nat) (r : Region) : Option Region :=
  match r.flight.find? (fun a => match a.2.own with | .strm k _ 0 => k == c && !accOpen a.2 | _ => false) with
  | none => none
  | some (_, a) =>
    let r' := dropAcc r a.own
    match a.st, a.own with
    | .failed code, .strm _ e _ => some (strmTrap r' c { code := code, elem := e, va := a.addr })
    | _, _ => some (r'.setStrm c (fun z => { z with got := z.got + 1 }))

/-- Tokens that the n elements from e on close, when p elements stand in the token begun (R253). -/
def tokensClosed (d : List Word) : Nat → Nat → Nat → Nat
  | 0, _, _ => 0
  | n + 1, e, p =>
    if p + 1 == tokBytes d / dDeb d || runEnds d e || e + 1 == dN d then 1 + tokensClosed d n (e + 1) 0
    else tokensClosed d n (e + 1) (p + 1)

/-- The token that the next element of a channel's read stream belongs to has a place kept for it (R14, log 28). -/
def readRoom (r : Region) (z : Strm) : Bool :=
  !dChan z.desc || decide (tokensClosed z.desc (z.next - z.got) z.got z.nPart < r.inSpace z.tile (dEndp z.desc))

/-- Issue the next element of a read stream. -/
def State.issueRead (s : State) (rid c : Nat) : State :=
  let r := s.region rid
  let z := r.strm c
  let d := z.desc
  let e := z.next
  let lim := if dChan d then dN d else match z.box with
    | some b => if dExp d then Nat.min (dN d) ((boxEnd d b + 1) / 2 * 2) else boxEnd d b
    | none => 0
  if lim ≤ e ∨ readRoom r z = false ∨ (dChan d && (z.stop || (swapWaits r z.tile && e % Nat.max 1 (dBxe d) == 0))) = true then s
  else
    let (s1, ok) := strmIssue s rid c e 0 0 (strmAddr r c e) (.read (dEsz d))
    if !ok then s1
    else
      let s1 :=
        if dExp d ∧ e % 2 = 0 then
          let m := e / 2
          let b := dAux d + BitVec.ofNat 64 (m / 2)
          let ad := if fld b 63 62 = 1 then (1, (globVa r b).1, (globVa r b).2) else (0, b.toNat, 0)
          onRegion s1 rid (fun r => (issue { own := strmOwner c m 1, op := .read 1, sp := ad.1, addr := ad.2.1, capx := ad.2.2, seq := r.seq } r).1)
        else s1
      onRegion s1 rid (fun r => r.setStrm c (fun z => { z with next := e + 1 }))

/-- Pages of a hull from a base address, in ascending address; `last` is the width of the last element written. -/
def hullPages (r : Region) (b : Word) (d : List Word) (last : Nat) : List Nat :=
  let (lo, hi) := hullOf d
  let v : Int := capBase (capEntry r (fld b 61 54)) + fld b 53 0
  let a := (v + lo).toNat / 2 ^ 16
  let z := ((v + hi - dEsz d + last).toNat - 1) / 2 ^ 16
  (List.range (z + 1 - a)).map (fun i => (a + i) * 2 ^ 16)

/-- The first page of destination m that refuses the write (R261, R382). -/
def pageRefusal (s : State) (r : Region) (b : Word) (d : List Word) (last m : Nat) : Option TrapInfo :=
  let x := fld b 61 54
  if fld b 63 62 ≠ 1 ∨ capRemote (capEntry r x) = true then none
  else
    (hullPages r b d last).findSome? (fun va =>
      match s.walk r.part va with
      | .error e => some { missTrap e 0 va with capx := some x }
      | .ok (l, _) =>
        if leafW l.1 && (leafPeer l.1 || partData (s.part r.part) (leafPa l va)) then none
        else some { code := 0x1A, va := va, aux := m, capx := some x })

/-- The all-or-nothing check of a multicast or reducing store, before its first event; a failure stalls it (R261, R382). -/
def State.passCheck (s : State) (rid c : Nat) (bad : Option TrapInfo) : State :=
  match bad with
  | some t => onRegion s rid (fun r => stallStrm c false (strmTrap r c t))
  | none => onRegion s rid (fun r => r.setStrm c (fun z => { z with eTok := true }))

/-- A reducing write stream makes the check. -/
def State.strmPass (s : State) (rid c : Nat) : State :=
  let r := s.region rid
  let d := (r.strm c).desc
  s.passCheck rid c (pageRefusal s r (d.getD 0 0) d (dEsz d) 0)

/-- Issue the next element of a write stream: from the drained handle, or from the token it has taken (R254, R257). -/
def State.issueWrite (s : State) (rid c : Nat) : State :=
  let r := s.region rid
  let z := r.strm c
  let d := z.desc
  let e := z.next
  let w := if dWcv d then 8 else dEsz d
  let put := fun (v : Val) (after : Strm → Strm) =>
    if dRed d ≠ 0 ∧ e = 0 ∧ z.eTok = false then s.strmPass rid c
    else
    let (s1, ok) := strmIssue s rid c e 0 0 (strmAddr r c e) (writeOp d v)
    if ok then onRegion s1 rid (fun r => r.setStrm c (fun z => after { z with next := e + 1 })) else s1
  if dChan d then
    match z.held with
    | [] => s
    | t :: _ =>
      if t.mark = mkC then
        onRegion s rid (fun r => r.setStrm c (fun z => { z with held := z.held.drop 1, tokIx := 0, stop := z.stop || tokIsPmark t }))
      else if t.mark = mkE then
        onRegion s rid (fun r => r.setStrm c (fun z =>
          { z with held := [], tokIx := 0, ended := true, taps := if dAuxk d = 2 then z.taps + 1 else z.taps }))
      else if dN d ≤ e then s
      else
        let i := z.tokIx
        let v : Val := { bits := lowBytes w (BitVec.ofNat 64 (t.pay.toNat / 2 ^ (8 * w * i))), pois := t.pois.getLsbD (w * i / 8) }
        let lastOne := i + 1 == tokBytes d / w || (t.mark == mkL && runEnds d e) || e + 1 == dN d
        put v (fun z =>
          if lastOne then
            { z with held := z.held.drop 1, tokIx := 0, ended := decide (e + 1 = dN d),
                     taps := if dAuxk d = 2 ∧ t.mark = mkL then z.taps + 1 else z.taps }
          else { z with tokIx := i + 1 })
  else
    match z.box with
    | none => s
    | some b =>
      if boxEnd d b ≤ e then s
      else put (let v := r.mtRead (boxAddr r z.tile d (w * (e - b * dBxe d))) w; { v with bits := lowBytes w v.bits }) id

/-- The E token of a read stream with EOS (R253), or the PMARK behind the elements issued (R409). -/
def strmTail (fc c : Nat) (r : Region) : Option Region :=
  let z := r.strm c
  let d := z.desc
  if dWrite d ∨ !dChan d then none
  else if z.pmark ∧ z.got = z.next then
    some ((r.updIn z.tile (dEndp d) (fun ch => { ch with wire := ch.wire ++ [(fc, tokPmark)] })).setStrm c (fun z => { z with pmark := false }))
  else if dEos d ∧ z.got = dN d ∧ !z.eTok ∧ !z.stop ∧ 0 < r.inSpace z.tile (dEndp d) then
    let r := r.updIn z.tile (dEndp d) (fun ch => { ch with wire := ch.wire ++ [(fc, { mark := mkE, col := dCol d })] })
    some (r.setStrm c (fun z => { z with eTok := true, taps := if dAuxk d = 2 then z.taps + 1 else z.taps }))
  else none

/-- The capabilities of a stream by R79 again: ADDR's, and AUX's where it is used (R252, R384). -/
def strmCaps (r : Region) (sl : Nat) (d : List Word) : Option TrapInfo :=
  let one := fun (a : Word) (rights : List Nat) =>
    if fld a 63 62 = 1 then (match capCheck r sl (fld a 61 54) 0 0 rights with | .error t => some { t with aux := dEsz d } | .ok _ => none) else none
  match one (d.getD 0 0) (if dWrite d then wrRights (dRed d) else [bR]) with
  | some t => some t
  | none => if dAuxk d = 0 then none else one (dAux d) (if dAuxk d = 3 then [bR] else [bR, bW, bA])

/-- A context that RCHK found failing stops at its next element with its trap, for as long as the check fails (R384, log 52). -/
def stopFailed (c : Nat) (bad : Option TrapInfo) (r : Region) : Region :=
  match bad with
  | some t => (strmTrap r c { t with elem := (r.strm c).next }).setStrm c (fun z => { z with st := 3, halt := 4 })
  | none => r.setStrm c (fun z => { z with halt := 0 })

/-- One step of a stream: deliver or retire what has come back, then the tail of the stream, then the next element. -/
def State.streamElement (s : State) (rid c : Nat) : State :=
  let r := s.region rid
  let z := r.strm c
  let d := z.desc
  if !strmLive r c ∨ (z.st ≠ 1 ∧ z.st ≠ 2) ∨ z.copy = true then s
  else
    let early := if dWrite d then retireWrite c r else deliverElem s.fc c r
    match early with
    | some r' => s.setRegion rid r'
    | none =>
      match strmTail s.fc c r with
      | some r' => s.setRegion rid r'
      | none =>
        if z.st ≠ 1 then s
        else if z.halt = 4 then onRegion s rid (fun r => stopFailed c (strmCaps r (sealOf s r.part) d) r)
        else if dWrite d then s.issueWrite rid c else s.issueRead rid c

/-- WRITE_STREAM_TAKE: what an output gave up for the stream is taken; hardware tokens are discarded (R254, R412). -/
def writeStreamTake (fc c : Nat) (r : Region) : Region :=
  let z := r.strm c
  if !strmLive r c ∨ z.copy = true ∨ !dWrite z.desc ∨ !dChan z.desc then r
  else
    match z.held with
    | t :: rest =>
      if tokHw t then
        (r.setStrm c (fun z => { z with held := rest, tokIx := 0, stop := z.stop || tokIsPmark t })).drainOut fc z.tile
      else r
    | [] => r.drainOut fc z.tile

def execWriteStreamTake (rid ctx : Nat) (s : State) : Res := .next (onRegion s rid (writeStreamTake s.fc ctx))

/-! ## Boxes, completion words, taps (R250, R257, R262, R263) -/

/-- Every event of box b of a stream has been performed or delivered. -/
def boxDone (r : Region) (c b : Nat) : Bool :=
  let z := r.strm c
  let d := z.desc
  if dWrite d then
    decide (boxEnd d b ≤ z.next) && r.flight.all (fun a =>
      match a.2.own with | .strm k e 0 => !(k == c && decide (b * dBxe d ≤ e) && decide (e < boxEnd d b)) | _ => true)
  else decide (boxEnd d b ≤ z.got)

/-- A stream with nothing left to do finishes (R252). -/
def strmFinish (c : Nat) (r : Region) : Region :=
  let z := r.strm c
  let d := z.desc
  let all := z.done.length == dBoxes d || (z.ended && dWrite d && dChan d)
  let quiet := r.flight.all (fun a => match a.2.own with | .strm k _ _ => k != c | _ => true)
  if z.st = 1 ∧ all = true ∧ quiet = true ∧ (!dEos d || z.eTok) = true ∧ (!(dAuxk d == 1 && dChan d) || z.compl == 2) = true ∧ z.taps = 0 then
    leaveHeat c (r.setStrm c (fun z => { z with st := 2 }))
  else r

/-- BOX_COMPLETE: box b of a stream; on a handle its finish or release, or HANDLE_STATE where the state it finds does not allow it: the
handle stays, and the box is complete (R86, R250, R257, R262, log 52). -/
def boxComplete (fc c b : Nat) (r : Region) : Region :=
  let z := r.strm c
  let d := z.desc
  if !hasStrm r c ∨ z.copy = true ∨ z.done.contains b = true ∨ dBoxes d ≤ b ∨ z.st = 0 ∨ !boxDone r c b then r
  else if dChan d then strmFinish c (r.setStrm c (fun z => { z with done := nset z.done b true }))
  else if z.box ≠ some b then r
  else
    let h := dEndp d % 8
    let ts := mcTiles r z.tile d
    let r := ts.foldl (fun r k =>
      let st := (r.hnd k h).st
      if st ≠ (if dWrite d then hDraining else hFilling) then strmTrap r c (handleTrap st h)
      else if dWrite d then freeHnd fc r k h
      else r.updHnd k h (fun x => { x with st := hFull, nxt := none, moved := true })) r
    strmFinish c (r.setStrm c (fun z => { z with done := nset z.done b true, box := none }))

/-- STREAM_COMPLETION_WORD: one ATADD of 1 after every event of the stream (R262). -/
def streamCompletion (c : Nat) (r : Region) : Region :=
  let z := r.strm c
  let d := z.desc
  let own := strmOwner c 0 2
  let fin := z.done.length == dBoxes d || (z.ended && dWrite d)
  let quiet := r.flight.all (fun a => match a.2.own with | .strm k _ x => !(k == c && x != 2) | _ => true)
  if !strmLive r c ∨ z.copy = true ∨ z.st ≠ 1 then r
  else if z.compl = 1 then
    match findAcc r own with
    | some (_, a) =>
      (match a.st with
       | .done => strmFinish c ((dropAcc r own).setStrm c (fun z => { z with compl := 2 }))
       | .failed code => strmFinish c (strmTrap ((dropAcc r own).setStrm c (fun z => { z with compl := 2 })) c { code := code, va := a.addr })
       | _ => r)
    | none => r
  else if dAuxk d = 1 ∧ dChan d = true ∧ z.compl = 0 ∧ fin = true ∧ quiet = true ∧ z.taps = 0 ∧ (!dEos d || z.eTok) = true then
    let b := dAux d
    let ad := if fld b 63 62 = 1 then (1, (globVa r b).1, (globVa r b).2) else (0, b.toNat, 0)
    let r := (issue { own := own, op := .rmw .add 8 false { bits := 1 } {}, sp := ad.1, addr := ad.2.1, capx := ad.2.2, seq := r.seq } r).1
    r.setStrm c (fun z => { z with compl := 1 })
  else strmFinish c r

/-- TAP_ARRIVAL: one arrival at the barrier word, after the elements of its token (R263). -/
def tapArrival (c : Nat) (r : Region) : Region :=
  let z := r.strm c
  let d := z.desc
  let own := strmOwner c 0 3
  if !strmLive r c ∨ z.copy = true then r
  else
    match findAcc r own with
    | some (_, a) =>
      if accOpen a then r else strmFinish c ((dropAcc r own).setStrm c (fun z => { z with taps := z.taps - 1 }))
    | none =>
      let quiet := r.flight.all (fun a => match a.2.own with | .strm k _ 0 => k != c | _ => true)
      if z.taps = 0 ∨ (dWrite d && !quiet) = true then r
      else
        let b := dAux d
        let ad := if fld b 63 62 = 1 then (1, (globVa r b).1, (globVa r b).2) else (0, b.toNat, 0)
        (issue { own := own, op := .barr false, sp := ad.1, addr := ad.2.1, capx := ad.2.2, seq := r.seq } r).1

def execStreamCompletionWord (rid ctx : Nat) (s : State) : Res := .next (onRegion s rid (streamCompletion ctx))
def execTapArrival (rid ctx : Nat) (s : State) : Res := .next (onRegion s rid (tapArrival ctx))

/-! ## Heat (R386) -/

/-- The stack or channel of a page among a capability's heat (R349): capability x 12 + stack. -/
def heatKey (capx pa : Nat) : Option Nat := if memIdx pa < 12 then some (capx * 12 + memIdx pa) else none

/-- Add to the heat word of a page of a partition (R386, R426): its place among the partition's pages. -/
def heatAddr (p : Part) (pa : Nat) : Nat :=
  let own := fun (m : Nat) => if m < 12 then bitOf (partWord p 14) (52 + m) else bitOf (partWord p 14) (36 + (m - 12))
  let pagesOf := fun (m : Nat) => if m < 12 then (2 ^ 36 - 2 ^ 30) / 2 ^ 16 else (2 ^ 37 - 2 ^ 31) / 2 ^ 16
  let m := memIdx pa
  let before := ((List.range m).map (fun k => if own k then pagesOf k else 0)).foldl (· + ·) 0
  let base := match dramMem pa with | some (b, _) => b | none => 0
  partHeat p + 4 * (before + (pa - base) / 2 ^ 16)

/-- A page's heat saturates; the write is one of its page (R386, R391). -/
def State.addHeat (s : State) (part pa n : Nat) : State :=
  let a := heatAddr (s.part part) pa
  let old := rdNat s.mem a 4
  ({ s with mem := wrNat s.mem a 4 (Nat.min (2 ^ 32 - 1) (old + n)) } : State).track a

/-- The pending counts of a region, by capability and page, are added to the heat of the pages and of the region (R386). -/
def State.heatFlush (s : State) (rid : Nat) : State :=
  let r := s.region rid
  if r.heatP.isEmpty then s
  else
    let s := r.heatP.foldl (fun s x =>
      let pa := x.1 % 2 ^ 26 * 2 ^ 16
      if partData (s.part r.part) pa then s.addHeat r.part pa x.2 else s) s
    onRegion s rid (fun r =>
      let q := r.heatP.foldl (fun (r : Region) x =>
        match heatKey (x.1 / 2 ^ 26) (x.1 % 2 ^ 26 * 2 ^ 16) with
        | some k => { r with rheat := tupd r.rheat 0 k (· + x.2) }
        | none => r) r
      { q with heatP := [] })

/-- HEAT_ACCOUNT: a context that has stayed 4,096 fc on its page, or has left one, adds its count (R386). -/
def execHeatAccount (rid ctx : Nat) (s : State) : Res :=
  .next ((onRegion s rid (fun r =>
    if hasStrm r ctx && decide (4096 ≤ (r.strm ctx).hstay) then
      let z := r.strm ctx
      ({ r with heatP := if z.hpg = 0 ∨ z.hcnt = 0 then r.heatP else tupd r.heatP 0 (z.hpg - 1) (· + z.hcnt) } : Region).setStrm ctx (fun z => { z with hcnt := 0, hstay := 0 })
    else r)).heatFlush rid)

end Sys2Proof.Machine
end

