-- ==== Sys2Proof/Machine/Copy.lean ====
section
/-! DEFINITION. Copies (R261, R264-R269, R382): the copy block, its checks, the launch, the elements, one event for each
destination word (R89, R102, R103), the all-or-nothing check, completion and the status. -/

namespace Sys2Proof.Machine

/-! ## The copy block (R265) -/

/-- Destinations of a copy. -/
def cpCount (d : List Word) : Nat := (dMcw d + 1) * (dMch d + 1)

/-- Base address of destination m: the page block of R258, or the capability CAPX + m. A block whose CAPX + m has no capability index breaks
R265 (`cpBlockValid`, log 52). -/
def cpDest (r : Region) (d : List Word) (m : Nat) : Word :=
  let b := d.getD 7 0
  if fld b 63 62 = 1 then BitVec.ofNat 64 (2 ^ 62 + (fld b 61 54 + m) % 256 * 2 ^ 54 + fld b 53 0)
  else
    let k := mtAddrKey (b.toNat % 2 ^ 32)
    let p := keyPage k + m / (dMcw d + 1) * r.w + m % (dMcw d + 1)
    BitVec.ofNat 64 (fld b 61 32 * 2 ^ 32 + mtAddr (keyOf p (keyPos k)) (fld b 18 0))

/-- Address of element e at destination m. -/
def cpAddr (r : Region) (d : List Word) (m e : Nat) : Nat × Nat × Nat := elemAddr r (cpDest r d m) d e

/-- The handle an ENDK = 0 block completes: its MT and number. -/
def cpHandle (d : List Word) : Nat × Nat := (mtAddrKey ((d.getD 7 0).toNat % 2 ^ 32), dEndp d % 8)

/-- The block of pages of a local destination lies in the Last (R258). -/
def cpBlockOk (r : Region) (d : List Word) : Bool :=
  let p := keyPage (mtAddrKey ((d.getD 7 0).toNat % 2 ^ 32))
  decide (p < r.w * r.h) && decide (p % r.w + dMcw d < r.w) && decide (p / r.w + dMch d < r.h)

/-- An ENDK = 0 block: a local destination in TILE mode whose hull lies in the handle's buffer, and one destination (R265). -/
def cpHandleOk (r : Region) (d : List Word) : Bool :=
  let (k, h) := cpHandle d
  let x := r.hnd k h
  let (lo, hi) := hullOf d
  let o : Int := fld (d.getD 7 0) 18 0
  fld (d.getD 7 0) 63 62 == 0 && cpCount d == 1 && planeMode (r.pl k) == 0
    && decide ((hndBase x : Int) ≤ o + lo) && decide (o + hi - dEsz d + dDeb d ≤ (hndBase x : Int) + hndSize x)

/-- The block meets R265, R264 and what R248 says of a block. -/
def cpBlockValid (r : Region) (d : List Word) : Bool :=
  let w := dW1 d
  let g := fun (b : Word) => decide (fld b 63 62 ≤ 1) && decide ((if fld b 63 62 = 0 then fld b 18 0 else fld b 53 0) % dEsz d = 0)
  let glob := fld (d.getD 7 0) 63 62 == 1
  !bitOf w 63 && !bitOf w 53 && fld w 43 37 == 0 && fld w 34 23 == 0 && fld w 19 13 == 0 && decide (dCsc d ≤ 4)
    && decide (1 ≤ dBxe d) && decide (dBxe d ≤ 4096) && !(dWcv d && dEsz d == 8) && !(dSxt d && !dWcv d)
    && !(dRed d == 2 && decide (dEsz d < 4))
    && (List.range 5).all (fun i => fld (d.getD (2 + i) 0) 63 60 == 0 && decide (1 ≤ dExt d i) && decide (fld (d.getD (2 + i) 0) 39 0 % dEsz d = 0))
    && decide (dBoxes d ≤ 4096) && decide (Nat.min (dN d) (dBxe d) * dDeb d ≤ 4096)
    && g (d.getD 0 0) && g (d.getD 7 0)
    && (if glob then dMch d == 0 && decide (fld (d.getD 7 0) 61 54 + dMcw d < 256) else cpBlockOk r d)
    && !(glob && decide (dCsc d < 3) && (List.range (cpCount d)).any (fun m => capRemote (capEntry r (fld (cpDest r d m) 61 54))))
    && (dChan d || cpHandleOk r d)

/-- Rights of a destination (R80, R261). -/
def cpRights (d : List Word) : List Nat := wrRights (dRed d) ++ (if 1 < cpCount d then [bM] else [])

/-- Checks of the source and of every destination: seal, rights, hull, then the scope (R267, R433). -/
def cpCheck (r : Region) (sl fpol : Nat) (d : List Word) : Except TrapInfo Bool :=
  let (lo, hi) := hullOf d
  match hullCheck r sl (d.getD 0 0) lo hi (dEsz d) [bR] with
  | .error t => .error t
  | .ok _ =>
    let bad := (List.range (cpCount d)).findSome? (fun m =>
      match hullCheck r sl (cpDest r d m) lo (hi - dEsz d + cpWid d) (dEsz d) (cpRights d) with
      | .error t => some t
      | .ok _ => none)
    match bad with
    | some t => .error t
    | none => scopeCheck fpol (dCsc d)

/-- The capabilities of a copy by R79 again: the source's and each destination's (R384). -/
def cpCaps (r : Region) (sl : Nat) (d : List Word) : Option TrapInfo :=
  let one := fun (a : Word) (rights : List Nat) =>
    if fld a 63 62 = 1 then (match capCheck r sl (fld a 61 54) 0 0 rights with | .error t => some { t with aux := dEsz d } | .ok _ => none) else none
  match one (d.getD 0 0) [bR] with
  | some t => some t
  | none => (List.range (cpCount d)).findSome? (fun m => one (cpDest r d m) (cpRights d))

/-- Source and a destination in the Last's MTs whose hulls overlap (R103, R268). -/
def cpOverlaps (r : Region) (d : List Word) : Bool :=
  let (lo, hi) := hullOf d
  let a : Int := (d.getD 0 0).toNat % 2 ^ 32
  fld (d.getD 0 0) 63 62 == 0 && fld (d.getD 7 0) 63 62 == 0
    && (List.range (cpCount d)).any (fun m =>
      let b : Int := (cpDest r d m).toNat % 2 ^ 32
      decide (a + lo < b + hi - dEsz d + cpWid d) && decide (b + lo < a + hi))

/-! ## The launch (R267) -/

/-- Waiting for the claim of the handle the copy completes (R267): the phase of the SCOPY. -/
abbrev phClaim : Nat := 13

/-- The copy starts: its context, extents, and the result of the SCOPY. -/
def cpLaunch (fc : Nat) (key id : Nat) (o : PendOp) (d : List Word) (cid : Nat) (r : Region) : Region :=
  let n := copyBase + r.seq
  let z : Strm := { tile := key, desc := d, st := 1, copy := true, cid := cid, cw := o.b.bits,
                    compl := if o.ti.sb = 15 then 2 else 0, ended := cpOverlaps r d }
  let r := { r with copies := tset r.copies n z, seq := r.seq + 1 }
  completeS fc r key id o { bits := BitVec.ofNat 64 cid } true

/-- The extents of a copy's source and destinations are installed when it starts (R378). -/
def State.copyExtents (s : State) (rid c : Nat) : State :=
  let r := s.region rid
  (wantAddr r c).foldl (fun s a =>
    if a.1 = 1 ∧ capRemote (capEntry r a.2.2) = false ∧ (extFind ((s.region rid).strm c) a.2.1).isNone then
      match s.walk r.part a.2.1 with
      | .ok (l, _) => s.addExt rid c (extentOf s r.part a.2.1 l)
      | .error _ => s
    else s) s

/-- One extent at element 0 of every descriptor, where its page is valid, and those of the copies (R378). -/
def State.startExtents (s : State) (rid : Nat) : State :=
  let r := s.region rid
  let s := r.strms.foldl (fun s x =>
    let r := s.region rid
    let (sp, va, k) := elemAddr r (x.2.desc.getD 0 0) x.2.desc 0
    if sp = 1 ∧ capRemote (capEntry r k) = false then
      match s.walk r.part va with
      | .ok (l, _) => s.addExt rid x.1 (extentOf s r.part va l)
      | .error _ => s
    else s) s
  r.copies.foldl (fun s x => s.copyExtents rid x.1) s

/-- COPY_START: the SCOPY reads its block after every access its PE issued before it, and starts the copy (R267). -/
def copyStart (fc sl fpol : Nat) (key id : Nat) (r : Region) : Region :=
  match r.op? key id with
  | none => r
  | some o =>
    let claim := fun (d : List Word) (cid : Nat) (r : Region) =>
      let (k, h) := cpHandle d
      if portMay r k h true then
        cpLaunch fc key id o d cid (r.updHnd k h (fun x => { x with nxt := some hFilling }))
      else r
    if !(r.st == rRunning || r.st == rFrozen || r.st == rIdle) || o.code != 0xE9 then r
    else if o.ph = phClaim then claim (o.snap.map (fun v => v.bits)) o.res.bits.toNat r
    else if !earlierDone r key id then r
    else
      let ws := r.mtWords (o.a.bits.toNat % 2 ^ 32) 8
      let d := ws.map (fun v => v.bits)
      if ws.any (fun v => v.pois) then failOp fc r key id o { poisonTrap with va := o.a.bits.toNat }
      else if !cpBlockValid r d then completeS fc r key id o { bits := kv kvEinval } false
      else
        match cpCheck r sl fpol d with
        | .error t => failOp fc r key id o t
        | .ok dem =>
          let cid := r.cpyid
          let r := sdemSet dem { r with cpyid := (cid + 1) % 2 ^ 16, cstat := tdel r.cstat ((cid + 2 ^ 16 - 64) % 2 ^ 16) }
          if dChan d then cpLaunch fc key id o d cid r
          else
            claim d cid (r.updCt key (fun c =>
              { c with ops := tset c.ops id { o with ph := phClaim, snap := ws, res := { bits := BitVec.ofNat 64 cid } } }))

/-- A completion in the plane of its operation: one of a plane that has been exchanged completes there (log 52). -/
def State.inPlane (s : State) (rid key id : Nat) (f : State → State) : State :=
  let r := s.region rid
  if (tfind (r.ct key).ops id).isNone && (tfind (r.tile key).ins.ct.ops id).isSome then
    onRegion (f (onRegion s rid (flipTile key))) rid (flipTile key)
  else f s

/-- The descriptors of a copy's sides that lie at a peer go to its port (R393). -/
def copyDescs (c : Nat) (r : Region) : Region :=
  let d := (r.strm c).desc
  (List.range (cpCount d)).foldl (fun r m => startDesc c 0 (m + 1) (cpAddr r d m 0) r) (startDesc c 0 0 (strmAddr r c 0) r)

def execCopyStart (rid tile op : Nat) (s : State) : Res :=
  let old := (s.region rid).copies
  let s := s.inPlane rid tile op (fun s => onRegion s rid (fun r => copyStart s.fc (sealOf s r.part) (partFpol (s.part r.part)) tile op r))
  .next (((s.region rid).copies.filter (fun x => (tfind old x.1).isNone)).foldl (fun s x => onRegion (s.copyExtents rid x.1) rid (copyDescs x.1)) s)

/-! ## The end of a copy (R267, R269) -/

/-- A copy ends: its context goes, its status is kept for 64 launches. -/
def cpEnd (c : Nat) (st code : Nat) (r : Region) : Region :=
  let z := r.strm c
  let w : Word := BitVec.ofNat 64 (st * 2 ^ 62 + code * 2 ^ 32 + dBoxes z.desc * 2 ^ 16 + z.done.length)
  let keep := (r.cpyid + 2 ^ 16 - z.cid - 1) % 2 ^ 16 < 64
  let r := leaveHeat c r
  { r with copies := tdel r.copies c, cstat := if keep then tset r.cstat z.cid (w, 0) else r.cstat,
           flight := r.flight.filter (fun a => match a.2.own with | .copy k _ _ _ => k != c || accOpen a.2 | _ => true) }

/-- A trap of the engine class ends the copy (R269, R396). -/
def cpFail (c : Nat) (t : TrapInfo) (r : Region) : Region := cpEnd c 3 t.code (strmTrap r c t)

/-! ## Elements and words (R89, R102, R103, R260, R268) -/

/-- Value element e brings to its destination. -/
def cpVal (z : Strm) (e : Nat) : Option Val := (tfind z.cells e).map (fun v => deliverVal z.desc v)

/-- Words element e touches at destination m. -/
def cpWords (r : Region) (d : List Word) (m e : Nat) : List Nat :=
  let a := (cpAddr r d m e).2.1
  let b := a + cpWid d - 1
  if a / 8 = b / 8 then [a / 8] else [a / 8, b / 8]

/-- Elements that write in word w of destination m, in the order of R268. -/
def cpTouch (r : Region) (d : List Word) (m w : Nat) : List Nat :=
  let es := (List.range (dN d)).filter (fun e => (cpWords r d m e).contains w)
  let src := fun e => (elemAddr r (d.getD 0 0) d e).2.1
  if cpOverlaps r d ∧ (d.getD 0 0).toNat % 2 ^ 32 < (cpDest r d m).toNat then (sortBy (fun x y => decide (src y ≤ src x)) es)
  else (sortBy (fun x y => decide (src x ≤ src y)) es)

/-- Lay the bytes of a value of n bytes at address a into the word at 8 x w: mask and value so far. -/
def cpLay (w a n : Nat) (v : Val) (p : Byte × Val) : Byte × Val :=
  (List.range n).foldl (fun p i =>
    let x := a + i
    if x / 8 = w then
      let k := x % 8
      (p.1 ||| (1#8 <<< k),
       { bits := (p.2.bits &&& ~~~((0xFF : Word) <<< (8 * k))) ||| (((v.bits >>> (8 * i)) &&& 0xFF) <<< (8 * k)),
         pois := p.2.pois || v.pois })
    else p) p

/-- The one event of word w of destination m: bytes and value, once every element that writes in it has been read. -/
def cpWordEvent (r : Region) (z : Strm) (m w : Nat) : Option (Byte × Val) :=
  let es := cpTouch r z.desc m w
  if es.all (fun e => (tfind z.cells e).isSome) then
    some (es.foldl (fun p e => cpLay w (cpAddr r z.desc m e).2.1 (cpWid z.desc) ((cpVal z e).getD {}) p) (0, {}))
  else none

/-- What the event of word w of destination m asks of its home: bytes to write, or reductions in order (R89, R102, R260). -/
def cpWordOp (r : Region) (z : Strm) (m w : Nat) : Option MOp :=
  if dRed z.desc = 0 then (cpWordEvent r z m w).map (fun p => .writeMask p.1 p.2)
  else
    let es := cpTouch r z.desc m w
    if es.all (fun e => (tfind z.cells e).isSome) then
      some (.rmws (redFn (dRed z.desc)) (dEsz z.desc) (es.map (fun e =>
        ((cpAddr r z.desc m e).2.1 % 8, let v := (cpVal z e).getD {}; { v with bits := lowBytes (dEsz z.desc) v.bits }))))
    else none

/-- Events still to issue for element `got`: destination, word, and which of the element's words it is. -/
def cpTodo (r : Region) (z : Strm) : List (Nat × Nat × Nat) :=
  ((List.range (cpCount z.desc)).map (fun m =>
    (lenum (cpWords r z.desc m z.got)).filterMap (fun x => if z.wrote.contains (m, x.2) then none else some (m, x.2, x.1)))).flatten

/-! ## The check of multicast and reducing stores (R261, R382) -/

/-- The first page that refuses, destinations in ascending order. -/
def cpRefusal (s : State) (r : Region) (d : List Word) : Option TrapInfo :=
  (List.range (cpCount d)).findSome? (fun m => pageRefusal s r (cpDest r d m) d (cpWid d) m)

/-- A multicast or reducing copy makes the check. -/
def State.cpPass (s : State) (rid c : Nat) : State :=
  let r := s.region rid
  s.passCheck rid c (cpRefusal s r (r.strm c).desc)

/-! ## One step of a copy -/

/-- The word of destination m that the event of element e of kind x covers. -/
def cpEvWord (r : Region) (z : Strm) (e x m : Nat) : Nat := (cpWords r z.desc m e).getD (if x = 3 then 1 else 0) 0

/-- Element in place k, from 1, of the event of element e. -/
def cpHit (r : Region) (z : Strm) (e x m k : Nat) : Option Nat :=
  if x % 2 = 1 then (cpTouch r z.desc m (cpEvWord r z e x m))[k - 1]? else none

/-- The destination address of that element, for its record (R400). -/
def cpVa (r : Region) (z : Strm) (e x m k : Nat) : Nat :=
  if x % 2 = 1 then (cpAddr r z.desc m ((cpHit r z e x m k).getD e)).2.1 else (elemAddr r (z.desc.getD 0 0) z.desc e).2.1

/-- Take a performed access of a copy: the value read, or a write done. -/
def cpRetire (c : Nat) (r : Region) : Option Region :=
  match r.flight.find? (fun a => match a.2.own with | .copy k _ x _ => k == c && (decide (x < 2) || x == 3) && !accOpen a.2 | _ => false) with
  | none => none
  | some (_, a) =>
    let r' := dropAcc r a.own
    match a.st, a.own with
    | .failed code, .copy _ e x m => some (cpFail c { code := code, elem := (cpHit r (r.strm c) e x m 1).getD e, va := cpVa r (r.strm c) e x m 1 } r')
    | _, .copy _ e 0 _ => some (elemHeat c a (r'.setStrm c (fun z => { z with cells := tset z.cells e a.ans })))
    | _, .copy _ e x m =>
      if dRed (r.strm c).desc ≠ 0 ∧ a.ans.bits ≠ 0 then
        some (cpFail c { code := 0x21, elem := (cpHit r (r.strm c) e x m a.ans.bits.toNat).getD e, va := cpVa r (r.strm c) e x m a.ans.bits.toNat } r')
      else some r'
    | _, _ => some r'

/-- Issue the events of element `got`, all of them or none, and pass to the next element: where one cannot be translated no event of the
element is performed, and the record has the address that could not be (R379, R380). -/
def State.cpWrite (s : State) (rid c : Nat) : State × Bool :=
  let r := s.region rid
  let z := r.strm c
  let todo := cpTodo r z
  let at0 := fun (t : Nat × Nat × Nat) => let a := cpAddr r z.desc t.1 z.got; (a.1, 8 * t.2.1, a.2.2)
  let may := fun (t : Nat × Nat × Nat) =>
    match cpWordOp r z t.1 t.2.1 with | none => Except.ok none | some op => strmMay s r z (at0 t) op
  let wait := fun (t : Nat × Nat × Nat) => match may t with | .ok (some _) => false | _ => true
  match todo.find? wait with
  | some t =>
    (match may t with
     | .error code =>
       let a := cpAddr r z.desc t.1 z.got
       (onRegion s rid (fun r => stallStrm c false (strmTrap r c
         { code := code, elem := z.got, va := if t.2.2 = 0 then a.2.1 else 8 * t.2.1, capx := some a.2.2 })), false)
     | _ => (s, false))
  | none =>
    let s := todo.foldl (fun s t =>
      match cpWordOp r z t.1 t.2.1 with
      | some op => (strmIssue s rid c z.got (if t.2.2 = 0 then 1 else 3) t.1 (at0 t) op).1
      | none => s) s
    (onRegion s rid (fun r => r.setStrm c (fun z =>
      { z with got := z.got + 1, wrote := z.wrote ++ todo.map (fun t => (t.1, t.2.1)) })), true)

/-- The words that a copy has written when it stands before element n. -/
def cpWrote (r : Region) (d : List Word) (n : Nat) : List (Nat × Nat) :=
  ((List.range n).map (fun e => ((List.range (cpCount d)).map (fun m => (cpWords r d m e).map (fun w => (m, w)))).flatten)).flatten.eraseDups

/-- Issue the next read; stopped at a cut it begins no new box (R412). -/
def State.cpRead (s : State) (rid c : Nat) : State :=
  let r := s.region rid
  let z := r.strm c
  if dN z.desc ≤ z.next ∨ (z.stop && z.next % Nat.max 1 (dBxe z.desc) == 0 && !z.ended) = true then s
  else
    let (s1, ok) := strmIssue s rid c z.next 0 0 (strmAddr r c z.next) (.read (dEsz z.desc))
    if ok then onRegion s1 rid (fun r => r.setStrm c (fun z => { z with next := z.next + 1 })) else s1

/-- One step of a copy: what has come back, then the check, then a write that can go, then the next read. -/
def State.copyElement (s : State) (rid c : Nat) : State :=
  let r := s.region rid
  let z := r.strm c
  let d := z.desc
  if !strmLive r c ∨ !z.copy ∨ z.st ≠ 1 then s
  else
    match cpRetire c r with
    | some r' => s.setRegion rid r'
    | none =>
      if z.halt = 4 then onRegion s rid (fun r => stopFailed c (cpCaps r (sealOf s r.part) d) r)
      else if (decide (1 < cpCount d) || dRed d != 0) && !z.eTok then s.cpPass rid c
      else if z.got < dN d ∧ z.got < z.next ∧ (!z.ended || z.cells.length == dN d) = true then
        let p := s.cpWrite rid c
        if p.2 then p.1
        else if ((p.1.region rid).strm c).st ≠ 1 then p.1 else p.1.cpRead rid c
      else s.cpRead rid c

/-- What a copy that stands has read and can still write is written, so that every element before its front has been performed when the
region settles; a word waits for all its elements (R89, R380, R402, log 52). -/
def State.cpFlush (fuel : Nat) (s : State) (rid c : Nat) : State :=
  match fuel with
  | 0 => s
  | f + 1 =>
    let z := (s.region rid).strm c
    if z.got < z.next then
      let p := s.cpWrite rid c
      if p.2 then State.cpFlush f p.1 rid c else p.1
    else s

/-- The copies of a region stalled at their sources write what they have read (R380). -/
def State.flushCopies (s : State) (rid : Nat) : State :=
  let r := s.region rid
  if (r.st = rFrozen ∨ r.parked = true) ∧ r.settled = false then
    ((r.copies.filter (fun x => x.2.st == 3 && x.2.halt == 2)).map (·.1)).foldl (fun s c =>
      let r := onRegion s rid (fun r => match cpRetire c r with | some r' => r' | none => r)
      State.cpFlush (2 * dN ((r.region rid).strm c).desc * cpCount ((r.region rid).strm c).desc + dN ((r.region rid).strm c).desc) r rid c) s
  else s

/-- STREAM_ELEMENT: one step of a stream or of a copy. -/
def execStreamElement (rid ctx : Nat) (s : State) : Res :=
  .next (if ctx < copyBase then s.streamElement rid ctx else s.copyElement rid ctx).wake

/-- Box b of a copy is complete when its events have been performed (R250). -/
def cpBoxDone (r : Region) (c b : Nat) : Bool :=
  let z := r.strm c
  decide (boxEnd z.desc b ≤ z.got) && r.flight.all (fun a =>
    match a.2.own with | .copy k e x _ => !(k == c && x % 2 == 1 && decide (e < boxEnd z.desc b)) | _ => true)

def copyBox (c b : Nat) (r : Region) : Region :=
  let z := r.strm c
  if !hasStrm r c ∨ !z.copy ∨ z.done.contains b = true ∨ dBoxes z.desc ≤ b ∨ !cpBoxDone r c b then r
  else r.setStrm c (fun z => { z with done := nset z.done b true })

/-- BOX_COMPLETE: a box of a stream or of a copy. -/
def execBoxComplete (rid ctx box : Nat) (s : State) : Res :=
  .next (onRegion s rid (fun r => if ctx < copyBase then boxComplete s.fc ctx box r else copyBox ctx box r))

/-- COPY_COMPLETE: after the last box the handle goes to FULL, or HANDLE_STATE where it is not FILLING (R86), and the completion word is added to (R267). -/
def copyComplete (c : Nat) (r : Region) : Region :=
  let z := r.strm c
  let d := z.desc
  let own : Owner := .copy c 0 2 0
  let fin := fun (r : Region) =>
    let r := if dChan d then r else
      let (k, h) := cpHandle d
      if (r.hnd k h).st ≠ hFilling then strmTrap r c (handleTrap (r.hnd k h).st h)
      else r.updHnd k h (fun x => { x with st := hFull, nxt := none, moved := true })
    cpEnd c 2 0 r
  if !hasStrm r c ∨ !z.copy ∨ !strmLive r c ∨ z.done.length ≠ dBoxes d then r
  else if z.compl = 2 then fin r
  else if z.compl = 1 then
    match findAcc r own with
    | some (_, a) =>
      (match a.st with
       | .done => fin (dropAcc r own)
       | .failed code => cpFail c { code := code } (dropAcc r own)
       | _ => r)
    | none => r
  else
    let ad := if fld z.cw 63 62 = 1 then (1, (globVa r z.cw).1, (globVa r z.cw).2) else (0, z.cw.toNat, 0)
    let r := (issue { own := own, op := .rmw .add 8 false { bits := 1 } {}, sp := ad.1, addr := ad.2.1, capx := ad.2.2, seq := r.seq } r).1
    r.setStrm c (fun z => { z with compl := 1 })

def execCopyComplete (rid ctx : Nat) (s : State) : Res := .next (onRegion s rid (copyComplete ctx))

end Sys2Proof.Machine
end

