-- ==== Sys2Proof/Machine/Service.lean ====
section
/-! DEFINITION. System calls at the service cores (R242, R243, R441-R446): the argument block and its checks, memory through
the partition's table, the calls, files, byte-stream connections. -/

namespace Sys2Proof.Machine

/-- A step that wrote memory: deferred operations look again (R224). -/
def after (s : State) : Res := .next s.wake

/-- A fresh free word (log 3). -/
def State.freeW (s : State) : State × Word := ({ s with freeC := s.freeC + 1 }, Config.freeWord s.freeC)

/-! ## Memory of a call (R376, R443) -/

/-- The pieces of a range, page by page. -/
def vaPieces (va n : Nat) : List (Nat × Nat) :=
  let f := va / 2 ^ 16
  ((List.range ((va + n + 2 ^ 16 - 1) / 2 ^ 16 - f)).map (fun i =>
    let a := Nat.max va ((f + i) * 2 ^ 16)
    (a, Nat.min (va + n) ((f + i + 1) * 2 ^ 16) - a)))

/-- A page of the range migrates: an access that would translate to it waits, with no trap (R389). -/
def rangeFrozen (p : Part) (va n : Nat) : Bool := (vaPieces va n).any (fun x => pageFrozen p x.1)
/-- The same for a service core's access in a call of a region, which a crn.finval holds back too (R384). -/
def State.heldAt (s : State) (r : Region) (va n : Nat) : Bool :=
  rangeFrozen (s.part r.part) va n || (vaPieces va n).any (fun x => pagePaused r x.1)
def State.svcHeld (s : State) (r : Region) (w : Word) (n : Nat) : Bool := s.heldAt r (capBase (capEntry r (fld w 61 54)) + fld w 53 0) n

/-- Physical pieces of a range through a cluster's cache: a miss, or none where a leaf leads to a peer (log 18). -/
def State.svcMap (s : State) (part cl va n : Nat) (op : MOp) : State × Except TrapInfo (Option (List (Nat × Nat))) :=
  (vaPieces va n).foldl (fun acc p =>
    match acc with
    | (s, .ok (some l)) =>
      (match s.xlate part cl p.1 0 op with
       | (s, .error t) => (s, .error t)
       | (s, .ok (.peer _ _)) => (s, .ok none)
       | (s, .ok (.dram pa)) => (s, .ok (some (l ++ [(pa, p.2)]))))
    | _ => acc) (s, .ok (some []))

def State.readPieces (s : State) (ps : List (Nat × Nat)) : List Byte := (ps.map (fun p => s.rdBs p.1 p.2)).flatten
def State.poisPieces (s : State) (ps : List (Nat × Nat)) : Bool := ps.any (fun p => s.anyPois p.1 p.2)
def State.writePieces (s : State) (ps : List (Nat × Nat)) (bs : List Byte) : State :=
  (ps.foldl (fun (x : State × List Byte) p => (x.1.wrBs p.1 (x.2.take p.2), x.2.drop p.2)) (s, bs)).1

def bytesWord (bs : List Byte) : Word := BitVec.ofNat 64 ((bs.take 8).foldr (fun b acc => b.toNat + 256 * acc) 0)
def wordBytes (w : Word) : List Byte := (List.range 8).map (fun i => BitVec.ofNat 8 (w.toNat / 2 ^ (8 * i)))

/-! ## The argument block (R242) -/

/-- Phase of a SYSC whose call a service core has taken. -/
abbrev phSvc : Nat := 14

/-- What a SYSC that waits comes to: not yet, a stall on translation, a status at once, its call. -/
inductive SysRes where
  | wait
  | stall (t : TrapInfo)
  | stat (i : Int)
  | call (num : Nat) (args : List Word)

/-- Pointer arguments of a call: argument, bytes, rights. -/
def sysPtrs (num : Nat) (a : List Word) : List (Nat × Nat × List Nat) :=
  let n := fun i => (a.getD i 0).toNat
  match num with
  | 1 => [(0, n 1, [bR])]
  | 2 => [(1, n 2, [bW])]
  | 3 => [(1, n 2, [bR])]
  | 0x10 => [(0, 18, [bR]), (1, 4096 + 2 ^ n 2 + 2 ^ n 3, [bR, bW])]
  | 0x12 => [(1, 4096 + 2 ^ n 2 + 2 ^ n 3, [bR, bW])]
  | 0x20 => [(0, n 1, [bW])]
  | 0x21 => [(0, 1, [bR])]
  | _ => []

/-- Arguments in the ranges R442 and R444 give. -/
def sysArgsOk (num : Nat) (a : List Word) : Bool :=
  let n := fun i => (a.getD i 0).toNat
  let ring := fun i => decide (12 ≤ n i) && decide (n i ≤ 24)
  match num with
  | 1 => decide (1 ≤ n 1) && decide (n 1 ≤ 1024) && decide (n 2 < 8)
  | 0x10 => decide (n 1 % 4096 = 0) && ring 2 && ring 3
  | 0x11 => decide (n 0 < 2 ^ 16) && decide (1 ≤ n 1) && decide (n 1 ≤ 64)
  | 0x12 => decide (n 1 % 4096 = 0) && ring 2 && ring 3
  | 0x20 => decide (n 0 % 8 = 0) && decide (n 1 % 8 = 0)
  | _ => true

def sysKnown (num : Nat) : Bool := [1, 2, 3, 4, 5, 0x10, 0x11, 0x12, 0x13, 0x20, 0x21].contains num

/-- Virtual address of a fabric address of a region. -/
def ptrVa (r : Region) (a : Word) : Nat := capBase (capEntry r (fld a 61 54)) + fld a 53 0

/-- A pointer argument reaches its bytes (R242). -/
def ptrOkArg (r : Region) (sl : Nat) (a : Word) (n : Nat) (rights : List Nat) : Bool :=
  let x := fld a 61 54
  fld a 63 62 == 1 && !capRemote (capEntry r x)
    && (match capCheck r sl x (fld a 53 0) n rights with | .ok _ => true | .error _ => false)

/-- The checks of a call (R242); the order among them is the model's (log 18). DESIGN CHOICE (log 55): a pointer argument of the call whose
PMASK bit is 0 gives KV_EREACH. -/
def sysCheck (r : Region) (sl : Nat) (b : Word) (ws : List Word) : SysRes :=
  let num := fld b 15 0
  let a := ws.take 6
  let pm := fld (ws.getD 6 0) 5 0
  if fld b 63 16 ≠ 0 ∨ fld (ws.getD 6 0) 63 6 ≠ 0 ∨ ws.getD 7 0 ≠ 0 ∨ sysKnown num = false ∨ sysArgsOk num a = false then .stat kvEinval
  else if (sysPtrs num a).any (fun p => !pm.testBit p.1 || !ptrOkArg r sl (a.getD p.1 0) p.2.1 p.2.2) ∨
      (bitsOf pm 6).any (fun i => !ptrOkArg r sl (a.getD i 0) 0 []) = true then .stat kvEreach
  else .call num a

/-- The calls of a partition that wait, by region and by issue: those whose earlier accesses are done, and those that stall on translation. -/
def State.sysWaiting (s : State) (part : Nat) : List (Nat × Nat × Nat) :=
  ((s.regions.filter (fun x => x.2.part == part && (x.2.st == rRunning || x.2.st == rFrozen || x.2.st == rIdle))).map (fun x =>
    sortBy (fun a b => decide (a.2.2 ≤ b.2.2)) ((x.2.tiles.map (fun t =>
      ((t.2.act.ct.ops ++ t.2.ins.ct.ops).filter (fun o => o.2.code == 0xF0 && (o.2.ph == 15 || (o.2.ph == 5 && earlierDone x.2 t.1 o.1)))).map
        (fun o => (x.1, t.1, o.1)))).flatten))).flatten

/-- Calls that have arrived since the service cores last looked stand behind those that wait, each with SVW and SYSQ as they are (R430, R441);
among those of one look the order is the model's (log 18). -/
def State.sysNote (s : State) (part : Nat) : State :=
  let w := partWord (s.part part) 1
  let now := s.sysWaiting part
  let is := fun (a : Arrival) (x : Nat × Nat × Nat) => a.rid == x.1 && a.key == x.2.1 && a.op == x.2.2
  let old := (s.part part).arr
  let arr := old.filter (fun a => now.any (is a)) ++ (now.filter (fun x => !old.any (fun a => is a x))).map
    (fun x => { rid := x.1, key := x.2.1, op := x.2.2, svw := fld w 49 42, sysq := fld w 41 30 })
  if arr = old then s else s.updPart part (fun p => { p with arr := arr })

/-- A call's arrival; of one that has not been noted, as of now. -/
def State.arrival (s : State) (rid key id : Nat) : Arrival :=
  let p := s.part (s.region rid).part
  (p.arr.find? (fun a => a.rid == rid && a.key == key && a.op == id)).getD
    { rid := rid, key := key, op := id, svw := fld (partWord p 1) 49 42, sysq := fld (partWord p 1) 41 30 }

/-- Look at a SYSC that waits for a service core. -/
def State.sysTry (s : State) (rid key id : Nat) : State × SysRes :=
  let r := s.region rid
  match r.op? key id with
  | none => (s, .wait)
  | some o =>
    let p := s.part r.part
    if o.code ≠ 0xF0 ∨ o.ph ≠ 5 ∨ !(r.st == rRunning || r.st == rFrozen || r.st == rIdle) ∨ !earlierDone r key id then (s, .wait)
    else if (s.arrival rid key id).svw = 0 then (s, .stat kvEperm)
    else
      let va := ptrVa r o.a.bits
      if pageFrozen p va || pagePaused r va then (s, .wait)
      else
        match s.xlate r.part (clusterOf r key) va 0 (.read 8) with
        | (s, .error t) => (s, .stall { t with va := va, capx := some (fld o.a.bits 61 54) })
        | (s, .ok (.peer _ _)) => (s, .stat kvEreach)
        | (s, .ok (.dram pa)) =>
          if s.anyPois pa 64 then (s, .stat kvEio)
          else (s, sysCheck r (sealOf s r.part) o.b.bits (s.rdWs pa 8))

/-- The answer of a call reaches its operation, or waits for the restore of its region (R243). -/
def State.sysAnswer (s : State) (rid key id : Nat) (v : Word) : State :=
  onRegion s rid (fun r =>
    if r.st = rOut then { r with sysAns := tset r.sysAns id (key, v) } else answerOp r key id { bits := v } (v != 0))

def setPh (ph key id : Nat) (r : Region) : Region :=
  match r.op? key id with
  | some o => r.setOp key id { o with ph := ph }
  | none => r

/-- Phase of a SYSC that stalls on translation until its region resumes (R381). -/
abbrev phStall : Nat := 15

/-- A translation trap of a pointer names its capability (R379). -/
def ptrTrap (w : Word) (t : TrapInfo) : TrapInfo := { t with capx := some (fld w 61 54) }

/-- A SYSC stalls with a translation trap. -/
def State.sysStall (s : State) (rid key id : Nat) (t : TrapInfo) : State :=
  onRegion s rid (fun r =>
    let slot := ((r.op? key id).map (fun o => o.slot)).getD 0
    (setPh phStall key id r).raise { t with key := key, slot := slot, tiw := tget (r.ct key).slots 0 slot })

/-- Statuses given without a call: LONG_OP_COMPLETE of a waiting SYSC. -/
def State.sysImmediate (s : State) (rid key id : Nat) : State :=
  let s := s.sysNote (s.region rid).part
  match s.sysTry rid key id with
  | (s, .stat i) => s.sysAnswer rid key id (kv i)
  | (s, .stall t) => s.sysStall rid key id t
  | (s, _) => s

/-! ## Calls in progress -/

/-- What a call's first argument names: a file, a connection, or neither (R441). -/
def idKind (num : Nat) : Option Nat := if 2 ≤ num ∧ num ≤ 5 then some 0 else if num = 0x13 then some 1 else none

/-- A call that arrived before, and is or may be on the same file or connection id, waits still (R441). -/
def State.sysBehind (s : State) (rid key id num : Nat) (a : List Word) : Bool :=
  match idKind num with
  | none => false
  | some k =>
    ((s.part (s.region rid).part).arr.takeWhile (fun x => !(x.rid == rid && x.key == key && x.op == id))).any (fun x =>
      match (s.sysTry x.rid x.key x.op).2 with
      | .call n b => idKind n == some k && b.getD 0 0 == a.getD 0 0
      | .stat _ => false
      | _ => true)

/-- A call of number `num` is taken by a service core, if it waits, its partition has a place, and no earlier one on its id waits (R441). -/
def State.sysTake (s : State) (rid key id num : Nat) (f : State → Region → List Word → State) : Res :=
  let s := s.sysNote (s.region rid).part
  match s.sysTry rid key id with
  | (s, .call n a) =>
    let r := s.region rid
    if n = num ∧ (s.part r.part).calls.length < (s.arrival rid key id).sysq ∧ s.sysBehind rid key id num a = false then after (f s r a) else .next s
  | (s, _) => .next s

/-- Record a call in progress. -/
def State.sysOpen (s : State) (part : Nat) (c : Call) : State × Nat :=
  let (s, n) := s.new
  ((s.updPart part (fun p => { p with calls := tset p.calls n { c with va := ptrVa (s.region c.rid) (c.args.getD 1 0) } })) |> (fun s => onRegion s c.rid (setPh phSvc c.key c.op)), n)

/-- Answer a call in progress and take it off the list. -/
def State.sysClose (s : State) (part n : Nat) (c : Call) (v : Word) : State :=
  (s.updPart part (fun p => { p with calls := tdel p.calls n })).sysAnswer c.rid c.key c.op v

/-- Bytes a call reads, mapped; a miss stalls it, a peer page answers it, and so does poison (R470). -/
def State.svcRead (s : State) (rid key id : Nat) (w : Word) (n : Nat) (k : State → List Byte → State) : State :=
  let r := s.region rid
  if s.svcHeld r w n then s
  else
  match s.svcMap r.part (clusterOf r key) (ptrVa r w) n (.read 8) with
  | (s, .error t) => s.sysStall rid key id (ptrTrap w t)
  | (s, .ok none) => s.sysAnswer rid key id (kv kvEreach)
  | (s, .ok (some ps)) =>
    if s.poisPieces ps then s.sysAnswer rid key id (kv kvEio) else k s (s.readPieces ps)

/-- Bytes a call writes. -/
def State.svcWrite (s : State) (rid key id : Nat) (w : Word) (bs : List Byte) (k : State → State) : State :=
  let r := s.region rid
  if s.svcHeld r w bs.length then s
  else
  match s.svcMap r.part (clusterOf r key) (ptrVa r w) bs.length (.write 8 {}) with
  | (s, .error t) => s.sysStall rid key id (ptrTrap w t)
  | (s, .ok none) => s.sysAnswer rid key id (kv kvEreach)
  | (s, .ok (some ps)) => k (s.writePieces ps bs)

/-! ## Files (R442) -/

/-- Pad bytes to whole words. -/
def bytesWords (fuel : Nat) (bs : List Byte) : List Word :=
  match fuel with
  | 0 => []
  | f + 1 => if bs.isEmpty then [] else bytesWord bs :: bytesWords f (bs.drop 8)

/-- A FILEREQ goes to the partition's server. -/
def State.fileSend (s : State) (ss n num : Nat) (a : List Word) (data : List Byte) : State :=
  { s with out := s.out ++ [Out.khr 0x41 ss n 0 (BitVec.ofNat 64 num :: a ++ bytesWords data.length data)] }

/-- Forward a file call to the partition's server, or answer KV_EIO. -/
def State.fileReq (s : State) (r : Region) (key id num : Nat) (a : List Word) (data : List Byte) : State :=
  match (s.part r.part).server with
  | none => s.sysAnswer r.rid key id (kv kvEio)
  | some ss =>
    let (s, n) := s.sysOpen r.part { rid := r.rid, key := key, op := id, num := num, args := a }
    s.fileSend ss n num a data

/-- A call in progress on a file id. -/
def onFile (f : Nat) (c : Call) : Bool := decide (2 ≤ c.num) && decide (c.num ≤ 5) && (c.args.getD 0 0).toNat == f
/-- Mark of a file call that waits for the earlier calls on its id (R441). -/
abbrev fileWaits : Nat := 2

/-- A call on a file id: it waits for the earlier calls on that id; unknown ids answer KV_EBADF. -/
def State.fileCall (s : State) (r : Region) (key id num : Nat) (a : List Word) (data : List Byte) : State :=
  let p := s.part r.part
  let f := (a.getD 0 0).toNat
  if p.calls.any (fun c => onFile f c.2) then
    (s.sysOpen r.part { rid := r.rid, key := key, op := id, num := num, args := a, data := data, lst := fileWaits }).1
  else if p.files.contains f then s.fileReq r key id num a data
  else s.sysAnswer r.rid key id (kv kvEbadf)

/-- A file call ends, and the next one on its id has its turn (R441). -/
def State.fileClose (s : State) (part n : Nat) (c : Call) (v : Word) : State :=
  let s := s.sysClose part n c v
  let f := (c.args.getD 0 0).toNat
  if c.num = 1 then s
  else
    ((s.part part).calls.foldl (fun (x : State × Bool) y =>
      let p := x.1.part part
      if x.2 ∨ y.2.lst ≠ fileWaits ∨ onFile f y.2 = false then x
      else
        match p.files.contains f, p.server with
        | true, some ss =>
          ((x.1.updPart part (fun p => { p with calls := tset p.calls y.1 { y.2 with lst := 0, data := [] } })).fileSend ss y.1 y.2.num y.2.args y.2.data, true)
        | true, none => (x.1.sysClose part y.1 y.2 (kv kvEio), false)
        | false, _ => (x.1.sysClose part y.1 y.2 (kv kvEbadf), false)) (s, false)).1

def execFopen (rid tile op : Nat) (s : State) : Res :=
  s.sysTake rid tile op 1 (fun s r a =>
    s.svcRead rid tile op (a.getD 0 0) (a.getD 1 0).toNat (fun s bs => s.fileReq r tile op 1 a bs))

def execFread (rid tile op : Nat) (s : State) : Res :=
  s.sysTake rid tile op 2 (fun s r a => s.fileCall r tile op 2 a [])

def execFwrite (rid tile op : Nat) (s : State) : Res :=
  s.sysTake rid tile op 3 (fun s r a =>
    s.svcRead rid tile op (a.getD 1 0) (a.getD 2 0).toNat (fun s bs => s.fileCall r tile op 3 a bs))

def execFclose (rid tile op : Nat) (s : State) : Res :=
  s.sysTake rid tile op 4 (fun s r a => s.fileCall r tile op 4 a [])

def execFsize (rid tile op : Nat) (s : State) : Res :=
  s.sysTake rid tile op 5 (fun s r a => s.fileCall r tile op 5 a [])

/-- What an answered file call leaves: an opened or closed id, and its result. -/
def State.fileDone (s : State) (part n : Nat) (c : Call) (st : Word) : State :=
  let id := (c.args.getD 0 0).toNat
  let ok := decide (st.toNat < 2 ^ 63)
  let v := if c.num = 1 ∧ ok = true ∧ 1024 ≤ st.toNat then kv kvEio else if c.num = 4 ∧ ok = true then 0 else st
  let s := s.updPart part (fun p =>
    if c.num = 1 ∧ v.toNat < 1024 then { p with files := nset p.files v.toNat true }
    else if c.num = 4 ∧ ok = true then { p with files := nset p.files id false } else p)
  s.fileClose part n c v

/-- The server's answer to a call: read data goes to the call's buffer, at most as much as it asked for; of a region that is no more it is
discarded (R331), and of one that is saved a page that does not translate waits for its resumption (R243). -/
def State.fileAnswer (s : State) (part n : Nat) (st : Word) (data : List Byte) : State :=
  match tfind (s.part part).calls n with
  | none => s
  | some c =>
    if 5 < c.num then s
    else if c.num = 2 ∧ st.toNat < 2 ^ 63 then
      let bs := data.take (Nat.min st.toNat (c.args.getD 2 0).toNat)
      let r := s.region c.rid
      let v : Word := BitVec.ofNat 64 bs.length
      if (s.region? c.rid).isNone then s.fileClose part n c v
      else if s.heldAt r c.va bs.length then s.updPart part (fun p => { p with calls := tset p.calls n { c with data := bs, lst := 1 } })
      else
      match s.svcMap part (clusterOf r c.key) c.va bs.length (.write 8 {}) with
      | (s, .error t) =>
        let s := s.updPart part (fun p => { p with calls := tset p.calls n { c with data := bs, lst := 1 } })
        if r.st = rOut then s else s.sysStall c.rid c.key c.op (ptrTrap (c.args.getD 1 0) t)
      | (s, .ok none) => s.fileClose part n c (kv kvEreach)
      | (s, .ok (some ps)) => (s.writePieces ps bs).fileClose part n c v
    else s.fileDone part n c st

/-- A call whose answer stalled on translation delivers it after its region resumes, and one behind a migration after that (R381, R389). -/
def State.fileRetry (s : State) (rid key id : Nat) : State :=
  let part := (s.region rid).part
  match (s.part part).calls.find? (fun x => x.2.rid == rid && x.2.key == key && x.2.op == id) with
  | some (n, c) => if c.lst = 1 then s.fileAnswer part n (BitVec.ofNat 64 c.data.length) c.data else s
  | none => s

/-- FILE_SERVER_TIMEOUT: no answer within 10 s (R442). -/
def execFileServerTimeout (part call : Nat) (s : State) : Res :=
  match tfind (s.part part).calls call with
  | some c => .next (if c.num ≤ 5 ∧ c.lst = 0 then s.fileClose part call c (kv kvEio) else s)
  | none => .next s

/-! ## Memory calls -/

def execMzero (rid tile op : Nat) (s : State) : Res :=
  s.sysTake rid tile op 0x20 (fun s _ a =>
    s.svcWrite rid tile op (a.getD 0 0) (List.replicate (a.getD 1 0).toNat 0) (fun s => s.sysAnswer rid tile op 0))

/-- MHEAT: the heat word of the pointer's page (R386). -/
def execMheat (rid tile op : Nat) (s : State) : Res :=
  s.sysTake rid tile op 0x21 (fun s r a =>
    if s.svcHeld r (a.getD 0 0) 1 then s
    else
    match s.svcMap r.part (clusterOf r tile) (ptrVa r (a.getD 0 0)) 1 (.read 1) with
    | (s, .error t) => s.sysStall rid tile op (ptrTrap (a.getD 0 0) t)
    | (s, .ok (some ((pa, _) :: _))) => s.sysAnswer rid tile op (BitVec.ofNat 64 (rdNat s.mem (heatAddr (s.part r.part) pa) 4))
    | (s, .ok _) => s.sysAnswer rid tile op (kv kvEreach))

/-! ## Connections (R444-R446) -/

/-- Pages of a connection block reached through the partition's table now; none while one is not (log 18) or migrates (R389). -/
def State.connMap (s : State) (part va n : Nat) : Option (List (Nat × Nat)) :=
  if rangeFrozen (s.part part) va n then none
  else
  (vaPieces va n).foldl (fun acc p =>
    match acc with
    | none => none
    | some l =>
      match s.walk part p.1 with
      | .ok (lf, _) =>
        (match leafHome (s.part part) lf p.1 (.rmw .add 8 true {} {}) with
         | some (.dram pa) => some (l ++ [(pa, p.2)])
         | _ => none)
      | .error _ => none) (some [])

/-- Physical address of byte `off` of a connection's block. -/
def State.connAt (s : State) (part : Nat) (c : Conn) (off : Nat) : Option Nat :=
  (s.connMap part (c.blk + off) 1).bind (fun l => l.head?.map (fun p => p.1))

def connSize (c : Conn) : Nat := 4096 + 2 ^ c.txl + 2 ^ c.rxl
/-- What would write a connection's block waits while a page of it migrates (R389). -/
def State.connHeld (s : State) (part : Nat) (c : Conn) : Bool := rangeFrozen (s.part part) c.blk (connSize c)

/-- Word `off` of a connection's block, and the write of one. -/
def State.connRd (s : State) (part : Nat) (c : Conn) (off : Nat) : Word :=
  match s.connAt part c off with | some a => s.rdW a | none => 0
def State.connWr (s : State) (part : Nat) (c : Conn) (off : Nat) (w : Word) : State :=
  match s.connAt part c off with | some a => s.wrW a w | none => s

/-- A connection opens: its block is zeroed, its sizes and STATE 1 written, and the call completes with the id (R444). -/
def State.connOpen (s : State) (part n : Nat) (c : Call) : State :=
  let k : Conn := { blk := c.va, txl := (c.args.getD 2 0).toNat, rxl := (c.args.getD 3 0).toNat }
  if (s.region? c.rid).isNone then s.sysClose part n c (kv kvEcancel)
  else
  match freeIdx (s.part part).conns 4096 with
  | none => s.sysClose part n c (kv kvEnospc)
  | some i =>
    match s.connMap part k.blk (connSize k) with
    | none => s
    | some ps =>
      let s := s.writePieces ps (List.replicate (connSize k) 0)
      let s := s.connWr part k 8 (BitVec.ofNat 64 (k.rxl * 2 ^ 8 + k.txl))
      let s := s.connWr part k 0 1
      (s.updPart part (fun p => { p with conns := tset p.conns i k })).sysClose part n c (BitVec.ofNat 64 i)

def execSconnect (rid tile op : Nat) (s : State) : Res :=
  s.sysTake rid tile op 0x10 (fun s r a =>
    s.svcRead rid tile op (a.getD 0 0) 18 (fun s bs =>
      let (s, n) := s.sysOpen r.part { rid := rid, key := tile, op := op, num := 0x10, args := a, data := bs }
      { s with out := s.out ++ [Out.syn r.part n bs] }))

/-- SLISTEN: a new listener (R442). -/
def execSlisten (rid tile op : Nat) (s : State) : Res :=
  s.sysTake rid tile op 0x11 (fun s r a =>
    let (s, n) := s.new
    let port := (a.getD 0 0).toNat
    let blg := (a.getD 1 0).toNat
    let s := s.updPart r.part (fun p => { p with lists := tset p.lists n (port, blg) })
    ({ s with out := s.out ++ [Out.listen r.part n port blg] }).sysAnswer rid tile op (BitVec.ofNat 64 n))

def execSaccept (rid tile op : Nat) (s : State) : Res :=
  s.sysTake rid tile op 0x12 (fun s r a =>
    let l := (a.getD 0 0).toNat
    if (tfind (s.part r.part).lists l).isNone then s.sysAnswer rid tile op (kv kvEbadf)
    else (s.sysOpen r.part { rid := rid, key := tile, op := op, num := 0x12, args := a, lst := l }).1)

/-- TCP_PEER_CONNECT: a peer answers a SCONNECT, or comes to a listener on which a SACCEPT waits; a refusal answers the call (R442). -/
def execTcpPeerConnect (part call : Nat) (refused : Bool) (s : State) : Res :=
  match tfind (s.part part).calls call with
  | some c =>
    if c.num = 0x10 ∨ c.num = 0x12 then
      after (if refused = true then (if c.num = 0x10 then s.sysClose part call c (kv kvEconnrefused) else s) else s.connOpen part call c)
    else .next s
  | none => .next s

/-- The reset form of a connection (R446); RST goes out unless the peer sent it. -/
def State.connReset (s : State) (part i : Nat) (c : Conn) (err : Int) (rst : Bool) : State :=
  let e := ((kv err).toNat % 2 ^ 16) * 2 ^ 16
  let s := s.connWr part c 0 (BitVec.ofNat 64 (e + 3))
  let s := s.connWr part c 0x40 (BitVec.ofNat 64 (2 ^ 63 + c.txhead))
  let s := s.connWr part c 0x100 (BitVec.ofNat 64 (2 ^ 63 + c.rxtail))
  let s := s.updPart part (fun p => { p with conns := tset p.conns i { c with st := 3 } })
  if rst then { s with out := s.out ++ [Out.rst part i] } else s

/-- The errors a program's counts make (R446). -/
def connBad (c : Conn) (tail head : Nat) : Bool :=
  decide (tail < c.txtail) || decide (c.txhead + 2 ^ c.txl < tail) || decide (c.rxtail < head) || decide (head < c.rxhead)

/-- A write of TXTAIL or RXHEAD is noted by its connection: the count it leaves, and whether it breaks a limit (R445, R446). -/
def State.connNote (s : State) (x : Nat × Word) : State :=
  s.parts.foldl (fun s p => p.2.conns.foldl (fun s k =>
    match tfind (s.part p.1).conns k.1 with
    | none => s
    | some c =>
      let put := fun (c : Conn) => s.updPart p.1 (fun p => { p with conns := tset p.conns k.1 c })
      let v := fld x.2 62 0
      if c.st = 3 then s
      else if s.connAt p.1 c 0x80 = some x.1 then put { c with txtail := v, bad := c.bad || connBad c v c.rxhead }
      else if s.connAt p.1 c 0xC0 = some x.1 then put { c with rxhead := v, bad := c.bad || connBad c c.txtail v }
      else s) s) s

/-- The peer's FIN: STATE 2 and END in RXTAIL (R446). -/
def State.connFin (s : State) (part i : Nat) (c : Conn) : State :=
  let s := (s.connWr part c 0 2).connWr part c 0x100 (BitVec.ofNat 64 (2 ^ 63 + c.rxtail))
  s.updPart part (fun p => { p with conns := tset p.conns i { c with st := 2, owed := 0 } })

/-- What a connection's block is owed is shown once its pages can be reached. -/
def State.connOwed (s : State) (part i : Nat) : State :=
  match tfind (s.part part).conns i with
  | none => s
  | some c =>
    if (c.owed = 0 ∧ c.bad = false) ∨ c.st = 3 ∨ (s.connMap part c.blk (connSize c)).isNone then s
    else if c.owed = 2 then s.connReset part i c kvEconnreset false
    else if c.bad then s.connReset part i c kvEinval true
    else s.connFin part i c

/-- The service cores take note of the writes of TXTAIL and RXHEAD (R445). -/
def State.connNotes (s : State) : State :=
  match s.notes with
  | [] => s
  | l => l.foldl (fun s x => s.connNote x) { s with notes := [] }

/-- The connections at the end of an fc. -/
def State.connTick (s : State) : State :=
  let s := s.connNotes
  s.parts.foldl (fun s p => p.2.conns.foldl (fun s k => s.connOwed p.1 k.1) s) s

/-- CONN_TX_SEND: the service core takes note of TXTAIL and RXHEAD, sends what is owed, and moves TXHEAD (R445). -/
def State.connTx (s : State) (part i : Nat) : State :=
  let s := s.connNotes.connOwed part i
  match tfind (s.part part).conns i with
  | none => s
  | some c =>
    if c.st = 3 ∨ (s.connMap part c.blk (connSize c)).isNone then s
    else
      let w := s.connRd part c 0x80
      let tail := fld w 62 0
      let head := fld (s.connRd part c 0xC0) 62 0
      if connBad c tail head then s.connReset part i c kvEinval true
      else
        let n := tail - c.txhead
        let bs := (List.range n).map (fun k =>
          match s.connAt part c (0x1000 + (c.txhead + k) % 2 ^ c.txl) with | some a => rdByte s.mem a | none => 0)
        let fin := bitOf w 63 && !c.finTx
        let s := if n = 0 then s else s.connWr part c 0x40 (BitVec.ofNat 64 tail)
        let s := { s with out := s.out ++ (if n = 0 then [] else [Out.tcp part i bs]) ++ (if fin then [Out.fin part i] else []) }
        s.updPart part (fun p =>
          { p with conns := tset p.conns i { c with txtail := tail, txhead := tail, rxhead := head, finTx := c.finTx || fin } })

def execConnTxSend (part conn : Nat) (s : State) : Res := after (s.connTx part conn)

/-- CONN_RX_DELIVER: bytes that have come in, as far as the ring has room, then RXTAIL (R445). -/
def State.connRx (s : State) (part i : Nat) (bytes : List Byte) : State :=
  let s := s.connNotes.connOwed part i
  match tfind (s.part part).conns i with
  | none => s
  | some c =>
    if c.st ≠ 1 ∨ (s.connMap part c.blk (connSize c)).isNone then s
    else
      let head := fld (s.connRd part c 0xC0) 62 0
      if connBad c c.txtail head then s.connReset part i c kvEinval true
      else
        let bs := bytes.take (2 ^ c.rxl - (c.rxtail - head))
        let s := (lenum bs).foldl (fun s b =>
          match s.connAt part c (0x1000 + 2 ^ c.txl + (c.rxtail + b.1) % 2 ^ c.rxl) with
          | some a => s.wrN a 1 (b.2.zeroExtend 64)
          | none => s) s
        let s := s.connWr part c 0x100 (BitVec.ofNat 64 (c.rxtail + bs.length))
        s.updPart part (fun p => { p with conns := tset p.conns i { c with rxtail := c.rxtail + bs.length, rxhead := head } })

def execConnRxDeliver (part conn : Nat) (bytes : List Byte) (s : State) : Res := after (s.connRx part conn bytes)

/-- What the peer has sent is owed until the block can show it. -/
def State.connOwe (s : State) (part i n : Nat) (c : Conn) : State := s.updPart part (fun p => { p with conns := tset p.conns i { c with owed := n } })

/-- CONN_PEER_FIN (R446). -/
def execConnPeerFin (part conn : Nat) (s : State) : Res :=
  match tfind (s.part part).conns conn with
  | some c =>
    if c.st ≠ 1 ∨ c.owed ≠ 0 then .next s
    else if (s.connMap part c.blk (connSize c)).isNone then .next (s.connOwe part conn 1 c)
    else after (s.connFin part conn c)
  | none => .next s

/-- CONN_RESET: the peer's RST, or an error the service core finds in the program's counts (R446). -/
def execConnReset (part conn : Nat) (rst : Bool) (s : State) : Res :=
  let s := s.connNotes.connOwed part conn
  match tfind (s.part part).conns conn with
  | some c =>
    if c.st = 3 then .next s
    else if (s.connMap part c.blk (connSize c)).isNone then .next (if rst then s.connOwe part conn 2 c else s)
    else if rst then after (s.connReset part conn c kvEconnreset false)
    else
      let bad := connBad c (fld (s.connRd part c 0x80) 62 0) (fld (s.connRd part c 0xC0) 62 0)
      after (if bad then s.connReset part conn c kvEinval true else s)
  | none => .next s

/-- SCLOSE frees the id and the block (R446). -/
def execSclose (rid tile op : Nat) (s : State) : Res :=
  s.sysTake rid tile op 0x13 (fun s r a =>
    let i := (a.getD 0 0).toNat
    match tfind (s.part r.part).conns i with
    | none => s.sysAnswer rid tile op (kv kvEbadf)
    | some c =>
      let s := s.updPart r.part (fun p => { p with conns := tdel p.conns i })
      let s := if c.st = 3 ∨ c.finTx = true then s else { s with out := s.out ++ [Out.fin r.part i] }
      s.sysAnswer rid tile op 0)

end Sys2Proof.Machine
end

