-- ==== Sys2Proof/Machine/Complete.lean ====
section
/-! DEFINITION. LONG_OP_COMPLETE and TENSOR_COMPLETE (R22, R206): what each kind of long operation needs before it completes, and
its completion or its trap (R398). -/

namespace Sys2Proof.Machine

/-- Operations complete in a region that runs, is frozen, or is idle (R39, R401). -/
def opsRun (r : Region) : Bool := r.st == rRunning || r.st == rFrozen || r.st == rIdle

/-- The fc a unit fixed for the operation has come (R146). -/
def opDue (fc : Nat) (o : PendOp) : Bool := match o.due with | some d => decide (d ≤ fc) | none => true

/-- The trap of a memory operation that failed at its home or queue (R217, R240, R398, R400). -/
def memTrap (c : Nat) (a : Access) : TrapInfo :=
  if 0x10 ≤ c ∧ c ≤ 0x12 then { code := c, va := a.addr, aux := 64, capx := some a.capx }
  else { code := c, va := a.ea.toNat }

/-- Completion of a memory operation whose accesses have ended (R217, R220-R227, R235-R241). -/
def completeMem (fc : Nat) (r : Region) (key id : Nat) (o : PendOp) : Region :=
  if !accsDone r o then r
  else
    match accsFail r o with
    | some (c, a) => failOp fc r key id o (memTrap c a)
    | none =>
      if o.code = 0x83 then
        let v := vldResult r o
        completeV fc r key id o v (v.bits != 0)
      else if o.code = 0x84 then completeV fc r key id o {} false
      else
        let (v, c) := memResult r o
        completeS fc r key id o v c

/-- A long operation that steps SR waits for those of lower slots that are due with it (R59). -/
def slotFirst (fc : Nat) (r : Region) (key : Nat) (o : PendOp) : Bool :=
  (r.ct key).ops.all (fun x => !(x.2.due.isSome && opDue fc x.2 && decide (x.2.slot < o.slot) && tensorMay r key x.1 x.2))

/-- A region's part of LONG_OP_COMPLETE: every kind but wait entries and system calls. -/
def completeOp (s : State) (fc : Nat) (r : Region) (key id : Nat) (o : PendOp) : Region :=
  if !opDue fc o || (o.due.isSome && !slotFirst fc r key o) then r
  else
    match o.ph with
    | 0 => completeS fc r key id o o.res o.cond
    | 1 => completeFloat fc r key id o
    | 2 => completeVec fc r key id o
    | 4 => completeMem fc r key id o
    | 5 =>
      if !earlierDone r key id then r
      else if o.code = 0xD9 then completeFence r key id o
      else if o.code = 0xD5 ∨ o.code = 0xD7 then completeHnd fc r key id o
      else r
    | 6 => if o.code = 0xF0 ∧ r.st = rFrozen then r else completeS fc r key id o o.res o.cond
    | 8 => completeScstat fc r key id o
    | 9 => completeEq s fc r key id o
    | _ => r

/-- Completion of one operation of an active plane; a slot whose blocking operation ended waits no more (R29). -/
def State.completeHere (s : State) (rid key id : Nat) : State :=
  let r := s.region rid
  match r.op? key id with
  | none => s
  | some o =>
    if !opsRun r then s
    else
      let s' :=
        if o.code = 0xF0 ∧ o.ph = 5 then s.sysImmediate rid key id
        else if o.code = 0xF0 ∧ o.ph = phSvc then s.fileRetry rid key id
        else if o.code = 0xDA ∨ o.code = 0xDB ∨ o.code = 0xDC then (if accsDone r o then s.completeWait rid key id o else s)
        else onRegion s rid (fun r => completeOp s s.fc r key id o)
      if ((s'.region rid).op? key id).isNone then s'.endWait rid key o.slot else s'

/-- LONG_OP_COMPLETE acts in the plane that holds the operation (log 52). -/
def State.completeLong (s : State) (rid key id : Nat) : State := s.inPlane rid key id (fun s => s.completeHere rid key id)

def execLongOpComplete (rid tile op : Nat) (s : State) : Res := .next (s.completeLong rid tile op).wake

/-- TENSOR_COMPLETE: a tensor operation at its latency (R206). -/
def execTensorComplete (rid tile op : Nat) (s : State) : Res :=
  .next (s.inPlane rid tile op (fun s => onRegion s rid (fun r =>
    match r.op? tile op with
    | some o => if opsRun r && o.ph == 3 && opDue s.fc o && slotFirst s.fc r tile o then completeTensor s.fc r tile op o else r
    | none => r))).wake

end Sys2Proof.Machine
end

