-- ==== Sys2Proof/Machine/Units.lean ====
section
/-! DEFINITION. The units of memory tiles (R271-R278): FIFO, LINE, FRAME (R34, R465), GATH, SUU, COMP. Each event is one step of a
unit that runs. -/

namespace Sys2Proof.Machine

def modeW (p : Plane) : Word := p.mode.getD 0 0

/-! ## FIFO (R273): entries lie in the MT as channel entries of R418 (log 19) -/

def fifoVec (p : Plane) : Bool := bitOf (modeW p) 59
def fifoEntry (p : Plane) : Nat := if fifoVec p then 128 else 16
def fifoCap (p : Plane) : Nat := fld (modeW p) 39 21 / fifoEntry p
def fifoChan (p : Plane) : Nat := if fifoVec p then 8 else 0
def fifoCount (p : Plane) : Nat := (p.u.rtail - p.u.rhead).toNat
def fifoAt (p : Plane) (key : Nat) (i : Word) : Nat :=
  mtAddr key (fld (modeW p) 58 40 + i.toNat % Nat.max 1 (fifoCap p) * fifoEntry p)

/-- Words of a channel entry (R418). -/
def entryWords (vec : Bool) (t : Token) : List Word :=
  if vec then (List.range 8).map (vword t.pay) ++ [BitVec.ofNat 64 (t.pois.toNat + t.col.toNat * 2 ^ 8 + t.mark.toNat * 2 ^ 18), 0]
  else [vword t.pay 0, BitVec.ofNat 64 (t.mark.toNat + t.col.toNat * 4 + t.pois.toNat % 2 * 2 ^ 12)]

/-- The token of an entry's words. -/
def entryTok (vec : Bool) (ws : List Word) : Token :=
  if vec then
    let m := ws.getD 8 0
    { pay := (vofWords ((ws.take 8).map (fun w => { bits := w }))).bits, pois := BitVec.ofNat 8 (fld m 7 0),
      mark := BitVec.ofNat 2 (fld m 19 18), col := BitVec.ofNat 10 (fld m 17 8) }
  else
    let m := ws.getD 1 0
    { pay := (ws.getD 0 0).zeroExtend 512, pois := BitVec.ofNat 8 (fld m 12 12), mark := BitVec.ofNat 2 (fld m 1 0), col := BitVec.ofNat 10 (fld m 11 2) }

def mtWriteWords (r : Region) (a : Nat) (ws : List Word) : Region :=
  (lenum ws).foldl (fun r x => r.mtWrite (a + 8 * x.1) 8 { bits := x.2 }) r

/-- The FIFO takes the head of its input: at most one token an fc; a place given free in this fc is free from the next (R21, R273). -/
def fifoTake (key : Nat) (r : Region) : Region :=
  let p := r.pl key
  match r.head key (fifoChan p) with
  | none => r
  | some t =>
    if fifoCap p ≤ fifoCount p + (if r.usedU key uGive then 1 else 0) ∨ r.usedU key uTake = true then r
    else
      let r := mtWriteWords (r.popIn key (fifoChan p)) (fifoAt p key p.u.rtail) (entryWords (fifoVec p) t)
      (r.updU key (fun u => { u with rtail := u.rtail + 1 })).useU key uTake

/-- The FIFO gives its oldest entry, one an fc; an entry taken in this fc is there from the next (R21, R273). -/
def fifoGive (fc key : Nat) (r : Region) : Region :=
  let p := r.pl key
  if fifoCount p ≤ (if r.usedU key uTake then 1 else 0) ∨ r.usedU key uGive ∨ !r.outSpace key (fifoChan p) then r
  else
    let ws := (r.mtWords (fifoAt p key p.u.rhead) (fifoEntry p / 8)).map (fun v => v.bits)
    ((r.emit fc key [fifoChan p] (entryTok (fifoVec p) ws)).updU key (fun u => { u with rhead := u.rhead + 1 })).useU key uGive

def execFifoTake (rid tile : Nat) (s : State) : Res :=
  .next (onRegion s rid (fun r =>
    if (unitLive r tile || refilling r tile) && planeMode (r.pl tile) == 1 then fifoTake tile r else r))
def execFifoGive (rid tile : Nat) (s : State) : Res := unitEv s rid tile 1 (fun fc r => fifoGive fc tile r)

/-! ## LINE (R274) -/

def lineNl (p : Plane) : Nat := fld (modeW p) 59 56
def lineWd (p : Plane) : Nat := fld (modeW p) 36 24
def lineAt (p : Plane) (key row col : Nat) : Nat :=
  mtAddr key (fld (modeW p) 55 37 + (row % Nat.max 1 (lineNl p) * lineWd p + col) * 8)

def lineToken (fc key : Nat) (r : Region) : Region :=
  let p := r.pl key
  let outs := List.range (lineNl p)
  let room := outs.all (fun o => r.outSpace key o)
  match r.head key 0 with
  | none => r
  | some t =>
    if t.mark = mkC then r.popIn key 0
    else if t.mark = mkE then
      if room then ((r.popIn key 0).emit fc key outs t).updU key (fun u => { u with rows := 0, col := 0 }) else r
    else
      let row := p.u.rows
      let c := p.u.col
      let emits := decide (lineNl p ≤ row + 1)
      if emits && !room then r
      else
        let r := (r.popIn key 0).mtWrite (lineAt p key row c) 8 (tokVal t)
        let r := if emits then
            outs.foldl (fun r k => r.emit fc key [k] (tokS (r.mtRead (lineAt p key (row + 1 - lineNl p + k) c) 8) t.mark t.col)) r
          else r
        r.updU key (fun u => if c + 1 = lineWd p then { u with rows := row + 1, col := 0 } else { u with col := c + 1 })

def execLineToken (rid tile : Nat) (s : State) : Res := unitEv s rid tile 2 (fun fc r => lineToken fc tile r)

/-! ## FRAME (R34, R465) -/

/-- MT address of slot k of colour c's frame (R275). -/
def frameAddr (p : Plane) (key c k : Nat) : Nat := mtAddr key ((c * frameS p + k) * 8)

/-- The frames of colours 0 to N of every FRAME MT lie in the MT space (R275). -/
def framesFit (r : Region) (lim : Nat) : Bool :=
  r.tiles.all (fun t => [t.2.act, t.2.ins].all (fun p => planeMode p != 3 || decide ((r.coln + 1) * frameS p * 8 ≤ lim)))

/-- All operand bits of a colour are set. -/
def frameFull (r : Region) (key c : Nat) : Bool :=
  let p := r.pl key
  (List.range (frameN p)).all (fun j => r.pres.contains (frameAddr p key c j / 8))

/-- The complete frame of least colour that has not fired. -/
def frameReady (r : Region) (key : Nat) : Option Nat :=
  (List.range 1024).find? (fun c => (r.pl key).u.frDone.contains c || frameFull r key c)

/-- FRAME_STORE: a D or L token at the head of an operand input enters its colour's frame. -/
def frameStore (key inp : Nat) (r : Region) : Region :=
  let p := r.pl key
  match r.head key inp with
  | none => r
  | some t =>
    let c := t.col.toNat
    let a := frameAddr p key c inp
    if frameN p ≤ inp ∨ t.mark = mkE ∨ t.mark = mkC then r
    else
      let r := r.popIn key inp
      if mtLimit r < (c * frameS p + frameS p) * 8 then unitTrap r key { code := 0x13, elem := c, va := 2 ^ 63 + c * 2 ^ 32 + inp, aux := 8 }
      else if r.pres.contains (a / 8) && (tget r.cols {} c).st != .clearing then
        unitTrap r key { code := 0x20, elem := c, va := 2 ^ 63 + c * 2 ^ 32 + inp, aux := inp }
      else
        let r := { r.mtWrite a 8 (tokVal t) with pres := nset r.pres (a / 8) true }
        if frameFull r key c then r.updU key (fun u => { u with frDone := nset u.frDone c true }) else r

/-- An input of a FRAME node holds an E or software C token at its head. -/
def frameFwdAt (r : Region) (key j : Nat) : Bool :=
  match r.head key j with | some t => t.mark == mkE || t.mark == mkC | none => false

/-- THE CHOICE OF R465, made at the start of each fc in which no firing is in emission, whether or not the output has space: the complete
frame of least colour begins its firing; else the lowest input with an E or C token at its head may forward in this fc. -/
def frameChoose (key : Nat) (r : Region) : Region :=
  if (r.pl key).u.frBusy.isSome then r
  else
    match frameReady r key with
    | some c => r.updU key (fun u => { u with frBusy := some (c, 0), frDone := nset u.frDone c false })
    | none => r.updU key (fun u => { u with frFwd := (List.range (frameN (r.pl key))).find? (fun j => frameFwdAt r key j) })

/-- FRAME_FIRING: the next operand of the firing in emission, where the output has space (R34, R465). -/
def frameFiring (fc key : Nat) (r : Region) : Region :=
  let p := r.pl key
  match p.u.frBusy with
  | none => r
  | some (c, k) =>
    if frameN p ≤ k ∨ r.usedU key uEmit ∨ !r.outSpace key 0 then r
    else
      ((r.emit fc key [0] (tokS (r.mtRead (frameAddr p key c k) 8) (if k + 1 = frameN p then mkL else mkD) (BitVec.ofNat 10 c))).useU
        key uEmit).updU key (fun u => { u with frBusy := some (c, k + 1) })

/-- The end of the fc in which the last operand of a firing entered the output: the frame's operand bits are cleared (R34). -/
def frameEnd (key : Nat) (r : Region) : Region :=
  let p := r.pl key
  match p.u.frBusy with
  | none => r
  | some (c, k) =>
    if k < frameN p then r
    else
      { r with pres := (List.range (frameN p)).foldl (fun l j => nset l (frameAddr p key c j / 8) false) r.pres }.updU key
        (fun u => { u with frBusy := none })

/-- FRAME_FORWARD: the E or software C token chosen at the start of the fc passes to the output, where it has space (R465). -/
def frameForward (fc key : Nat) (r : Region) : Region :=
  match (r.pl key).u.frFwd with
  | none => r
  | some j =>
    if r.usedU key uEmit ∨ !r.outSpace key 0 ∨ !frameFwdAt r key j then r
    else
      match r.head key j with
      | some t => (((r.popIn key j).emit fc key [0] t).useU key uEmit).updU key (fun u => { u with frFwd := none })
      | none => r

def execFrameFiring (rid tile : Nat) (s : State) : Res := unitEv s rid tile 3 (fun fc r => frameFiring fc tile r)
def execFrameForward (rid tile : Nat) (s : State) : Res := unitEv s rid tile 3 (fun fc r => frameForward fc tile r)
def execFrameStore (rid tile inp : Nat) (s : State) : Res :=
  after (onRegion s rid (fun r => if unitLive r tile && planeMode (r.pl tile) == 3 then frameStore tile inp r else r))

/-! ## Tables of GATH and SUU MTs (R272, R276, R277) -/

def tblEsz (p : Plane) : Nat := 2 ^ fld (modeW p) 59 58

/-- Where element `idx` of a table lies, or its trap: space, address, capability, in the order of R75. DESIGN CHOICE (log 55): an element
address that leaves the offset field wraps in space 01, and is out of the MT's bounds in space 00. -/
def tblAddr (r : Region) (sl : Nat) (base : Word) (n : Nat) (idx : Word) (rights : List Nat) : Except TrapInfo (Nat × Nat × Nat) :=
  let step := idx * BitVec.ofNat 64 n
  if fld base 63 62 = 1 then
    let x := fld base 61 54
    let off := fld (base + step) 53 0
    if off % n ≠ 0 then .error { code := 0x15, va := (base + step).toNat, aux := n }
    else
      match capCheck r sl x off n rights with
      | .error t => .error t
      | .ok _ => .ok (1, capBase (capEntry r x) + off, x)
  else
    let v := (base + step).toNat
    if fld base 61 32 ≠ 0 then .error { code := 0x14, va := v, aux := n }
    else if v % n ≠ 0 then .error { code := 0x15, va := v, aux := n }
    else if 2 ^ 32 ≤ v ∨ !mtOk r v n then .error { code := 0x13, va := v, aux := n }
    else .ok (0, v, 0)

/-- The check of a table at the start of a run (R272): no hull. -/
def tblCheck (r : Region) (sl : Nat) (p : Plane) : Option TrapInfo :=
  let m := planeMode p
  let b := p.mode.getD 1 0
  if (m = 4 ∨ m = 5) ∧ fld b 63 62 = 1 then
    match capCheck r sl (fld b 61 54) (fld b 53 0) 0 (if m = 4 then [bR] else [bW, bA]) with
    | .error t => some t
    | .ok _ => none
  else none

/-- Issue one access of a unit under a tag; its number. -/
def issueUnit (r : Region) (key tag : Nat) (a : Nat × Nat × Nat) (op : MOp) : Region × Nat :=
  issue { own := .unit key tag, op := op, sp := a.1, addr := a.2.1, capx := a.2.2, seq := r.seq } r

def accIs (r : Region) (n : Nat) : Option AccSt := (tfind r.flight n).map (fun (a : Access) => a.st)
def accAns (r : Region) (n : Nat) : Val := ((tfind r.flight n).map (fun (a : Access) => a.ans)).getD {}
def dropNum (r : Region) (n : Nat) : Region := { r with flight := tdel r.flight n }
/-- A request taken. DESIGN CHOICE (log 55): its ordinal counts gathers, scatters and E tokens together, from 0 at the start of the run. -/
def addReq (key : Nat) (q : GReq) (r : Region) : Region :=
  r.updU key (fun u => { u with greqs := u.greqs ++ [q], reqOrd := u.reqOrd + 1 })

/-! ## GATH (R276) -/

/-- A scatter whose write has not been performed. -/
def scatOpen (r : Region) (q : GReq) : Bool := q.kind == 1 && accIs r q.acc != some .done

/-- A scatter can be taken now. -/
def scatCan (r : Region) (key : Nat) : Bool :=
  match r.head key 1 with
  | none => false
  | some t => t.mark == mkE || t.mark == mkC
    || ((r.head key 2).isSome && decide (((r.pl key).u.greqs.filter (scatOpen r)).length < 16))

/-- The head that arrived first is taken first; of two that arrived in one fc, the scatter (R276): which head of the two that is, as it
stands at the start of an fc. -/
def gathHeads (key : Nat) (r : Region) : Region :=
  let g := (r.head key 0).isSome
  let s := (r.head key 1).isSome
  r.updU key (fun u => { u with first := if g && s then (if u.first = 0 then 2 else u.first) else if g then 1 else if s then 2 else 0 })

/-- Once one head is taken, the other, if there is one, is the older. -/
def gathTook (key side : Nat) (r : Region) : Region :=
  r.updU key (fun u => { u with first := if side = 1 then (if (r.head key 1).isSome then 2 else 0) else if (r.head key 0).isSome then 1 else 0 })

/-- Two requests whose elements share a word of one space. -/
def sameElem (a b : GReq) : Bool := a.loc.1 == b.loc.1 && a.loc.2.1 / 8 == b.loc.2.1 / 8

/-- A taken gather waits for no scatter of its location taken before it, a scatter for no gather of its location that has not been issued:
the gather reads the value of the scatters before it and of no later one (R276). -/
def reqFree (r : Region) (key : Nat) (q : GReq) : Bool :=
  (r.pl key).u.greqs.all (fun x =>
    !(decide (x.ord < q.ord) && sameElem x q && (if q.kind = 1 then x.kind == 0 && x.acc == 0 else scatOpen r x)))

/-- Issue the access of a request that waits for no other. -/
def issueReq (key : Nat) (q : GReq) (r : Region) : Region :=
  let n := tblEsz (r.pl key)
  let (r, a) := issueUnit r key q.ord q.loc (if q.kind = 1 then .write n q.val else .read n)
  r.updU key (fun u => { u with greqs := u.greqs.map (fun x => if x.ord = q.ord then { x with acc := a } else x) })

/-- The first request of a kind that is taken, not issued, and waits for no other. -/
def reqDue (r : Region) (key kind : Nat) : Option GReq :=
  (r.pl key).u.greqs.find? (fun q => q.kind == kind && q.acc == 0 && reqFree r key q)

/-- GATH_MT_GATHER, with software C tokens discarded (DESIGN CHOICE, log 55): return the oldest gather, or read for one, or take one whose turn it is. -/
def gathStep (fc sl key : Nat) (r : Region) : Region :=
  let p := r.pl key
  let esz := tblEsz p
  let mine := p.u.greqs.filter (fun q => q.kind == 0 || q.kind == 2)
  let drop := fun (q : GReq) (r : Region) => r.updU key (fun u => { u with greqs := u.greqs.filter (fun x => x.ord != q.ord) })
  let front : Option Region :=
    match mine with
    | q :: _ =>
      if q.kind = 2 then (if r.outSpace key 0 then some (drop q (r.emit fc key [0] q.tok)) else none)
      else
        match accIs r q.acc with
        | some .done =>
          if r.outSpace key 0 then
            let v := accAns r q.acc
            let v := { v with bits := if bitOf (modeW p) 57 then sxTo (8 * esz) v.bits.toNat else lowBytes esz v.bits }
            some (drop q (dropNum (r.emit fc key [0] (tokS v q.tok.mark q.tok.col)) q.acc))
          else none
        | some (.failed c) => some (unitTrap (drop q (dropNum r q.acc)) key { code := c, elem := q.ord })
        | _ => none
    | [] => none
  match front with
  | some r' => r'
  | none =>
    match reqDue r key 0 with
    | some q => issueReq key q r
    | none =>
      match r.head key 0 with
      | none => r
      | some t =>
        if p.u.first ≠ 1 then r
        else
          let r := gathTook key 1 (r.popIn key 0)
          let ord := p.u.reqOrd
          if t.mark = mkC then r
          else if t.mark = mkE then addReq key { kind := 2, tok := t, ord := ord } r
          else
            let r' := r.updU key (fun u => { u with reqOrd := u.reqOrd + 1 })
            let v := tokVal t
            if v.pois then unitTrap r' key { code := 0x21, elem := ord }
            else
              match tblAddr r sl (p.mode.getD 1 0) esz v.bits [bR] with
              | .error e => unitTrap r' key { e with elem := ord }
              | .ok a => addReq key { kind := 0, idx := v.bits, tok := t, loc := a, ord := ord } r

/-- GATH_MT_SCATTER: write for a scatter taken, or take an index with its value, or an E token. -/
def scatStep (sl key : Nat) (r : Region) : Region :=
  let p := r.pl key
  let esz := tblEsz p
  let ord := p.u.reqOrd
  match reqDue r key 1 with
  | some q => issueReq key q r
  | none =>
  if p.u.first ≠ 2 ∨ !scatCan r key then r
  else
    match r.head key 1 with
    | none => r
    | some t =>
      let r1 := gathTook key 2 (r.popIn key 1)
      if t.mark = mkC then r1
      else if t.mark = mkE then addReq key { kind := 3, tok := t, ord := ord } r1
      else
        match r.head key 2 with
        | none => r
        | some w =>
          let r2 := r1.popIn key 2
          let r3 := r2.updU key (fun u => { u with reqOrd := u.reqOrd + 1 })
          let v := tokVal t
          if v.pois then unitTrap r3 key { code := 0x21, elem := ord, unit := 1 }
          else
            match tblAddr r sl (p.mode.getD 1 0) esz v.bits [bW] with
            | .error e => unitTrap r3 key { e with elem := ord, unit := 1 }
            | .ok a =>
              let q : GReq := { kind := 1, idx := v.bits, tok := t, loc := a, val := tokVal w, ord := ord }
              let r4 := addReq key q r2
              if reqFree r4 key q then issueReq key q r4 else r4

/-- GATH_MT_ORDERING_TOKEN: a performed scatter gives its token; an E token follows the scatters before it. -/
def scatToken (fc key : Nat) (r : Region) : Region :=
  let p := r.pl key
  let mine := p.u.greqs.filter (fun q => q.kind == 1 || q.kind == 3)
  let drop := fun (q : GReq) (r : Region) => r.updU key (fun u => { u with greqs := u.greqs.filter (fun x => x.ord != q.ord) })
  if !r.outSpace key 1 then r
  else
    match mine with
    | [] => r
    | q :: _ =>
      if q.kind = 3 then drop q (r.emit fc key [1] q.tok)
      else
        match (mine.takeWhile (fun x => x.kind == 1)).find? (fun x => accIs r x.acc == some .done) with
        | some x => drop x (dropNum (r.emit fc key [1] (tokS { bits := x.idx } mkD x.tok.col)) x.acc)
        | none => r

def execGathMtGather (rid tile : Nat) (s : State) : Res :=
  unitEv s rid tile 4 (fun fc r => gathStep fc (sealOf s r.part) tile r)
def execGathMtScatter (rid tile : Nat) (s : State) : Res :=
  unitEv s rid tile 4 (fun _ r => scatStep (sealOf s r.part) tile r)
def execGathMtOrderingToken (rid tile : Nat) (s : State) : Res := unitEv s rid tile 4 (fun fc r => scatToken fc tile r)

/-! ## SUU (R277): sel 0 retires or takes, 2k + 1 issues update k of the window, 2k + 2 merges it into an earlier one -/

def suuOp (p : Plane) : Nat := fld (modeW p) 57 55
def suuOrdered (p : Plane) : Bool := bitOf (modeW p) 54

/-- The event an update asks its home for. -/
def suuEvent (p : Plane) (q : SUpd) : MOp :=
  let n := tblEsz p
  match q.vals with
  | [] => .read n
  | v :: rest =>
    if suuOp p = 2 then .fsum n (q.vals)
    else .rmw (redFn (suuOp p)) n false { bits := rest.foldl (fun a w => rmwVal (redFn (suuOp p)) n a w.bits) (lowBytes n v.bits),
                                          pois := q.vals.any (fun w => w.pois) } {}

/-- Take a pair or an E token from the heads. -/
def suuTake (sl key : Nat) (r : Region) : Region :=
  let p := r.pl key
  let n := tblEsz p
  let ord := p.u.reqOrd
  let add := fun (q : SUpd) (r : Region) => r.updU key (fun u => { u with sreqs := u.sreqs ++ [q], reqOrd := u.reqOrd + 1 })
  match r.head key 0 with
  | none => r
  | some t =>
    if t.mark = mkC then r.popIn key 0
    else if t.mark = mkE then add { ends := some t, ord := ord } (r.popIn key 0)
    else
      match r.head key 1 with
      | none => r
      | some w =>
        if 32 ≤ (p.u.sreqs.filter (fun q => q.ends.isNone)).length then r
        else
          let r := (r.popIn key 0).popIn key 1
          let r' := r.updU key (fun u => { u with reqOrd := u.reqOrd + 1 })
          let v := tokVal t
          if v.pois then unitTrap r' key { code := 0x21, elem := ord }
          else
            match tblAddr r sl (p.mode.getD 1 0) n v.bits [bW, bA] with
            | .error e => unitTrap r' key { e with elem := ord }
            | .ok a => add { addr := a.2.1, vals := [tokVal w], ord := ord } r

/-- Retire a performed update, or pass an E token that nothing precedes. -/
def suuRetire (fc key : Nat) (r : Region) : Option Region :=
  let p := r.pl key
  let del := fun (o : Nat) (r : Region) => r.updU key (fun u => { u with sreqs := u.sreqs.filter (fun x => x.ord != o) })
  match p.u.sreqs.findSome? (fun q =>
    match accIs r q.acc with
    | some .done => some (dropNum (del q.ord r) q.acc)
    | some (.failed c) => some (unitTrap (dropNum (del q.ord r) q.acc) key { code := c, elem := q.ord })
    | _ => none) with
  | some r' => some r'
  | none =>
    match p.u.sreqs with
    | q :: _ =>
      (match q.ends with
       | some t => if r.outSpace key 0 then some (del q.ord (r.emit fc key [0] t)) else none
       | none => none)
    | [] => none

/-- Issue update k of the window. -/
def suuIssue (key k : Nat) (r : Region) : Region :=
  let p := r.pl key
  match p.u.sreqs[k]? with
  | none => r
  | some q =>
    if q.acc ≠ 0 ∨ q.ends.isSome ∨ (suuOrdered p && (p.u.sreqs.take k).any (fun x => x.ends.isNone && x.acc == 0)) = true then r
    else
      let b := p.mode.getD 1 0
      let a := if fld b 63 62 = 1 then (1, q.addr, fld b 61 54) else (0, q.addr, 0)
      let (r, n) := issueUnit r key q.ord a (suuEvent p q)
      r.updU key (fun u => { u with sreqs := u.sreqs.map (fun x => if x.ord = q.ord then { x with acc := n } else x) })

/-- Merge update k into the last earlier one of its location that has not been issued: under ORDERED, only its neighbour. -/
def suuMerge (key k : Nat) (r : Region) : Region :=
  let p := r.pl key
  match p.u.sreqs[k]? with
  | none => r
  | some q =>
    let cand := ((lenum (p.u.sreqs.take k)).filter (fun x => x.2.acc == 0 && x.2.ends.isNone && x.2.addr == q.addr)).getLast?
    match cand with
    | none => r
    | some (j, x) =>
      if q.acc ≠ 0 ∨ q.ends.isSome ∨ (suuOrdered p && j + 1 != k) = true then r
      else
        r.updU key (fun u => { u with sreqs := (u.sreqs.filter (fun y => y.ord != q.ord)).map (fun y =>
          if y.ord = x.ord then { y with vals := y.vals ++ q.vals } else y) })

def suuStep (fc sl key sel : Nat) (r : Region) : Region :=
  if sel = 0 then (match suuRetire fc key r with | some r' => r' | none => suuTake sl key r)
  else if sel % 2 = 1 then suuIssue key (sel / 2) r
  else suuMerge key (sel / 2 - 1) r

def execSuuUpdate (rid tile sel : Nat) (s : State) : Res :=
  unitEv s rid tile 5 (fun fc r => suuStep fc (sealOf s r.part) tile sel r)

/-! ## COMP (R278) -/

def compEsz (p : Plane) : Nat := 2 ^ fld (modeW p) 59 58
def compBase (p : Plane) : Nat := fld (modeW p) 57 39

/-- The bytes of an element, each with the poison of the word it is taken from. -/
def compElem (esz : Nat) (e : Nat × Bool) : List (Byte × Bool) :=
  (List.range esz).map (fun b => (BitVec.ofNat 8 (e.1 / 2 ^ (8 * b)), e.2))

/-- A byte of a record that is taken from no element. -/
def compPlain (l : List Byte) : List (Byte × Bool) := l.map (fun b => (b, false))

/-- Bytes of row i's compact data: the column bitmap, then the non-zero elements. -/
def compRow (esz : Nat) (row : List (Nat × Bool)) : List (Byte × Bool) :=
  let nz := (lenum row).filter (fun x => x.2.1 != 0)
  let bm := nz.foldl (fun a x => a + 2 ^ x.1) 0
  compPlain [BitVec.ofNat 8 bm, BitVec.ofNat 8 (bm / 256)] ++ (nz.map (fun x => compElem esz x.2)).flatten

/-- The record of a tile given as its 256 elements in row-major order, each with its poison (R278). -/
def compRecord (code bud : Nat) (es : List (Nat × Bool)) : List (Byte × Bool) :=
  let esz := 2 ^ code
  let rows := (List.range 16).map (fun i => compRow esz ((es.drop (16 * i)).take 16))
  let offs := (List.range 16).map (fun i => ((rows.take i).map (·.length)).foldl (· + ·) 0)
  let nnz := (es.filter (fun e => e.1 != 0)).length
  let len := (8 + 16 + (rows.map (·.length)).foldl (· + ·) 0 + 7) / 8 * 8
  let hdr := fun (esc len n : Nat) => compPlain (wordBytes (BitVec.ofNat 64 (esc * 2 ^ 63 + code * 2 ^ 56 + len * 2 ^ 40 + n)))
  if nnz = 256 ∨ offs.any (fun o => decide (255 < o)) = true ∨ bud * 8 < len then
    hdr 1 (8 + 256 * esz) 0 ++ (es.map (compElem esz)).flatten
  else
    let body := hdr 0 len nnz ++ compPlain (offs.map (BitVec.ofNat 8)) ++ rows.flatten
    body ++ List.replicate (len - body.length) (0, false)

/-- Token i of the record of the staged tile, and whether it is the last. A word is poisoned when a byte of it is taken from a poisoned
word of the staged tile (R253); a header, an offset or a bitmap takes none. -/
def compToken (r : Region) (key i : Nat) : VVal × Bool :=
  let p := r.pl key
  let esz := compEsz p
  let a := mtAddr key (compBase p)
  let es := (List.range 256).map (fun k => (rdNat r.mt (a + k * esz) esz, r.pois.contains ((a + k * esz) / 8)))
  let rec' := compRecord (fld (modeW p) 59 58) (fld (modeW p) 38 30) es
  let bs := (rec'.drop (64 * i)).take 64
  let bits := bs.foldr (fun b acc => b.1.toNat + 256 * acc) 0
  let pois := (List.range 8).foldl (fun acc w => acc + (if ((bs.drop (8 * w)).take 8).any (fun b => b.2) then 2 ^ w else 0)) 0
  ({ bits := BitVec.ofNat 512 bits, pois := BitVec.ofNat 8 pois }, decide (rec'.length ≤ 64 * (i + 1)))

/-- COMP_TILE_RECORD: the next token of a record, or a token taken; the colour of a record's tokens is free (log 20). -/
def compStep (fc key : Nat) (col : BitVec 10) (r : Region) : Region :=
  let p := r.pl key
  let total := 4 * compEsz p
  let a := mtAddr key (compBase p)
  if p.u.rows = total then
    if r.usedU key uTake ∨ r.usedU key uEmit ∨ !r.outSpace key 8 then r
    else
      let (v, last) := compToken r key p.u.outIx
      let r := (r.emit fc key [8] (tokV v (if last then mkL else mkD) col)).useU key uEmit
      r.updU key (fun u => if last then { u with rows := 0, outIx := 0 } else { u with outIx := u.outIx + 1 })
  else
    match r.head key 8 with
    | none => r
    | some t =>
      if t.mark = mkC then r.popIn key 8
      else if t.mark = mkE then
        if p.u.rows = 0 then (if r.outSpace key 8 then (r.popIn key 8).emit fc key [8] t else r)
        else
          ((mtWriteWords r (a + 64 * p.u.rows) (List.replicate (8 * (total - p.u.rows)) 0)).useU key uTake).updU key (fun u => { u with rows := total })
      else
        let v := tokVVal t
        let r := (List.range 8).foldl (fun r k => r.mtWrite (a + 64 * p.u.rows + 8 * k) 8 { bits := vword v.bits k, pois := v.pois.getLsbD k })
          (r.popIn key 8)
        (r.useU key uTake).updU key (fun u => { u with rows := u.rows + 1 })

def execCompTileRecord (rid tile : Nat) (s : State) : Res :=
  let (s, w) := s.freeW
  unitEv s rid tile 6 (fun fc r => compStep fc tile (w.truncate 10) r)

end Sys2Proof.Machine
end

