-- ==== Sys2Proof/Machine/Wait.lean ====
section
/-! DEFINITION. Waits (R29, R231, R297, R361, R368, R369): the one cause that holds a slot or a box back, its count of fc, its
registration after 32 fc, and its end. -/

namespace Sys2Proof.Machine

/-! ## Causes -/

/-- Tile and output of an EXQ or EXC tile that feeds an input (R297). -/
def exqFeed (r : Region) (key inp : Nat) : Option (Nat × Nat) :=
  r.tiles.findSome? (fun t =>
    if planeMode t.2.act = 7 ∨ planeMode t.2.act = 8 then
      (t.2.act.routes.find? (fun o => (outDests t.2.act o.1).any (fun d => d.1 == key && d.2.1 == inp))).map (fun o => (t.1, o.1))
    else none)

/-- Channels a slot reads, in its sources or its trigger. -/
def slotChans (op : Nat) (t : Ti) : List Nat :=
  ([aChan op t, bChan op t].filterMap (fun x => x.map (·.1))
    ++ (if t.cc.en = 1 then [condChan op t.cc] else []) ++ (if t.cd.en = 1 then [condChan op t.cd] else [])).eraseDups

/-- The slot's word with the conditions on some channels waived. -/
def waiveConds (op : Nat) (t : Ti) (l : List Nat) : Ti :=
  { t with cc := if l.contains (condChan op t.cc) then { t.cc with en := 0 } else t.cc,
           cd := if l.contains (condChan op t.cd) then { t.cd with en := 0 } else t.cd }

/-- A region in which the named channels of a tile hold a token. -/
def withTokens (r : Region) (key : Nat) (l : List Nat) : Region :=
  l.foldl (fun r c => r.updIn key c (fun ch => { ch with buf := {} :: ch.buf })) r

/-- A region in which the named send bindings of a tile have credit. -/
def withCredit (r : Region) (key : Nat) (l : List Nat) : Region :=
  r.updPl key (fun p => { p with credit := l.foldl (fun t o => tset t o 1000000) p.credit })

/-- What holds a slot or a box back: its kind (R231), what tells it from another cause, its object, where that is known, and whether it
is a pending operation. -/
structure Cause where
  kind : Nat
  tag  : Word
  obj  : Option Word
  op   : Bool := false
deriving DecidableEq, Repr

/-- The ends of fc at which a cause has stood when its wait is registered: a blocking operation that fires in fc t is registered from fc
t + 32 on (R231, the example of R237), and a slot or box first held back in fc t as well (R29, the example of R168), whose cause is seen
at the end of fc t - 1. -/
def Cause.due (c : Cause) : Nat := if c.op then Config.holdFc else Config.holdFc + 1

def causeOf (kind : Nat) (obj : Word) : Cause := { kind := kind, tag := obj, obj := some obj }

/-- The object of a binding's wait: its link and the row of its edge stream port (R360, log 31). -/
def weltObj (s : State) (r : Region) (key item : Nat) (w : Word) : Word :=
  let c := tget r.wctx (s.routeAny r.part (fld w 63 45), 0) (key * 32 + item)
  objWelt c.1 (c.2 / 8) (decide (item < 16))

/-- The wait of a pending blocking operation, from its firing on, or of an EQPUSH at its tile while the ring refill runs (R231, R297). -/
def opCause (s : State) (r : Region) (id : Nat) (o : PendOp) : Option Cause :=
  match opAccs r o with
  | a :: _ =>
    let key := a.addr / 8 / 16
    if o.code = 0xE0 then
      (if a.st = .waiting ∧ (r.pl key).u.ring.isEmpty = false then some { causeOf 7 (objExq r.rid key 0) with op := true } else none)
    else if blocks o.code o.ti = true then some { kind := blockKind o.code, tag := BitVec.ofNat 64 id, obj := s.objOf r a, op := true }
    else none
  | [] => none

/-- The first requirement on a handle that does not hold; a claim that only lost its arbitration waits on no state of the handle (R29, R87). -/
def handleCause (r : Region) (key op : Nat) (t : Ti) : Option Word :=
  (hreqsOf r key op t).findSome? (fun q =>
    if hreqMet r .assumed q then none
    else match q with
      | .is k h _ => some (objHandle r.rid k h)
      | .claim k h _ _ => some (objHandle r.rid k h)
      | .never => none)

/-- The single cause that holds back a slot (R29, R231, R297, R361). A tile with a marker is held back by the drain, but for its pending
operations (R410). -/
def holdCause (s : State) (r : Region) (key slot : Nat) : Option Cause :=
  match (r.ct key).ops.findSome? (fun o => if o.2.slot = slot then opCause s r o.1 o.2 else none) with
  | some c => some c
  | none =>
    match slotTi r key slot with
    | none => none
    | some (op, t) =>
      if (r.tile key).mark then none else
      let empty := (slotChans op t).filter (fun c => (r.head key c).isNone)
      let t' := waiveConds op t empty
      let r' := withTokens r key empty
      match empty with
      | c :: _ =>
        if triggered r' key op t' && needsMet .assumed .real r' key slot op t then
          (if empty.all (fun c => (exqFeed r key c).isSome) then
            (exqFeed r key c).map (fun f => causeOf 7 (objExq r.rid f.1 f.2))
          else if empty.all (fun c => (weltOf (r.pl key) (16 + c)).isSome) then
            (weltOf (r.pl key) (16 + c)).map (fun w => causeOf 8 (weltObj s r key (16 + c) w))
          else none)
        else none
      | [] =>
        if !triggered r key op t || needsMet .assumed .real r key slot op t then none
        else if needsMet .waived .real r key slot op t then (handleCause r key op t).map (causeOf 2)
        else if r.pool.isEmpty && needsMet .assumed .waived r key slot op t then some (causeOf 6 (objPool r.rid))
        else
          let dry := (outsOf op t).filter (fun o => (weltOf (r.pl key) o).isSome && !r.outSpace key o)
          match dry with
          | o :: _ =>
            if needsMet .assumed .real (withCredit r key dry) key slot op t then
              (weltOf (r.pl key) o).map (fun w => causeOf 8 (weltObj s r key o w))
            else none
          | [] => none

/-- The cause that holds back the next box of a handle stream at an endpoint (R257). -/
def boxCause (r : Region) (key item : Nat) : Option Cause :=
  r.strms.findSome? (fun x =>
    let z := x.2
    if z.tile = key ∧ z.item = item ∧ strmLive r x.1 = true ∧ z.st = 1 ∧ dChan z.desc = false ∧ z.box.isNone = true ∧ z.stop = false
        ∧ z.done.length < dBoxes z.desc ∧ !(dPerm z.desc && decide (0 < z.done.length) && (r.head key (dPin z.desc)).isNone) then
      ((mcTiles r key z.desc).find? (fun k => !portMay r k (dEndp z.desc % 8) (!dWrite z.desc))).map
        (fun k => causeOf 2 (objHandle r.rid k (dEndp z.desc % 8)))
    else none)

/-- The cause at a place of the region: a slot of a CT, or an ITEM of an MT. -/
def causeAt (s : State) (r : Region) (key slot : Nat) : Option Cause :=
  if keyIsCt key then holdCause s r key slot else boxCause r key slot

/-! ## When a wait stands (R29, R42, R231, R297, R361) -/

/-- A slot's trigger holds, the conditions on empty channels it reads waived (R297, R361). -/
def trigFed (r : Region) (key slot : Nat) : Bool :=
  match slotTi r key slot with
  | none => false
  | some (op, t) =>
    let empty := (slotChans op t).filter (fun c => (r.head key c).isNone)
    triggered (withTokens r key empty) key op (waiveConds op t empty)

def trigNow (r : Region) (key slot : Nat) : Bool :=
  match slotTi r key slot with | none => false | some (op, t) => triggered r key op t

/-- Channels and outputs whose object a wait of kind EXQ or WELT names, of those a slot uses, that are still empty or without credit. -/
def dryFor (s : State) (r : Region) (key slot : Nat) (obj : Word) : Bool :=
  match slotTi r key slot with
  | none => false
  | some (op, t) =>
    (slotChans op t).any (fun c => (r.head key c).isNone &&
        (((exqFeed r key c).map (fun f => objExq r.rid f.1 f.2)) == some obj
          || ((weltOf (r.pl key) (16 + c)).map (fun w => weltObj s r key (16 + c) w)) == some obj))
      || (outsOf op t).any (fun o => !r.outSpace key o && ((weltOf (r.pl key) o).map (fun w => weltObj s r key o w)) == some obj)

/-- A registered wait of a slot goes on: while its blocking operation is pending; while its trigger holds, until the slot fires; of a
channel or a credit, until the token or the credit comes. A box's goes on until the box starts. -/
def waitStands (s : State) (r : Region) (key slot kind : Nat) (obj : Word) : Bool :=
  if keyIsCt key then
    match kind with
    | 2 => trigNow r key slot
    | 6 => trigNow r key slot
    | 7 => (opsList (r.ct key)).any (fun o => o.slot == slot && o.code == 0xE0) || (trigFed r key slot && dryFor s r key slot obj)
    | 8 => trigFed r key slot && dryFor s r key slot obj
    | _ => (opsList (r.ct key)).any (fun o => o.slot == slot && blocks o.code o.ti && blockKind o.code == kind)
  else
    r.strms.any (fun x => x.2.tile == key && x.2.item == slot && x.2.st == 1 && !dChan x.2.desc && x.2.box.isNone && !x.2.stop
      && decide (x.2.done.length < dBoxes x.2.desc))

/-- The untracked wait of a slot goes on (R368). -/
def untrStands (r : Region) (key slot : Nat) : Bool :=
  trigFed r key slot || (opsList (r.ct key)).any (fun o => o.slot == slot && (blocks o.code o.ti || o.code == 0xE0))

/-- The waits of a slot that have ended leave the table. -/
def State.endStale (s : State) (rid key slot : Nat) : State :=
  let r := s.region rid
  let gone := fun (e : Wfe) => slotEntry rid key slot e && !waitStands s r key slot e.kind e.obj
  let s := if s.entries.any gone then s.dropEntries gone else s
  if (r.ct key).untr.contains slot && keyIsCt key && !untrStands r key slot then s.endUntracked rid key slot none else s

/-- A token came into a channel, or a credit to an output: the waits for it end, whatever the region's state (R297, R361). -/
def State.fed (s : State) (rid key : Nat) (obj : Option Word) (uses : Nat → Ti → Bool) : State :=
  let r := s.region rid
  let hit := fun (e : Wfe) => e.rid == rid && keyOf e.page e.pos == key && !e.exp && (e.kind == 7 || e.kind == 8) && some e.obj == obj
    && (match slotTi r key e.slot with | some (op, t) => uses op t | none => false)
  if s.entries.any hit then s.dropEntries hit else s

def State.fedIn (s : State) (rid key inp : Nat) : State :=
  let r := s.region rid
  let uses := fun (op : Nat) (t : Ti) => (slotChans op t).contains inp
  (s.fed rid key ((exqFeed r key inp).map (fun f => objExq r.rid f.1 f.2)) uses).fed rid key
    ((weltOf (r.pl key) (16 + inp)).map (fun w => weltObj s r key (16 + inp) w)) uses

def State.fedOut (s : State) (rid key out : Nat) : State :=
  let r := s.region rid
  s.fed rid key ((weltOf (r.pl key) out).map (fun w => weltObj s r key out w)) (fun op t => (outsOf op t).contains out)

/-- The wait of a slot that fired in this fc ends (R29). -/
def State.firedWaits (s : State) (rid : Nat) : State :=
  ((s.region rid).tiles.filterMap (fun t => t.2.act.ct.firedN.map (fun n => (t.1, n)))).foldl (fun s x =>
    onRegion (s.endWait rid x.1 x.2) rid (fun r => r.updCt x.1 (fun c => { c with firedN := none }))) s

/-! ## Registration -/

/-- The mark of a slot whose registration was refused under TRAP: it is tried again 32 fc after the region resumes (R369). -/
abbrev holdOver : Nat := 255

def setHold (rid key slot : Nat) (h : Nat × Word × Nat) (s : State) : State :=
  onRegion s rid (fun r => r.updCt key (fun c => { c with hold := tset c.hold slot h }))

/-- Register the wait of a slot held back for 32 fc, unless it is registered (R29). One that finds no place is tried again once its cause
has held for 32 fc more and a place is free (R368); overflow under TRAP freezes (R369). -/
def State.waitRegister (s : State) (rid key slot : Nat) : State :=
  let r := s.region rid
  match tfind (r.ct key).hold slot, causeAt s r key slot with
  | some (kind, tag, n), some c =>
    match c.obj with
    | none => s
    | some obj =>
      if kind ≠ c.kind ∨ tag ≠ c.tag ∨ n < c.due
          ∨ s.entries.any (fun e => slotEntry rid key slot e && e.kind == c.kind && e.obj == obj) = true then s
      else
        match s.register rid key slot c.kind obj false with
        | (s, 2) =>
          setHold rid key slot (holdOver, 0, 0)
            (onRegion s rid (fun r => r.raise { code := 0x29, src := 4, key := key, elem := c.kind, aux := obj.toNat }))
        | (s, 0) => if hasUntracked (r.ct key) slot then s else setHold rid key slot (kind, tag, 0) s
        | (s, _) => s
  | _, _ => s

def execWaitRegister (rid tile slot : Nat) (s : State) : Res := .next (s.waitRegister rid tile slot)

/-- The end of an fc at one place: waits that ended leave the table; the count of the cause goes on, starts again, or ends. -/
def State.holdStep (s : State) (rid key slot : Nat) : State :=
  let s := s.endStale rid key slot
  let r := s.region rid
  let old := tfind (r.ct key).hold slot
  if (old.map (fun h => h.1)) = some holdOver then s
  else
    match causeAt s r key slot with
    | some c =>
      let n := match old with | some (k, t, n) => if k = c.kind ∧ t = c.tag then n + 1 else 1 | none => 1
      (setHold rid key slot (c.kind, c.tag, n) s).waitRegister rid key slot
    | none => if old.isSome then onRegion s rid (fun r => r.updCt key (fun c => { c with hold := tdel c.hold slot })) else s

/-- A wait of WREG that found no place is tried again once it has waited 32 fc more and a place is free (R368). -/
def State.wregStep (s : State) (rid key slot : Nat) : State :=
  match tfind ((s.region rid).ct key).untx slot with
  | none => s
  | some (kind, obj, n) =>
    let s := onRegion s rid (fun r => r.updCt key (fun c => { c with untx := tset c.untx slot (kind, obj, n + 1) }))
    if n + 1 < Config.holdFc then s else (s.register rid key slot kind obj true).1

/-- Places of a region at which a wait can stand. -/
def holdPlaces (r : Region) : List (Nat × Nat) :=
  (r.tiles.map (fun t =>
    if keyIsCt t.1 then (t.2.act.ct.slots.map (fun x => (t.1, x.1)))
    else (r.strms.filterMap (fun x => if x.2.tile = t.1 ∧ x.2.st = 1 then some (t.1, x.2.item) else none)).eraseDups)).flatten

/-- The waits of a running region at the end of an fc. -/
def State.holdTick (s : State) (rid : Nat) : State :=
  let r := s.region rid
  if r.st = rRunning ∧ r.res = true ∧ r.parked = false then
    let s := (holdPlaces r).foldl (fun s x => s.holdStep rid x.1 x.2) s
    (r.tiles.map (fun t => t.2.act.ct.untx.map (fun x => (t.1, x.1)))).flatten.foldl (fun s x => s.wregStep rid x.1 x.2) s
  else s

end Sys2Proof.Machine
end

