-- ==== Sys2Proof/Machine/Fabric.lean ====
section
/-! DEFINITION. Tokens and pulses that arrive (R14, R27, R126, R136), colours (R35, R168), SWAP (R405-R407), and runs: their start,
completion and replay (R38-R40). -/

namespace Sys2Proof.Machine

/-! ## Arrivals -/

/-- TOKEN_ARRIVAL: the first token on the way to an input enters its buffer once its delay is over and a place is free. A PMARK at
a marked tile is not placed (R411). -/
def tokenArrive (fc key inp : Nat) (r : Region) : Region :=
  let c := r.chan key inp
  match c.wire with
  | (n, tok) :: rest =>
    if fc < n ∨ chanCap (r.tile key) inp ≤ c.buf.length + c.popped ∨ ((r.tile key).mark && tokIsPmark tok) = true then r
    else r.updIn key inp (fun c => { c with wire := rest, buf := c.buf ++ [tok], came := c.came + 1 })
  | [] => r

/-- An arrival of a region, after which the waits for the channel's token end where one has come (R297, R361). -/
def arriveAt (rid tile inp : Nat) (f : Region → Region) (s : State) : State :=
  let n := ((s.region rid).chan tile inp).buf.length
  let s := onRegion s rid f
  if n < ((s.region rid).chan tile inp).buf.length then s.fedIn rid tile inp else s

def execTokenArrival (rid tile inp : Nat) (s : State) : Res := .next (arriveAt rid tile inp (tokenArrive s.fc tile inp) s)

/-- WELT_TOKEN_ARRIVAL: a token from the peer enters the place its credit reserved, also while the region is frozen, parked or holds the
binding in its other plane, behind a PMARK that a drain has put there (R136, R409). -/
def weltArrive (fc key inp : Nat) (tok : Token) (r : Region) : Region :=
  let c := r.chan key inp
  let t := r.tile key
  if ((weltOf t.act (16 + inp)).isNone ∧ (weltOf t.ins (16 + inp)).isNone) ∨ tokHw tok = true ∨ chanCap t inp ≤ c.buf.length + c.popped then r
  else
    (r.setTile key { t with given := tmap t.given (fun k g => if k = inp then (g.1, g.2.1, g.2.2 - 1) else g) }).updIn key inp (fun c =>
      if c.wire.isEmpty then { c with buf := c.buf ++ [tok], came := c.came + 1 } else { c with wire := c.wire ++ [(fc, tok)] })

def execWeltTokenArrival (rid tile inp : Nat) (tok : Token) (s : State) : Res := .next (arriveAt rid tile inp (weltArrive s.fc tile inp tok) s)

/-- WELT_CREDIT: the peer has freed a place for a send binding, or its region has stopped and it withdraws what it gave: the event then names
the output plus 32 (R136, log 31). -/
def weltCredit (key out : Nat) (r : Region) : Region :=
  if (weltOf (r.pl key) (out % 32)).isNone then r
  else r.updPl key (fun p => { p with credit := tset p.credit (out % 32) (if 32 ≤ out then 0 else tget p.credit 0 out + 1) })

def execWeltCredit (rid tile out : Nat) (s : State) : Res :=
  let s := onRegion s rid (fun r => (weltCredit tile out r).drainOut s.fc tile)
  .next (if 32 ≤ out then s else s.fedOut rid tile out)

/-- CONTROL_PULSE: a pulse on the control network reaches its input (R27, R129). -/
def execControlPulse (rid tile ci : Nat) (s : State) : Res :=
  .next (onRegion s rid (fun r => if (r.tile tile).swBusy.isNone then r.pulseArrive tile ci else r))

/-- The credits a tile's receive bindings should have given: one for each place that neither the buffer nor a token behind a PMARK takes,
while the region is resident and neither frozen nor parked, else none (R136). -/
def weltDue (live : Bool) (t : Tile) : Tab (Nat × Nat × Nat) :=
  if live then
    t.act.welt.filterMap (fun x =>
      let inp := x.1 - 16
      if 16 ≤ x.1 then
        let c := tget t.act.inp {} inp
        some (inp, fld x.2 63 45, fld x.2 44 37, chanCap { t with mark := false } inp - (c.buf.length + (c.wire.filter (fun w => !tokIsPmark w.2)).length))
      else none)
  else []

/-- Credits of a binding that its peer holds. -/
def weltHeld (given : Tab (Nat × Nat × Nat)) (d : Nat × Nat × Nat × Nat) : Nat :=
  match tfind given d.1 with | some g => if g.1 = d.2.1 ∧ g.2.1 = d.2.2.1 then g.2.2 else 0 | none => 0

/-- The messages that bring the credits given to those due, binding by binding: one more for each free place, or their withdrawal. -/
def weltMsgs (given due : Tab (Nat × Nat × Nat)) : List (Nat × Nat × WeltMsg) :=
  let gone := given.filter (fun g => decide (0 < g.2.2.2) && !due.any (fun d => d.1 == g.1 && d.2.1 == g.2.1 && d.2.2.1 == g.2.2.1))
  gone.map (fun g => (g.2.1, g.2.2.1, .stop)) ++
    (due.map (fun d => List.replicate (d.2.2.2 - weltHeld given d) (d.2.1, d.2.2.1, WeltMsg.credit))).flatten

def weltLive (r : Region) : Bool := r.res && !r.parked && (r.st == rReady || r.st == rRunning || r.st == rIdle)

/-- What a region's receive bindings have given follows what they should give (R136); a credit given stands until its token comes or it is
withdrawn. -/
def weltGive (r : Region) : Region :=
  let due := fun (t : Tile) => weltDue (weltLive r) t
  { r with tx := r.tx ++ (r.tiles.map (fun t => weltMsgs t.2.given (due t.2))).flatten,
           tiles := tmap r.tiles (fun _ t =>
             { t with given := (due t).map (fun d => (d.1, d.2.1, d.2.2.1, Nat.max d.2.2.2 (weltHeld t.given d))) }) }

/-! ## Colours (R35, R168) -/

/-- The presence bits of a colour's frame at a tile's plane in FRAME mode are clear, locals included (R168). -/
def clearFrame (c key : Nat) (p : Plane) (pres : List Nat) : List Nat :=
  if planeMode p = 3 then (List.range (frameS p)).foldl (fun l k => nset l (frameAddr p key c k / 8) false) pres else pres

/-- The presence bits of a colour's frame at every FRAME MT of the Last, of both planes, are clear (R35). -/
def clearFrames (c : Nat) (r : Region) : Region :=
  let done := fun (p : Plane) => { p with u := { p.u with frDone := nset p.u.frDone c false } }
  { r with
    pres := r.tiles.foldl (fun l t => clearFrame c t.1 t.2.ins (clearFrame c t.1 t.2.act l)) r.pres,
    tiles := tmap r.tiles (fun _ t => { t with act := done t.act, ins := done t.ins }) }

/-- COLOUR_CLEAR_DONE: a colour in CLEARING becomes FREE at the tail of the pool. DESIGN CHOICE (log 50): all MTs clear their frames
of the colour in this one event; R168 leaves the fc of each MT open, so a token kept between the clear of one MT and that of the last
is not shown. -/
def colourClearDone (c : Nat) (r : Region) : Region :=
  if (tget r.cols {} c).st = .clearing then
    let r := clearFrames c r
    { r with cols := tdel r.cols c, pool := r.pool ++ [c] }
  else r

def execColourClearDone (rid col : Nat) (s : State) : Res := after (onRegion s rid (colourClearDone col))

/-! ## The checks of a unit (R252, R272, R291) -/

/-- The check of a tile's table or ring, made as R252 gives (R272, R291). -/
def runCheck (r : Region) (sl key : Nat) : Option TrapInfo :=
  let p := r.pl key
  match tblCheck r sl p with
  | some t => some t
  | none =>
    if planeMode p = 7 ∧ exqSpe p = true then
      (match hullCheck r sl (exqWord p 1) 0 ((exqRing p * 32 : Nat) : Int) 32 [bR, bW] with
       | .error t => some { t with elem := 0 }
       | .ok _ => none)
    else none

/-- A unit of a plane that becomes active in a run, or whose check failed, makes its check; a failure raises its trap and the unit
stays not started (R252, R272, R291). -/
def unitCheck (sl key : Nat) (r : Region) : Region :=
  if (r.pl key).u.chk = 1 ∨ !([4, 5, 7].contains (planeMode (r.pl key))) then r
  else
    match runCheck r sl key with
    | some e => unitTrap (r.updU key (fun u => { u with chk := 2 })) key e
    | none => r.updU key (fun u => { u with chk := 1 })

/-! ## SWAP (R405-R407) -/

/-- Engines bound to a tile have drained: none of their accesses is on the way, and they stand at a box boundary, or a write stream
of a channel at the end of a token; a copy that the tile launched has ended, so that its accesses come before the incoming plane's
(R101, R405, log 52). A read under EXP24 may hold the element after an odd box, read with its group (R256). -/
def engineAtRest (r : Region) (key : Nat) : Bool :=
  r.strms.all (fun x =>
    x.2.tile != key || x.2.st == 0 || x.2.st == 2 || x.2.plane != (if (r.pl key).shadow then 1 else 0)
      || (r.flight.all (fun a => match a.2.own with | .strm c _ _ => c != x.1 || (dExp x.2.desc && !accOpen a.2) | _ => true)
          && (if dWrite x.2.desc && dChan x.2.desc then x.2.held.isEmpty
              else x.2.box.isNone && (dExp x.2.desc
                || (x.2.next % Nat.max 1 (dBxe x.2.desc) == 0 && (dWrite x.2.desc || x.2.got == x.2.next))))))
    && r.copies.all (fun x => x.2.tile != key)

/-- No operation of a tile, no emission of its unit, and no access of it, is in progress (R405). -/
def tileQuiet (r : Region) (key : Nat) : Bool :=
  (r.ct key).ops.isEmpty && (r.pl key).outq.isEmpty && (r.pl key).u.greqs.isEmpty && (r.pl key).u.sreqs.isEmpty
    && (r.pl key).u.frBusy.isNone && (r.pl key).u.batch.isNone && (r.pl key).u.outIx == 0
    && r.flight.all (fun a => match a.2.own with
      | .unit k tag => !(k == key && (accOpen a.2 || (planeMode (r.pl key) == 7 && tag == refillTag))) | _ => true)

/-- The tile runs: for SWAP and markers. -/
def waveLive (r : Region) (key : Nat) : Bool :=
  r.st == rRunning && r.res && !r.parked && !(r.tile key).mark && (r.tile key).swBusy.isNone

/-- A tile takes the SWAP at the head of an input (R405). -/
def swapMay (key inp : Nat) (r : Region) : Bool :=
  waveLive r key && swapHead r key inp && swapPasses r key inp && tileQuiet r key && engineAtRest r key

/-- SWAP_TAKE: the tile pops the SWAP and exchanges its planes; queued tokens move to the incoming plane, and what WREG holds untracked
stays with the tile's slots (R368, R405). -/
def swapTake (fc sl key inp : Nat) (r : Region) : Region :=
  let r := r.popIn key inp
  let t := r.tile key
  let a := t.act
  let b := t.ins
  unitCheck sl key (r.setTile key { t with
    act := { b with inp := tmap a.inp (fun k c => { c with buf := (tget b.inp {} k).buf ++ c.buf }), ct := { b.ct with untx := a.ct.untx } },
    ins := { a with inp := [], ct := { a.ct with untx := [], hold := [], firedN := none } },
    swW := nset t.swW inp (!t.swW.contains inp), swS := !t.swS, swBusy := some fc })

/-- SWAP_DISCARD: a SWAP that passes nothing on is taken off: in a region with a shadow part under the conditions of R405, as one that is
taken (R406), else at once (R407). -/
def swapDiscard (key inp : Nat) (r : Region) : Region :=
  if !waveLive r key ∨ !swapHead r key inp ∨ swapPasses r key inp = true ∨ (r.shp && !(tileQuiet r key && engineAtRest r key)) = true then r
  else
    let r := r.popIn key inp
    let t := r.tile key
    r.setTile key { t with swW := if r.shp then nset t.swW inp (!t.swW.contains inp) else t.swW }

def execSwapTake (rid tile inp : Nat) (s : State) : Res :=
  .next (if swapMay tile inp (s.region rid) then
    onRegion (s.endTileWaits rid tile) rid (fun r => swapTake s.fc (sealOf s r.part) tile inp r) else s)
def execSwapDiscard (rid tile inp : Nat) (s : State) : Res := .next (onRegion s rid (swapDiscard tile inp))

/-- Every output of a plane that is routed, bound or drained. -/
def planeOuts (r : Region) (p : Plane) (key : Nat) : List Nat :=
  (List.range 12).filter (fun o => !(outDests p o).isEmpty || (r.drainOf p key o).isSome)

/-- The end of the second fc of a SWAP: one SWAP on every routed output of the outgoing plane (R405). -/
def swapTick (fc key : Nat) (r : Region) : Region :=
  match (r.tile key).swBusy with
  | none => r
  | some f =>
    if fc < f + 1 then r
    else
      let outs := planeOuts r (r.tile key).ins key
      let r := r.updPl key (fun p => { p with outq := p.outq ++ outs.map (fun o => { old := true, op := 0, outs := [o], tok := some tokSwap }) })
      (r.setTile key { r.tile key with swBusy := none }).drainOut fc key

/-! ## Runs (R38-R40) -/

/-- A plane with its PE, handles and unit at their values of load or replay (R17, R86, R293). DESIGN CHOICE (log 50): the pending
counts of the control inputs and the pulses still in the control network, which R39 does not name, go with the PE. -/
def planeInit (p : Plane) : Plane :=
  let c := p.ct
  { p with
    ct := { mode := c.mode, slots := c.slots, td := c.td, kcfg := c.kcfg, g := c.gI, v := c.vI, acc := c.accI, p := c.pI,
            gI := c.gI, vI := c.vI, accI := c.accI, pI := c.pI, seed := c.seed, sr := if c.seed = 0 then 1 else c.seed },
    hs := tmap p.hs (fun _ h => { word := h.word, st := BitVec.ofNat 2 (fld h.word 63 62) }),
    u := { p.u with frDone := [], frBusy := none, frFwd := none, first := 0, chk := 0, greqs := [], sreqs := [], lclk := 0, ents := [], ring := [],
                    rhead := if planeMode p = 7 then 0 else p.u.rhead, rtail := if planeMode p = 7 then 0 else p.u.rtail,
                    qs := [], batch := none, qord := 0, wbase := BitVec.ofNat 64 (fld (p.mode.getD 0 0) 59 36), win := [] },
    inp := [], outq := [], used := [] }

/-- A stream not yet started, with a clear bitmap. -/
def strmFresh (z : Strm) : Strm := { tile := z.tile, item := z.item, plane := z.plane, desc := z.desc }

/-- THE START OF A RUN: counts at 0, engines unconfigured, one extent for each descriptor, the units' checks (R246, R299, R378). -/
def State.startRun (s : State) (rid : Nat) : State :=
  let r := s.region rid
  let sl := sealOf s r.part
  let r := { r with st := rRunning, doneC := 0, rcyc := 0, quiet := 0, rheat := [],
                    cnt := if r.cnt = rRunning then rIdle else r.cnt,
                    nles := tmap r.nles (fun _ n => { phys := n.phys }) }
  let r := { r with strms := tmap r.strms (fun _ z => strmFresh z) }
  let fresh := fun (p : Plane) => { p with u := { p.u with chk := 0 } }
  let r := { r with tiles := tmap r.tiles (fun _ t => { t with act := fresh t.act, ins := fresh t.ins }) }
  let r := r.keys.foldl (fun r k => unitCheck sl k r) r
  ((s.setRegion rid r).startExtents rid).sync rid

/-- The colour pool holds 1 to N in ascending order (R35). -/
def colPool (n : Nat) : List Nat := (List.range n).map (· + 1)

/-- Exchange the parameter buffers with their poison and presence (R38): the first 4 KiB of MT 0 of page 0. -/
def exchangePar (r : Region) : Region :=
  let lo := fun (l : List Nat) => l.filter (fun w => decide (w < 512))
  let hi := fun (l : List Nat) => l.filter (fun w => decide (512 ≤ w))
  { r with mt := r.par.filter (fun c => decide (c.1 < 4096)) ++ r.mt.filter (fun c => decide (4096 ≤ c.1)),
           par := r.mt.filter (fun c => decide (c.1 < 4096)),
           pres := lo r.parPres ++ hi r.pres, parPres := lo r.pres, pois := lo r.parPois ++ hi r.pois, parPois := lo r.pois, patch := false }

/-- Frame presence bits of every FRAME MT of both planes are cleared (R39). -/
def clearAllFrames (r : Region) : Region :=
  let marks := (r.tiles.map (fun t => ([t.2.act, t.2.ins].map (fun p =>
    if planeMode p = 3 then [(mtAddr t.1 0 / 8, (1024 * frameS p))] else [])).flatten)).flatten
  { r with pres := r.pres.filter (fun w => !marks.any (fun m => decide (m.1 ≤ w) && decide (w < m.1 + m.2))) }

/-- What a replay puts back before its run starts (R39). -/
def replayReset (r : Region) : Region :=
  let back := fun (t : Tile) => if r.shp && t.act.shadow then { t with act := t.ins, ins := t.act } else t
  let r := clearAllFrames r
  { r with
    tiles := tmap r.tiles (fun _ t =>
      let t := back t
      { act := planeInit t.act, ins := planeInit t.ins, given := t.given }),
    flight := r.flight.filter (fun a => match a.2.own with | .pe _ _ _ => a.2.st == .travel | .unit _ _ => false | _ => true),
    pool := colPool r.coln, cols := [], grants := [], colEnd := [] }

/-- A REPLAY STARTS: the buffers are exchanged when a patch came, the region is reset, its run starts (R38, R39). -/
def State.startReplay (s : State) (rid : Nat) : State :=
  (onRegion s rid (fun r => replayReset (if r.patch then exchangePar r else r))).startRun rid

/-- A request that a GATH or SUU MT has taken has been issued to its home, or is an E token, which asks for nothing (R39). -/
def reqIssued (u : MtU) : Bool :=
  u.greqs.all (fun q => decide (2 ≤ q.kind) || q.acc != 0) && u.sreqs.all (fun q => q.ends.isSome || q.acc != 0)

/-- A run is complete (R39): a request issued has been performed when its access is no longer open, though its answer may still wait. -/
def runDone (r : Region) : Bool :=
  r.st == rRunning && r.res && !r.parked && r.frzReq.isNone && decide (r.doneN ≠ 0) && r.doneC == r.doneN
    && r.strms.all (fun x => x.2.st == 2 || x.2.plane != (if (r.pl x.2.tile).shadow then 1 else 0))
    && r.copies.isEmpty
    && r.nles.all (fun n => n.2.busy.isNone && n.2.queue.isEmpty && (nlWaiting r n.1).isEmpty)
    && r.tiles.all (fun t =>
      reqIssued t.2.act.u
        && t.2.act.ct.ops.all (fun o => !(decide (0xE4 ≤ o.2.code) && decide (o.2.code ≤ 0xE9))))
    && r.flight.all (fun a => match a.2.own with | .unit _ _ => !accOpen a.2 | _ => true)

/-- The completion word of a launch is written once (R347). -/
def State.launchWord (s : State) (cw : Nat) (v : Word) : State := if cw = 0 then s else s.wrW cw v

/-- Every write that a run issued before a sequence number has been performed: accesses that write, and results a tensor operation has yet
to write to tiles (R347). -/
def writesDone (r : Region) (seq : Nat) : Bool :=
  r.flight.all (fun a => decide (seq ≤ a.1) || !accOpen a.2 || !opWrites a.2.op)
    && r.tiles.all (fun t => t.2.act.ct.ops.all (fun o => decide (seq ≤ o.1) || o.2.code != 0xA4))

/-- Completion words of runs whose writes have all been performed are written: a release at HOST scope (R347). -/
def State.launchWords (s : State) (rid : Nat) : State :=
  let r := s.region rid
  match r.cwEnd with
  | [] => s
  | _ =>
    if r.st = rOut then s
    else (r.cwEnd.filter (fun x => writesDone r x.2)).foldl (fun s x => s.launchWord x.1 1)
      (onRegion s rid (fun r => { r with cwEnd := r.cwEnd.filter (fun x => !writesDone r x.2) }))

/-- A queued replay starts when the region is IDLE (R40, R325). -/
def State.queuedReplay (s : State) (rid : Nat) : State :=
  let r := s.region rid
  if r.st = rIdle ∧ r.rpq = true ∧ s.ckptOn = false then
    (onRegion s rid (fun r => { r with rpq := false, cmplt := r.cmpltQ, cmpltQ := [] })).startReplay rid
  else s

/-- REPLAY_START: a queued replay of an idle region. -/
def execReplayStart (rid : Nat) (s : State) : Res := after (s.queuedReplay rid)

end Sys2Proof.Machine
end

