-- ==== Sys2Proof/Machine/Drain.lean ====
section
/-! DEFINITION. Freezes and marker drains (R401-R403, R409-R414): stopping, settling, withdrawing (R225), the markers, the cut, and
the resumption. -/

namespace Sys2Proof.Machine

/-- The end of a long operation (R332): its status, BUSY clear, and FOC of the context that issued it. -/
def State.lopEnd (s : State) (rid : Nat) (stat : Int) : State :=
  match (s.region rid).lop with
  | none => s
  | some l =>
    let s := s.updSync rid (fun r =>
      if l.hart = 209 then { r with busy := false, lop := none }
      else { r with busy := false, lop := none, lastop := BitVec.ofNat 4 l.f7, lstat := BitVec.ofInt 8 stat })
    if l.hart < Config.harts then
      { s with harts := tupd s.harts {} l.hart (fun h =>
          if l.vs then { h with fv := { h.fv with foc := true } } else { h with fh := { h.fh with foc := true } }) }
    else s

/-! ## Withdrawing (R225) -/

/-- An access that waits at its home, in the network before it, at an EXQ tile, or at a peer that may have deferred it. -/
def accWaits (a : Access) : Bool :=
  match a.st with
  | .deferred _ => true
  | .waiting => true
  | .travel => a.sp == 3 || mayRecall a
  | _ => false

/-- Accesses of the tiles a test picks that stand behind one that has stalled or waits at its home: they stay pending until the region
resumes (R93, R401). -/
def State.holdBack (s : State) (rid : Nat) (pick : Nat → Bool) : State :=
  (s.region rid).flight.foldl (fun s x =>
    let r := s.region rid
    let stands := fun (a : Access) => (match a.st with | .stalled _ => true | _ => false) || accWaits a
    if pick (ownerTile r x.2) && x.2.st == .travel && x.2.via.isNone && x.2.sp != 3
        && r.flight.any (fun y => decide (y.1 < x.1) && stands y.2 && s.follows r y.2 x.2 (relAway x.2))
    then setAcc s rid x.1 (fun a => { a with st := .stalled 0 }) else s) s

/-- The waiting operations of the tiles a test picks are withdrawn: they are issued again when the region resumes, and their wait
entries go; of one that was sent to a peer the withdrawal goes out (R225, R231). -/
def State.withdraw (s : State) (rid : Nat) (pick : Nat → Bool) : State :=
  let r := s.region rid
  let hit := r.flight.filterMap (fun a =>
    match a.2.own with
    | .pe k id _ => if pick k && accWaits a.2 then some (a.1, a.2, k, ((r.op? k id).map (fun o => o.slot)).getD 0) else none
    | _ => none)
  (hit.foldl (fun s x =>
    let s := if mayRecall x.2.1 then s.recall rid x.1 x.2.1 else setAcc s rid x.1 (fun a => { a with st := .stalled 0, via := none })
    let s := s.endWait rid x.2.2.1 x.2.2.2
    onRegion s rid (fun r => r.updCt x.2.2.1 (fun c => { c with hold := tdel c.hold x.2.2.2 }))) s).holdBack rid pick

/-- A withdrawal has gone to a peer and its answer has not come. -/
def recalled (r : Region) : Bool := r.flight.any (fun a => a.2.back)

/-! ## The inputs that are fed (R409) -/

/-- An input is fed by a Welt receive binding or by an engine's sweep. -/
def boundFed (r : Region) (key inp : Nat) : Bool := (weltOf (r.pl key) (16 + inp)).isSome || nleFeeds r 64 key inp

/-- An input of a tile's active plane is fed. -/
def inputFed (r : Region) (key inp : Nat) : Bool := routeFed r key inp || streamFed r key inp || boundFed r key inp

def fedInputs (r : Region) (key : Nat) : List Nat := (List.range 12).filter (inputFed r key)

/-! ## Markers (R409-R413, R472) -/

/-- Put PMARK behind what is on the way to an input. -/
def sendMark (fc key inp : Nat) (r : Region) : Region := r.updIn key inp (fun c => { c with wire := c.wire ++ [(fc, tokPmark)] })

/-- The tile takes its first marker: it stops, and each PMARK that stands in a channel ends that input's log (R410, R411). -/
def markTile (key : Nat) (r : Region) : Region :=
  let t := r.tile key
  let ends := (t.act.inp.filter (fun c => c.2.buf.any tokIsPmark)).map (·.1)
  r.setTile key { t with
    mark := true, logEnd := ends.foldl (fun l i => nset l i true) t.logEnd,
    act := { t.act with inp := tmap t.act.inp (fun _ c => { c with buf := c.buf.filter (fun x => !tokIsPmark x) }) } }

/-- The accesses of an MT's unit are done: only then is a marker taken there (R472). -/
def unitDone (r : Region) (key : Nat) : Bool :=
  (r.pl key).u.greqs.isEmpty && (r.pl key).u.sreqs.isEmpty
    && r.flight.all (fun a => match a.2.own with | .unit k _ => !(k == key && accOpen a.2) | _ => true)

/-- A tile may take its first marker now: it runs, no SWAP is being taken, and the accesses of its unit are done (R414, R472). -/
def markMay (r : Region) (key : Nat) : Bool := waveLive r key && unitDone r key

/-- A DRAIN STARTS: PMARK at every source of the region (R409); the engines go to the cut (R412). A source that may not take its marker
yet takes it by MARKER_TAKE. -/
def drainStart (fc : Nat) (slicer : Bool) (r : Region) : Region :=
  let reads := r.strms.filter (fun x => !dWrite x.2.desc && dChan x.2.desc && strmHere r x.2)
  let r := { r with
    drain := some 0, drainSl := slicer,
    strms := tmap r.strms (fun _ z =>
      if !strmHere r z then z
      else if dChan z.desc then (if dWrite z.desc ∨ z.st ≠ 1 then z else { z with stop := true, pmark := true }) else { z with stop := true }),
    copies := tmap r.copies (fun _ z => { z with stop := true }) }
  let r := reads.foldl (fun r x => if x.2.st = 1 then r else sendMark fc x.2.tile (dEndp x.2.desc) r) r
  let r := r.keys.foldl (fun r k => ((List.range 12).filter (boundFed r k)).foldl (fun r i => sendMark fc k i r) r) r
  (r.keys.filter (fun k => (fedInputs r k).isEmpty && markMay r k)).foldl (fun r k => markTile k r) r

/-- MARKER_TAKE: PMARK heads an input, or no input is fed (R409, R410). -/
def markerTake (key : Nat) (r : Region) : Region :=
  if r.drain.isSome && markMay r key
      && ((r.pl key).inp.any (fun c => match c.2.front with | some t => tokIsPmark t | none => false) || (fedInputs r key).isEmpty) then markTile key r
  else r

/-- PMARK_LATE_INJECT: 256 fc after the start, at every tile without a marker (R409). -/
def markLate (r : Region) : Region :=
  match r.drain with
  | some n =>
    if n < 256 then r
    else (r.keys.filter (markMay r)).foldl (fun r k => markTile k r) r
  | none => r

/-- PMARK_LOG_END: a PMARK that reaches a marked tile is removed and ends the log of its input (R411). -/
def markLogEnd (fc key inp : Nat) (r : Region) : Region :=
  match (r.chan key inp).wire with
  | (n, tok) :: rest =>
    if tokIsPmark tok && (r.tile key).mark && decide (n ≤ fc) then
      let r := r.updIn key inp (fun c => { c with wire := rest })
      r.setTile key { r.tile key with logEnd := nset (r.tile key).logEnd inp true }
    else r
  | [] => r

/-- An operation stands as a saved context may hold it (R402, R410); a fence or a handle operation only while earlier ones hold it back. -/
def opStands (r : Region) (key id : Nat) (o : PendOp) : Bool :=
  match o.ph with
  | 4 => (opAccs r o).any (fun a => match a.st with | .stalled _ => true | _ => false)
         && (opAccs r o).all (fun a => match a.st with | .stalled _ => true | .done => true | _ => false)
  | 5 => o.code == 0xF0 || !earlierDone r key id
  | 6 => o.code == 0xF0
  | 7 => (opAccs r o).all (fun a => !accOpen a || (match a.st with | .stalled _ => true | _ => false))
  | 9 => (opAccs r o).all (fun a => match a.st with | .stalled _ => true | _ => false) && !(opAccs r o).isEmpty || o.code == 0xE1
  | 10 => true
  | 11 => true
  | 13 => true
  | 14 => true
  | 15 => true
  | _ => false

/-- The engines bound to a tile have finished the boxes they started, and every access they have issued has been performed (R101, R410,
R412). A read under EXP24 may hold the element after an odd box, whose read is made again. -/
def enginesCut (r : Region) (key : Nat) : Bool :=
  r.strms.all (fun x =>
    x.2.tile != key || x.2.st != 1 || !strmHere r x.2
      || (r.flight.all (fun a => match a.2.own with | .strm c _ _ => c != x.1 || !accOpen a.2 | _ => true)
          && ((dWrite x.2.desc && dChan x.2.desc)
            || (x.2.box.isNone && !x.2.pmark && (dWrite x.2.desc || dExp x.2.desc || x.2.got == x.2.next)))))
    && r.copies.all (fun x =>
      x.2.tile != key || x.2.st != 1 || (!x.2.ended && x.2.got == x.2.next && x.2.next % Nat.max 1 (dBxe x.2.desc) == 0
        && r.flight.all (fun a => match a.2.own with | .copy c _ _ _ => (copyBase + c != x.1 && c != x.1) || !accOpen a.2 | _ => true)))

/-- PMARK on output o, after the tokens emitted and before a place of an operation not complete. -/
def putMark (o : Nat) (l : List Emit) : List Emit :=
  let e : Emit := { op := 0, outs := [o], tok := some tokPmark }
  match l.findIdx? (fun x => x.op != 0 && x.outs.contains o) with
  | some i => l.take i ++ e :: l.drop i
  | none => l ++ [e]

/-- MARKER_EMIT: the tile's local state is fixed; PMARK on every routed or drained output (R410). -/
def State.markerEmit (s : State) (rid key : Nat) : State :=
  let r := s.region rid
  let t := r.tile key
  if r.drain.isNone ∨ !t.mark ∨ t.markEm = true then s
  else
    let s := s.withdraw rid (fun k => k == key)
    onRegion s rid (fun r =>
      if (r.ct key).ops.all (fun o => opStands r key o.1 o.2) && enginesCut r key then
        let outs := planeOuts r (r.pl key) key
        let r := r.updPl key (fun p => { p with outq := outs.foldl (fun l o => putMark o l) p.outq })
        (r.setTile key { r.tile key with markEm := true }).drainOut s.fc key
      else r)

def execMarkerTake (rid tile : Nat) (s : State) : Res := .next (onRegion s rid (markerTake tile))
def execMarkerEmit (rid tile : Nat) (s : State) : Res := .next (s.markerEmit rid tile)
def execPmarkLogEnd (rid tile inp : Nat) (s : State) : Res := .next (onRegion s rid (markLogEnd s.fc tile inp))
def execPmarkLateInject (rid : Nat) (s : State) : Res := .next (onRegion s rid markLate)

/-- Every tile's save is complete, every write stream has stopped, nothing is on the way (R411, R413). -/
def cutDone (r : Region) : Bool :=
  r.tiles.all (fun t =>
    t.2.mark && t.2.markEm && t.2.swBusy.isNone && (fedInputs r t.1).all (fun i => t.2.logEnd.contains i)
      && t.2.act.inp.all (fun c => c.2.wire.isEmpty)
      && t.2.act.outq.all (fun e => match e.tok with | some k => !tokIsPmark k | none => true))
    && r.strms.all (fun x =>
      x.2.st != 1 || !(dWrite x.2.desc && dChan x.2.desc)
        || !strmHere r x.2 || (x.2.stop && x.2.held.isEmpty))
    && r.flight.all (fun a => !accOpen a.2 || (match a.2.st with | .stalled _ => true | _ => false))

/-- Every marker is gone: tiles, channels, outputs and engines (R413, R414). -/
def clearMarks (r : Region) : Region :=
  let noPm := fun (l : List Token) => l.filter (fun t => !tokIsPmark t)
  { r with
    drain := none, drainSl := false,
    tiles := tmap r.tiles (fun _ t =>
      { t with
        mark := false, markEm := false, logEnd := [],
        act := { t.act with
          inp := tmap t.act.inp (fun _ c => { c with buf := noPm c.buf, wire := c.wire.filter (fun w => !tokIsPmark w.2) }),
          outq := t.act.outq.filter (fun e => match e.tok with | some k => !tokIsPmark k | none => true) } }),
    strms := tmap r.strms (fun _ z => { z with stop := false, pmark := false, held := noPm z.held }),
    copies := tmap r.copies (fun _ z => { z with stop := false }) }

/-! ## The end of a run (R39) -/

/-- A drain in progress ends with nothing drained: every marker goes, and crn.fmark ends with KV_ECANCEL (R414). -/
def State.drainCancel (s : State) (rid : Nat) : State :=
  if (s.region rid).drain.isNone then s
  else
    let s := onRegion s rid clearMarks
    match (s.region rid).lop with
    | some l => if l.f7 = 6 then s.lopEnd rid kvEcancel else s
    | none => s

/-- THE END OF A RUN: IDLE, the run counted, its waits removed, its launch completed (R39, R347). DESIGN CHOICE (log 50): a marker drain
of the region in progress ends as an abandoned one, for a region that is IDLE; R409-R414 do not name the case. -/
def State.endRun (s : State) (rid : Nat) : State :=
  let s := s.drainCancel rid
  let s := s.updSync rid (fun r => { r with st := rIdle, runs := r.runs + 1, cmplt := [], cwEnd := r.cwEnd ++ r.cmplt.map (fun cw => (cw, r.seq)) })
  (s.endWaits rid).launchWords rid

/-- RUN_COMPLETE; a queued replay then starts at once (R40, R325). -/
def State.runComplete (s : State) (rid : Nat) : State := if runDone (s.region rid) then (s.endRun rid).queuedReplay rid else s

def execRunComplete (rid : Nat) (s : State) : Res := after (s.runComplete rid)

/-- MARK_DRAIN_COMPLETE: FROZEN with FRZ 10 and settled, or parked for the slicer, RUNNING with RES 0 (R413). -/
def State.markComplete (s : State) (rid : Nat) : State :=
  let r := s.region rid
  if r.drain.isNone ∨ r.frzReq.isSome ∨ !cutDone r then s
  else if r.drainSl then s.updSync rid (fun r => { clearMarks r with settled := true, cut := true, parked := true, res := false })
  else
    let s := s.updSync rid (fun r => { clearMarks r with st := rFrozen, frz := 2, settled := true, cut := true })
    match r.lop with
    | some l => if l.f7 = 6 then s.lopEnd rid 0 else s
    | none => s

def execMarkDrainComplete (rid : Nat) (s : State) : Res := .next (s.markComplete rid)

/-! ## Freezes (R401) -/

/-- STAGE 1 OF A FREEZE: the region stops; a tile that takes a SWAP ends it first; a drain is abandoned (R401, R414). -/
def State.freezeNow (s : State) (rid : Nat) (frz : BitVec 2) : State :=
  let r := s.region rid
  let s := s.updSync rid (fun r =>
    let r := r.keys.foldl (fun r k => swapTick (s.fc + 2) k r) r
    { clearMarks r with st := rFrozen, fidl := r.st == rIdle, frz := frz, settled := false, cut := false, frzReq := none, frzAge := 0 })
  match r.lop with
  | some l => if l.f7 = 6 then s.lopEnd rid kvEcancel else s
  | none => s

/-- FREEZE_STOP: a region asked to freeze by a trap stops (R396, R401). -/
def State.freezeStop (s : State) (rid : Nat) : State :=
  let r := s.region rid
  match r.frzReq with
  | some f => if r.st = rRunning ∨ r.st = rIdle then s.freezeNow rid f else onRegion s rid (fun r => { r with frzReq := none })
  | none => s

def execFreezeStop (rid : Nat) (s : State) : Res := .next (s.freezeStop rid)

/-- DRAIN_TIMEOUT: a drain not complete within 2,048 fc becomes a freeze, with FRZ 01 where a trap has asked for one (R414). -/
def State.drainOver (s : State) (rid : Nat) : State :=
  let r := s.region rid
  match r.drain with
  | some n => if 2048 ≤ n ∧ r.drainSl = false then s.freezeNow rid (r.frzReq.getD 0) else s
  | none => s

def execDrainTimeout (rid : Nat) (s : State) : Res := .next (s.drainOver rid)

/-! ## Settling (R401, R402, R380) -/

/-- Deliver what has come back to a stream or a copy, in order. -/
def deliverBack (fuel fc c : Nat) (r : Region) : Region :=
  match fuel with
  | 0 => r
  | f + 1 =>
    let z := r.strm c
    let next := if z.copy then cpRetire c r else if dWrite z.desc then retireWrite c r else deliverElem fc c r
    match next with
    | some r' => deliverBack f fc c r'
    | none => r

/-- The tags of requests that are not acknowledged and whose accesses go: their next issue uses them again (R395). -/
def keepTags (own : Owner → Owner) (gone : Access → Bool) (r : Region) : List (Owner × Nat) :=
  r.ptags ++ r.flight.filterMap (fun a => if gone a.2 && accOpen a.2 then a.2.peer.map (fun t => (own a.2.own, t)) else none)

/-- A context stands at its precise next element: reads not delivered are issued again on resumption (R380, R402). -/
def preciseStrm (fc c : Nat) (r : Region) : Region :=
  let r := deliverBack (r.flight.length + 1) fc c r
  let z := r.strm c
  if !z.copy && dWrite z.desc then r
  else
    let mine := fun (o : Owner) =>
      match o with
      | .strm k _ x => k == c && (decide (x < 2) || x == 4)
      | .copy k _ x _ => (k == c || copyBase + k == c) && x == 0
      | _ => false
    let r := { r with flight := r.flight.filter (fun a => !mine a.2.own), ptags := keepTags id (fun a => mine a.own) r }
    r.setStrm c (fun z => { z with next := if dExp z.desc then z.got / 2 * 2 else z.got, cells := [] })

/-- Nothing of the region is on its way (R401 stage 3). -/
def settleReady (r : Region) : Bool :=
  r.flight.all (fun a => match a.2.st with | .travel => accWaits a.2 | _ => true)
    && r.tiles.all (fun t =>
      (t.2.act.ct.ops ++ t.2.ins.ct.ops).all (fun o => decide (3 < o.2.ph) && (o.2.ph != 4 || !accsDone r o.2) && (o.2.ph != 6 || o.2.code == 0xF0))
        && t.2.act.inp.all (fun c => c.2.wire.isEmpty))
    && r.copies.all (fun x => !x.2.ended || x.2.st != 1)

/-- The accesses of a region that a migration holds stay pending until the region resumes (R390). -/
def State.migHold (s : State) (rid : Nat) : State :=
  let p := (s.region rid).part
  match (s.part p).mig with
  | none => s
  | some m =>
    let mine := (m.stalled.filter (fun x => x.1 == rid)).map (fun x => x.2)
    let s := s.updPart p (fun p => { p with mig := some { m with stalled := m.stalled.filter (fun x => x.1 != rid) } })
    mine.foldl (fun s k => setAcc s rid k (fun a => if a.st = .travel then { a with st := .stalled 0 } else a)) s

/-- REGION_SETTLED. -/
def settle (fc : Nat) (r : Region) : Region :=
  if !settleReady r then r
  else
    let r := (r.strms.map (·.1)).foldl (fun r c => preciseStrm fc c r) r
    let r := ((r.copies.filter (fun x => x.2.st == 1 || (x.2.st == 3 && x.2.halt == 3 && !x.2.ended))).map (·.1)).foldl (fun r c => preciseStrm fc c r) r
    if r.tiles.all (fun t => t.2.act.inp.all (fun c => c.2.wire.isEmpty)) then { r with settled := true } else r

def execRegionSettled (rid : Nat) (s : State) : Res :=
  let r := s.region rid
  if (r.st ≠ rFrozen ∧ r.parked = false) ∨ r.settled = true then .next s
  else .next (onRegion (((s.flushCopies rid).migHold rid).holdBack rid (fun _ => true)) rid (settle s.fc))

/-! ## Resumption (R403, R301, R381, R395) -/

/-- A tile goes on; a wait refused under TRAP is counted from now (R369). -/
def resumeTile (t : Tile) : Tile :=
  let ct := fun (c : Ct) => { c with halted := false, fired := false, hold := c.hold.filter (fun h => h.2.1 != holdOver) }
  { t with act := { t.act with ct := ct t.act.ct }, ins := { t.ins with ct := ct t.ins.ct } }

/-- A neighbour-list operation in progress other than a sweep is restarted from its beginning, before those that wait (R301). -/
def resumeNle (r : Region) (e : Nat) : Region :=
  match (nleOf r e).busy with
  | none => r
  | some (key, id) =>
    match r.op? key id with
    | none => r
    | some o =>
      if o.code = 0xE5 then r
      else
        let r := { r with flight := r.flight.filter (fun a => match a.2.own with | .pe k i _ => !(k == key && i == id) | _ => true) }
        (r.setOp key id { o with ph := 10, accs := [] }).setNle e (fun n =>
          { n with busy := none, queue := (key, id) :: n.queue })

/-- What stalled or was withdrawn is issued again, every tile and engine goes on, and a check of a table or ring that failed, or that
a restored context does not tell of, is made again (R252, R272, log 51). -/
def resumeParts (sl : Nat) (calls : List (Nat × Nat)) (r : Region) : Region :=
  let r := { r with
    tiles := tmap r.tiles (fun k t =>
      let t := resumeTile t
      let go := fun (p : Plane) => { p with u := { p.u with halt := false }, ct := { p.ct with
          ops := tmap p.ct.ops (fun id o => if o.ph = phStall then { o with ph := if calls.contains (k, id) then phSvc else 5 } else o) } }
      { t with act := go t.act, ins := go t.ins }),
    flight := tmap r.flight (fun _ a => match a.st with | .stalled _ => { a with st := .travel } | _ => a),
    strms := tmap r.strms (fun _ z => resumeStrm z),
    copies := tmap r.copies (fun _ z => resumeStrm z) }
  let r := (r.nles.map (·.1)).foldl (fun r e => resumeNle r e) r
  r.keys.foldl (fun r k => unitCheck sl k r) r

/-- The operations of a region whose system calls are at a service core. -/
def State.callsOf (s : State) (rid : Nat) : List (Nat × Nat) :=
  (s.part (s.region rid).part).calls.filterMap (fun c => if c.2.rid = rid then some (c.2.key, c.2.op) else none)

/-- THE RESUMPTION of a frozen region by crn.frun: to RUNNING, or to IDLE and then at once to a queued replay; a parked member goes
on when it is switched to (R325, R356, R403). -/
def State.resumeRegion (s : State) (rid : Nat) : State :=
  (s.updSync rid (fun r =>
    if r.parked then { r.resume with settled := r.settled, cut := r.cut } else (resumeParts (sealOf s r.part) (s.callsOf rid) r).resume)).queuedReplay rid

end Sys2Proof.Machine
end

