-- ==== Sys2Proof/Machine/HartMem.lean ====
section
/-! DEFINITION. Addresses as the harts translate them (R318, R338; RISC-V, log 10): first stage Sv39, Sv48 and Sv57, G stage Sv39x4, Sv48x4 and
Sv57x4, with page sizes of Svnapot, page types of Svpbmt, and access and dirty bits that software keeps (Svade). -/

namespace Sys2Proof.Machine

def isVirt (p : Priv) : Bool := p == .vs || p == .vu
def isUser (p : Priv) : Bool := p == .u || p == .vu

/-- Bit i of a word set to b. -/
def putBit (w : Word) (i : Nat) (b : Bool) : Word := if b then w ||| ((1 : Word) <<< i) else w &&& ~~~((1 : Word) <<< i)

/-- A CSR that a hart holds as one word. -/
def hcsr (h : Hart) (n : Nat) : Word := tget h.csr 0 n

/-- Kinds of access of a hart. -/
inductive HKind where
  | fetch | load | store
deriving DecidableEq, Repr

/-- Why an access is not performed: the memory cannot, the first stage does not allow it, or the G stage does not allow a guest-physical
address. -/
inductive HFail where
  | access
  | page
  | guest (gpa : Nat)
deriving DecidableEq, Repr

/-- The exception of a failed access; an AMO takes that of a store. -/
def failCause (k : HKind) (f : HFail) : Nat :=
  let b := match k with | .fetch => 0 | .load => 1 | .store => 3
  match f with
  | .access => match k with | .fetch => 1 | .load => 5 | .store => 7
  | .page => 12 + b
  | .guest _ => 20 + b

/-! ## Page tables -/

/-- An entry that no walk may use: not valid, writable but not readable, or with a reserved field set. -/
def pteBad (pbmt : Bool) (w : Word) : Bool :=
  !bitOf w 0 || (!bitOf w 1 && bitOf w 2) || fld w 60 54 != 0 || (fld w 62 61 != 0 && (!pbmt || fld w 62 61 == 3))

/-- An entry of a page table as the walk reads it: memory that is absent or poisoned fails the access (R470). -/
def State.readPte (s : State) (pa : Nat) : Except HFail Word :=
  if !isDram pa || (s.rd8 pa).pois then .error .access else .ok (s.rdW pa)

/-- The leaf for an address, with its level: `bits` index bits at this level, 9 below. -/
def ptWalk (rd : Nat → Except HFail Word) (pbmt : Bool) (bits lvl base va : Nat) : Except HFail (Word × Nat) :=
  match rd (base + 8 * (va / 2 ^ (12 + 9 * lvl) % 2 ^ bits)) with
  | .error e => .error e
  | .ok w =>
    if pteBad pbmt w then .error .page
    else if bitOf w 1 || bitOf w 3 then .ok (w, lvl)
    else if fld w 63 61 != 0 || bitOf w 4 || bitOf w 6 || bitOf w 7 then .error .page
    else
      match lvl with
      | 0 => .error .page
      | k + 1 => ptWalk rd pbmt 9 k (fld w 53 10 * 2 ^ 12) va

/-- The address a leaf gives; none for a misaligned page. -/
def leafAddr (w : Word) (lvl va : Nat) : Option Nat :=
  let ppn := fld w 53 10
  if bitOf w 63 then
    (if lvl = 0 ∧ ppn % 16 = 8 then some ((ppn / 16 * 16 + va / 2 ^ 12 % 16) * 2 ^ 12 + va % 2 ^ 12) else none)
  else if ppn % 2 ^ (9 * lvl) ≠ 0 then none
  else some (ppn * 2 ^ 12 + va % 2 ^ (12 + 9 * lvl))

/-- A leaf allows an access: `user` that the level is a user level, `hx` that a load needs execute permission (HLVX). -/
def leafAllows (k : HKind) (hx user sum mxr : Bool) (w : Word) : Bool :=
  (if user then bitOf w 4 else !bitOf w 4 || (sum && k != .fetch))
    && (match k with
        | .fetch => bitOf w 3
        | .load => if hx then bitOf w 3 else bitOf w 1 || (mxr && bitOf w 3)
        | .store => bitOf w 2 && bitOf w 7)
    && bitOf w 6

/-- One stage: the walk, the leaf's permission, its address. -/
def stageAddr (rd : Nat → Except HFail Word) (pbmt : Bool) (bits lvl root va : Nat) (allows : Word → Bool) : Except HFail Nat :=
  match ptWalk rd pbmt bits lvl root va with
  | .error e => .error e
  | .ok (w, l) =>
    match leafAddr w l va with
    | some pa => if allows w then .ok pa else .error .page
    | none => .error .page

/-- A page fault of the G stage names the guest-physical address. -/
def asGuest (gpa : Nat) (x : Except HFail Nat) : Except HFail Nat := match x with | .error .page => .error (.guest gpa) | x => x

/-- THE G STAGE: the supervisor-physical address of a guest-physical one. -/
def gTrans (s : State) (h : Hart) (gpa : Nat) (k : HKind) (hx : Bool) : Except HFail Nat :=
  let m := fld h.hgatp 63 60
  if m = 0 then .ok gpa
  else if m < 8 ∨ 10 < m ∨ 2 ^ (9 * (m - 6) + 23) ≤ gpa then .error (.guest gpa)
  else
    asGuest gpa (stageAddr s.readPte (bitOf (hcsr h 0x30A) 62) 11 (m - 6) (fld h.hgatp 43 2 * 2 ^ 14) gpa
      (leafAllows k hx true false (bitOf h.mst 19)))

/-- THE TWO STAGES: the physical address of a virtual one at a level; a level of a guest passes through the G stage, its tables too. -/
def hTrans (s : State) (h : Hart) (p : Priv) (va : Nat) (k : HKind) (hx : Bool) : Except HFail Nat :=
  let v := isVirt p
  let atp := hcsr h (if v then 0x280 else 0x180)
  let m := fld atp 63 60
  let fin := fun (a : Nat) => if v then gTrans s h a k hx else .ok a
  if p = .m then .ok va
  else if m = 0 then fin va
  else if m < 8 ∨ 10 < m ∨ (sxTo (9 * (m - 6) + 21) va).toNat ≠ va then .error .page
  else
    let rd := fun (a : Nat) => if v then (match gTrans s h a .load false with | .ok pa => s.readPte pa | .error e => .error e) else s.readPte a
    let st := if v then h.vst else h.mst
    match stageAddr rd (bitOf (hcsr h 0x30A) 62 && (!v || bitOf (hcsr h 0x60A) 62)) 9 (m - 6) (fld atp 43 0 * 2 ^ 12) va
        (leafAllows k hx (isUser p) (bitOf st 18) (bitOf st 19 || bitOf h.mst 19)) with
    | .ok a => fin a
    | .error e => .error e

/-- The supervisor-physical address of a guest-physical one, for the operand blocks of R338. -/
def gStage (s : State) (h : Hart) (gpa : Nat) (wr : Bool) : Option Nat :=
  match gTrans s h gpa (if wr then .store else .load) false with | .ok pa => some pa | .error _ => none

/-! ## Effective addresses -/

/-- The level of loads and stores: that of mstatus.MPP under MPRV. -/
def accPriv (h : Hart) : Priv :=
  if h.priv = .m ∧ bitOf h.mst 17 = true then
    (if h.ms.pp = 3 then .m else if h.ms.pp = 0 then (if h.mpv then .vu else .u) else if h.mpv then .vs else .hs)
  else h.priv

/-- Pointer masking (Ssnpm): the high bits that a level's PMM field takes away are those of the bit below, or zeros where the address is
physical. -/
def maskPtr (h : Hart) (p : Priv) (va : Word) : Nat :=
  let v := isVirt p
  let pmm := fld (hcsr h (match p with | .m => 0x747 | .hs => 0x30A | .vs => 0x60A | _ => 0x10A)) 33 32
  let n := if pmm = 2 then 7 else if pmm = 3 then 16 else 0
  let st := if v then h.vst else h.mst
  if n = 0 ∨ bitOf st 19 = true then va.toNat
  else if p = .m ∨ fld (hcsr h (if v then 0x280 else 0x180)) 63 60 = 0 then va.toNat % 2 ^ (64 - n)
  else (sxTo (64 - n) va.toNat).toNat

end Sys2Proof.Machine
end

