-- ==== Sys2Proof/Machine/Hart.lean ====
section
/-! DEFINITION. Harts (R317, R318): registers, levels, taking an exception or an interrupt and the return from one (R343, R470, log 10),
addresses of operand blocks (R338), the Xcarnar CSRs (R339), delivery of fault records (R340-R342), soft errors (R404). -/

namespace Sys2Proof.Machine

/-! ## Registers and levels -/

def State.hart (s : State) (h : Nat) : Hart := tget s.harts {} h
def State.updHart (s : State) (h : Nat) (f : Hart → Hart) : State := { s with harts := tupd s.harts {} h f }
/-- Register n of a hart: x0 reads 0. -/
def hx (h : Hart) (n : BitVec 5) : Word := if n = 0 then 0 else tget h.x 0 n.toNat
/-- Write a register: x0 discards. -/
def hset (n : BitVec 5) (v : Word) (h : Hart) : Hart := if n = 0 then h else { h with x := tset h.x n.toNat v }

/-- One more instruction retired, while mcountinhibit lets minstret count (log 10). -/
def countInst (h : Hart) : Hart := { h with ninst := if bitOf (hcsr h 0x320) 2 then h.ninst else h.ninst + 1 }

/-- The end of an instruction of the current hart: its result, and the next pc. -/
def State.retire (s : State) (rd : BitVec 5) (v : Word) : State :=
  s.updHart s.curHart (fun h => { countInst (hset rd v h) with pc := h.pc + 4 })

/-! ## Traps (RISC-V, log 10) -/

/-- Where a trap goes (R343, log 10). -/
inductive Level where
  | m | hs | vs
deriving DecidableEq, Repr

/-- The level an exception is delegated to. -/
def excLevel (h : Hart) (cause : Nat) : Level :=
  if h.priv = .m ∨ !h.medeleg.getLsbD cause then .m
  else if isVirt h.priv && h.hedeleg.getLsbD cause then .vs
  else .hs

/-- Entry address: vectored only for interrupts. -/
def entryOf (tvec : Word) (intr : Bool) (code : Nat) : Word :=
  let b := tvec / 4 * 4
  if intr && fld tvec 1 0 == 1 then b + BitVec.ofNat 64 (4 * code) else b

/-- Exceptions whose tval is an address of the program (log 10). -/
def tvalIsAddr (code : Nat) : Bool := [0, 1, 3, 4, 5, 6, 7, 12, 13, 15, 20, 21, 23].contains code

/-- TAKING A TRAP AT A LEVEL: pc and cause saved, the previous level and enable kept, the handler's address (log 10). -/
def hartEnter (lvl : Level) (intr : Bool) (code : Nat) (tval gpa : Word) (entry : Option Word) (h : Hart) : Hart :=
  let cause : Word := BitVec.ofNat 64 (code + if intr then 2 ^ 63 else 0)
  let gva := !intr && isVirt h.priv && tvalIsAddr code
  let go := fun (t : Trs) (pp : BitVec 2) =>
    { t with epc := h.pc, cause := cause, tval := tval, pie := t.ie, ie := false, pp := pp }
  match lvl with
  | .m =>
    { h with ms := go h.ms (match h.priv with | .m => 3 | .hs => 1 | .vs => 1 | _ => 0), mpv := isVirt h.priv,
             mst := putBit h.mst 38 gva, mtval2 := gpa, priv := .m, pc := entry.getD (entryOf h.ms.tvec intr code) }
  | .hs =>
    { h with hs := go h.hs (if isUser h.priv then 0 else 1), spv := isVirt h.priv, htval := gpa,
             hst := putBit (if isVirt h.priv then putBit h.hst 8 (h.priv == .vs) else h.hst) 6 gva, priv := .hs, pc := entry.getD (entryOf h.hs.tvec intr code) }
  | .vs =>
    { h with vs := go h.vs (if isUser h.priv then 0 else 1), priv := .vs, pc := entry.getD (entryOf h.vs.tvec intr code) }

/-- An exception of hart h. -/
def State.hartExc (s : State) (h cause : Nat) (tval gpa : Word) : State :=
  s.updHart h (fun x => hartEnter (excLevel x cause) false cause tval gpa none x)

/-- An illegal instruction of the current hart: stval is its word (log 10). -/
def State.illegal (s : State) (w : Word) : State := s.hartExc s.curHart 2 w 0
/-- A virtual-instruction exception (R327, R339). -/
def State.virtIllegal (s : State) (w : Word) : State := s.hartExc s.curHart 22 w 0

/-- SRET and MRET: the level and enable come back, pc := epc (log 10). -/
def hartSret (h : Hart) : Hart :=
  if isVirt h.priv then
    { h with pc := h.vs.epc, priv := if h.vs.pp = 0 then .vu else .vs, vs := { h.vs with ie := h.vs.pie, pie := true, pp := 0 } }
  else
    { h with pc := h.hs.epc, spv := false, mst := putBit h.mst 17 false,
             priv := if h.spv then (if h.hs.pp = 0 then .vu else .vs) else (if h.hs.pp = 0 then .u else .hs),
             hs := { h.hs with ie := h.hs.pie, pie := true, pp := 0 } }
def hartMret (h : Hart) : Hart :=
  { h with pc := h.ms.epc, mpv := false, mst := if h.ms.pp = 3 then h.mst else putBit h.mst 17 false,
           priv := if h.ms.pp = 3 then .m
                   else if h.mpv then (if h.ms.pp = 0 then .vu else .vs) else (if h.ms.pp = 0 then .u else .hs),
           ms := { h.ms with ie := h.ms.pie, pie := true, pp := 0 } }

/-! ## Addresses of operand blocks (R338) -/

/-- One piece of a block: its physical address, or the exception and the failing address. -/
def hPiece (s : State) (h : Hart) (a n : Nat) (wr : Bool) : Except (Nat × Nat) (Nat × Nat) :=
  match (if isVirt h.priv then gTrans s h a (if wr then .store else .load) false else .ok a) with
  | .error e => .error (failCause (if wr then .store else .load) e, a)
  | .ok pa => if isDram pa && isDram (pa + n - 1) then .ok (pa, n) else .error (if wr then 7 else 5, a)

/-- The pieces of a block, page by page, for the lowest failing address. -/
def hMap (fuel : Nat) (s : State) (h : Hart) (a n : Nat) (wr : Bool) : Except (Nat × Nat) (List (Nat × Nat)) :=
  match fuel with
  | 0 => .ok []
  | f + 1 =>
    if n = 0 then .ok []
    else
      let k := Nat.min n (4096 - a % 4096)
      match hPiece s h a k wr with
      | .error e => .error e
      | .ok p =>
        match hMap f s h (a + k) (n - k) wr with
        | .error e => .error e
        | .ok l => .ok (p :: l)

def State.hBlock (s : State) (a n : Nat) (wr : Bool) : Except (Nat × Nat) (List (Nat × Nat)) :=
  hMap (n / 4096 + 2) s (s.hart s.curHart) a n wr

/-- Use a block of n bytes at an address operand, or take its exception. -/
def State.withBlock (s : State) (a n : Nat) (wr : Bool) (f : List (Nat × Nat) → State) : State :=
  match s.hBlock a n wr with
  | .error (c, bad) => s.hartExc s.curHart c (BitVec.ofNat 64 bad) (if 20 ≤ c then BitVec.ofNat 64 (bad / 4) else 0)
  | .ok ps => f ps

/-- Words of a block from its pieces (8-byte aligned blocks never split a word). -/
def State.pieceWords (s : State) (ps : List (Nat × Nat)) : List Word :=
  (ps.map (fun p => s.rdWs p.1 (p.2 / 8))).flatten

/-! ## Fault contexts (R339-R342) -/

def fBase (f : Fctx) : Nat := fld f.frec 63 12 * 2 ^ 12
def fSize (f : Fctx) : Nat := 2 ^ (fld f.frec 11 8 + 4)
def fEn (f : Fctx) : Bool := bitOf f.frec 0
def fPend (f : Fctx) : Bool := f.prod != f.cons
/-- Word 0 of the oldest record not acknowledged. -/
def State.oldest (s : State) (f : Fctx) : Word := s.rdW (fBase f + 64 + f.cons.toNat % fSize f * 64)

def State.fctx (s : State) (h : Nat) (vs : Bool) : Fctx := if vs then (s.hart h).fv else (s.hart h).fh
def State.updF (s : State) (h : Nat) (vs : Bool) (f : Fctx → Fctx) : State :=
  s.updHart h (fun x => if vs then { x with fv := f x.fv } else { x with fh := f x.fh })

/-- The context a region's records go to (R340): Cobbler, and whether its VS copy. -/
def State.domain (s : State) (part fcob : Nat) : Nat × Bool :=
  let h := s.hart fcob
  (fcob, bitOf h.policy 18 && bitOf h.pmap 6 && fld h.pmap 5 0 == part)

/-- The place of record k in the table of vectors. -/
def vecSlot (k : Nat) : Nat := k % 65536

/-- The vector of the oldest record: that of the fault domain it went to (R339, R340). -/
def State.fvecOf (_s : State) (f : Fctx) : Nat := if fPend f then tget f.vecs 0 (vecSlot f.cons.toNat) else 0

def State.causeWord (s : State) (f : Fctx) : Word :=
  let w := s.oldest f
  BitVec.ofNat 64 ((if fPend f then 2 ^ 63 + fld w 47 36 * 2 ^ 31 + s.fvecOf f * 2 ^ 25 + fld w 63 57 else 0)
    + (if f.ovf then 2 ^ 62 else 0) + (if f.foc then 2 ^ 61 else 0))

/-- Word 0 with FRZ1 as given. -/
def setFrz1 (b : Bool) (w : Word) : Word :=
  BitVec.ofNat 64 (w.toNat / 2 ^ 17 * 2 ^ 17 + w.toNat % 2 ^ 16 + (if b then 2 ^ 16 else 0))

/-- The records of one fc in the order of R397, FRZ1 on the first of them when the freeze began in it. -/
def recOrder (rs : List Rec) : List Rec :=
  let key := fun (x : Rec) => fld (x.w.getD 0 0) 35 18
  let any := rs.any (fun x => bitOf (x.w.getD 0 0) 16)
  (lenum (sortBy (fun x y => decide (key x ≤ key y)) rs)).map (fun x =>
    { x.2 with w := lset x.2.w 0 (setFrz1 (any && x.1 == 0) (x.2.w.getD 0 0)) })

/-- A record enters the delivery queue of its context if that has a place (R342); OVF where the ring is full or delivery is off. -/
def State.recEnter (s : State) (x : Rec) : Option State :=
  let f := s.fctx x.fcob x.vs
  if 64 ≤ f.queue.length then none
  else some (s.updF x.fcob x.vs (fun f' => { f' with
    queue := f'.queue ++ [x],
    ovf := f'.ovf || !fEn f || decide (fSize f < (f.prod - f.cons).toNat + 1 + x.more.length / 8 + f.queue.length) }))

/-- Held records enter their queues in order of arrival, each as its queue has a place (R342). -/
def State.recDrain (s : State) : State :=
  s.recQ.foldl (fun s x =>
    match s.recEnter x with
    | some s' => s'
    | none => { s with recQ := s.recQ ++ [x] }) { s with recQ := [] }

/-- The records a region holds go to its fault domain, behind those that wait (R340, R342). -/
def State.recJoin (order : List Rec → List Rec) (s : State) (rid : Nat) : State :=
  let r := s.region rid
  match r.recs with
  | [] => s
  | _ =>
    let (c, vs) := s.domain r.part (effFcob r)
    let s := onRegion s rid (fun r => { r with recs := [] })
    State.recDrain { s with recQ := s.recQ ++ (order r.recs).map (fun x => { x with fcob := c, vs := vs, fvec := effFvec r }) }

/-- The records of the fc, in the order of R397; and those a save image brings back, in its delivery order (R417). -/
def State.queueRecs (s : State) (rid : Nat) : State := s.recJoin recOrder rid
def State.rejoinRecs (s : State) (rid : Nat) : State := s.recJoin id rid

/-- FAULT_RECORD_DELIVER: the record at the head of a context's queue, with its member records, enters the ring (R341). -/
def State.deliverRec (s : State) (h : Nat) (vs : Bool) : State :=
  let f := s.fctx h vs
  match f.queue with
  | [] => s
  | x :: rest =>
    let n := 1 + x.more.length / 8
    if !fEn f ∨ fSize f < (f.prod - f.cons).toNat + n ∨ !isDram (fBase f) ∨ !isDram (fBase f + 64 + fSize f * 64) then
      s.updF h vs (fun f => { f with ovf := true })
    else
      let ws := x.w ++ x.more
      let s := (List.range n).foldl (fun s k =>
        s.wrWs (fBase f + 64 + (f.prod.toNat + k) % fSize f * 64) ((ws.drop (8 * k)).take 8)) s
      let s := s.wrW (fBase f) (f.prod + BitVec.ofNat 64 n)
      (s.updF h vs (fun f => { f with
        prod := f.prod + BitVec.ofNat 64 n, queue := rest,
        vecs := (List.range n).foldl (fun t k => tset t (vecSlot (f.prod.toNat + k)) x.fvec) f.vecs })).recDrain

def execFaultRecordDeliver (h : Nat) (vs : Bool) (s : State) : Res := after (s.deliverRec h vs)

/-- A record of a region is not yet in a ring (R342). -/
def State.recWaits (s : State) (rid : Nat) : Bool :=
  !(s.region rid).recs.isEmpty || s.recQ.any (fun x => fld (x.w.getD 0 0) 47 36 == rid)
    || s.harts.any (fun h => (h.2.fh.queue ++ h.2.fv.queue).any (fun x => fld (x.w.getD 0 0) 47 36 == rid))

/-! ## Interrupts 16 and 17 (R343) -/

/-- Whether an interrupt of a level is taken by a hart now. -/
def intTaken (h : Hart) (lvl : Level) (code : Nat) : Bool :=
  match lvl with
  | .vs => h.vs.enab.getLsbD code && (h.priv == .vu || (h.priv == .vs && h.vs.ie))
  | _ => h.hs.enab.getLsbD code && (isUser h.priv || h.priv == .vs || (h.priv == .hs && h.hs.ie))

/-- The level at which a pending bit of a context interrupts: the VS copy at VS when hideleg delegates it, all else at HS. -/
def intLevel (h : Hart) (vs : Bool) (code : Nat) : Level := if vs && h.hideleg.getLsbD code then .vs else .hs

/-- Take interrupt 17 or 16 of one context, if it is pending and enabled. -/
def State.takeInt (s : State) (h code : Nat) (vs : Bool) : Option State :=
  let x := s.hart h
  let f := s.fctx h vs
  let pend := if code = 17 then fPend f else f.foc
  let lvl := intLevel x vs code
  if !pend || x.stopped || !intTaken x lvl code then none
  else
    let f' := match lvl with | .vs => x.fv | _ => x.fh
    let entry : Option Word :=
      if code = 17 ∧ fld f'.tvec 1 0 = 1 then some (f'.tvec / 4 * 4 + BitVec.ofNat 64 (4 * s.fvecOf f)) else none
    some (s.updHart h (hartEnter lvl true code 0 0 entry))

def State.interrupt (s : State) (h code : Nat) : State :=
  match s.takeInt h code false with
  | some s' => s'
  | none => (s.takeInt h code true).getD s

def execFaultInterrupt (h : Nat) (s : State) : Res := .next (s.interrupt h 17)
def execFocInterrupt (h : Nat) (s : State) : Res := .next (s.interrupt h 16)

/-! ## The CSRs (R339, R432) -/

/-- Partition of the current context of a hart. -/
def hartPart (h : Hart) : Nat := if isVirt h.priv then fld h.pmap 5 0 else fld h.pmap 14 9

/-- What a CSR number reads in a level's context. -/
def State.csrRead (s : State) (n : Nat) : Word :=
  let c := s.curHart
  let h := s.hart c
  let part := hartPart h
  let p := s.part part
  let f := s.fctx c (isVirt h.priv)
  match n with
  | 0x5C0 => BitVec.ofNat 64 (c * 2 ^ 16 + c % 48 * 2 ^ 8 + c / 48 * 2 ^ 6 + part)
  | 0x5C1 => p.root
  | 0x5C2 => f.tvec
  | 0x5C3 => s.causeWord f
  | 0x5C4 => f.frec
  | 0x5C5 =>
    BitVec.ofNat 64 ((if bitOf (partWord p 0) 53 then 2 ^ 63 else 0) + fld (partWord p 23) 31 0 % 2 ^ 21 * 2 ^ 39
      + Nat.min p.untrk (2 ^ 25 - 1) * 2 ^ 14 + (s.wft.filter (fun e => e.2.part == part)).length)
  | 0x6C0 => h.pmap
  | 0x6C1 => h.quota
  | 0x6C2 => h.policy
  | 0x6E2 => h.fv.tvec
  | 0x6E3 => s.causeWord h.fv
  | 0x6E4 => h.fv.frec
  | _ => 0

/-- Write of a fault context's CSR: 2 crnftvec, 3 crnfcause, 4 crnfrec (R339, R341). -/
def State.csrF (s : State) (vs : Bool) (k : Nat) (v : Word) : State :=
  let c := s.curHart
  match k with
  | 2 => s.updF c vs (fun f => { f with tvec := if fld v 1 0 ≤ 1 then v else v / 4 * 4 })
  | 3 => s.updF c vs (fun f => { f with ovf := f.ovf && bitOf v 62, foc := f.foc && bitOf v 61 })
  | _ =>
    let w := BitVec.ofNat 64 (fld v 63 12 * 2 ^ 12 + Nat.min 12 (fld v 11 8) * 2 ^ 8 + fld v 0 0)
    s.updF c vs (fun f =>
      let g := { f with frec := w }
      { g with cons := s.rdW (fBase g + 8), prod := if fBase g = fBase f ∧ fEn f = true then f.prod else s.rdW (fBase g) })

/-- What a write of a CSR does. -/
def State.csrStore (s : State) (n : Nat) (v : Word) : State :=
  let c := s.curHart
  let h := s.hart c
  let virt := isVirt h.priv
  match n with
  | 0x5C1 => s.updPart (hartPart h) (fun p => { p with root := v / 128 * 128 })
  | 0x5C2 => s.csrF virt 2 v
  | 0x5C3 => s.csrF virt 3 v
  | 0x5C4 => s.csrF virt 4 v
  | 0x6C0 =>
    let vpv := bitOf v 6 && partValid (s.part (fld v 5 0)) && partCob (s.part (fld v 5 0)) c
    s.updHart c (fun h => { h with pmap := BitVec.ofNat 64 (fld v 14 9 * 2 ^ 9 + (if vpv then 64 else 0) + fld v 5 0) })
  | 0x6C1 => s.updHart c (fun h => { h with quota := BitVec.ofNat 64 (fld v 17 0) })
  | 0x6C2 => s.updHart c (fun h => { h with policy := BitVec.ofNat 64 (fld v 18 0) })
  | 0x6E2 => s.csrF true 2 v
  | 0x6E3 => s.csrF true 3 v
  | 0x6E4 => s.csrF true 4 v
  | _ => s

/-- THE FRAME OF A CSR INSTRUCTION (R339, log 10): its level, the old value to rd, the write unless RS or RC name x0. -/
def State.csrInstr (s : State) (word : Word) (c : CsrOp) : State :=
  let h := s.hart s.curHart
  let n := c.csr.toNat
  if isUser h.priv then s.illegal word
  else if h.priv = .vs ∧ 0x6C0 ≤ n then s.virtIllegal word
  else
    let old := s.csrRead n
    let src := if c.f3.getLsbD 2 then (c.rs1.zeroExtend 64) else hx h c.rs1
    let new := match c.f3.toNat % 4 with | 1 => src | 2 => old ||| src | _ => old &&& ~~~src
    let writes := c.f3.toNat % 4 == 1 || c.rs1 != 0
    (if writes then s.csrStore n new else s).retire c.rd old

/-- The word of a CSR instruction, for stval (log 10). -/
def csrInsn (c : CsrOp) : Word := ((c.csr ++ c.rs1 ++ c.f3 ++ c.rd ++ (0x73 : BitVec 7)) : BitVec 32).zeroExtend 64

def execCrnfrecWrite (c : CsrOp) (s : State) : Res := .next (s.csrInstr (csrInsn c) c)
def execHcrnpmapWrite (c : CsrOp) (s : State) : Res := .next (s.csrInstr (csrInsn c) c)
def execCsrWrite (c : CsrOp) (s : State) : Res := .next (s.csrInstr (csrInsn c) c)

/-! ## Soft errors (R404) -/

/-- Poison one word of a token (R404). -/
def hitTok (t : Token) (w : Nat) : Token := { t with pois := t.pois ||| (1#8 <<< (w % 8)) }

/-- A word of an MT that an entry store or a window keeps: an entry of the active plane's store lies at its place in the store, those of the
Insole plane behind (log 21); the words of a window lie where an image has them, and its headers and rows carry no mark but their poison. -/
def hitUnit (a : Nat) (r : Region) : Region :=
  let key := mtAddrKey a
  let off := a % 2 ^ 19
  let t := r.tile key
  let hit := fun (at0 : Nat) (p : Plane) =>
    if planeMode p = 7 then
      { p with u := { p.u with ents := (lenum p.u.ents).map (fun e =>
          if at0 + e.1 = off / 16 then
            (if off % 16 < 8 then { e.2 with w0 := { e.2.w0 with pois := true } } else { e.2 with w1 := { e.2.w1 with pois := true } })
          else e.2) } }
    else if planeMode p = 8 then
      let n := (off / 8 - at0 - 1) / 9
      let w := (off / 8 - at0 - 1) % 9
      let before := fun (k : Nat) => ((p.u.win.take k).map (fun s => s.2.length)).foldl (· + ·) 0
      { p with u := { p.u with win := (lenum p.u.win).map (fun s => (s.2.1, (lenum s.2.2).map (fun x =>
          if at0 < off / 8 ∧ before s.1 + x.1 = n then
            (if w = 0 then (x.2.1, { x.2.2.1 with pois := true }, x.2.2.2)
             else (x.2.1, x.2.2.1, { x.2.2.2 with pois := x.2.2.2.pois ||| (1#8 <<< (w - 1)) }))
          else x.2))) } }
    else p
  let words := fun (p : Plane) => if planeMode p = 8 then 1 + 9 * (p.u.win.map (fun s => s.2.length)).foldl (· + ·) 0 else 0
  let base := if planeMode t.act = 7 ∨ planeMode t.ins = 7 then 0x1000 else 0
  if off < 0x8000 ∧ (planeMode t.act = 7 ∨ planeMode t.ins = 7) then
    r.setTile key { t with act := if planeMode t.act = 7 then hit 0 t.act else t.act,
                           ins := if planeMode t.ins = 7 then hit (if planeMode t.act = 7 then t.act.u.ents.length else 0) t.ins else t.ins }
  else if planeMode t.act = 8 ∨ planeMode t.ins = 8 then
    r.setTile key { t with act := if planeMode t.act = 8 then hit base t.act else t.act,
                           ins := if planeMode t.ins = 8 then hit (base + words t.act) t.ins else t.ins }
  else r

/-- SOFT_ERROR: the word is poisoned, or MACHINE_CHECK with its class; a lost WFT entry is registered again (R404). -/
def State.softError (s : State) (t : SoftTarget) : State :=
  match t with
  | .dram pa => if isDram pa then { s with dpois := nset s.dpois (pa / 8) true } else s
  | .mt rid a => onRegion s rid (fun r => hitUnit a { r with pois := nset r.pois (a / 8) true })
  | .greg rid k n =>
    if n < 14 then onRegion s rid (fun r => r.updCt k (fun c => { c with g := tupd c.g {} n (fun v => { v with pois := true }) })) else s
  | .vreg rid k n w =>
    if n < 8 then
      onRegion s rid (fun r => r.updCt k (fun c => { c with v := tupd c.v {} n (fun v => { v with pois := v.pois ||| (1#8 <<< (w % 8)) }) }))
    else s
  | .acc rid k w => onRegion s rid (fun r => r.updCt k (fun c => { c with acc := tupd c.acc {} w (fun v => { v with pois := true }) }))
  | .chan rid k i pos w =>
    onRegion s rid (fun r => r.updIn k i (fun c =>
      match c.buf[pos]? with
      | some tok => { c with buf := lset c.buf pos (hitTok tok w) }
      | none => c))
  | .ctl rid cls =>
    match s.region? rid with
    | some _ =>
      if cls < 3 ∨ cls = 4 then
        onRegion s rid (fun r => { (r.raise { code := 0x7F, src := 4, aux := cls }) with mcheck := r.mcheck || decide (cls < 3) })
      else s
    | none => s
  | .wft i =>
    match tfind s.wft i with
    | some e =>
      let s := s.dropEntry e.id
      let s := onRegion s e.rid (fun r => r.updCt (keyOf e.page e.pos) (fun c => { c with hold := tdel c.hold e.slot }))
      s.raiseOn e.rid { code := 0x7F, key := keyOf e.page e.pos, aux := 3 }
    | none => s

def execSoftError (t : SoftTarget) (s : State) : Res := .next (s.softError t)

end Sys2Proof.Machine
end

