-- ==== Sys2Proof/Machine/Load.lean ====
section
/-! DEFINITION. The loader's checks of a Last image (R117-R138, R247-R258, R271-R280, R294) in the order of R137, and the tiles an
accepted image makes (R17, R122-R136). -/

namespace Sys2Proof.Machine

/-- A record of an image: its index, part (false before the shadow marker), fields and payload. -/
structure ImgRec where
  ix   : Nat
  sh   : Bool
  typ  : Nat
  page : Nat
  pos  : Nat
  item : Nat
  w    : List Word
deriving DecidableEq, Repr

def ImgRec.key (x : ImgRec) : Nat := keyOf x.page x.pos
def ImgRec.w0 (x : ImgRec) : Word := x.w.getD 0 0
def ImgRec.isCt (x : ImgRec) : Bool := posIsCt x.pos

/-- An image as read: its header and records. -/
structure Img where
  w    : Nat
  h    : Nat
  done : Nat
  par  : List Word
  recs : List ImgRec
deriving DecidableEq, Repr

/-- Why an image is rejected: the code and the place of its record. -/
structure Bad where
  code : Nat
  page : Nat := 0
  pos  : Nat := 0
  item : Nat := 0
  ix   : Nat := 0xFFFFFFFF
deriving DecidableEq, Repr

def badAt (code : Nat) (x : ImgRec) : Bad := { code := code, page := x.page, pos := x.pos, item := x.item, ix := x.ix }

/-! ## The header (R118, R135) -/

/-- Step 1 of R137. -/
def hdrOk (rd : Nat → Word) : Bool :=
  let f := fun (k hi lo : Nat) => fld (rd (8 * k)) hi lo
  let pl := f 5 47 32
  let po := f 5 31 0
  f 0 63 32 == 0x4B434C31 && f 0 31 16 == 1 && f 0 15 0 == 0 && f 1 63 16 == 0 && decide (1 ≤ f 1 15 8) && decide (f 1 15 8 ≤ 32)
    && decide (1 ≤ f 1 7 0) && decide (f 1 7 0 ≤ 24) && f 2 63 32 == 0 && f 3 63 32 == 0 && f 4 63 32 == 0
    && f 4 31 0 % 8 == 0 && decide (64 ≤ f 4 31 0) && f 5 63 48 == 0 && decide (pl ≤ 4096) && pl % 8 == 0 && po % 8 == 0
    && (pl == 0 || decide (64 ≤ po)) && rd 48 == 0 && rd 56 == 0

/-- Bytes an image reaches to, from its header and the record headers (R135, R338). -/
def imgExtent (fuel : Nat) (rd : Nat → Word) (off last : Nat) : Nat :=
  match fuel with
  | 0 => last
  | f + 1 =>
    let n := 8 * (1 + fld (rd off) 37 30)
    imgExtent f rd (off + n) (Nat.max last (off + n))

/-! ## Framing (R119-R121, R135) -/

/-- Tile kind, ITEM and length of a record (R120, R124, R126, R136). -/
def frameOk (x : ImgRec) : Bool :=
  let n := x.w.length
  let ct := x.isCt
  let tbl := x.page == 0 && x.pos == 0
  match x.typ with
  | 1 => ct && decide (x.item < 16) && n == 1
  | 2 => ct && ((decide (x.item < 14) && n == 1) || (decide (16 ≤ x.item) && decide (x.item < 24) && n == 8)
        || (decide (24 ≤ x.item) && decide (x.item < 28) && n == 128) || (x.item == 32 && n == 1))
  | 3 => x.item == 0 && (if ct then n == 1 else decide (1 ≤ n) && decide (n ≤ 18))
  | 4 => decide (x.item < 4) && n == 8
  | 5 => decide (x.item < (if ct then 12 else 10)) && decide (1 ≤ n) && decide (n ≤ 4)
  | 6 => ct && ((decide (x.item < 4) && n == 1) || (decide (4 ≤ x.item) && decide (x.item < 8) && decide (1 ≤ n) && decide (n ≤ 4)))
  | 7 => ct && decide (x.item < 8) && n == 1
  | 8 => tbl && n == 4 && !x.sh
  | 9 => !ct && decide (x.item < 8) && n == 1
  | 10 => tbl && x.item == 0 && n == 0 && !x.sh
  | 11 => n == 1 && (let i := x.item % 16; decide (x.item < 32) && decide (i < (if ct then 12 else 10)))
  | _ => false

/-- The records of an image, with their framing failures. -/
def readRecs (fuel : Nat) (rd : Nat → Word) (w h po pl ix off : Nat) (sh : Bool) (prev : List ImgRec) : List ImgRec × Option Bad :=
  match fuel with
  | 0 => ([], none)
  | f + 1 =>
    let hd := rd off
    let n := fld hd 37 30
    let x : ImgRec := { ix := ix, sh := sh, typ := fld hd 63 60, page := fld hd 59 50, pos := fld hd 49 46, item := fld hd 45 38,
                        w := (List.range n).map (fun k => rd (off + 8 + 8 * k)) }
    let hits := decide (0 < pl) && decide (off < po + pl) && decide (po < off + 8 + 8 * n)
    let twice := x.typ != 10 && prev.any (fun y => y.sh == sh && y.typ == x.typ && y.page == x.page && y.pos == x.pos && y.item == x.item)
    if !frameOk x || fld hd 29 0 != 0 || decide (w * h ≤ x.page) || hits || twice then ([], some (badAt 2 x))
    else
      let (l, b) := readRecs f rd w h po pl (ix + 1) (off + 8 + 8 * n) (sh || x.typ == 10) (x :: prev)
      (x :: l, b)

/-! ## A record's own checks (step 2 of R137) -/

/-- The handle selectors a slot names (R110, R228). -/
def slotHandles (op : Nat) (t : Ti) : List Nat :=
  let a := t.sa.toNat
  let b := t.sb.toNat
  if op ≤ 0xA2 ∧ 0xA0 ≤ op then [a, b]
  else if 0xA4 ≤ op ∧ op ≤ 0xA7 then [a]
  else if 0xD4 ≤ op ∧ op ≤ 0xD8 then [t.imm.toNat % 32]
  else []

def outsideLast (w h key sel : Nat) : Bool := (neighbour w h key (sel / 8 % 4)).isNone

/-- A slot: its OP, its fields, its neighbours (R104-R116, R9). -/
def slotCheck (w h : Nat) (x : ImgRec) : Option Nat :=
  let wd := x.w0
  if !validOf wd then none
  else
    let op := (opOf wd).toNat
    match peOf op (tiOf wd) with
    | none => some 1
    | some _ =>
      if !tiWf op (tiOf wd) then some 2
      else if (slotHandles op (tiOf wd)).any (outsideLast w h x.key) then some 3
      else none

/-- The NW a mode needs (R271, R279, R294). -/
def modeNw (wd : Word) : Nat := match fld wd 63 60 with | 4 => 2 | 5 => 2 | 7 => 3 + fld wd 49 46 | _ => 1

/-- The fields of an MT mode record (R272, R279, R280, R294). DESIGN CHOICE (log 55): an SUU with FADD and an ESZ below 4 bytes is accepted;
its sums are those of the bytes as FP64 values of that width. -/
def modeOk (lim : Nat) (x : ImgRec) : Bool :=
  let wd := x.w0
  let f := fun (hi lo : Nat) => fld wd hi lo
  let b1 := x.w.getD 1 0
  match f 63 60 with
  | 0 => f 59 0 == 0
  | 1 => f 58 40 % 128 == 0 && f 39 21 % 128 == 0 && decide (128 ≤ f 39 21) && f 12 0 == 0 && decide (f 58 40 + f 39 21 ≤ lim)
  | 2 => decide (2 ≤ f 59 56) && decide (f 59 56 ≤ 8) && f 55 37 % 8 == 0 && decide (1 ≤ f 36 24) && decide (f 36 24 ≤ 4096) && f 23 0 == 0
      && decide (f 55 37 + f 59 56 * f 36 24 * 8 ≤ lim)
  | 3 => decide (f 59 57 + 1 ≤ f 56 50) && decide (f 56 50 ≤ 64) && f 49 0 == 0
  | 4 => f 56 0 == 0 && decide (fld b1 63 62 < 2)
  | 5 => f 57 55 != 0 && f 53 0 == 0 && decide (fld b1 63 62 < 2)
  | 6 => f 59 58 != 3 && f 57 39 % 64 == 0 && decide (1 ≤ f 38 30) && f 29 0 == 0 && decide (f 57 39 + 0x800 ≤ lim)
  | 7 =>
    let spe := bitOf wd 45
    decide (2 ≤ f 59 50) && decide (f 59 50 ≤ 512) && f 40 0 == 0 && (if spe then fld b1 63 62 == 1 else f 44 41 == 0 && b1 == 0)
      && (x.w.drop 2).all (fun q =>
        fld q 47 16 != 0 && decide (2 * (fld q 55 48 + 1) ≤ f 59 50) && fld q 10 0 == 0)
  | _ => f 35 0 == 0

/-- A stream descriptor's own fields: BADENC (R248, R254). -/
def strmOk (x : ImgRec) : Bool :=
  let d := x.w
  let w1 := dW1 d
  let e := dEsz d
  let chan := dChan d
  let exts := [0, 1, 2, 3, 4]
  let sp := fun (a : Word) => decide (fld a 63 62 < 2)
  let off := fun (a : Word) => if fld a 63 62 = 1 then fld a 53 0 else a.toNat
  sp (d.getD 0 0) && (dAuxk d == 0 || sp (dAux d)) && exts.all (fun i => dExt d i != 0 && fld (d.getD (2 + i) 0) 63 60 == 0
        && fld (d.getD (2 + i) 0) 39 0 % e == 0)
    && off (d.getD 0 0) % e == 0 && fld w1 15 13 == 0 && decide (1 ≤ dBxe d) && decide (dBxe d ≤ 4096) && decide (dN d ≤ 4096 * dBxe d)
    && decide (Nat.min (dBxe d) (dN d) * dDeb d ≤ 4096) && !(dWcv d && e == 8) && !(dSxt d && (!dWcv d || dWrite d))
    && (!dExp d || (!dWrite d && !chan && decide (e ≤ 2) && !dWcv d && dRed d == 0 && dAuxk d == 3 && dN d % 2 == 0))
    && !(dAuxk d == 3 && !dExp d) && !(dRed d != 0 && !dWrite d) && !(dRed d == 2 && decide (e < 4))
    && ((dMcw d == 0 && dMch d == 0) || (!dWrite d && !chan)) && !(dPerm d && (chan || dWrite d))
    && (dPerm d || (dPin d == 0 && (dSout d == 0)))
    && !(dWrite d && (dCol d != 0 || dLmd d != 0 || dEos d)) && decide (dLmd d ≤ 5) && decide (dCsc d ≤ 4) && (dAuxk d != 0 || dAux d == 0)

/-- A stream descriptor's own routes: BADROUTE (R248, R258). -/
def strmRoute (w h : Nat) (x : ImgRec) : Bool :=
  let d := x.w
  let lim := if dChan d then (if x.isCt then 12 else 10) else 8
  decide (lim ≤ dEndp d) || decide (w < x.page % w + dMcw d + 1) || decide (h < x.page / w + dMch d + 1)

/-- Destination words of a route: BADENC or BADROUTE (R126, R127). -/
def routeCheck (w h : Nat) (x : ImgRec) : Option Nat :=
  let vecOut := decide (8 ≤ x.item)
  if x.w.any (fun v => fld v 37 0 != 0) then some 2
  else if x.w.any (fun v =>
      let lim := if posIsCt (fld v 53 50) then 12 else 10
      decide (w * h ≤ fld v 63 54) || decide (lim ≤ fld v 49 46) || (decide (8 ≤ fld v 49 46) != vecOut)) then some 3
  else if !(x.w.map (fun v => (fld v 63 50, fld v 49 46))).Nodup then some 3
  else none

/-- Format groups of R131: 0 FP64, 1 FP32, 2 and 3 the 16-bit ones, 4 8-bit float, 5 6- and 4-bit float, 6 INT8, 7 INT4. -/
def fmtGroup (f : Nat) : Nat :=
  match f with
  | 0 => 0 | 1 => 1 | 2 => 2 | 3 => 3 | 4 => 4 | 5 => 4 | 6 => 5 | 7 => 5 | 8 => 5 | 9 => 6 | 10 => 6 | 11 => 7 | _ => 8

/-- A tensor descriptor is accepted (R131). -/
def tdOk (d : Word) : Bool :=
  let a := fld d 63 60
  let b := fld d 59 56
  let g := fmtGroup a
  let spm := fld d 55 54
  let mx := bitOf d 52
  decide (g < 8) && fmtGroup b == g
    && (spm == 0 || g == 2 || g == 3 || g == 4 || g == 6) && (!mx || g == 4 || g == 5 || (g == 6 && a == 9 && b == 9))
    && spm != 3 && !(spm != 0 && mx) && (spm != 0 || (!bitOf d 53 && fld d 41 39 == 0)) && (mx || (fld d 51 47 == 0 && fld d 46 42 == 0))
    && decide (fld d 38 35 < 14) && (if bitOf d 33 then fld d 32 30 == 0 else decide (fld d 32 30 < 6)) && fld d 29 0 == 0

/-- A counter record (R25, R128). -/
def kOk (n : Nat) (c : Word) : Bool :=
  let src := fld c 31 30
  src != 3 && (src != 0 || fld c 29 28 == 0) && (src != 1 || decide (fld c 29 28 < n)) && (bitOf c 27 || (fld c 26 25 == 0 && !bitOf c 24))
    && (bitOf c 23 || fld c 22 21 == 0) && fld c 20 0 == 0

/-- Step 2 of R137 for a framed record. `lim` is the MT's size in the page mode of the load. DESIGN CHOICE (log 50): a control route
that names one control input twice is accepted, and each pulse then counts twice; R129 does not say. -/
def ownCheck (w h lim : Nat) (x : ImgRec) : Option Nat :=
  let v := x.w0
  let enc := fun (ok : Bool) => if ok then none else some 2
  match x.typ with
  | 1 => slotCheck w h x
  | 2 => enc (x.item != 32 || fld v 31 12 == 0)
  | 3 =>
    if x.isCt then
      (if decide (6 ≤ fld v 63 61) || (!bitOf v 59 && fld v 58 57 != 0) || fld v 56 0 != 0 then some 2
       else if bitOf v 59 && (neighbour w h x.key (fld v 58 57)).isNone then some 3 else none)
    else if 8 < fld v 63 60 ∨ (x.key = keyOf 0 (mtPos 0) ∧ fld v 63 60 ≠ 0) then some 4
    else enc (x.w.length == modeNw v && modeOk lim x)
  | 4 => if !strmOk x then some 2 else if !dChan x.w ∧ x.isCt then some 4 else if strmRoute w h x then some 3 else none
  | 5 => routeCheck w h x
  | 6 =>
    if x.item < 4 then enc (kOk x.item v)
    else if x.w.any (fun u => fld u 47 0 != 0) then some 2
    else if x.w.any (fun u => decide (w * h ≤ fld u 63 54) || !posIsCt (fld u 53 50)) then some 3 else none
  | 7 =>
    if !tdOk v then some 2
    else if bitOf v 52 && (outsideLast w h x.key (fld v 51 47) || outsideLast w h x.key (fld v 46 42)) then some 3 else none
  | 8 => enc (decide (capBase x.w + capLen x.w ≤ 2 ^ 57) && fld (x.w.getD 2 0) 43 0 == 0 && x.w.getD 3 0 == 0)
  | 9 =>
    let size := fld v 61 42
    let base := fld v 41 23
    enc ((fld v 63 62 == 0 || fld v 63 62 == 2) && decide (64 ≤ size) && decide (size ≤ 0x80000) && size % 64 == 0 && base % 64 == 0
      && fld v 22 0 == 0 && decide (base + size ≤ lim))
  | 11 => enc (fld v 34 0 == 0)
  | _ => none

/-! ## Checks across the records of a part (step 3 of R137) -/

/-- The record of a kind for an item of a tile. -/
def recOfItem (l : List ImgRec) (typ key item : Nat) : Option ImgRec :=
  l.find? (fun y => y.typ == typ && y.key == key && y.item == item)

/-- Mode code of an MT in a part; TILE without a record (R271). -/
def partMode (l : List ImgRec) (key : Nat) : Nat := match recOfItem l 3 key 0 with | some m => fld m.w0 63 60 | none => 0

/-- Inputs an MT mode uses, and its outputs (R271, R279, R294). -/
def modeIns (l : List ImgRec) (key : Nat) : List Nat :=
  let w := match recOfItem l 3 key 0 with | some m => m.w0 | none => 0
  match fld w 63 60 with
  | 0 => List.range 8
  | 1 => if bitOf w 59 then [8] else [0]
  | 2 => [0]
  | 3 => List.range (fld w 59 57 + 1)
  | 4 => [0, 1, 2]
  | 5 => [0, 1]
  | 6 => [8]
  | 7 => []
  | _ => [0, 8]
def modeOuts (l : List ImgRec) (key : Nat) : List Nat :=
  let w := match recOfItem l 3 key 0 with | some m => m.w0 | none => 0
  match fld w 63 60 with
  | 0 => List.range 8
  | 1 => if bitOf w 59 then [8] else [0]
  | 2 => List.range (fld w 59 56)
  | 3 => [0]
  | 4 => [0, 1]
  | 5 => [0]
  | 6 => [8]
  | 7 => List.range 8
  | _ => [0, 8]

/-- What feeds an input: routes, read streams and receive bindings. -/
def feeders (l : List ImgRec) (key inp : Nat) : List ImgRec :=
  l.filter (fun y =>
    (y.typ == 5 && y.w.any (fun v => keyOf (fld v 63 54) (fld v 53 50) == key && fld v 49 46 == inp))
      || (y.typ == 4 && y.key == key && dChan y.w && !dWrite y.w && dEndp y.w == inp)
      || (y.typ == 11 && y.key == key && y.item == 16 + inp))
/-- What drains an output. -/
def drainers (l : List ImgRec) (key o : Nat) : List ImgRec :=
  l.filter (fun y =>
    (y.typ == 5 && y.key == key && y.item == o) || (y.typ == 4 && y.key == key && dChan y.w && dWrite y.w && dEndp y.w == o)
      || (y.typ == 11 && y.key == key && y.item == o))
/-- A record is not the first of a list. -/
def notFirst (x : ImgRec) (l : List ImgRec) : Bool := match l with | y :: _ => y.ix != x.ix | [] => false

def slotOf (x : ImgRec) : Option (Nat × Ti) :=
  if x.typ = 1 ∧ validOf x.w0 = true then some ((opOf x.w0).toNat, tiOf x.w0) else none

/-- The handles a slot or its descriptor names, with the bytes used there (R110, R196, R198, R200, R208). -/
def slotBytes (l : List ImgRec) (x : ImgRec) (op : Nat) (t : Ti) : List (Nat × Nat) :=
  let d := match recOfItem l 7 x.key (t.imm.toNat % 8) with | some r => r.w0 | none => 0
  let a := t.sa.toNat
  let b := t.sb.toNat
  match op with
  | 0xA0 => [(a, 8 * (mmaWords op d).1), (b, 8 * (mmaWords op d).2)]
  | 0xA1 => [(a, 8 * (mmaWords op d).1), (b, 8 * (mmaWords op d).2)]
  | 0xA2 => [(a, 8 * (mmaWords op d).1), (b, 8 * (mmaWords op d).2), (fld d 51 47, tdK d / 2), (fld d 46 42, tdK d / 2)]
  | 0xA4 => [(a, accrdBytes d)]
  | 0xA5 => [(a, 8 * accSrcWords op d)]
  | 0xA6 => [(a, 8 * accSrcWords op d)]
  | 0xA7 => [(a, 8 * accSrcWords op d)]
  | _ => []

def crossMode (w h : Nat) (l : List ImgRec) (x : ImgRec) : Bool :=
  match x.typ with
  | 1 =>
    (match slotOf x with
     | some (op, t) => (slotHandles op t).any (fun s => match neighbour w h x.key (s / 8 % 4) with | some k => partMode l k != 0 | none => false)
     | none => false)
  | 3 => x.isCt && bitOf x.w0 59 && (match neighbour w h x.key (fld x.w0 58 57) with | some k => partMode l k != 3 | none => false)
  | 4 => !dChan x.w && (partMode l x.key != 0)
  | 9 => partMode l x.key != 0
  | _ => false

def crossRoute (w : Nat) (l : List ImgRec) (x : ImgRec) : Bool :=
  match x.typ with
  | 1 =>
    (match slotOf x with
     | some (op, t) => (outsOf op t).any (fun o => (drainers l x.key o).isEmpty)
     | none => false)
  | 3 =>
    !x.isCt && fld x.w0 63 60 == 7 && (x.w.drop 2).any (fun q => (recOfItem l 5 x.key (fld q 15 13)).isNone)
  | 4 =>
    (dChan x.w && (if dWrite x.w then notFirst x (drainers l x.key (dEndp x.w)) else notFirst x (feeders l x.key (dEndp x.w))))
      || decide (16 < (l.filter (fun y => y.typ == 4 && decide (y.ix ≤ x.ix) && keyCol w y.key == keyCol w x.key)).length)
  | 5 =>
    notFirst x (drainers l x.key x.item) || (!x.isCt && !(modeOuts l x.key).contains x.item)
      || x.w.any (fun v =>
        let k := keyOf (fld v 63 54) (fld v 53 50)
        notFirst x (feeders l k (fld v 49 46)) || (!keyIsCt k && !(modeIns l k).contains (fld v 49 46)))
  | 11 =>
    (if x.item < 16 then notFirst x (drainers l x.key x.item) else notFirst x (feeders l x.key (x.item - 16)))
      || l.any (fun y => y.typ == 11 && decide (y.ix < x.ix) && fld y.w0 63 37 == fld x.w0 63 37 && (decide (y.item < 16) == decide (x.item < 16)))
  | _ => false

/-- A write through a REMOTE capability with a completion scope below SYSTEM (R264). -/
def remoteLow (all : List ImgRec) (x : ImgRec) : Bool :=
  dWrite x.w && fld x.w0 63 62 == 1 && decide (dCsc x.w < 3)
    && all.any (fun c => c.typ == 8 && c.item == fld x.w0 61 54 && capRemote c.w)

def crossEnc (w h : Nat) (all l : List ImgRec) (x : ImgRec) : Bool :=
  match x.typ with
  | 1 =>
    (match slotOf x with
     | none => false
     | some (op, t) =>
       let td := recOfItem l 7 x.key (t.imm.toNat % 8)
       let tensor := decide (0xA0 ≤ op) && decide (op ≤ 0xA7) && op != 0xA3
       let d := match td with | some r => r.w0 | none => 0
       (op == 0x36 && (match recOfItem l 6 x.key (t.imm.toNat % 4) with | some k => fld k.w0 31 30 != 0 | none => false))
         || (tensor && (td.isNone || (tdFp64 d && t.dst.toNat % 2 == 1)
            || (op == 0xA0 && (fld d 55 54 != 0 || bitOf d 52)) || (op == 0xA1 && fld d 55 54 == 0) || (op == 0xA2 && !bitOf d 52)))
         || (slotBytes l x op t).any (fun s =>
            match neighbour w h x.key (s.1 / 8 % 4) with
            | some k => (match recOfItem l 9 k (s.1 % 8) with | some r => decide (fld r.w0 61 42 < s.2) | none => true)
            | none => true))
  | 4 =>
    remoteLow all x || !dChan x.w && ((List.range (dMch x.w + 1)).any (fun i => (List.range (dMcw x.w + 1)).any (fun j =>
      let k := keyOf ((x.page / w + i) * w + x.page % w + j) x.pos
      match recOfItem l 9 k (dEndp x.w % 8) with
      | some r => decide (fld r.w0 61 42 < Nat.min (dBxe x.w) (dN x.w) * dHeb x.w)
      | none => true)))
  | 7 =>
    bitOf x.w0 52 && [fld x.w0 51 47, fld x.w0 46 42].any (fun s =>
      match neighbour w h x.key (s / 8 % 4) with | some k => (recOfItem l 9 k (s % 8)).isNone | none => true)
  | _ => false

/-- Step 3 of R137 for one part l of all the records. -/
def crossCheck (w h : Nat) (all l : List ImgRec) : Option Bad :=
  match l.find? (crossMode w h l) with
  | some x => some (badAt 4 x)
  | none =>
    match l.find? (crossRoute w l) with
    | some x => some (badAt 3 x)
    | none => (l.find? (crossEnc w h all l)).map (badAt 2)

/-- THE CHECKS OF R137: an image, or the first failure. -/
def checkImage (rd : Nat → Word) (lim : Nat) : Except Bad Img :=
  if !hdrOk rd then .error { code := 2 }
  else
    let w := fld (rd 8) 15 8
    let h := fld (rd 8) 7 0
    let pl := fld (rd 40) 47 32
    let po := fld (rd 40) 31 0
    let (recs, bad) := readRecs (fld (rd 24) 31 0) rd w h po pl 0 (fld (rd 32) 31 0) false []
    match recs.findSome? (fun x => (ownCheck w h lim x).map (fun c => badAt c x)) with
    | some b => .error b
    | none =>
      match bad with
      | some b => .error b
      | none =>
        match crossCheck w h recs (recs.filter (fun x => !x.sh)) with
        | some b => .error b
        | none =>
          match crossCheck w h recs (recs.filter (fun x => x.sh)) with
          | some b => .error b
          | none =>
            .ok { w := w, h := h, done := fld (rd 16) 31 0, par := (List.range (pl / 8)).map (fun k => rd (po + 8 * k)), recs := recs }

/-! ## The tiles of an accepted image -/

/-- Words of the MT that holds the active parameter buffer: the block, then zeros (R122). -/
def parCells (ws : List Word) : List Host.Cell := (lenum ws).foldl (fun m x => wrNat m (8 * x.1) 8 x.2.toNat) []

/-- Apply one record to a plane (R121). -/
def applyRec (x : ImgRec) (p : Plane) : Plane :=
  let c := p.ct
  let v := x.w0
  match x.typ with
  | 1 => { p with ct := { c with slots := tset c.slots x.item v } }
  | 2 =>
    if x.item < 14 then { p with ct := { c with gI := tset c.gI x.item { bits := v } } }
    else if x.item < 24 then { p with ct := { c with vI := tset c.vI (x.item - 16) (vofWords (x.w.map (fun w => { bits := w }))) } }
    else if x.item < 28 then
      { p with ct := { c with accI := (lenum x.w).foldl (fun t y => tset t ((x.item - 24) * 128 + y.1) { bits := y.2 }) c.accI } }
    else { p with ct := { c with pI := BitVec.ofNat 12 v.toNat, seed := BitVec.ofNat 32 (fld v 63 32) } }
  | 3 => if x.isCt then { p with ct := { c with mode := v } } else { p with mode := x.w }
  | 5 => { p with routes := tset p.routes x.item x.w }
  | 6 => if x.item < 4 then { p with ct := { c with kcfg := tset c.kcfg x.item v } } else { p with croute := tset p.croute (x.item - 4) x.w }
  | 7 => { p with ct := { c with td := tset c.td x.item v } }
  | 9 => { p with hs := tset p.hs x.item { word := v } }
  | 11 => { p with welt := tset p.welt x.item v }
  | _ => p

/-- A plane of a part of the image, at its load values (R17, R86). -/
def buildPlane (recs : List ImgRec) (sh : Bool) (key : Nat) : Plane :=
  planeInit ((recs.filter (fun x => x.sh == sh && x.key == key)).foldl (fun p x => applyRec x p) { shadow := sh })

/-- The stream contexts of an image, by number: tile, ITEM and part. -/
def buildStrms (recs : List ImgRec) : Tab Strm :=
  let ds := recs.filter (fun x => x.typ == 4)
  (lenum ds).map (fun x => (x.1, { tile := x.2.key, item := x.2.item, plane := if x.2.sh then 1 else 0, desc := x.2.w }))

/-- A region with the configuration of an image, unplaced. -/
def buildRegion (m : Img) (coln : Nat) (r : Region) : Region :=
  let keys := ((List.range (m.w * m.h)).map (fun pg => (List.range 16).map (fun pos => keyOf pg pos))).flatten
  { r with
    w := m.w, h := m.h, doneN := m.done, shp := m.recs.any (fun x => x.typ == 10),
    tiles := keys.map (fun k => (k, { act := buildPlane m.recs false k, ins := buildPlane m.recs true k })),
    caps := (m.recs.filter (fun x => x.typ == 8)).foldl (fun t x => tset t x.item x.w) [],
    mt := parCells m.par, pres := [], pois := [], par := [], parPres := [], parPois := [],
    coln := coln, pool := colPool coln, strms := buildStrms m.recs }

end Sys2Proof.Machine
end

