-- ==== Sys2Proof/Machine/Place.lean ====
section
/-! DEFINITION. RCB chains (R320-R324), the bounds of a subtree (R322), the last allocator and the binding of engines and links
(R348-R350, R393, R136), slicing groups (R354), and the life of a region's pages. -/

namespace Sys2Proof.Machine

/-! ## Chains (R321, R323) -/

/-- A node of a chain as read: its physical address and words 0-7. -/
structure Node where
  pa : Nat
  w  : List Word
deriving DecidableEq, Repr

def nW (n : Node) (k : Nat) : Word := n.w.getD k 0
def nRid (n : Node) : Nat := fld (nW n 0) 63 52
def nPart (n : Node) : Nat := fld (nW n 0) 50 45
def nRoot (n : Node) : Bool := bitOf (nW n 1) 0

/-- RES0 fields and ranges of a node (R320, R323). -/
def nodeOk (first : Bool) (n : Node) : Bool :=
  let w := nW n
  let given := fun (b : Nat) => bitOf (w 2) b
  fld (w 0) 44 0 == 0 && bitOf (w 0) 51 == !first && fld (w 1) 6 1 == 0 && fld (w 2) 54 0 == 0 && fld (w 3) 1 0 == 0 && fld (w 4) 49 0 == 0
    && fld (w 5) 31 0 == 0 && n.pa % 128 == 0 && (!nRoot n || (fld (w 1) 63 7 == 0 && fld (w 2) 63 55 == 511))
    && (!given 63 || decide (fld (w 3) 63 54 ≤ 768)) && (!given 62 || decide (fld (w 3) 53 40 ≤ 8192))
    && (!given 60 || decide (fld (w 3) 29 24 ≤ 48)) && (!given 58 || decide (1 ≤ fld (w 3) 13 6)) && (!given 56 || decide (fld (w 4) 63 56 ≤ 191))
    && (w 7).toNat % 16 == 0 && (if first then (w 6).toNat % 8 == 0 else w 6 == 0)

/-- The nodes from an address up, through a translation of addresses. -/
def readChain (fuel : Nat) (s : State) (tr : Nat → Option Nat) (a : Nat) (first : Bool) : Option (List (Nat × Node)) :=
  match fuel with
  | 0 => none
  | f + 1 =>
    match tr a with
    | none => none
    | some pa =>
      if !dramRange pa 128 then none
      else
        let n : Node := { pa := pa, w := s.rdWs pa 8 }
        if !nodeOk first n then none
        else if nRoot n then some [(a, n)]
        else
          match readChain f s tr (fld (nW n 1) 63 7 * 128) false with
          | some l => some ((a, n) :: l)
          | none => none

/-- The chain of an RCB, accepted under R323: its root is the partition's. -/
def State.chainOf (s : State) (tr : Nat → Option Nat) (a : Nat) : Option (List Node) :=
  match readChain 16 s tr a true with
  | none => none
  | some l =>
    let ns := l.map (·.2)
    match l.getLast?, ns with
    | some (_, last), n :: _ =>
      if tr (s.part (nPart n)).root.toNat = some last.pa ∧ ns.all (fun m => nPart m == nPart n) = true then some ns else none
    | _, _ => none

/-- Effective words 3-5 from the root down (R321). -/
def effStep (e : Word × Word × Word) (n : Node) : Word × Word × Word :=
  let w2 := nW n 2
  let pick := fun (b hi lo : Nat) (own par : Word) => (if bitOf w2 b then fld own hi lo else fld par hi lo) * 2 ^ lo
  let w3 := nW n 3
  let prio := if bitOf w2 57 then Nat.max (fld w3 5 2) (fld e.1 5 2) else fld e.1 5 2
  (BitVec.ofNat 64 (pick 63 63 54 w3 e.1 + pick 62 53 40 w3 e.1 + pick 61 39 30 w3 e.1 + pick 60 29 24 w3 e.1 + pick 59 23 14 w3 e.1
    + pick 58 13 6 w3 e.1 + prio * 4),
   BitVec.ofNat 64 (if bitOf w2 56 then fld (nW n 4) 63 50 * 2 ^ 50 else fld e.2.1 63 50 * 2 ^ 50),
   BitVec.ofNat 64 (if bitOf w2 55 then fld (nW n 5) 63 32 * 2 ^ 32 else fld e.2.2 63 32 * 2 ^ 32))

/-- Effective words of a chain: of every suffix, the node first. -/
def effOf (ns : List Node) : Word × Word × Word := ns.reverse.foldl effStep (0, 0, 0)
def suffixes (ns : List Node) : List (List Node) := (List.range ns.length).map (fun k => ns.drop k)

/-- A region takes the settings of its chain as read now (R323). -/
def takeChain (ns : List Node) (r : Region) : Region :=
  let e := effOf ns
  { r with eff3 := e.1, eff4 := e.2.1, eff5 := e.2.2, eprio := fld e.1 5 2, onl := match ns with | n :: _ => bitOf (nW n 2) 60 | [] => false,
           chain := (suffixes ns).map (fun l => (match l with | n :: _ => n.pa | [] => 0, (effOf l).1)) }

/-! ## Pages (R348, R354) -/

/-- Pages whose planes a region holds. -/
def heldPages (r : Region) : List Nat :=
  if r.st = rNone ∨ r.st = rOut ∨ r.tiles.isEmpty = true then []
  else (List.range (r.w * r.h)).map (physPage r)

/-- Regions in use. -/
def State.live (s : State) : List Region := (s.regions.filter (fun x => x.2.st ≠ rNone)).map (·.2)

/-- A page is free. -/
def State.pageFree (s : State) (pg : Nat) : Bool := s.live.all (fun r => !(heldPages r).contains pg)

/-- Regions below a node, and what they hold together (R322). -/
def belowNode (s : State) (pa : Nat) : List Region := s.live.filter (fun r => r.chain.any (fun c => c.1 == pa))
def exqMts (r : Region) : Nat := (r.tiles.filter (fun t => planeMode t.2.act == 7 || planeMode t.2.ins == 7)).length
/-- Pages counted once, those of regions in SHADOW not at all (R322). -/
def pagesBelow (rs : List Region) : List Nat := (((rs.filter (fun r => r.st != rShadow)).map heldPages).flatten).eraseDups

/-- The bounds of R322 hold at every ancestor with a new region that takes `pages`, and `more` pages that none holds. -/
def State.boundsAt (s : State) (chain : List (Nat × Word)) (rid : Nat) (pages : List Nat) (more nle exq : Nat) : Bool :=
  chain.all (fun n =>
    let rs := (belowNode s n.1).filter (fun r => r.rid != rid && r.st != rOut && !r.tiles.isEmpty)
    decide ((pagesBelow rs ++ pages).eraseDups.length + more ≤ fld n.2 63 54)
      && decide (((rs.map (fun r => nleCount r)).foldl (· + ·) 0) + nle ≤ fld n.2 29 24)
      && decide (((rs.map exqMts).foldl (· + ·) 0) + exq ≤ fld n.2 23 14))
def State.boundsOk (s : State) (chain : List (Nat × Word)) (rid : Nat) (pages : List Nat) (nle exq : Nat) : Bool :=
  s.boundsAt chain rid pages 0 nle exq

/-- Rectangles of pages of the fabric, by page id of the origin (R8). -/
def rectPages (w h o : Nat) : List Nat := (List.range (w * h)).map (fun k => o + k / w * 32 + k % w)
def rectFits (w h o : Nat) : Bool := decide (o % 32 + w ≤ 32) && decide (o / 32 + h ≤ 24)

/-- Descriptor records bound in a column of the fabric by regions other than one (R348). -/
def State.columnLoad (s : State) (col except : Nat) : Nat :=
  (s.live.map (fun r => if r.rid = except ∨ r.st = rOut then 0
    else (r.strms.filter (fun x => physPage r (keyPage x.2.tile) % 32 * 4 + keyPos x.2.tile % 4 == col)).length)).foldl (· + ·) 0

def State.columnsOk (s : State) (r : Region) (o : Nat) : Bool :=
  let q := { r with origin := o }
  (List.range (4 * r.w)).all (fun k =>
    let col := o % 32 * 4 + k
    decide ((q.strms.filter (fun x => physPage q (keyPage x.2.tile) % 32 * 4 + keyPos x.2.tile % 4 == col)).length + s.columnLoad col r.rid ≤ 16))

/-! ## Engines (R350) -/

/-- Clusters of the partition whose engine is free for a region. -/
def State.freeEngines (s : State) (part rid : Nat) : List Nat :=
  (List.range 48).filter (fun c =>
    bitOf (partWord (s.part part) 15) (16 + c) && s.live.all (fun r => r.rid == rid || r.st == rOut || r.nles.all (fun n => n.2.phys != c)))

def clusterDist (a b : Nat) : Nat :=
  let d := fun (x y : Nat) => if x ≤ y then y - x else x - y
  d (a / 8) (b / 8) + d (a % 8) (b % 8)

/-- Engines bound to e0 to e(n - 1) at an origin: the clusters the Last covers first, then the nearest (R350). -/
def State.bindEngines (s : State) (r : Region) (o n : Nat) : Option (List Nat) :=
  let q := { r with origin := o }
  let cov := (sortBy (fun a b => decide (a ≤ b)) (((List.range (r.w * r.h)).map (fun k => clusterOf q (keyOf k 0))).eraseDups))
  let free := s.freeEngines r.part r.rid
  let near := fun (c : Nat) => cov.foldl (fun m d => Nat.min m (clusterDist c d)) 1000
  let inside := cov.filter free.contains
  let outside := (sortBy (fun a b => decide (near a < near b) || (near a == near b && decide (a ≤ b))) (free.filter (fun c => !cov.contains c)))
  let l := inside ++ outside
  if n ≤ l.length then some (l.take n) else none

/-! ## Welt contexts (R393, R136) -/

/-- Descriptors and bindings of a region that take a context, and the device each leads to: a binding under tile x 32 + ITEM, a stream's
descriptor above 2^30. -/
def weltNeeds (r : Region) : List (Nat × Nat) :=
  (r.strms.filterMap (fun x =>
      let a := x.2.desc.getD 0 0
      if fld a 63 62 = 1 ∧ capRemote (capEntry r (fld a 61 54)) = true then some (2 ^ 30 + x.1, capDev (capEntry r (fld a 61 54))) else none))
    ++ (r.tiles.map (fun t => (t.2.act.welt ++ t.2.ins.welt).map (fun b => (t.1 * 32 + b.1, fld b.2 63 45)))).flatten

/-- Contexts of a link that regions other than one hold. -/
def State.weltHeld (s : State) (rid k : Nat) : List Nat :=
  ((s.live.filter (fun q => q.rid != rid)).map (fun q => q.wctx.filterMap (fun x => if x.2.1 = k then some x.2.2 else none))).flatten

/-- A link leads to each, with one of its 64 contexts free. -/
def State.weltOk (s : State) (r : Region) : Bool :=
  let on := fun (k : Nat) => ((weltNeeds r).filter (fun x => s.route r.part x.2 == some k)).length
  (weltNeeds r).all (fun x =>
    match s.route r.part x.2 with
    | none => false
    | some k => decide (on k + (s.weltHeld r.rid k).length ≤ 64))

/-- Each takes the free context of least number on its link, in ascending order of tile and ITEM; one that has a context keeps it (R393,
R136, log 31). -/
def State.bindCtx (s : State) (r : Region) : Region :=
  (sortBy (fun a b => decide (a.1 ≤ b.1)) (weltNeeds r)).foldl (fun r x =>
    match tfind r.wctx x.1, s.route r.part x.2 with
    | none, some k =>
      let used := s.weltHeld r.rid k ++ r.wctx.filterMap (fun y => if y.2.1 = k then some y.2.2 else none)
      (match (List.range 64).find? (fun c => !used.contains c) with
       | some c => { r with wctx := tset r.wctx x.1 (k, c) }
       | none => r)
    | _, _ => r) r

/-- DEVID, TAG and direction of a region's bindings. -/
def weltTags (r : Region) : List (Nat × Bool) :=
  (r.tiles.map (fun t => (t.2.act.welt ++ t.2.ins.welt).map (fun b => (fld b.2 63 37, decide (b.1 < 16))))).flatten
/-- Another placed region of the partition holds one of them (R136). -/
def State.weltBusy (s : State) (r : Region) : Bool :=
  s.live.any (fun q => q.rid != r.rid && q.part == r.part && q.st != rOut && (weltTags q).any (fun t => (weltTags r).contains t))

/-! ## Cost (R349) -/

def stackCol (k : Nat) : Nat × Nat := (16 * (k % 6) / 3, 16 * (k % 6 + 1) / 3 - 1)

/-- Distance of an origin's centre page from stack k. -/
def stackDist (w h o k : Nat) : Nat :=
  let row := o / 32 + (h - 1) / 2
  let col := o % 32 + (w - 1) / 2
  let (lo, hi) := stackCol k
  (if k < 6 then row else 23 - row) + (if col < lo then lo - col else if hi < col then col - hi else 0)

/-- Capability entries of highest heat, at most four, ties to the lowest index. -/
def hotCaps (r : Region) : List (Nat × Nat) :=
  let tot := r.rheat.foldl (fun (t : Tab Nat) x => tupd t 0 (x.1 / 12) (· + x.2)) []
  ((sortBy (fun a b => decide (b.2 < a.2) || (a.2 == b.2 && decide (a.1 ≤ b.1))) (tot.filter (fun x => decide (0 < x.2))))).take 4

def placeCost (r : Region) (o : Nat) : Nat :=
  (hotCaps r).foldl (fun c e =>
    (List.range 12).foldl (fun c k => c + tget r.rheat 0 (e.1 * 12 + k) * stackDist r.w r.h o k) c) 0

/-! ## The allocator (R348, R349) -/

/-- An origin meets R348 for a region whose Last is known. -/
def State.fits (s : State) (r : Region) (own : List Nat) (o : Nat) : Bool :=
  let pages := rectPages r.w r.h o
  rectFits r.w r.h o && pages.all (fun p => partPage (s.part r.part) p && (own.contains p || s.pageFree p))
    && s.columnsOk r o && (s.bindEngines r o (nleCount r)).isSome && s.boundsOk r.chain r.rid pages (nleCount r) (exqMts r)

/-- The origin of least cost, then of least page id. -/
def State.bestOrigin (s : State) (r : Region) (own : List Nat) : Option Nat :=
  (List.range 768).foldl (fun best o =>
    if s.fits r own o then
      (match best with
       | some b => if placeCost r o < placeCost r b then some o else some b
       | none => some o)
    else best) none

/-- A region whose page set is of a Last's shape and holds no other region, in a partition in TIME mode (R354). -/
def State.groupShape (s : State) (r q : Region) : Bool :=
  bitOf (partWord (s.part r.part) 0) 56 && !r.shp
    && q.part == r.part && q.w == r.w && q.h == r.h && q.partner.isNone && q.rid != r.rid && !q.shp && q.host.isNone
    && q.st != rOut && q.st != rDying && q.st != rShadow && s.live.all (fun z => z.host != some q.rid)

/-- The region with which a slicing group may be formed: that of the origin of least cost, then of least page id (R348, R349, R354). -/
def State.groupWith (s : State) (r : Region) : Option Region :=
  let can := s.live.filter (fun q => s.groupShape r q && s.columnsOk r q.origin && (s.bindEngines r q.origin (nleCount r)).isSome
    && s.boundsOk r.chain r.rid (heldPages q) (nleCount r) (exqMts r))
  can.foldl (fun best q =>
    match best with
    | some b => if placeCost r q.origin < placeCost r b.origin ∨ (placeCost r q.origin = placeCost r b.origin ∧ q.origin < b.origin) then some q else some b
    | none => some q) none

/-- Bind the engines of a region at its origin, keeping their states, and its Welt contexts (R301, R350, R393). -/
def State.rebind (s : State) (r : Region) : Region :=
  let r := s.bindCtx r
  match s.bindEngines r r.origin (nleCount r) with
  | some l => { r with nles := (lenum l).map (fun x => (x.1, { tget r.nles {} x.1 with phys := x.2 })) }
  | none => r

/-- PLACE A REGION: an origin, or a slicing group; the failing status otherwise (R348, R354, R136, R393). -/
def State.place (s : State) (r : Region) : Except Int Region :=
  if s.weltBusy r then .error kvEbusy
  else if !s.weltOk r then .error kvEnospc
  else
    match s.bestOrigin r [] with
    | some o => .ok (s.rebind { r with origin := o, res := true, active := true, partner := none })
    | none =>
      match s.groupWith r with
      | some q => .ok (s.rebind { r with origin := q.origin, res := false, active := false, parked := true, settled := true, partner := some q.rid })
      | none => .error kvEnospc

/-- Whether it could fit in the empty page set of its partition (R348, R393) and breaks no bound of R322, on pages of its own or as the second
member of a group (R346). -/
def State.couldFit (s : State) (r : Region) : Bool :=
  let e := { s with regions := [] }
  e.weltOk r && (List.range 768).any (fun o => e.fits r [] o)
    && (s.boundsAt r.chain r.rid [] (r.w * r.h) (nleCount r) (exqMts r)
      || s.live.any (fun q => s.groupShape r q && s.boundsOk r.chain r.rid (heldPages q) (nleCount r) (exqMts r)))

/-- A region leaves the device: its bindings withdraw their credits, and what it has emitted goes on its way (R136). -/
def State.weltLeave (s : State) (rid : Nat) : State :=
  let r := weltGive { s.region rid with res := false }
  match s.region? rid with
  | none => s
  | some _ => { (onRegion s rid (fun r => { r with tx := [] })) with txQ := s.txQ ++ r.tx.map (fun x => (r.part, x)) }

/-- Install a placed region; its partner learns of it (R354). -/
def State.install (s : State) (r : Region) : State :=
  let r := { r with pair := bitOf (partWord (s.part r.part) 0) 35 }
  let s := (s.setRegion r.rid r).startExtents r.rid
  match r.partner with
  | some q => onRegion s q (fun x => { x with partner := some r.rid })
  | none => s

end Sys2Proof.Machine
end

