-- ==== Sys2Proof/Machine/Heads.lean ====
section
/-! DEFINITION. Launch queues (R344-R346): the header, the entries, and what the device notes of a queue's head. -/

namespace Sys2Proof.Machine

/-! ## The header (R344) -/

def lqWord (p : Part) (q : Nat) : Word := partWord p (28 + q)
def lqValid (p : Part) (q : Nat) : Bool := bitOf (lqWord p q) 5
def lqBase (p : Part) (q : Nat) : Nat := fld (lqWord p q) 41 6 * 64
def lqPrio (p : Part) (q : Nat) : Nat := fld (lqWord p q) 3 0
def State.lqN (s : State) (b : Nat) : Nat := 2 ^ fld (s.rdW (b + 16)) 3 0
def State.lqCount (s : State) (b : Nat) : Nat := (s.rdW (b + 8) - s.rdW b).toNat

/-- A header within its limits. -/
def State.lqOk (s : State) (b : Nat) : Bool :=
  let w := s.rdW (b + 16)
  fld w 55 4 == 0 && decide (1 ≤ fld w 3 0) && decide (fld w 3 0 ≤ 12) && (List.range 5).all (fun k => s.rdW (b + 24 + 8 * k) == 0)
    && decide (s.lqCount b ≤ s.lqN b)

/-- A queue that breaks its limits stops, its ERR written. -/
def State.lqCheck (s : State) (part q : Nat) : State :=
  let p := s.part part
  let b := lqBase p q
  if !lqValid p q || p.lqStop.contains q || s.lqOk b then s
  else (s.wrW (b + 16) (BitVec.ofNat 64 ((s.rdW (b + 16)).toNat % 2 ^ 56) ||| (kv kvEinval) <<< 56)).updPart part
    (fun p => { p with lqStop := nset p.lqStop q true })

/-! ## Heads (R345, R346) -/

/-- The entry at a queue's head. -/
def State.lqHead (s : State) (part q : Nat) : Option (List Word) :=
  let p := s.part part
  let b := lqBase p q
  if lqValid p q && !p.lqStop.contains q && s.lqOk b && s.lqCount b != 0 then some (s.rdWs (b + 64 + (s.rdW b).toNat % s.lqN b * 64) 8) else none

def leOp (e : List Word) : Nat := fld (e.getD 0 0) 63 60
def leRid (e : List Word) : Nat := fld (e.getD 0 0) 59 48
def leDeps (e : List Word) : Nat := fld (e.getD 0 0) 47 45
def leCw (e : List Word) : Nat := (e.getD 3 0).toNat

/-- An entry's fields. -/
def leOk (e : List Word) : Bool :=
  let w := fun k => e.getD k 0
  let n := leDeps e
  decide (leOp e < 4) && decide (n ≤ 4) && fld (w 0) 44 0 == 0 && (decide (leOp e = 1 ∨ leOp e = 3) || leRid e == 0) && (leOp e == 2 || w 2 == 0)
    && (leOp e != 3 || w 1 == 0) && (w 3).toNat % 8 == 0
    && (List.range 4).all (fun k => if k < n then fld (w (4 + k)) 51 32 == 0 else w (4 + k) == 0)

/-- Whether dependence k holds now. -/
def State.depNow (s : State) (e : List Word) (k : Nat) : Bool :=
  match s.region? (fld (e.getD (4 + k) 0) 63 52) with
  | some r => decide (fld (e.getD (4 + k) 0) 31 0 ≤ r.runs)
  | none => false

/-- Codes of what the device has noted of a head: dependence k was seen satisfied (k), one named no region when the entry became the head
(`depNone`), one was killed before it was satisfied (`depDead`). -/
abbrev depNone : Nat := 4
abbrev depDead : Nat := 5

/-- The device notes, for each head, that its dependences are in use, those it has seen satisfied, and whether the region of one that is not
has been killed (R346). -/
def State.lqNote (s : State) (part : Nat) : State :=
  (List.range 16).foldl (fun s q =>
    match s.lqHead part q with
    | none => s
    | some e =>
      let h := (s.rdW (lqBase (s.part part) q)).toNat
      let ks := List.range (leDeps e)
      let reg := fun (k : Nat) => s.region? (fld (e.getD (4 + k) 0) 63 52)
      let old := match tfind (s.part part).lqSeen q with | some (h', l) => if h' = h then some l else none | none => none
      let first := match old with | some l => l | none => if ks.all (fun k => (reg k).isSome) then [] else [depNone]
      let dead := ks.any (fun k => !first.contains k && !s.depNow e k && (match reg k with | some r => r.st == rDying | none => true))
      s.updPart part (fun p => { p with
        lqSeen := tset p.lqSeen q (h, ks.filter (fun k => first.contains k || s.depNow e k)
          ++ first.filter (fun c => depNone ≤ c) ++ (if dead && !first.contains depDead then [depDead] else [])) })) s

def State.lqNotes (s : State) : State := (validParts s).foldl (fun s p => s.lqNote p) s

end Sys2Proof.Machine
end

