-- ==== Sys2Proof/Machine/Cobbler.lean ====
section
/-! DEFINITION. The Xcarnar instructions on running regions (R326-R338): load, kill, run, halt, mark, replay, status, the wait-for table,
tokens of a row, and stream extents (R383, R384). -/

namespace Sys2Proof.Machine

/-! ## The frame of an instruction -/

/-- Who orders an operation: a hart (208 for launch queues and KHR), whether at VS. -/
structure Issuer where
  hart : Nat := 208
  vs   : Bool := false
deriving DecidableEq, Repr

def crnInsn (f7 : Nat) (x : Xr) : Word :=
  ((BitVec.ofNat 7 f7 ++ x.rs2 ++ x.rs1 ++ (0 : BitVec 3) ++ x.rd ++ (0x0B : BitVec 7)) : BitVec 32).zeroExtend 64

/-- The level checks of R317, R318, R327, then the instruction with rs1 and rs2. -/
def crnFrame (s : State) (f7 : Nat) (x : Xr) (f : State → Issuer → Word → Word → State) : Res :=
  let h := s.hart s.curHart
  let w := crnInsn f7 x
  if isUser h.priv then .next (s.illegal w)
  else if Config.cobblers ≤ s.curHart ∧ f7 ≠ 14 ∧ f7 ≠ 16 then .next (s.illegal w)
  else if h.priv = .vs ∧ bitOf h.policy f7 = false then .next (s.virtIllegal w)
  else if s.ckptOn && (f7 == 0 || f7 == 2 || f7 == 8) then .next s
  else after (f s { hart := s.curHart, vs := h.priv == .vs } (hx h x.rs1) (hx h x.rs2))

/-- A status in rd ends the instruction. -/
def State.ends (s : State) (x : Xr) (st : Int) : State := s.retire x.rd (kv st)

/-- An operation on a region is taken in this fc, from a hart (R326). -/
def State.crnMark (s : State) (rid h : Nat) : State := { s with crnAt := tset s.crnAt rid (s.fc, h) }

/-- One of a later hart, or of KHR, has been taken in this fc: that of an earlier hart is not of this fc any more (R326). -/
def State.crnLate (s : State) (h rid : Nat) : Bool :=
  match tfind s.crnAt rid with
  | some (fc, k) => fc == s.fc && decide (h < k)
  | none => false

/-- The partition a VS issuer is confined to. -/
def State.foreign (s : State) (i : Issuer) (part : Nat) : Bool := i.vs && fld (s.hart i.hart).pmap 5 0 != part

/-- The region a RID operand names, with the checks of R326, R329 and R338; else the status. -/
def State.ridOp (s : State) (i : Issuer) (a : Word) (busyOk : Bool) : Except Int Region :=
  if fld a 63 12 ≠ 0 then .error kvEinval
  else
    match s.region? (fld a 11 0) with
    | none => .error kvEnoent
    | some r =>
      if s.foreign i r.part then .error kvEperm
      else if r.busy && !busyOk then .error kvEbusy
      else .ok r

/-- Address translation of an issuer. -/
def State.trOf (s : State) (i : Issuer) (a : Nat) : Option Nat := if i.vs then gStage s (s.hart i.hart) a false else some a

/-- Long operations a VS context has in progress on its Cobbler (R339). -/
def State.vsLong (s : State) (i : Issuer) : Nat :=
  (s.regions.filter (fun r => match r.2.lop with | some l => l.vs && l.hart == i.hart | none => false)).length
def State.longFull (s : State) (i : Issuer) : Bool := i.vs && decide (fld (s.hart i.hart).quota 7 0 ≤ s.vsLong i)

/-- A long operation starts on a region (R329, R332). -/
def State.lopStart (s : State) (i : Issuer) (rid f7 : Nat) (a b : Word) (start : Bool) (addr : Nat) : State :=
  s.updSync rid (fun r => { r with busy := true, lop := some { f7 := f7, a := a, b := b, hart := i.hart, vs := i.vs, start := start, addr := addr } })

/-! ## crn.fload (R329, R330) -/

/-- The image of a load as the issuer's addresses reach it. -/
def State.imgWord (s : State) (i : Issuer) (img off : Nat) : Word :=
  match s.trOf i (img + off) with | some pa => if isDram pa then s.rdW pa else 0 | none => 0

/-- The bytes of an image, from its header (R338). -/
def State.imgBytes (s : State) (i : Issuer) (img : Nat) : Nat :=
  let rd := s.imgWord i img
  let po := fld (rd 40) 31 0
  let pl := fld (rd 40) 47 32
  let n := Nat.max 64 (if pl = 0 then 64 else po + pl)
  imgExtent (fld (rd 24) 31 0) rd (fld (rd 32) 31 0) n

/-- The chain checks made at issue (R323, R324, R338, R354): the node list, or the status. -/
def State.chainCheck (s : State) (i : Issuer) (rcb : Nat) : Except Int (List Node) :=
  match s.chainOf (s.trOf i) rcb with
  | none =>
    .error kvEinval
  | some ns =>
    match ns with
    | [] => .error kvEinval
    | n :: _ =>
      let p := s.part (nPart n)
      let e := effOf ns
      if s.foreign i (nPart n) then .error kvEperm
      else if !partValid p ∨ !partCob p (fld e.2.1 63 56) ∨ (bitOf (partWord p 0) 56 ∧ fld e.2.2 63 32 < 8192) then .error kvEinval
      else .ok ns

/-- An RCB belongs to a region under another id: its STATE is not NONE (R324, R329). -/
def State.rcbHeld (s : State) (pa rid : Nat) : Bool := s.live.any (fun r => r.rcb == pa && r.rid != rid)

/-- crn.fload at issue: the new region in READY and BUSY, or the status. -/
def State.loadIssue (s : State) (i : Issuer) (rcb : Nat) (start : Bool) : Except Int State :=
  match s.chainCheck i rcb with
  | .error e => .error e
  | .ok ns =>
    match ns with
    | [] => .error kvEinval
    | n :: _ =>
      if (s.region? (nRid n)).isSome ∨ s.rcbHeld n.pa (nRid n) = true then .error kvEstate
      else if s.longFull i then .error kvEbusy
      else
        let r : Region := { rid := nRid n, rcb := n.pa, part := nPart n, st := rReady, image := (nW n 6).toNat }
        .ok ((s.setRegion (nRid n) (takeChain ns r)).lopStart i (nRid n) 0 (BitVec.ofNat 64 rcb) 0 start (nW n 7).toNat)

/-- The RCBs of a chain, from a node up, are blocks of an instruction (R323, R338). -/
def State.withChain (fuel : Nat) (s : State) (i : Issuer) (a : Nat) (first : Bool) (f : State → State) : State :=
  match fuel with
  | 0 => f s
  | k + 1 =>
    s.withBlock a 128 false (fun _ =>
      match s.trOf i a with
      | none => f s
      | some pa =>
        let n : Node := { pa := pa, w := s.rdWs pa 8 }
        if !nodeOk first n || nRoot n then f s else State.withChain k s i (fld (nW n 1) 63 7 * 128) false f)

/-- The blocks of a load: the chain of its RCB, image and report (R338). -/
def State.loadBlocks (s : State) (i : Issuer) (rcb : Nat) (f : State → State) : State :=
  s.withChain 16 i rcb true (fun s =>
    let img := match s.trOf i (rcb + 48) with | some pa => (s.rdW pa).toNat | none => 0
    let rpt := match s.trOf i (rcb + 56) with | some pa => (s.rdW pa).toNat | none => 0
    s.withBlock img 64 false (fun _ =>
      s.withBlock img (s.imgBytes i img) false (fun _ =>
        if rpt = 0 ∨ rpt % 16 ≠ 0 then f s else s.withBlock rpt 16 true (fun _ => f s))))

def execCrnFload (x : Xr) (s : State) : Res :=
  crnFrame s 0 x (fun s i a b =>
    if a.toNat % 128 ≠ 0 ∨ fld b 63 1 ≠ 0 then s.ends x kvEinval
    else s.loadBlocks i a.toNat (fun s =>
      match s.loadIssue i a.toNat (bitOf b 0) with
      | .error e => s.ends x e
      | .ok s => s.ends x 0))

/-! ## Running (R325, R329) -/

/-- The settings of the chain are read again, from the region's own RCB up, under the checks of a load (R323, R338). The RCB is known by its
physical address; its ancestors by the issuer's. -/
def State.rechain (s : State) (i : Issuer) (rid : Nat) : Option State :=
  let r := s.region rid
  let own := 2 ^ 64
  match s.chainOf (fun a => if a = own then some r.rcb else s.trOf i a) own with
  | some ns =>
    let p := s.part r.part
    let e := effOf ns
    if ns.all (fun n => nPart n == r.part) && partCob p (fld e.2.1 63 56) && !(bitOf (partWord p 0) 56 && decide (fld e.2.2 63 32 < 8192)) then
      some (onRegion s rid (takeChain ns)).eprios
    else none
  | none => none

/-- crn.frun as an operation: its status. -/
def State.runOp (s : State) (i : Issuer) (rid : Nat) : State × Int :=
  let r := s.region rid
  if r.st ≠ rReady ∧ r.st ≠ rFrozen then (s, kvEstate)
  else if r.mcheck then (s, kvEstate)
  else if s.recWaits rid then (s, kvEbusy)
  else
    match s.rechain i rid with
    | none => (s, kvEinval)
    | some s => if r.st = rReady then (s.startRun rid, 0) else (s.resumeRegion rid, 0)

/-- The ancestors of a region's RCB, as a run reads them again (R323, R338). -/
def State.withAncestors (s : State) (i : Issuer) (r : Region) (f : State → State) : State :=
  let n : Node := { pa := r.rcb, w := s.rdWs r.rcb 8 }
  if !nodeOk true n || nRoot n then f s else s.withChain 15 i (fld (nW n 1) 63 7 * 128) false f

def execCrnFrun (x : Xr) (s : State) : Res :=
  crnFrame s 4 x (fun s i a _ =>
    match s.ridOp i a false with
    | .error e => s.ends x e
    | .ok r =>
      let go := fun (s : State) => let (s, st) := s.runOp i r.rid; s.ends x st
      if (r.st ≠ rReady ∧ r.st ≠ rFrozen) ∨ r.mcheck = true ∨ s.recWaits r.rid = true then go s else s.withAncestors i r go)

/-- crn.fhalt as an operation. -/
def State.haltOp (s : State) (rid : Nat) : State × Int :=
  let r := s.region rid
  if r.st = rFrozen then (s, 0)
  else if r.st ≠ rRunning then (s, kvEstate)
  else (s.freezeNow rid (r.frzReq.getD 0), 0)

def execCrnFhalt (x : Xr) (s : State) : Res :=
  crnFrame s 5 x (fun s i a _ =>
    match s.ridOp i a false with
    | .error e => s.ends x e
    | .ok r => let (s, st) := s.haltOp r.rid; s.ends x st)

/-- crn.fmark: a parked region stands at a cut already; else the drain starts. -/
def State.markOp (s : State) (i : Issuer) (rid : Nat) : State × Int :=
  let r := s.region rid
  if r.st ≠ rRunning then (s, kvEstate)
  else if s.longFull i then (s, kvEbusy)
  else
    let s := s.lopStart i rid 6 0 0 false 0
    if r.parked then ((s.updSync rid (fun r => { r with st := rFrozen, frz := 2, settled := r.settled && settleReady r })).lopEnd rid 0, 0)
    else if r.drain.isSome then (onRegion s rid (fun r => { r with drainSl := false, drain := some 0 }), 0)
    else (onRegion s rid (drainStart s.fc false), 0)

def execCrnFmark (x : Xr) (s : State) : Res :=
  crnFrame s 6 x (fun s i a _ =>
    match s.ridOp i a false with
    | .error e => s.ends x e
    | .ok r => let (s, st) := s.markOp i r.rid; s.ends x st)

/-! ## LOAD_COMPLETE (R330, R332) -/

/-- A region leaves its pages: a region in their Insole planes becomes active and resident, its consumed count 0, in the state it held before
SHADOW, or READY (R471, log 54); one that is still loading has lost its host. -/
def State.unhost (s : State) (rid : Nat) : State :=
  ((s.regions.filter (fun x => x.2.host == some rid)).map (·.1)).foldl (fun s q =>
    s.updSync q (fun q =>
      if q.st ≠ rShadow ∨ q.tiles.isEmpty then { q with host := none }
      else { q with st := if q.shState = 0 then rReady else q.shState, shState := 0, host := none, res := true, active := true, parked := false,
                    spent := 0 })) s

/-- A region is no more: its RCB reads NONE and its id is free (R324, R325). -/
def State.removeRegion (s : State) (rid : Nat) : State :=
  let r := s.region rid
  let s := (onRegion (((s.queueRecs rid).weltLeave rid).unhost rid) rid (fun r =>
    { r with st := rNone, res := false, frz := 0, fidl := false, rpq := false, doneC := 0, eprio := 0, untrk := 0 })).sync rid
  { s with regions := tdel s.regions rid,
           parts := tmap s.parts (fun k p => if k = r.part then { p with calls := tmap p.calls (fun _ c => if c.rid = rid then { c with rid := Config.regionIds + 1 } else c) } else p) }

/-- The launch that started an operation ends with a failing status (R347). -/
def State.launchFail (s : State) (rid : Nat) (st : Int) : State :=
  let r := s.region rid
  (r.cmplt ++ r.cmpltQ ++ (r.lop.map (fun l => l.cw)).getD []).foldl (fun s cw => s.launchWord cw (kv st))
    (onRegion s rid (fun r => { r with cmplt := [], cmpltQ := [], lop := r.lop.map (fun l => { l with cw := [] }) }))

/-- A load or restore that fails: status, then no region. -/
def State.lopFail (s : State) (rid : Nat) (st : Int) : State := ((s.launchFail rid st).lopEnd rid st).removeRegion rid

/-- A restore that fails for want of place or for its configuration: a region that was OUT stays OUT (R322, R325). -/
def State.restFail (s : State) (rid : Nat) (st : Int) : State :=
  let r := s.region rid
  if r.rest then s.lopFail rid st
  else ((r.lop.map (fun l => l.cw)).getD []).foldl (fun s cw => s.launchWord cw (kv st)) s |> (fun s => s.lopEnd rid st)

/-- A load, restore or Insole load that waits for RESUME (R452). -/
def ckWaits (r : Region) : Bool := r.busy && (match r.lop with | some l => l.f7 == 0 || l.f7 == 2 || l.f7 == 8 | none => false)

/-- The load report (R330). -/
def badWords (b : Bad) : List Word :=
  [BitVec.ofNat 64 (b.code * 2 ^ 57 + b.page * 2 ^ 47 + b.pos * 2 ^ 43 + b.item * 2 ^ 35), BitVec.ofNat 64 b.ix]

def State.loadComplete (s : State) (rid : Nat) : State :=
  let r := s.region rid
  match r.lop with
  | none => s
  | some l =>
    if l.f7 ≠ 0 ∨ s.ckptOn = true then s
    else
      let i : Issuer := { hart := l.hart, vs := l.vs }
      let lim := if bitOf (partWord (s.part r.part) 0) 35 then Config.mtHalf else Config.mtBytes
      match checkImage (s.imgWord i r.image) lim with
      | .error b =>
        let s := match s.trOf i l.addr with
          | some pa => if l.addr = 0 then s else s.wrWs pa (badWords b)
          | none => s
        s.lopFail rid kvEreject
      | .ok m =>
        let r1 := buildRegion m (fld r.eff3 39 30) r
        if !framesFit r1 lim then s.lopFail rid kvEinval
        else if l.vs && decide (fld (s.hart l.hart).quota 17 8 < m.w * m.h) then s.lopFail rid kvEnospc
        else
          match s.place r1 with
          | .error e => if e = kvEnospc ∧ l.hart = 208 ∧ s.couldFit r1 = true then s else s.lopFail rid e
          | .ok r2 =>
            let s := (s.install { r2 with busy := true }).lopEnd rid 0
            if l.start then
              let (s, st) := s.runOp i rid
              if st < 0 then s.launchFail rid st else s
            else s

def execLoadComplete (rid : Nat) (s : State) : Res := after (s.loadComplete rid)

/-! ## Killing (R331, R364) -/

/-- One access of a killed region that has been issued: performed once, or dropped (log 3). -/
def State.killAcc (s : State) (rid acc : Nat) : State :=
  let (s, b) := s.flip
  if b then s.homeAccess rid acc else s

/-- What a killed region had sent to peers that may have deferred it is withdrawn there; the rest of its accesses is gone (R331). -/
def State.recallAll (s : State) (rid : Nat) (sent : List (Nat × Access)) : State :=
  onRegion (sent.foldl (fun s x => if x.2.back then s else s.recall rid x.1 x.2) s) rid (fun r =>
    { r with flight := r.flight.filter (fun a => a.2.back) })

/-- crn.fkill (R331). -/
def State.kill (s : State) (rid : Nat) : State :=
  let r := s.region rid
  let sent := r.flight.filter (fun a => mayRecall a.2 || a.2.back)
  let s := if r.busy then s.lopEnd rid kvEcancel else s
  let s := s.launchFail rid kvEcancel
  let s := onRegion s rid (fun r =>
    { clearMarks r with flight := r.flight.filter (fun a => a.2.st == .travel), frzReq := none })
  let s := s.wftKill rid
  let s := (((s.region rid).flight).map (·.1)).foldl (fun s a => s.killAcc rid a) s
  let s := (r.cwEnd).foldl (fun s x => s.launchWord x.1 1) s
  let s := s.recallAll rid sent
  let s := onRegion s rid (fun r => { r with strms := tmap r.strms (fun _ z => { z with st := 2 }), copies := [], rpq := false,
                                             cmpltQ := [], cwEnd := [] })
  (s.updSync rid (fun r => { r with st := rDying })).lqNotes

def execCrnFkill (x : Xr) (s : State) : Res :=
  crnFrame s 1 x (fun s i a _ =>
    match s.ridOp i a true with
    | .error e => s.ends x e
    | .ok r => if r.st = rDying then s.ends x kvEstate else (s.kill r.rid).ends x 0)

/-- SCRUB_COMPLETE: the MT words of the pages are zero and free, and STATE is NONE; a slicing group has ended before it (R331, R471). -/
def State.scrub (s : State) (rid : Nat) : State :=
  let r := s.region rid
  if r.st = rDying ∧ r.partner.isNone = true ∧ r.flight.isEmpty = true then s.removeRegion rid else s

def execScrubComplete (rid : Nat) (s : State) : Res := after (s.scrub rid)

/-! ## Replay (R336) -/

/-- crn.fpar as an operation; `patch` holds the words of the block, none for no patch. -/
def State.parOp (s : State) (rid : Nat) (patch : Option (List Val)) (cw : List Nat) : State × Int :=
  let r := s.region rid
  let put := fun (r : Region) =>
    match patch with
    | none => r
    | some ws =>
      { r with patch := true, par := parCells (ws.map (fun (v : Val) => v.bits)), parPres := [],
               parPois := (lenum ws).filterMap (fun (x : Nat × Val) => if x.2.pois then some x.1 else none) }
  if r.st ≠ rRunning ∧ r.st ≠ rFrozen ∧ r.st ≠ rIdle then (s, kvEstate)
  else if r.rpq then (s, kvReplayBusy)
  else if r.st = rIdle then ((onRegion s rid (fun r => { put r with cmplt := cw })).startReplay rid, 0)
  else (s.updSync rid (fun r => { put r with rpq := true, cmpltQ := cw }), 1)

def State.patchWords (s : State) (ps : List (Nat × Nat)) : List Val := (ps.map (fun p => (List.range (p.2 / 8)).map (fun k => s.rd8 (p.1 + 8 * k)))).flatten

def execCrnFpar (x : Xr) (s : State) : Res :=
  crnFrame s 15 x (fun s i a b =>
    match s.ridOp i a false with
    | .error e => s.ends x e
    | .ok r =>
      if b = 0 then let (s, st) := s.parOp r.rid none []; s.ends x st
      else if b.toNat % 4096 ≠ 0 then s.ends x kvEinval
      else s.withBlock b.toNat 4096 false (fun ps => let (s, st) := s.parOp r.rid (some (s.patchWords ps)) []; s.ends x st))

/-! ## Status and the wait-for table (R335, R337) -/

/-- The word a selector names, live. -/
def fstatWord (r : Region) (sel : Nat) : Word :=
  match sel with
  | 0 => rcbW8 r
  | 1 => rcbW9 r
  | 2 => rcbW10 r
  | 3 => rcbW11 r
  | 4 => rcbW8 r
  | 5 => r.eff3
  | 6 => r.eff4
  | _ => r.eff5

/-- A region as crn.fstat shows it: one that stands for a move reads FROZEN (R351). -/
def fstatShown (r : Region) : Region :=
  if r.moving && (r.st == rRunning || r.st == rIdle) then { r with st := rFrozen, frz := 0, fidl := r.st == rIdle } else r

def execCrnFstat (x : Xr) (s : State) : Res :=
  crnFrame s 14 x (fun s i a b =>
    if fld a 63 12 ≠ 0 ∨ 7 < b.toNat then s.ends x kvEinval
    else
      match s.region? (fld a 11 0) with
      | none => if b = 0 ∨ b = 4 then s.retire x.rd 0 else s.ends x kvEnoent
      | some r =>
        if s.foreign i r.part then s.ends x kvEperm
        else
          let w := fstatWord (fstatShown r) b.toNat
          (if b = 4 then s.updSync r.rid (fun r => { r with sdem := false }) else s).retire x.rd w)

def execCrnWftrd (x : Xr) (s : State) : Res :=
  crnFrame s 16 x (fun s i a b =>
    if Config.wftEntries ≤ a.toNat ∨ b.toNat % 32 ≠ 0 then s.ends x kvEinval
    else
      let e := tfind s.wft a.toNat
      if (match e with | some e => s.foreign i e.part | none => false) then s.ends x kvEperm
      else s.withBlock b.toNat 32 true (fun ps =>
        let ws := match e with | some e => wfeWords e | none => [0, 0, 0, 0]
        (ps.foldl (fun (y : State × List Word) p => (y.1.wrWs p.1 (y.2.take (p.2 / 8)), y.2.drop (p.2 / 8))) (s, ws)).1.ends x
          (if e.isSome then 1 else 0)))

def execCrnWftclr (x : Xr) (s : State) : Res :=
  crnFrame s 17 x (fun s i a _ =>
    if Config.wftEntries ≤ a.toNat then s.ends x kvEinval
    else
      match tfind s.wft a.toNat with
      | none => s.ends x kvEnoent
      | some e =>
        if s.foreign i e.part then s.ends x kvEperm
        else if (s.region e.rid).busy then s.ends x kvEbusy
        else
          let s := s.dropEntry e.id
          (onRegion s e.rid (fun r => r.updCt (keyOf e.page e.pos) (fun c => { c with hold := tdel c.hold e.slot }))).ends x 0)

/-! ## Tokens of a row (R334) -/

/-- The tile of a selector: on the issuing Cobbler's row, in a page of the region. -/
def rowTile (r : Region) (cob col : Nat) : Option Nat :=
  let row := cob / 48 / 2 * 48 + cob % 48
  let c := cob / 48 % 2 * 64 + col
  let pg := row / 4 * 32 + c / 4
  ((List.range (r.w * r.h)).find? (fun lp => physPage r lp == pg)).map (fun lp => keyOf lp (row % 4 * 4 + c % 4))

/-- Input channel of a selector's CH at a tile. -/
def chOf (key ch : Nat) : Option Nat :=
  if keyIsCt key then (if ch < 12 then some ch else none) else (if 16 ≤ ch ∧ ch < 26 then some (ch - 16) else none)

/-- The checks of both instructions, then the tile and channel. -/
def State.tokOp (s : State) (x : Xr) (i : Issuer) (a b : Word) (wr : Bool) (f : State → Region → Nat → Nat → List (Nat × Nat) → State) : State :=
  if fld a 51 22 ≠ 0 ∨ fld a 15 13 ≠ 0 ∨ fld a 7 2 ≠ 0 ∨ b.toNat % 8 ≠ 0 then s.ends x kvEinval
  else
    match s.ridOp i (BitVec.ofNat 64 (fld a 63 52)) false with
    | .error e => s.ends x e
    | .ok r =>
      if r.st ≠ rFrozen then s.ends x kvEstate
      else
        match rowTile r i.hart (fld a 21 16) with
        | none => s.ends x kvEperm
        | some key =>
          match chOf key (fld a 12 8) with
          | none => s.ends x kvEinval
          | some ch => s.withBlock b.toNat 96 wr (fun ps => f s r key ch ps)

def execCrnFtok (x : Xr) (s : State) : Res :=
  crnFrame s 12 x (fun s i a b =>
    s.tokOp x i a b true (fun s r key ch ps =>
      let c := r.chan key ch
      match c.buf[fld a 1 0]? with
      | none => s.ends x kvEnoent
      | some t =>
        let n := if ch < 8 then 1 else 8
        let ws := [BitVec.ofNat 64 (t.mark.toNat + t.col.toNat * 4 + t.pois.toNat % 2 ^ n * 2 ^ 12), 0]
          ++ (List.range 8).map (fun k => if k < n then vword t.pay k else 0) ++ [0, 0]
        let s := (ps.foldl (fun (y : State × List Word) p => (y.1.wrWs p.1 (y.2.take (p.2 / 8)), y.2.drop (p.2 / 8))) (s, ws)).1
        s.retire x.rd (BitVec.ofNat 64 c.buf.length)))

def execCrnFinject (x : Xr) (s : State) : Res :=
  crnFrame s 13 x (fun s i a b =>
    s.tokOp x i a b false (fun s r key ch ps =>
      let ws := s.pieceWords ps
      let h := ws.getD 0 0
      let vec := decide (8 ≤ ch)
      let pay := (ws.drop 2).take 8
      let t : Token := { pay := (vofWords (pay.map (fun w => { bits := w }))).bits, pois := BitVec.ofNat 8 (fld h 19 12),
                         mark := BitVec.ofNat 2 (fld h 1 0), col := BitVec.ofNat 10 (fld h 11 2) }
      if fld h 63 20 ≠ 0 ∨ ws.getD 1 0 ≠ 0 ∨ (!vec && ((pay.drop 1).any (fun w => w != 0) || decide (1 < fld h 19 12))) = true then s.ends x kvEinval
      else if tokHw t then s.ends x kvEperm
      else if (if vec then Config.vectorCap else Config.scalarCap) ≤ (r.chan key ch).buf.length then s.ends x kvEnospc
      else ((onRegion s r.rid (fun r => r.updIn key ch (fun c => { c with buf := c.buf ++ [t] }))).fedIn r.rid key ch).ends x 0))

/-! ## Extents (R383, R384) -/

/-- Contexts of a region that are bound. -/
def ctxNums (r : Region) : List Nat := r.strms.map (·.1) ++ r.copies.map (·.1)

/-- Pages of a range with a valid leaf the region may use, in ascending order. -/
def State.validPages (s : State) (r : Region) (vpn n : Nat) (own : Bool) : List (Nat × Leaf) :=
  (List.range n).filterMap (fun k =>
    let va := (vpn + k) * 2 ^ 16
    match s.walk r.part va with
    | .ok (l, _) => if own && !leafPeer l.1 && !partData (s.part r.part) (leafPa l va) then none else some (va, l)
    | .error _ => none)

/-- Install an extent in each context that is stalled on a page or wants it next. -/
def State.patchPages (s : State) (rid : Nat) (pages : List (Nat × Leaf)) : State :=
  pages.foldl (fun s p =>
    let r := s.region rid
    (ctxNums r).foldl (fun s c =>
      let r := s.region rid
      if (wantAddr r c).any (fun a => a.1 == 1 && a.2.1 / 2 ^ 16 == p.1 / 2 ^ 16 && !capRemote (capEntry r a.2.2) && (extFind (r.strm c) a.2.1).isNone) then
        s.addExt rid c (extentOf s r.part p.1 p.2)
      else s) s) s

/-- The block of crn.fpatch or crn.finval: first page and count, or malformed. -/
def rangeBlock (ws : List Word) (flags : Bool) : Option (Nat × Nat) :=
  let w1 := ws.getD 1 0
  if fld (ws.getD 0 0) 63 57 ≠ 0 ∨ fld (ws.getD 0 0) 15 0 ≠ 0 ∨ fld w1 (if flags then 61 else 63) 20 ≠ 0 ∨ ws.getD 2 0 ≠ 0 ∨ ws.getD 3 0 ≠ 0
      ∨ fld w1 19 0 = 0 then none
  else some (fld (ws.getD 0 0) 56 16, fld w1 19 0)

/-- The states and block of both instructions. -/
def State.rangeOp (s : State) (x : Xr) (i : Issuer) (a b : Word) (flags : Bool) (f : State → Region → Nat → Nat → Word → State) : State :=
  match s.ridOp i a false with
  | .error e => s.ends x e
  | .ok r =>
    if ¬ [rReady, rRunning, rFrozen, rIdle].contains r.st then s.ends x kvEstate
    else if b.toNat % 32 ≠ 0 then s.ends x kvEinval
    else s.withBlock b.toNat 32 false (fun ps =>
      let ws := s.pieceWords ps
      match rangeBlock ws flags with
      | none => s.ends x kvEinval
      | some (vpn, n) => f s r vpn n (ws.getD 1 0))

def execCrnFpatch (x : Xr) (s : State) : Res :=
  crnFrame s 10 x (fun s i a b =>
    s.rangeOp x i a b false (fun s r vpn n _ =>
      let pages := s.validPages r vpn n i.vs
      (s.patchPages r.rid pages).retire x.rd (BitVec.ofNat 64 pages.length)))

def inRange (vpn n va : Nat) : Bool := decide (vpn ≤ va % 2 ^ 57 / 2 ^ 16) && decide (va % 2 ^ 57 / 2 ^ 16 < vpn + n)

/-- Steps 1-3 of crn.finval: the contexts and accesses of the range pause, extents and cached leaves go, and accesses translated through
them are performed (R384). -/
def State.invalPages (s : State) (rid vpn n : Nat) : State :=
  let r := s.region rid
  let accs := r.flight.filterMap (fun a => if a.2.sp = 1 ∧ a.2.st = .travel ∧ a.2.home.isSome = true ∧ inRange vpn n a.2.addr = true then some a.1 else none)
  let s := accs.foldl (fun s a => s.homeAccess rid a) s
  let s := s.updPart r.part (fun p => { p with tlb := p.tlb.filter (fun e => !inRange vpn n (e.1 % 2 ^ 41 * 2 ^ 16)) })
  onRegion s rid (fun r => (ctxNums r).foldl (fun (r : Region) c =>
    r.setStrm c (fun z => { z with ext := z.ext.filter (fun e => decide (vpn + n ≤ e.vpn) || decide (e.vpn + e.npg ≤ vpn)) })) { r with pause := some (vpn, n) })

/-- An access of the region that left for a PEER leaf's home of the range has not been answered (R384 step 3). -/
def peerLeft (r : Region) (vpn n : Nat) : Bool :=
  r.flight.any (fun a => a.2.sp == 1 && ((a.2.via.isSome && a.2.st == .travel) || (a.2.st == .stalled 0x60 && a.2.home.isSome)) && inRange vpn n a.2.addr)

/-- PCLR: the presence bits of the pages become empty. -/
def State.clearPages (s : State) (pages : List (Nat × Leaf)) : State :=
  pages.foldl (fun s p =>
    if leafPeer p.2.1 || !isData (leafPa p.2 p.1) then s
    else
      let pa := leafPa p.2 p.1 / 2 ^ 16 * 2 ^ 16
      ({ s with mem := (List.range 1024).foldl (fun m k => wrByte m ((shadowAt pa).1 + k) 0) s.mem } : State).track pa) s

/-- RCHK: each context's capabilities by R79; a failing one stops with its trap at its next element (R384). -/
def State.recheck (s : State) (rid : Nat) : State :=
  let sl := sealOf s (s.region rid).part
  (ctxNums (s.region rid)).foldl (fun s c =>
    onRegion s rid (fun r =>
      let z := r.strm c
      if (z.st = 1 ∨ z.st = 3 ∨ z.st = 4) ∧ (if z.copy then cpCaps r sl z.desc else strmCaps r sl z.desc).isSome = true then
        r.setStrm c (fun z => { z with halt := 4 })
      else r)) s

/-- crn.finval, when no migration holds a page of its range; it waits, its pc unchanged, for what is at a peer (R384). -/
def execCrnFinval (x : Xr) (s : State) : Res :=
  crnFrame s 11 x (fun s i a b =>
    s.rangeOp x i a b true (fun s r vpn n w1 =>
      if (match (s.part r.part).mig with
          | some m => decide (vpn < m.vpn + (if m.big then 32 else 1)) && decide (m.vpn < vpn + n)
          | none => false) then s
      else
        let s := s.invalPages r.rid vpn n
        if peerLeft (s.region r.rid) vpn n then s else
        let s := onRegion s r.rid (fun r => { r with pause := none })
        let pages := s.validPages r vpn n i.vs
        let s := if bitOf w1 62 then s.clearPages pages else s
        let s := s.patchPages r.rid pages
        (if bitOf w1 63 then s.recheck r.rid else s).ends x 0))

end Sys2Proof.Machine
end

