-- ==== Sys2Proof/Machine/Slice.lean ====
section
/-! DEFINITION. Time slicing (R354-R358, R413, R414, R471): stages, the budget, the switch from the active member of a group to its
partner, the limit of its cut, and the end of a group. -/

namespace Sys2Proof.Machine

/-! ## Stages (R358) -/

/-- The refill FIFOs of a region. -/
def refillKeys (r : Region) : List Nat := (r.tiles.filter (fun t => refillTile t.2.act)).map (·.1)

/-- A FIFO holds an E token. -/
def fifoHasE (r : Region) (key : Nat) : Bool :=
  let p := r.pl key
  (List.range (fifoCount p)).any (fun i =>
    (entryTok (fifoVec p) ((r.mtWords (fifoAt p key (p.u.rhead + BitVec.ofNat 64 i)) (fifoEntry p / 8)).map (fun (v : Val) => v.bits))).mark == mkE)

/-- A parked stage is refilled; a region that is no stage needs no refill. -/
def refilled (r : Region) : Bool :=
  (refillKeys r).all (fun k => decide (fld (modeW (r.pl k)) 20 13 ≤ fifoCount (r.pl k))) || (refillKeys r).any (fifoHasE r)

/-- A stage yields: its refill FIFOs are empty, and no slot has been ready for 32 fc. -/
def yields (r : Region) : Bool :=
  !(refillKeys r).isEmpty && (refillKeys r).all (fun k => fifoCount (r.pl k) == 0) && decide (32 ≤ r.quiet)

/-! ## The switch (R356, R357) -/

/-- The partner may become active: it runs, and as a stage it is refilled. -/
def mayTake (p : Region) : Bool := p.st == rRunning && refilled p

/-- The partner is needed at once: by priority, or by a wait it holds. -/
def State.urgent (s : State) (a p : Region) : Bool :=
  decide (p.eprio < a.eprio) || s.entries.any (fun e => e.rid == a.rid && e.hv && e.hrid == p.rid)

/-- The active member runs undisturbed: a drain may start. -/
def sliceable (r : Region) : Bool :=
  r.active && r.st == rRunning && r.res && !r.parked && r.drain.isNone && r.frzReq.isNone

/-- BUDGET_EXPIRY: 2,048 fc of the budget remain, or the partner is needed: the drain starts; a spent budget with no partner to
switch to starts again. -/
def State.budgetExpiry (s : State) (rid : Nat) : State :=
  let r := s.region rid
  match r.partner with
  | none => s
  | some q =>
    let p := s.region q
    if !sliceable r then s
    else if mayTake p && (s.urgent r p || decide (effCyc r ≤ r.spent + 2048)) then onRegion s rid (drainStart s.fc true)
    else if effCyc r ≤ r.spent then onRegion s rid (fun r => { r with spent := 0 })
    else s

def execBudgetExpiry (rid : Nat) (s : State) : Res := .next (s.budgetExpiry rid)

/-- STAGE_YIELD: a yield counts as a spent budget. -/
def State.stageYield (s : State) (rid : Nat) : State :=
  let r := s.region rid
  match r.partner with
  | none => s
  | some q =>
    if !sliceable r || !yields r then s
    else if mayTake (s.region q) then onRegion s rid (drainStart s.fc true)
    else onRegion s rid (fun r => { r with spent := 0 })

def execStageYield (rid : Nat) (s : State) : Res := .next (s.stageYield rid)

/-- SLICE_CUT_TIMEOUT: the cut is not complete within 2,048 fc: the member stops where it stands; STATE and FRZ stay (R356, R414). -/
def sliceFreeze (fc : Nat) (r : Region) : Region :=
  match r.drain with
  | some n =>
    if n < 2048 ∨ r.drainSl = false then r
    else
      let r := r.keys.foldl (fun r k => swapTick (fc + 2) k r) r
      { clearMarks r with parked := true, res := false, settled := false, cut := false }
  | none => r

def execSliceCutTimeout (rid : Nat) (s : State) : Res := .next (s.updSync rid (sliceFreeze s.fc))

/-- What falls due in a drain or a budget at the end of an fc (R356-R358, R409, R414): the late markers, the limits of a drain and of a cut,
the start of a switch. -/
def State.sliceDue (s : State) (rid : Nat) : State :=
  let s := onRegion s rid (fun r => if r.drain = some 256 then markLate r else r)
  let s := s.drainOver rid
  let s := if (s.region rid).drain.isSome then s.updSync rid (sliceFreeze s.fc) else s
  (s.budgetExpiry rid).stageYield rid

/-- A member becomes active and resident, its consumed count 0; a running one goes on. -/
def becomeActive (sl : Nat) (calls : List (Nat × Nat)) (p : Region) : Region :=
  let p := { p with active := true, res := true, parked := false, spent := 0, quiet := 0 }
  if p.st = rRunning then { resumeParts sl calls p with settled := false, cut := false } else p

/-- The active member has stopped for the switch: at its cut or where it stood, frozen, or with its run complete. -/
def stoppedFor (r : Region) : Bool :=
  !r.moving && ((r.parked && r.settled) || (r.st == rFrozen && r.settled) || r.st == rIdle || r.st == rReady)

/-- SLICE_SWITCH: the planes and MT halves are exchanged (R356). -/
def State.sliceSwitch (s : State) (rid : Nat) : State :=
  let r := s.region rid
  match r.partner with
  | none => s
  | some q =>
    if r.active && stoppedFor r && mayTake (s.region q) && !(s.region q).active then
      (s.updSync rid (fun r => { r with active := false, res := false, parked := true, settled := true })).updSync q
        (becomeActive (sealOf s r.part) (s.callsOf q))
    else s

def execSliceSwitch (rid : Nat) (s : State) : Res := .next (s.sliceSwitch rid)

/-- A member that has stopped for a switch goes on where it stands when its partner may not, or no longer, become active; a spent budget
starts again from 0 (R357, R471). -/
def State.sliceKeep (s : State) (rid : Nat) : State :=
  let r := s.region rid
  if r.active && r.parked && r.settled && !r.moving && r.host.isNone && (match r.partner with | some q => !mayTake (s.region q) | none => true) then
    s.updSync rid (fun r =>
      let r := { r with parked := false, res := true, spent := if effCyc r ≤ r.spent then 0 else r.spent }
      if r.st = rRunning then { resumeParts (sealOf s r.part) (s.callsOf rid) r with settled := false, cut := false } else r)
  else s

/-- GROUP_END: a member that is killed or scanned out leaves; the survivor holds the pages alone (R471). -/
def State.groupEnd (s : State) (rid : Nat) : State :=
  let r := s.region rid
  match r.partner with
  | none => s
  | some q =>
    if r.st ≠ rDying ∧ r.st ≠ rOut then s
    else
      let leave := fun (s : State) => onRegion s rid (fun r => { r with partner := none, active := true, parked := false })
      if !r.active then (onRegion s q (fun p => { p with partner := none })).sync q |> leave
      else if (s.region q).settled then leave (s.updSync q (fun p => { becomeActive (sealOf s r.part) (s.callsOf q) p with partner := none }))
      else s

def execGroupEnd (rid : Nat) (s : State) : Res := .next (s.groupEnd rid)

end Sys2Proof.Machine
end

