-- ==== Sys2Proof/Machine/Rsi.lean ====
section
/-! DEFINITION. The Region Save Image (R415-R422): its records written from a region and read back into one. -/

namespace Sys2Proof.Machine

/-! ## Words and fields -/

/-- A word from fields, each a low bit and a value. -/
def pk (l : List (Nat × Nat)) : Word := BitVec.ofNat 64 (l.foldl (fun a x => a + x.2 * 2 ^ x.1) 0)
def nb (b : Bool) : Nat := if b then 1 else 0
def zeros (n : Nat) : List Word := List.replicate n 0
/-- Exactly n words. -/
def fit (n : Nat) (ws : List Word) : List Word := (ws ++ zeros n).take n
/-- n words of bits, and the numbers of the set bits of words. -/
def bitWords (n : Nat) (f : Nat → Bool) : List Word :=
  (List.range n).map (fun k => BitVec.ofNat 64 ((List.range 64).foldr (fun b a => nb (f (64 * k + b)) + 2 * a) 0))
def wordBits (ws : List Word) : List Nat := ((lenum ws).map (fun x => (bitsOf x.2.toNat 64).map (· + 64 * x.1))).flatten
/-- Narrow values packed into words, two or four to a word. -/
def pack32 (l : List Nat) : List Word :=
  match l with
  | [] => []
  | [a] => [BitVec.ofNat 64 a]
  | a :: b :: r => BitVec.ofNat 64 (a + 2 ^ 32 * b) :: pack32 r
def pack16 (l : List Nat) : List Word :=
  (List.range ((l.length + 3) / 4)).map (fun k => pk ((List.range 4).map (fun i => (16 * i, l.getD (4 * k + i) 0))))
def get16 (ws : List Word) (i : Nat) : Nat := fld (ws.getD (i / 4) 0) (16 * (i % 4) + 15) (16 * (i % 4))
def get32 (ws : List Word) (i : Nat) : Nat := fld (ws.getD (i / 2) 0) (32 * (i % 2) + 31) (32 * (i % 2))
/-- Words padded to a multiple of 64 bytes. -/
def pad64 (ws : List Word) : List Word := ws ++ zeros ((8 - ws.length % 8) % 8)
def slice (ws : List Word) (i n : Nat) : List Word := (ws.drop i).take n
/-- Keys with a non-zero word. -/
def tabOf (ws : List Word) : Tab Word := (lenum ws).filter (fun x => x.2 != 0)

/-! ## Channels (R418) -/

/-- Entries of a channel: 16 of 16 bytes, or 8 of 80 bytes. -/
def chanWords (p : Plane) (i : Nat) : List Word :=
  let vec := decide (8 ≤ i)
  fit (if vec then 80 else 32) (((tget p.inp {} i).buf.map (entryWords vec)).flatten)
def countWord (p : Plane) (n : Nat) : Word := pk ((List.range n).map (fun i => (5 * i, (tget p.inp {} i).buf.length)))
/-- Channels read back from a count word and the entries of eight scalar and nv vector channels. -/
def chansOf (cw : Word) (nv : Nat) (ws : List Word) : Tab Chan :=
  (List.range (8 + nv)).filterMap (fun i =>
    let vec := decide (8 ≤ i)
    let n := fld cw (5 * i + 4) (5 * i)
    let l := if vec then slice ws (256 + 80 * (i - 8)) 80 else slice ws (32 * i) 32
    let e := if vec then 10 else 2
    if n = 0 then none else some (i, { buf := (List.range n).map (fun k => entryTok vec (slice l (e * k) e)) }))
def countsOk (cw : Word) (n : Nat) : Bool := (List.range n).all (fun i => decide (fld cw (5 * i + 4) (5 * i) ≤ if i < 8 then 16 else 8))

/-! ## Pending operations (R418, R225) -/

/-- Operations that have arrived at their engines or tiles, in order of arrival there (R287, R300, R418). -/
def arrivedOps (r : Region) : List Nat :=
  (r.nles.map (fun n => ((match n.2.busy with | some b => [b.2] | none => []) ++ n.2.queue.map (fun x => x.2)))).flatten
    ++ (r.tiles.map (fun t => ((t.2.act.u.qs ++ t.2.ins.u.qs).map (fun q => q.2.flush.map (fun f => f.op))).flatten)).flatten
/-- SEQ puts the operations that have arrived at an engine in that order, before the others, which keep the order of issue. -/
def opOrder (r : Region) (id : Nat) : Nat :=
  let l := arrivedOps r
  match l.findIdx? (fun x => x == id) with | some i => i | none => l.length + id
/-- Every operation of a region, by tile, in the order of SEQ. -/
def regionOps (r : Region) : List (Nat × Nat × PendOp) :=
  sortBy (fun a b => decide (opOrder r a.2.1 ≤ opOrder r b.2.1)) ((r.tiles.map (fun t => (t.2.act.ct.ops ++ t.2.ins.ct.ops).map (fun o => (t.1, o.1, o.2)))).flatten)
/-- SEQ of an operation: its rank. -/
def opRank (r : Region) (id : Nat) : Nat := ((regionOps r).filter (fun o => decide (opOrder r o.2.1 < opOrder r id))).length

/-- Latch a: a sweep in progress keeps there how many tokens each destination has had (R301, log 21). -/
def opLatch (r : Region) (id : Nat) (o : PendOp) : Word :=
  if o.code = 0xE5 then
    match r.nles.find? (fun n => match n.2.busy with | some b => b.2 == id | none => false) with
    | some n => pk [(0, n.2.gone.getD 0 0), (32, n.2.gone.getD 1 0)]
    | none => o.a.bits
  else o.a.bits

/-- Entries of a tile that come before a mark in the order of arrival. -/
def flushMark (p : Plane) (f : Flush) : Nat := ((p.u.ents ++ p.u.ring).filter (fun e => decide (e.ord < f.mark))).length

/-- An EQFLUSH that has arrived: its mark, and its result, as latch b keeps them (log 21). -/
def opFlush (r : Region) (id : Nat) (o : PendOp) : Val :=
  match exqAddr r o.a.bits with
  | .ok (k, q) =>
    (match (exqSt (r.pl k) q).flush.find? (fun f => f.op == id) with
     | some f => { bits := pk [(0, flushMark (r.pl k) f), (32, f.n)] }
     | none => {})
  | .error _ => {}

/-- DEF and latch b: an arrived BARR keeps the word it found, an arrived EQFLUSH its mark and result (log 21). -/
def opDef (r : Region) (id : Nat) (o : PendOp) : Bool × Val :=
  let as := opAccs r o
  match as with
  | a :: _ =>
    (match a.op with
     | .barrWait v => (true, v)
     | _ => if o.code = 0xE1 then (if a.st = .done then (true, opFlush r id o) else (false, {})) else (as.any (fun a => a.sp != 3 && a.st == .stalled 0), o.b))
  | [] => (false, o.b)

def opWords (r : Region) (id : Nat) (o : PendOp) : List Word :=
  let (d, b) := opDef r id o
  [pk [(63, 1), (59, o.slot), (58, nb d), (36, opRank r id)], opLatch r id o, b.bits, pk [(0, nb o.a.pois), (1, nb b.pois), (2, o.col.toNat)]]

/-! ## Tile records (R418, R419) -/

def recWord (kind key plane : Nat) : Word := pk [(60, kind), (50, keyPage key), (46, keyPos key), (45, plane)]
def routeWords (p : Plane) (n : Nat) : List Word := ((List.range n).map (fun o => fit 4 (tget p.routes [] o))).flatten
def routesOf (ws : List Word) : Tab (List Word) :=
  (List.range (ws.length / 4)).filterMap (fun o =>
    match (slice ws (4 * o) 4).filter (· != 0) with
    | [] => none
    | l => some (o, l))
def vecsOf (ws : List Word) (pw : Word) : Tab VVal :=
  (List.range 8).map (fun k => (k, { vofWords ((slice ws (8 * k) 8).map (fun w => { bits := w })) with pois := BitVec.ofNat 8 (fld pw (8 * k + 7) (8 * k)) }))

/-- A CT plane record; ops are the words of its pending operations. -/
def ctWords (t : Tile) (p : Plane) (key plane : Nat) (ops : List Word) : List Word :=
  let c := p.ct
  let g := fun n => tget c.g {} n
  [recWord 0 key plane, c.mode,
   pk [(0, c.p.toNat), (16, c.pp.toNat), (32, c.arb)],
   pk ((0, c.sr.toNat) :: (46, c.pg.toNat) :: (List.range 14).map (fun n => (32 + n, nb (g n).pois))),
   countWord p 12, pk ((0, nb t.swS) :: (List.range 12).map (fun i => (1 + i, nb (t.swW.contains i)))),
   pk ((16, c.pv.toNat) :: (List.range 4).map (fun i => (4 * i, tget c.ci 0 i))), 0]
  ++ (List.range 16).map (fun n => tget c.slots 0 n) ++ (List.range 8).map (fun n => tget c.td 0 n) ++ (List.range 4).map (fun n => tget c.kcfg 0 n)
  ++ (List.range 4).map (fun n => pk [(0, (kGet c n).val.toNat), (32, nb (kGet c n).run)])
  ++ routeWords p 12 ++ ((List.range 4).map (fun o => fit 4 (tget p.croute [] o))).flatten
  ++ (List.range 14).map (fun n => (g n).bits) ++ zeros 2
  ++ ((List.range 8).map (fun n => (List.range 8).map (fun k => vword (tget c.v {} n).bits k))).flatten
  ++ pk ((List.range 8).map (fun n => (8 * n, (tget c.v {} n).pois.toNat))) :: zeros 7
  ++ bitWords 8 (fun i => (tget c.acc {} i).pois) ++ (List.range 512).map (fun i => (tget c.acc {} i).bits)
  ++ ((List.range 12).map (chanWords p)).flatten ++ fit 64 ops ++ zeros 8

/-- A CT plane read back over the plane of the image. -/
def ctPlane (ws : List Word) (b : Plane) : Plane :=
  let w := fun k => ws.getD k 0
  { b with
    routes := routesOf (slice ws 40 48), croute := routesOf (slice ws 88 16), inp := chansOf (w 4) 4 (slice ws 712 576),
    ct := { b.ct with
      mode := w 1, p := BitVec.ofNat 12 (fld (w 2) 11 0), pp := BitVec.ofNat 12 (fld (w 2) 27 16), arb := fld (w 2) 35 32,
      sr := BitVec.ofNat 32 (fld (w 3) 31 0), pg := BitVec.ofNat 14 (fld (w 3) 59 46), pv := BitVec.ofNat 8 (fld (w 6) 23 16),
      ci := ((List.range 4).map (fun i => (i, fld (w 6) (4 * i + 3) (4 * i)))).filter (fun x => x.2 != 0),
      slots := tabOf (slice ws 8 16), td := tabOf (slice ws 24 8), kcfg := tabOf (slice ws 32 4),
      k := (lenum (slice ws 36 4)).map (fun x => (x.1, { val := BitVec.ofNat 32 (fld x.2 31 0), run := bitOf x.2 32 })),
      g := (List.range 14).map (fun n => (n, { bits := w (104 + n), pois := bitOf (w 3) (32 + n) })),
      v := vecsOf (slice ws 120 64) (w 184),
      acc := (List.range 512).filterMap (fun i =>
        let x : Val := { bits := w (200 + i), pois := bitOf (w (192 + i / 64)) (i % 64) }
        if x = {} then none else some (i, x)) } }

/-- Entries of an EXQ store in a plane, and the place of the first: one store holds both planes' entries (R408). -/
def exqHeld (p : Plane) : List QEnt := if planeMode p = 7 then p.u.ents else []
def exqBase (t : Tile) (plane : Nat) : Nat := if plane = 0 then 0 else (exqHeld t.act).length

/-- Arrival order as it is saved: the entries a batch in emission has chosen come before 0x8000, all others after it (log 21). -/
def entOrd (e : QEnt) (k : Nat) : Nat := if e.chosen then k else 0x8000 + k

/-- Unit state words by mode; `at0` is the place of the plane's first store entry. -/
def unitWords (at0 : Nat) (p : Plane) : List Word :=
  let u := p.u
  match planeMode p with
  | 1 => [u.rhead, u.rtail]
  | 2 => [BitVec.ofNat 64 u.rows, BitVec.ofNat 64 u.col]
  | 3 => zeros 8 ++ bitWords 16 (fun c => u.frDone.contains c)
      ++ [match u.frBusy with | some (c, n) => pk [(63, 1), (32, c), (0, n)] | none => 0]
  | 6 => [BitVec.ofNat 64 u.rows, BitVec.ofNat 64 u.outIx]
  | 7 =>
    [u.lclk.zeroExtend 64, u.rhead, u.rtail, match u.batch with | some (q, n, _) => pk [(63, 1), (56, q), (0, n)] | none => 0] ++ zeros 4
    ++ ((List.range 16).map (fun q =>
      let z := exqSt p q
      [pk [(32, (z.x.getD 0).toNat), (31, nb z.x.isSome), (30, nb (!z.flush.isEmpty)), (28, z.cls.toNat)],
       pk [(32, match z.flush with | f :: _ => flushMark p f | [] => 0)]])).flatten
    ++ zeros (24 + at0) ++ (lenum u.ents).map (fun e => pk [(32, e.2.stamp.toNat), (31, 1), (27, e.2.q), (0, entOrd e.2 e.1)])
  | 8 => [u.wbase]
  | _ => []

/-- Unit state read back; entry words come from the MT bytes, and ring records from memory. -/
def unitState (ws : List Word) (mode : List Word) (ent : Nat → Val) (ring : Nat → QEnt) : MtU :=
  let u : MtU := {}
  let w := fun k => ws.getD k 0
  match fld (mode.getD 0 0) 63 60 with
  | 1 => { u with rhead := w 0, rtail := w 1 }
  | 2 => { u with rows := (w 0).toNat, col := (w 1).toNat }
  | 3 => { u with frDone := wordBits (slice ws 8 16), frBusy := if bitOf (w 24) 63 then some (fld (w 24) 41 32, fld (w 24) 3 0) else none }
  | 6 => { u with rows := (w 0).toNat, outIx := (w 1).toNat }
  | 7 =>
    let es := (lenum (slice ws 64 2048)).filter (fun x => bitOf x.2 31)
    let one := fun (x : Nat × Word) =>
      ({ q := fld x.2 30 27, stamp := BitVec.ofNat 32 (fld x.2 63 32), ord := fld x.2 15 0, w0 := ent (2 * x.1), w1 := ent (2 * x.1 + 1) } : QEnt)
    let es := (sortBy (fun a b => decide (a.ord % 0x8000 ≤ b.ord % 0x8000)) (es.map one))
    let n := (w 2 - w 1).toNat
    let rs := (List.range n).map (fun k => { ring ((w 1).toNat + k) with ord := es.length + k })
    let busy := bitOf (w 3) 63
    let q := fld (w 3) 59 56
    let b := fld (mode.getD (2 + q) 0) 55 48 + 1
    let pick := ((es.filter (fun e => e.q == q && decide (e.ord < 0x8000))).take (b - fld (w 3) 8 0 / 2)).map (fun e => e.ord)
    let es := (lenum es).map (fun e => { e.2 with chosen := busy && pick.contains e.2.ord, ord := e.1 })
    { u with
      lclk := BitVec.ofNat 32 (fld (w 0) 31 0), rhead := w 1, rtail := w 2, ring := rs, qord := es.length + n,
      ents := es, batch := if busy then some (q, fld (w 3) 8 0, pick.isEmpty) else none,
      qs := (List.range 16).map (fun q =>
        let a := w (8 + 2 * q)
        (q, { x := if bitOf a 31 then some (BitVec.ofNat 32 (fld a 63 32)) else none, cls := BitVec.ofNat 2 (fld a 29 28),
              flush := if bitOf a 30 then [{ mark := fld (w (9 + 2 * q)) 63 32 }] else [] })) }
  | 8 => { u with wbase := w 0 }
  | _ => u

/-- The word of a handle with its state code (R419). -/
def hndWord (h : Hnd) : Word := BitVec.ofNat 64 (h.word.toNat % 2 ^ 62 + h.st.toNat * 2 ^ 62)

/-- An MT plane record. -/
def mtWords (t : Tile) (p : Plane) (key plane : Nat) : List Word :=
  [recWord 1 key plane, pk ((0, nb t.swS) :: (List.range 10).map (fun i => (1 + i, nb (t.swW.contains i)))), countWord p 10] ++ zeros 5
  ++ fit 18 p.mode ++ zeros 6 ++ (List.range 8).map (fun h => hndWord (tget p.hs {} h)) ++ routeWords p 10
  ++ ((List.range 10).map (chanWords p)).flatten ++ fit 2560 (unitWords (exqBase t plane) p)

/-- An MT plane read back. -/
def mtPlane (ws : List Word) (ent : Nat → Val) (ring : Nat → QEnt) (b : Plane) : Plane :=
  let w := fun k => ws.getD k 0
  let mode := slice ws 8 (modeNw (w 8))
  { b with
    mode := if w 8 = 0 then [] else mode, routes := routesOf (slice ws 40 40), inp := chansOf (w 2) 2 (slice ws 80 416),
    hs := (tabOf (slice ws 32 8)).map (fun x =>
      (x.1, { word := BitVec.ofNat 64 (x.2.toNat % 2 ^ 62 + (tget b.hs {} x.1).word.toNat / 2 ^ 62 * 2 ^ 62), st := BitVec.ofNat 2 (fld x.2 63 62) })),
    u := unitState (slice ws 496 2560) mode ent ring }

/-- Swap parities read back. -/
def parOf (w : Word) (n : Nat) : Bool × List Nat := (bitOf w 0, (List.range n).filter (fun i => bitOf w (1 + i)))

/-! ## MT data (R417) -/

/-- The word before a saved window: its mark and the count of pairs; then nine words to a pair, in ascending id; each combine plane of a tile
that keeps a pair has one (log 21). -/
def excMark : Nat := 0x45584357
def excPairs (p : Plane) : List (Nat × Val × VVal) := if planeMode p = 8 then (p.u.win.map (fun s => s.2)).flatten else []
def excWords (p : Plane) : List Word :=
  let ps := excPairs p
  if planeMode p ≠ 8 then []
  else pk [(32, excMark), (0, ps.length)] :: (ps.map (fun x => x.2.1.bits :: (List.range 8).map (fun k => vword x.2.2.bits k))).flatten
def excWin (ws : List Word) (bad : Nat → Bool) : Tab (List (Nat × Val × VVal)) :=
  if fld (ws.getD 0 0) 63 32 ≠ excMark then []
  else
    (List.range (Nat.min (fld (ws.getD 0 0) 31 0) ((ws.length - 1) / 9))).foldl (fun t i =>
      let l := slice ws (1 + 9 * i) 9
      let h := l.getD 0 0
      let v := vofWords ((lenum (l.drop 1)).map (fun w => { bits := w.2, pois := bad (2 + 9 * i + w.1) }))
      tupd t [] (excHdr h).1 (fun o => o ++ [((excHdr h).2.1, { bits := h, pois := bad (1 + 9 * i) }, v)])) []

/-- Bytes of one MT's data in an image. -/
def mtSize (pair : Bool) : Nat := if pair then Config.mtHalf else Config.mtBytes

/-- Where a tile's saved windows begin, in words, and the words of both planes' windows. -/
def excBase (t : Tile) : Nat := if planeMode t.act = 7 ∨ planeMode t.ins = 7 then 0x1000 else 0
def excSaved (t : Tile) : List Word := if (excPairs t.act ++ excPairs t.ins).isEmpty then [] else excWords t.act ++ excWords t.ins

/-- Poison of the saved windows, word by word. -/
def excBad1 (p : Plane) : List Bool :=
  if planeMode p ≠ 8 then []
  else false :: ((excPairs p).map (fun x => x.2.1.pois :: (List.range 8).map (fun k => x.2.2.pois.getLsbD k))).flatten

/-- Whether word k of an MT is saved from an entry store or a window, which stand in its tile's bytes (R408, R419). -/
def unitOwned (t : Tile) (k : Nat) : Bool :=
  (decide (k < 0x1000) && (planeMode t.act == 7 || decide (k < 2 * (exqHeld t.ins).length)))
    || (decide (excBase t ≤ k) && (planeMode t.act == 8 || decide (k - excBase t < (excSaved t).length)))

/-- The word at an offset of an MT as it is saved. -/
def mtSaved (r : Region) (key off : Nat) : Val :=
  let t := r.tile key
  if !unitOwned t (off / 8) then r.mtRead (mtAddr key off) 8
  else
    match (if off < 0x8000 then (exqHeld t.act ++ exqHeld t.ins)[off / 16]? else none) with
    | some e => if off % 16 < 8 then e.w0 else e.w1
    | none =>
      if excBase t ≤ off / 8 then
        { bits := (excSaved t).getD (off / 8 - excBase t) 0, pois := (excBad1 t.act ++ excBad1 t.ins).getD (off / 8 - excBase t) false }
      else {}

/-- Data, presence bits and poison bits of one MT. -/
def mtSection (r : Region) (key : Nat) : List Word :=
  let n := mtSize r.pair / 8
  (List.range n).map (fun i => (mtSaved r key (8 * i)).bits)
    ++ bitWords (n / 64) (fun i => r.pres.contains (mtAddr key 0 / 8 + i)) ++ bitWords (n / 64) (fun i => (mtSaved r key (8 * i)).pois)

def mtKeys (w h : Nat) : List Nat := ((List.range (w * h)).map (fun pg => (List.range 8).map (fun m => keyOf pg (mtPos m)))).flatten

/-! ## Contexts and engines (R420, R421) -/

/-- 0 when a part of the image is the active plane of a tile, 1 when it is the Insole plane. -/
def planeNo (r : Region) (key plane : Nat) : Nat := if (plane == 1) == (r.pl key).shadow then 0 else 1

def extWords (x : Extent) (ctx : Nat) : List Word :=
  [pk [(63, 1), (59, ctx % 16), (16, x.vpn), (0, x.npg % 2 ^ 16)],
   pk [(45, x.dev), (44, nb x.peer), (43, nb x.pr), (42, nb x.w), (16, x.ppn), (15, nb x.r)]]

/-- What a write stream of a channel holds of the token it has taken: the elements not yet written, the poison and the payload; a control or
E token is no part of an image (log 21). -/
def heldPart (z : Strm) : Nat × Token :=
  match z.held with
  | t :: _ => if t.mark = mkC ∨ t.mark = mkE then (0, {}) else (tokBytes z.desc / (if dWcv z.desc then 8 else dEsz z.desc) - z.tokIx, t)
  | [] => (0, {})

def ctxWords (r : Region) (ctx : Nat) (z : Strm) : List Word :=
  let pn := if z.copy then 0 else planeNo r z.tile z.plane
  let st := if z.st = 1 ∧ (r.cut = true ∨ pn = 1) then 4 else z.st
  let wr := dWrite z.desc && dChan z.desc && !z.copy
  let (cnt, t) := if wr then heldPart z else (z.nPart, z.part)
  [pk [(60, nb z.copy), (50, keyPage z.tile), (46, keyPos z.tile), (45, pn), (43, z.item), (0, z.cid)], pk [(61, st)], BitVec.ofNat 64 z.next,
   pk [(0, cnt), (8, t.pois.toNat)], if z.copy then z.cw else 0, 0, 0, 0]
  ++ (List.range 8).map (fun k => vword t.pay k) ++ fit 8 z.desc
  ++ fit 32 ((z.ext.map (fun x => extWords x ctx)).flatten) ++ bitWords 64 (fun b => z.done.contains b)

/-- A context read back. -/
def ctxOf (ws : List Word) (shadow : Nat → Bool) : Strm :=
  let w := fun k => ws.getD k 0
  let copy := bitOf (w 0) 60
  let key := keyOf (fld (w 0) 59 50) (fld (w 0) 49 46)
  let d := slice ws 16 8
  let st := fld (w 1) 63 61
  let n := (w 2).toNat
  let done := wordBits (slice ws 56 64)
  let t : Token := { pay := (vofWords ((slice ws 8 8).map (fun x => { bits := x }))).bits, pois := BitVec.ofNat 8 (fld (w 3) 15 8), col := dCol d }
  let wr := dWrite d && dChan d && !copy
  let b := (n - 1) / Nat.max 1 (dBxe d)
  { tile := key, item := fld (w 0) 44 43, plane := if bitOf (w 0) 45 != shadow key then 1 else 0, desc := d, st := st, next := n, got := n,
    part := if wr then {} else t, nPart := if wr then 0 else fld (w 3) 7 0, held := if wr ∧ 0 < fld (w 3) 7 0 then [t] else [],
    tokIx := if wr ∧ 0 < fld (w 3) 7 0 then tokBytes d / (if dWcv d then 8 else dEsz d) - fld (w 3) 7 0 else 0, done := done,
    box := if !copy && !dChan d && decide (0 < n) && st != 2 && st != 0 && !done.contains b then some b else none,
    eTok := st == 2, compl := if st = 2 then 2 else if copy ∧ w 4 = 0 then 2 else 0, copy := copy, cid := fld (w 0) 15 0, cw := w 4 }

/-- Words of a particle in the NLBIN layout (R305). -/
def partWords (p64 : Bool) (x : Particle) : List Word :=
  if p64 then (x.x.map (BitVec.ofNat 64)) ++ [x.id.zeroExtend 64] else pack32 (x.x ++ [x.id.toNat])

def nleWords (r : Region) (e : Nat) (n : Nle) : List Word :=
  let p64 := nlP64 n.cfg
  let pos := (n.parts.map (fun p => p.bin)).flatten
  pad64 ([pk [(58, e)], nlStatus r e, BitVec.ofNat 64 n.parts.length] ++ zeros 5 ++ fit 8 n.cfg
    ++ (n.parts.map (partWords p64)).flatten ++ (if p64 then pos.map (BitVec.ofNat 64) else pack32 pos))

/-- Words of an engine record with `n` particles. -/
def nleLen (p64 : Bool) (n : Nat) : Nat := let k := 16 + (if p64 then 7 * n else 2 * n + (3 * n + 1) / 2); k + (8 - k % 8) % 8

/-- An engine read back: the binned positions are binned again (R421). -/
def nleOfWords (ws : List Word) : Nat × Nle :=
  let w := fun k => ws.getD k 0
  let cfg := slice ws 8 8
  let p64 := nlP64 cfg
  let n := (w 2).toNat
  let ps := (List.range n).map (fun i =>
    let l := if p64 then slice ws (16 + 4 * i) 4 else slice ws (16 + 2 * i) 2
    let b := ws.drop (16 + (if p64 then 4 else 2) * n)
    ({ x := (List.range 3).map (fun k => if p64 then (l.getD k 0).toNat else get32 l k),
       id := BitVec.ofNat 32 (if p64 then (l.getD 3 0).toNat else get32 l 3),
       bin := (List.range 3).map (fun k => if p64 then (b.getD (3 * i + k) 0).toNat else get32 b (3 * i + k)) } : Particle))
  let bd := match nlBin cfg (ps.map (fun p => { p with x := p.bin })) with | .ok l => l | .error _ => []
  (fld (w 0) 63 58,
   { st := fld (w 1) 63 61, cfg := cfg, code := fld (w 1) 47 40, info := if fld (w 1) 63 61 = 4 then fld (w 1) 22 0 else 0,
     parts := (ps.zip bd).map (fun x => { x.1 with cell := x.2.cell, slot := x.2.slot }) })

/-- Engine records of a section, one after another. -/
def nleRecs (fuel : Nat) (ws : List Word) : List (List Word) :=
  match fuel, ws with
  | f + 1, _ :: _ =>
    let n := nleLen (bitOf (ws.getD 8 0) 63) (ws.getD 2 0).toNat
    ws.take n :: nleRecs f (ws.drop n)
  | _, _ => []

/-! ## The image -/

/-- Records of a region that are not yet in a ring, in delivery order (R342). -/
def State.recsOf (s : State) (rid : Nat) : List Rec :=
  ((s.harts.map (fun h => (h.2.fh.queue ++ h.2.fv.queue).filter (fun x => fld (x.w.getD 0 0) 47 36 == rid))).flatten)
    ++ s.recQ.filter (fun x => fld (x.w.getD 0 0) 47 36 == rid) ++ (s.region rid).recs

/-- The number of a context in its AGT: its place among the contexts there, by region and by number (R377, log 38). -/
def State.agtNo (s : State) (r : Region) (c : Nat) : Nat :=
  let g := agtOf r (r.strm c).tile
  let mine := fun (q : Region) => ((q.strms ++ q.copies).filter (fun x => agtOf q x.2.tile == g)).map (fun x => x.1)
  let before := (s.live.filter (fun q => q.st != rOut && decide (q.rid < r.rid))).map (fun q => (mine q).length)
  (before.foldl (· + ·) 0 + ((mine r).findIdx (· == c))) % 16

/-- Sections 0-11 (R417). -/
def State.rsiSections (s : State) (r : Region) : List (List Word) :=
  let ctx := fun (c : Nat) => s.agtNo r c
  let planes := fun (t : Tile) => if r.shp then [(0, t.act), (1, t.ins)] else [(0, t.act)]
  [s.rdWs r.rcb 16,
   ((List.range 256).map (fun i => fit 4 (capEntry r i))).flatten,
   (List.range 512).map (fun i => BitVec.ofNat 64 (rdNat r.par (8 * i) 8)),
   (r.tiles.map (fun t => ((planes t.2).map (fun p =>
     if keyIsCt t.1 then ctWords t.2 p.2 t.1 p.1 (p.2.ct.ops.map (fun o => opWords r o.1 o.2)).flatten
     else mtWords t.2 p.2 t.1 p.1)).flatten)).flatten,
   ((mtKeys r.w r.h).map (mtSection r)).flatten,
   (r.strms.map (fun z => ctxWords r (ctx z.1) z.2)).flatten,
   (r.copies.map (fun z => ctxWords r (ctx z.1) z.2)).flatten,
   (r.nles.map (fun n => nleWords r n.1 n.2)).flatten,
   ((s.entries.filter (fun e => e.rid == r.rid)).map wfeWords).flatten,
   ((((s.part r.part).holds).filter (fun d => d.2.2 == r.rid)).map (fun d => [pk [(0, d.1)], d.2.1])).flatten,
   [pk [(0, r.coln), (10, r.pool.length)]] ++ zeros 7 ++ fit 256 (pack16 r.pool)
     ++ pack16 ((List.range 1024).map (fun c => let x := tget r.cols {} c; nb (x.st == .live) * 2 ^ 14 + x.par.toNat)),
   ((s.recsOf r.rid).map (fun x => fit 8 x.w ++ x.more)).flatten]

/-- The whole image, its digest last (R416, R417, R423). -/
def State.rsiWords (s : State) (r : Region) : List Word :=
  let dig := bitOf (partWord (s.part r.part) 0) 51
  let secs := s.rsiSections r
  let ends := secs.foldl (fun (l : List Nat) x => l ++ [l.getLastD 64 + (pad64 x).length]) []
  let offs := 64 :: ends
  let tot := offs.getLastD 64
  let st := if r.st = rShadow then (if r.shState = 0 then rReady else r.shState) else r.st
  let hdr : List Word :=
    [pk [(32, 0x52534931), (16, 1)],
     pk [(52, r.rid), (46, r.part), (43, st), (41, if st = rFrozen then r.frz.toNat else 0), (40, nb (st == rFrozen && r.cut)), (39, nb dig), (38, nb r.shp),
         (37, nb r.pair), (36, nb (r.st == rShadow)), (30, r.w % 64), (25, r.h), (24, nb (st == rFrozen && r.fidl))],
     BitVec.ofNat 64 (8 * (tot + if dig then 8 else 0)), r.rcyc, pk [(16, r.cpyid)], 0, 0, 0]
    ++ ((List.range 13).map (fun k => [BitVec.ofNat 64 (8 * offs.getD k tot),
        BitVec.ofNat 64 (if k = 12 then (if dig then 64 else 0) else 8 * (secs.getD k []).length)])).flatten
  let body := fit 64 hdr ++ (secs.map pad64).flatten
  if dig then body ++ sha3 ((body.map wordBytes).flatten) else body

/-! ## Reading an image -/

/-- Words of a section. -/
def rsiSec (rd : Nat → Word) (k : Nat) : List Word :=
  let off := (rd (64 + 16 * k)).toNat
  (List.range ((rd (72 + 16 * k)).toNat / 8)).map (fun i => rd (off + 8 * i))

def rsiW (rd : Nat → Word) : Nat := fld (rd 8) 35 30
def rsiH (rd : Nat → Word) : Nat := fld (rd 8) 29 25
def rsiShp (rd : Nat → Word) : Bool := bitOf (rd 8) 38
def rsiPair (rd : Nat → Word) : Bool := bitOf (rd 8) 37

/-- Tile records of section 3: tile, plane, words. -/
def rsiTiles (rd : Nat → Word) : List (Nat × Nat × List Word) :=
  let keys := ((List.range (rsiW rd * rsiH rd)).map (fun pg => (List.range 16).map (fun pos => keyOf pg pos))).flatten
  let recs := (keys.map (fun k => if rsiShp rd then [(k, 0), (k, 1)] else [(k, 0)])).flatten
  (recs.foldl (fun (x : List (Nat × Nat × List Word) × List Word) y =>
    let n := if keyIsCt y.1 then 1360 else 3056
    (x.1 ++ [(y.1, y.2, x.2.take n)], x.2.drop n)) (([] : List (Nat × Nat × List Word)), rsiSec rd 3)).1

/-- Records of equal length of a section. -/
def chunks (n : Nat) (ws : List Word) : List (List Word) := (List.range (ws.length / n)).map (fun i => slice ws (n * i) n)

/-- Words of a pending operation are well formed (R418). -/
def opWordsOk (ws : List Word) : Bool :=
  let w := fun k => ws.getD k 0
  if bitOf (w 0) 63 then fld (w 0) 57 52 == 0 && fld (w 0) 35 0 == 0 && fld (w 3) 63 12 == 0 else ws.all (· == 0)

/-- A tile record holds nothing but what a write of it would give, and counts within their limits (R424). -/
def tileOk (x : Nat × Nat × List Word) : Bool :=
  let (key, plane, ws) := x
  let none' := fun (_ : Nat) => ({} : Val)
  if keyIsCt key then
    let p := ctPlane ws {}
    let (a, b) := parOf (ws.getD 5 0) 12
    countsOk (ws.getD 4 0) 12 && (chunks 4 (slice ws 1288 64)).all opWordsOk
      && ctWords { swS := a, swW := b } p key plane (slice ws 1288 64) == ws
  else
    let p := mtPlane ws none' (fun _ => {}) {}
    let (a, b) := parOf (ws.getD 1 0) 10
    let t := mtWords { swS := a, swW := b } { p with hs := (tabOf (slice ws 32 8)).map (fun h => (h.1, { word := h.2, st := BitVec.ofNat 2 (fld h.2 63 62) })) } key plane
    countsOk (ws.getD 2 0) 10 && t.take 496 == ws.take 496
      && (let u := slice ws 496 2560
          if fld (ws.getD 8 0) 63 60 = 7 then
            (slice u 4 4 ++ slice u 40 24 ++ slice u 2112 448).all (· == 0) && decide (((u.getD 2 0) - (u.getD 1 0)).toNat ≤ exqRing p)
              && (slice u 64 2048).all (fun e => fld e 26 16 == 0 && (bitOf e 31 || e == 0))
          else fit 2560 (unitWords 0 p) == u && (planeMode p != 1 || decide (fifoCount p ≤ fifoCap p)))

/-- Two words of an extent: reserved fields 0, an unused one 0 (R377, R420). -/
def extOk (ws : List Word) : Bool :=
  if bitOf (ws.getD 0 0) 63 then fld (ws.getD 0 0) 58 57 == 0 && fld (ws.getD 1 0) 14 0 == 0 else ws.all (· == 0)

/-- Bytes of a channel's token that one element takes. -/
def dDebOrWrite (d : List Word) : Nat := if dWcv d then 8 else if dWrite d then dEsz d else dDeb d

/-- A context record is well formed (R420, R424). -/
def ctxOk (pages : Nat) (copy : Bool) (ws : List Word) : Bool :=
  let w := fun k => ws.getD k 0
  let d := slice ws 16 8
  fld (w 0) 63 60 == nb copy && decide (fld (w 0) 59 50 < pages) && fld (w 0) 42 16 == 0 && fld (w 1) 60 0 == 0 && decide (fld (w 1) 63 61 ≤ 4)
    && decide ((w 2).toNat ≤ dN d) && fld (w 3) 63 16 == 0
    && (copy && fld (w 3) 7 0 == 0 || !copy && decide (fld (w 3) 7 0 ≤ if dChan d then tokBytes d / dDebOrWrite d else 0)) && (copy || w 4 == 0) && (slice ws 5 3).all (· == 0)
    && (chunks 2 (slice ws 24 32)).all extOk

/-- Fault records, each with its members, have RES0 fields of 0 and a code of R7 (R399, R424). -/
def recsOk (fuel : Nat) (ws : List Word) : Bool :=
  match fuel, ws with
  | _, [] => true
  | 0, _ => false
  | f + 1, _ =>
    let w := fun k => ws.getD k 0
    let n := fld (w 0) 6 0
    decide (fld (w 0) 56 54 ≤ 4) && fld (w 6) 63 16 == 0 && w 7 == 0 && decide (8 * (n + 1) ≤ ws.length) && recsOk f (ws.drop (8 * (n + 1)))

/-- THE CHECKS OF R424 but for the configuration: magic, lengths, RES0 fields, counts, codes and the digest. -/
def rsiOk (rd : Nat → Word) : Bool :=
  let f := fun (k hi lo : Nat) => fld (rd (8 * k)) hi lo
  let off := fun k => (rd (64 + 16 * k)).toNat
  let len := fun k => (rd (72 + 16 * k)).toNat
  let pages := rsiW rd * rsiH rd
  let mul := 1 + nb (rsiShp rd)
  let n := mtSize (rsiPair rd)
  f 0 63 16 == 0x525349310001 && f 0 15 0 == 0 && f 1 23 0 == 0 && f 4 63 32 == 0 && f 4 15 0 == 0 && [5, 6, 7].all (fun k => rd (8 * k) == 0)
    && (List.range 30).all (fun k => rd (8 * (34 + k)) == 0) && [1, 3, 4].contains (f 1 45 43) && f 1 42 41 != 3
    && decide (1 ≤ rsiW rd) && decide (rsiW rd ≤ 32) && decide (1 ≤ rsiH rd) && decide (rsiH rd ≤ 24)
    && decide ((rd 16).toNat < 2 ^ 40)
    && (List.range 13).all (fun k => off k % 64 == 0 && len k % 8 == 0 && decide ((if k = 0 then 512 else off (k - 1) + len (k - 1)) ≤ off k))
    && (rd 16).toNat == off 12 + len 12
    && len 0 == 128 && len 1 == 8192 && len 2 == 4096 && len 3 == pages * 8 * (10880 + 24448) * mul && len 4 == pages * 8 * (n + n / 32)
    && len 5 % 960 == 0 && len 6 % 960 == 0 && len 8 % 32 == 0 && len 9 % 16 == 0 && len 10 == 4160 && len 11 % 64 == 0 && recsOk (len 11 / 64) (rsiSec rd 11)
    && len 12 == (if bitOf (rd 8) 39 then 64 else 0)
    && (rsiTiles rd).all tileOk
    && (chunks 120 (rsiSec rd 5)).all (ctxOk pages false) && (chunks 120 (rsiSec rd 6)).all (ctxOk pages true)
    && (let l := nleRecs 64 (rsiSec rd 7)
        8 * (l.map List.length).foldl (· + ·) 0 == len 7
          && l.all (fun ws => fld (ws.getD 0 0) 57 0 == 0 && decide (fld (ws.getD 1 0) 63 61 ≤ 4) && (slice ws 3 5).all (· == 0)
            && decide ((ws.getD 2 0).toNat ≤ nlCap (slice ws 8 8))))
    && (chunks 4 (rsiSec rd 8)).all (fun ws => bitOf (ws.getD 0 0) 63 && fld (ws.getD 0 0) 3 0 == 0 && decide (fld (ws.getD 0 0) 20 17 ≤ 8) && ws.getD 3 0 == 0)
    && (chunks 2 (rsiSec rd 9)).all (fun ws => fld (ws.getD 0 0) 63 4 == 0)
    && (let ws := rsiSec rd 10
        fld (ws.getD 0 0) 63 21 == 0 && decide (fld (ws.getD 0 0) 20 10 ≤ fld (ws.getD 0 0) 9 0) && (slice ws 1 7).all (· == 0)
          && (List.range 1024).all (fun c => let x := get16 (slice ws 264 256) c; decide (x / 2 ^ 14 ≤ 1) && x / 2 ^ 10 % 16 == 0))
    && (!bitOf (rd 8) 39 || sha3 (((List.range (off 12 / 8)).map (fun i => wordBytes (rd (8 * i)))).flatten) == rsiSec rd 12)

/-- The configuration of a plane as image records, for the checks of R137. -/
def planeRecs (sh : Bool) (key : Nat) (p : Plane) : List ImgRec :=
  let mk := fun (typ item : Nat) (w : List Word) =>
    ({ ix := 0, sh := sh, typ := typ, page := keyPage key, pos := keyPos key, item := item, w := w } : ImgRec)
  (if keyIsCt key then
    p.ct.slots.map (fun x => mk 1 x.1 [x.2]) ++ [mk 3 0 [p.ct.mode]] ++ p.ct.kcfg.map (fun x => mk 6 x.1 [x.2])
      ++ p.croute.map (fun x => mk 6 (4 + x.1) x.2) ++ p.ct.td.map (fun x => mk 7 x.1 [x.2])
   else (match p.mode with | [] => [] | m => [mk 3 0 m]) ++ p.hs.map (fun x => mk 9 x.1 [BitVec.ofNat 64 (x.2.word.toNat % 2 ^ 62)]))
  ++ p.routes.map (fun x => mk 5 x.1 x.2) ++ p.welt.map (fun x => mk 11 x.1 [x.2])

/-- The image records of a region, numbered. -/
def regionRecs (r : Region) : List ImgRec :=
  let caps := r.caps.map (fun c => ({ ix := 0, sh := false, typ := 8, page := 0, pos := 0, item := c.1, w := c.2 } : ImgRec))
  let tiles := (r.tiles.map (fun t => planeRecs false t.1 t.2.act ++ (if r.shp then planeRecs true t.1 t.2.ins else []))).flatten
  let strms := r.strms.map (fun z => ({ ix := 0, sh := decide (planeNo r z.2.tile z.2.plane = 1), typ := 4, page := keyPage z.2.tile, pos := keyPos z.2.tile,
                                        item := z.2.item, w := z.2.desc } : ImgRec))
  (lenum (caps ++ tiles ++ strms)).map (fun x => { x.2 with ix := x.1 })

/-- The checks of R137 on a region's configuration: the first failure. -/
def configCheck (r : Region) : Option Bad :=
  let lim := mtSize r.pair
  let l := regionRecs r
  match l.findSome? (fun x => (ownCheck r.w r.h lim x).map (fun c => badAt c x)) with
  | some b => some b
  | none =>
    match crossCheck r.w r.h l (l.filter (fun x => !x.sh)) with
    | some b => some b
    | none => crossCheck r.w r.h l (l.filter (fun x => x.sh))

end Sys2Proof.Machine
end

