-- ==== Sys2Proof/Machine/Save.lean ====
section
/-! DEFINITION. Scan-out, restore, move, Insole loads and exchanges (R333, R351, R408, R423-R425). -/

namespace Sys2Proof.Machine

/-! ## Scan-out (R423) -/

/-- The region stands where it can be saved. -/
def scanReady (r : Region) : Bool :=
  (r.st == rFrozen && r.settled) || r.st == rReady || (r.st == rIdle && settleReady r) || r.st == rShadow

/-- Words of an issuer's memory. -/
def State.putWords (s : State) (i : Issuer) (a : Nat) (ws : List Word) : State :=
  (lenum ws).foldl (fun s x =>
    match s.trOf i (a + 8 * x.1) with
    | some pa => if isDram pa then s.wrW pa x.2 else s
    | none => s) s

def execCrnFscan (x : Xr) (s : State) : Res :=
  crnFrame s 7 x (fun s i a b =>
    match s.ridOp i a false with
    | .error e => s.ends x e
    | .ok r =>
      if ¬ [rReady, rFrozen, rIdle, rShadow].contains r.st ∨ r.mcheck = true then s.ends x kvEstate
      else if b.toNat % 4096 ≠ 0 then s.ends x kvEinval
      else if s.longFull i then s.ends x kvEbusy
      else s.withBlock b.toNat (8 * (s.rsiWords r).length) true (fun _ =>
        (s.lopStart i r.rid 7 a b false b.toNat).ends x 0))

/-- Tokens on the way, and emissions behind a place of a withdrawn operation, stand in their channels (log 21). -/
def landTokens (fc : Nat) (r : Region) : Region :=
  let r := r.keys.foldl (fun r k =>
    (r.updPl k (fun p => { p with outq := p.outq.filter (fun e => e.tok.isSome) })).drainOut fc k) r
  { r with tiles := tmap r.tiles (fun _ t =>
      { t with act := { t.act with inp := tmap t.act.inp (fun _ c => { c with buf := c.buf ++ c.wire.map (·.2), wire := [] }) } }) }

/-- The region, its operations withdrawn, before it is written: performed operations complete, colours clear, tokens in their channels. -/
def State.scanPrepare (s : State) (rid : Nat) : State :=
  let s := (regionOps (s.region rid)).foldl (fun s o => s.completeLong rid o.1 o.2.1) s
  onRegion s rid (fun r =>
    landTokens s.fc (((r.cols.filter (fun c => c.2.st == .clearing)).map (·.1)).foldl (fun r c => colourClearDone c r) r))

/-- The owner of an access as an image names it: operations by their rank, copies by their place in section 6. -/
def rankOwner (r : Region) (o : Owner) : Owner :=
  match o with
  | .pe k id ix => .pe k (opRank r id) ix
  | .copy c e x m => .copy (copyBase + r.copies.findIdx (fun z => z.1 == c)) e x m
  | o => o
/-- The operations of a region that has been restored, in the order of SEQ, which is that of their issue. -/
def opIds (r : Region) : List Nat := sortBy (fun a b => decide (a ≤ b)) ((regionOps r).map (fun o => o.2.1))
/-- The same owner in the region that has been restored: `ids` are its operations in the order of SEQ. -/
def idOwner (ids : List Nat) (o : Owner) : Owner := match o with | .pe k n ix => .pe k (ids.getD n 0) ix | o => o

/-- What the device keeps of a region besides its image (log 21). -/
def keepOf (r : Region) : Kept :=
  let units := (r.tiles.map (fun t => [(2 * t.1, t.2.act.u), (2 * t.1 + 1, t.2.ins.u)])).flatten
  { rcyc := r.rcyc, parPres := r.parPres, parPois := r.parPois,
    held := (lenum r.strms).filterMap (fun z => if z.2.2.held.isEmpty then none else some (z.1, z.2.2.held, z.2.2.tokIx)), cstat := r.cstat,
    units := units.filter (fun u => !u.2.greqs.isEmpty || !u.2.sreqs.isEmpty || !u.2.win.isEmpty),
    accs := r.flight.filterMap (fun a =>
      match a.2.own, a.2.st with
      | .unit _ _, .done => some (a.1, 0, a.2.ans)
      | .unit _ _, .failed c => some (a.1, c, a.2.ans)
      | _, _ => none) }

/-- A unit with its requests as they were kept: what had been performed is answered, the rest is issued again (R225). -/
def putUnit (k : Kept) (key : Nat) (v u : MtU) (r : Region) : MtU × Region :=
  let one := fun (tag n : Nat) (r : Region) =>
    match tfind k.accs n with
    | some (c, a) => if n = 0 then (0, r) else
      let (r', m) := issue { own := .unit key tag, op := .read 8, st := if c = 0 then .done else .failed c, ans := a } r
      (m, r')
    | none => (0, r)
  let (gs, r) := v.greqs.foldl (fun (x : List GReq × Region) q => let (n, r) := one q.ord q.acc x.2; (x.1 ++ [{ q with acc := n }], r)) ([], r)
  let (us, r) := v.sreqs.foldl (fun (x : List SUpd × Region) q => let (n, r) := one q.ord q.acc x.2; (x.1 ++ [{ q with acc := n }], r)) ([], r)
  ({ u with greqs := gs, sreqs := us, reqOrd := v.reqOrd, first := v.first, win := v.win }, r)

/-- A region of an image with what the device has kept beside it. -/
def putKept (r : Region) : Region :=
  let k := r.kept
  let r := { r with kept := {} }
  if k.rcyc ≠ r.rcyc then r
  else
    let r := { r with parPres := k.parPres, parPois := k.parPois, cstat := k.cstat,
                      strms := tmap r.strms (fun c z => match tfind k.held c with | some h => { z with held := h.1, tokIx := h.2 } | none => z) }
    k.units.foldl (fun r x =>
      let key := x.1 / 2
      let t := r.tile key
      if x.1 % 2 = 0 then
        let (u, r) := putUnit k key x.2 t.act.u r
        r.setTile key { t with act := { t.act with u := u } }
      else
        let (u, r) := putUnit k key x.2 t.ins.u r
        r.setTile key { t with ins := { t.ins with u := u } }) r

/-- Answers of system calls that the region has not been given: they are delivered when it next resumes (R243). -/
def sysKept (r : Region) : Tab (Nat × Word) :=
  r.sysAns ++ (regionOps r).filterMap (fun o => if o.2.2.code = 0xF0 ∧ o.2.2.ph = 6 then some (opRank r o.2.1, o.1, o.2.2.res.bits) else none)

/-- A scanned-out region holds no pages, no contexts and no engines; its calls, and the tags of what it had sent and was not answered, name their
operations by rank (R395). -/
def State.emptied (s : State) (rid : Nat) : State :=
  let r := s.region rid
  let s := s.updPart r.part (fun p => { p with calls := tmap p.calls (fun _ c => if c.rid = rid then { c with op := opRank r c.op } else c) })
  let drop := fun (f : Fctx) => { f with queue := f.queue.filter (fun x => fld (x.w.getD 0 0) 47 36 != rid) }
  let s := { s with harts := tmap s.harts (fun _ h => { h with fh := drop h.fh, fv := drop h.fv }),
                    recQ := s.recQ.filter (fun x => fld (x.w.getD 0 0) 47 36 != rid) }
  (s.updSync rid (fun r =>
    { r with st := rOut, res := false, frz := 0, fidl := false, settled := false, cut := false, host := none, shState := 0, tiles := [], caps := [], mt := [],
             pres := [], pois := [], par := [], parPres := [], parPois := [], cols := [], pool := [], grants := [], colEnd := [], flight := [],
             strms := [], copies := [], nles := [], recs := [], tx := [], sysAns := sysKept r, kept := keepOf r, parked := false, moving := false, wctx := [],
             ptags := keepTags (rankOwner r) (fun _ => true) { r with ptags := r.ptags.map (fun t => (rankOwner r t.1, t.2)) } })).unhost rid

/-- SCAN_OUT_COMPLETE. -/
def State.scanOut (s : State) (rid : Nat) : State :=
  let r := s.region rid
  match r.lop with
  | some l =>
    if l.f7 ≠ 7 ∨ !scanReady r then s
    else
      let s := s.withdraw rid (fun _ => true)
      if recalled (s.region rid) then s
      else
      let s := s.scanPrepare rid
      let s := s.putWords { hart := l.hart, vs := l.vs } l.addr (s.rsiWords (s.region rid))
      (((s.endWaits rid).weltLeave rid).emptied rid).lopEnd rid 0
  | none => s

def execScanOutComplete (rid : Nat) (s : State) : Res := after (s.scanOut rid)

/-! ## Restore (R424, R425) -/

/-- crn.frest at issue: the chain, the region NONE or OUT, and BUSY until the restore completes. -/
def State.restIssue (s : State) (i : Issuer) (rcb rsi : Nat) (start : Bool) : Except Int State :=
  match s.chainCheck i rcb with
  | .error e => .error e
  | .ok ns =>
    match ns with
    | [] => .error kvEinval
    | n :: _ =>
      if s.longFull i then .error kvEbusy
      else
        let go := fun (r : Region) =>
          (s.setRegion (nRid n) (takeChain ns { r with rcb := n.pa, image := (nW n 6).toNat })).lopStart i (nRid n) 8 (BitVec.ofNat 64 rsi)
            (nW n 7) start rsi
        match s.region? (nRid n) with
        | none => if s.rcbHeld n.pa (nRid n) then .error kvEstate else .ok (go { rid := nRid n, part := nPart n, st := rOut, rest := true })
        | some r =>
          if r.st ≠ rOut ∨ r.rcb ≠ n.pa then .error kvEstate
          else if r.busy then .error kvEbusy
          else .ok (go r)

def execCrnFrest (x : Xr) (s : State) : Res :=
  crnFrame s 8 x (fun s i a b =>
    if a.toNat % 128 ≠ 0 ∨ b.toNat % 4096 ≠ 0 then s.ends x kvEinval
    else s.withChain 16 i a.toNat true (fun s => s.withBlock b.toNat 512 false (fun _ =>
      let len := (s.imgWord i b.toNat 16).toNat
      let rpt := match s.trOf i (a.toNat + 56) with | some pa => (s.rdW pa).toNat | none => 0
      s.withBlock b.toNat (if len < 2 ^ 40 then len else 512) false (fun _ =>
        let f := fun (s : State) =>
          match s.restIssue i a.toNat b.toNat false with
          | .error e => s.ends x e
          | .ok s => s.ends x 0
        if rpt = 0 ∨ rpt % 16 ≠ 0 then f s else s.withBlock rpt 16 true (fun _ => f s)))))

/-- What an image lacks comes from the Last image the RCB names, where it can be read: register records, DONE, bindings (log 21). -/
def State.restBase (s : State) (i : Issuer) (rd : Nat → Word) (r : Region) : Region :=
  let lim := mtSize (rsiPair rd)
  let keys := ((List.range (rsiW rd * rsiH rd)).map (fun pg => (List.range 16).map (fun pos => keyOf pg pos))).flatten
  let blank := { r with w := rsiW rd, h := rsiH rd, tiles := keys.map (fun k => (k, ({ ins := { shadow := true } } : Tile))), doneN := 0 }
  match checkImage (s.imgWord i r.image) lim with
  | .ok m => if m.w = rsiW rd ∧ m.h = rsiH rd then buildRegion m 0 r else blank
  | .error _ => blank

/-- A record of a spill ring read through the walk of its partition. -/
def State.ringEnt (s : State) (part : Nat) (caps : Tab (List Word)) (mode : List Word) (i : Nat) : QEnt :=
  let w := mode.getD 1 0
  let e := tget caps [] (fld w 61 54)
  let n := 2 ^ (fld (mode.getD 0 0) 44 41 + 8)
  let va := capBase e + fld w 53 0 + i % n * 32
  let rd := fun (k : Nat) =>
    match s.walk part (va + 8 * k) with
    | .ok (l, _) => if leafPeer l.1 then ({} : Val) else s.rd8 (leafPa l (va + 8 * k))
    | .error _ => {}
  { q := fld (rd 2).bits 3 0, stamp := BitVec.ofNat 32 (fld (rd 2).bits 63 32), w0 := rd 0, w1 := rd 1 }

/-- Words of one MT's data, presence and poison within section 4. -/
def mtParts (rd : Nat → Word) (pair : Bool) (ord : Nat) : List Word × List Nat × List Nat :=
  let n := mtSize pair / 8
  let ws := slice (rsiSec rd 4) (ord * (n + 2 * (n / 64))) (n + 2 * (n / 64))
  (ws.take n, wordBits (slice ws n (n / 64)), wordBits (slice ws (n + n / 64) (n / 64)))

/-- A tile with the windows its MT's words hold: the active plane's, then the Insole plane's. -/
def withWindows (ws : List Word) (po : List Nat) (t : Tile) : Tile :=
  let win := fun (n : Nat) => excWin (ws.drop n) (fun k => po.contains (n + k))
  let a := { t with act := if planeMode t.act = 8 then { t.act with u := { t.act.u with win := win (excBase t) } } else t.act }
  { a with ins := if planeMode t.ins = 8 then { t.ins with u := { t.ins.u with win := win (excBase t + (excWords a.act).length) } } else t.ins }

/-- The region an image describes (R424). -/
def State.rsiRegion (s : State) (i : Issuer) (rd : Nat → Word) (r0 : Region) : Region :=
  let b := s.restBase i rd r0
  let pair := rsiPair rd
  let caps := (lenum (chunks 4 (rsiSec rd 1))).filter (fun c => c.2.any (· != 0))
  let mts := lenum (mtKeys b.w b.h)
  let part := fun (key : Nat) => match mts.find? (fun x => x.2 == key) with | some x => mtParts rd pair x.1 | none => ([], [], [])
  let ent := fun (key : Nat) (k : Nat) => ({ bits := (part key).1.getD k 0, pois := (part key).2.2.contains k } : Val)
  let recs := rsiTiles rd
  let plane := fun (key pn : Nat) (base : Plane) =>
    match recs.find? (fun x => x.1 == key && x.2.1 == pn) with
    | none => base
    | some (_, _, ws) =>
      if keyIsCt key then ctPlane ws base
      else
        let p := mtPlane ws (ent key) (s.ringEnt r0.part caps (slice ws 8 18)) base
        p
  let par := fun (key : Nat) =>
    match recs.find? (fun x => x.1 == key) with
    | some (_, _, ws) => if keyIsCt key then parOf (ws.getD 5 0) 12 else parOf (ws.getD 1 0) 10
    | none => (false, [])
  let tiles := b.tiles.map (fun t =>
    let (sw, ws) := par t.1
    let (ba, bi) := if sw then (t.2.ins, t.2.act) else (t.2.act, t.2.ins)
    (t.1, withWindows (part t.1).1 (part t.1).2.2 { act := plane t.1 0 ba, ins := plane t.1 1 bi, swS := sw, swW := ws }))
  let mtw : List (List (Nat × Word) × List Nat × List Nat) := (mts.map (fun x =>
    let (ws, pr, po) := mtParts rd pair x.1
    let keep := fun (k : Nat) => !unitOwned (tget tiles {} x.2) k
    (((lenum ws).filter (fun (y : Nat × Word) => keep y.1)).map (fun (y : Nat × Word) => (mtAddr x.2 0 / 8 + y.1, y.2)), pr.map (· + mtAddr x.2 0 / 8),
     (po.filter keep).map (· + mtAddr x.2 0 / 8))))
  let col := rsiSec rd 10
  let shadow := fun (k : Nat) => (tget tiles {} k).act.shadow
  let strms := (lenum (chunks 120 (rsiSec rd 5))).map (fun x => (x.1, ctxOf x.2 shadow))
  let copies := (lenum (chunks 120 (rsiSec rd 6))).map (fun x => (copyBase + x.1, ctxOf x.2 shadow))
  let rcb := rsiSec rd 0
  let recW := chunks 8 (rsiSec rd 11)
  let r : Region := { b with
    shp := rsiShp rd, pair := pair, tiles := tiles, caps := caps, strms := strms, copies := copies,
    mt := ((mtw.map (fun x => x.1)).flatten).foldl (fun m x => wrNat m (8 * x.1) 8 x.2.toNat) [],
    pres := (mtw.map (fun x => x.2.1)).flatten, pois := (mtw.map (fun x => x.2.2)).flatten,
    par := (lenum (rsiSec rd 2)).foldl (fun m x => wrNat m (8 * x.1) 8 x.2.toNat) [], parPres := [], parPois := [],
    nles := ((nleRecs 64 (rsiSec rd 7)).map nleOfWords).foldl (fun t x => tset t x.1 x.2) [],
    coln := fld (col.getD 0 0) 9 0, pool := (List.range (fld (col.getD 0 0) 20 10)).map (fun k => get16 (slice col 8 256) k),
    cols := (List.range 1024).filterMap (fun c =>
      let x := get16 (slice col 264 256) c
      if x / 2 ^ 14 = 1 then some (c, { st := .live, par := BitVec.ofNat 10 x }) else none),
    rcyc := rd 24, cpyid := fld (rd 32) 31 16, doneC := fld (rcb.getD 8 0) 31 0, sdem := bitOf (rcb.getD 8 0) 44, rpq := bitOf (rcb.getD 8 0) 43,
    patch := bitOf (rcb.getD 8 0) 43, runs := (rcb.getD 11 0).toNat, seq := 1 + copies.length, grants := [], colEnd := [], flight := [],
    recs := (recW.foldl (fun (l : List Rec × Nat) w =>
      if 0 < l.2 then (l.1.dropLast ++ [match l.1.getLast? with | some x => { x with more := x.more ++ w } | none => { w := w }], l.2 - 1)
      else (l.1 ++ [{ w := w }], fld (w.getD 0 0) 6 0)) (([] : List Rec), 0)).1,
    st := fld (rd 8) 45 43, frz := BitVec.ofNat 2 (fld (rd 8) 42 41), cut := bitOf (rd 8) 40, fidl := bitOf (rd 8) 24, settled := true }
  putKept { r with copies := tmap r.copies (fun _ z => { z with wrote := cpWrote r z.desc z.next }) }

/-- Where a fabric address leads, without its checks: an operation that stood pending has passed them (R225). -/
def placeOf (r : Region) (key : Nat) (ea : Word) : Place :=
  match fld ea 63 62 with
  | 1 => let e := capEntry r (fld ea 61 54); .glob (fld ea 61 54) (capBase e + fld ea 53 0) (capRemote e)
  | 2 =>
    match frameHome r key with
    | some h => .frame (mtAddr h ((fld ea 41 32 * frameS (r.pl h) + fld ea 15 0) * 8))
    | none => .mt ea.toNat
  | _ => .mt ea.toNat

/-- The accesses and phase of a pending operation that is issued again. -/
def reissue (r : Region) (key id op : Nat) (t : Ti) (o : Opnds) (def' : Bool) : Nat × List Access × Bool :=
  let q : MemReq :=
    match op with
    | 0xEB => { ea := o.a.bits, op := .qenq o.b, rel := true }
    | 0xEC => { ea := o.a.bits, op := .qdeq }
    | 0xED => { ea := o.a.bits, op := .qsteal }
    | 0xDD => if def' then { ea := o.a.bits, op := .barrWait o.b } else reqOf op t o
    | _ => reqOf op t o
  if op = 0xD9 ∨ op = 0xD5 ∨ op = 0xD7 then (5, [], false)
  else if op = 0xE9 then (7, [], false)
  else if 0xE4 ≤ op ∧ op ≤ 0xE8 then (10, [], false)
  else if op = 0xF0 then ((if fld o.a.bits 63 62 = 1 ∧ capRemote (capEntry r (fld o.a.bits 61 54)) = false then 5 else 6), [], false)
  else if 0xE0 ≤ op ∧ op ≤ 0xE3 then
    match exqAddr r o.a.bits with
    | .ok (k, x) =>
      (9, [{ own := .pe key id 0, op := .read 8, sp := 3, addr := (k * 16 + x) * 8, seq := id, ea := o.a.bits, st := if op = 0xE1 ∧ def' then .done else .travel }],
        op == 0xE1 && def')
    | .error _ => (9, [], false)
  else (4, [accessOf key id 0 q (placeOf r key q.ea)], false)

/-- One pending operation of the image stands again in its slot; `n` is its rank. In a frozen region it is issued when the region resumes
(R225, R243, R418). -/
def State.reviveOp (s : State) (rid key n : Nat) (ws : List Word) : State :=
  let r := s.region rid
  let w := fun k => ws.getD k 0
  let slot := fld (w 0) 62 59
  let wd := tget (r.ct key).slots 0 slot
  let op := (opOf wd).toNat
  let t := tiOf wd
  let id := r.seq
  let c := if 0xE0 ≤ op ∧ op ≤ 0xE3 then tget (r.ct key).g {} (t.imm.toNat % 16) else tget (r.ct key).g {} t.dst.toNat
  let a : Val := { bits := w 1, pois := bitOf (w 3) 0 }
  let b : Val := { bits := w 2, pois := bitOf (w 3) 1 }
  let (ph, accs, fl) := reissue r key id op t { a := a, b := b, d := c } (bitOf (w 0) 58)
  let call := (s.part r.part).calls.find? (fun x => x.2.rid == rid && x.2.key == key && x.2.op == n)
  let ans := tfind r.sysAns n
  let stay := r.st == rFrozen
  let ph := if ans.isSome then 6 else if call.isSome ∧ op = 0xF0 then phSvc else if op = 0xF0 ∧ ph = 5 ∧ stay = true then phStall else ph
  let accs := accs.map (fun a => if stay && a.st == .travel then { a with st := .stalled (if bitOf (w 0) 58 then 0 else 1) } else a)
  let res : Val := match ans with | some (_, v) => { bits := v } | none => if op = 0xF0 then { bits := kv kvEreach } else {}
  let o : PendOp := { slot := slot, code := op, ti := t, seq := id, a := a, b := b, c := c, col := BitVec.ofNat 10 (fld (w 3) 11 2), ph := ph,
                      res := res, cond := res.bits != 0 }
  let s := onRegion s rid (fun r =>
    let r := r.reserve key id (if op = 0xD3 then [] else outsOf op t)
    let r := { r with seq := id + 1 }
    let (r, ns) := accs.foldl (fun p a => let (r', n) := issue a p.1; (r', p.2 ++ [n])) (r, ([] : List Nat))
    let r := r.updCt key (fun c => { c with ops := tset c.ops id { o with accs := ns } })
    match exqAddr r a.bits with
    | .ok (k, q) =>
      if fl then
        r.setQ k q (fun z =>
          { z with flush := z.flush.filter (fun f => f.op != 0) ++ [{ mark := fld (w 2) 31 0, tile := key, op := id, col := o.col, n := fld (w 2) 63 32 }] })
      else r
    | .error _ => r)
  match call with
  | some (k, c) => if op = 0xF0 then s.updPart r.part (fun p => { p with calls := tset p.calls k { c with op := id } }) else s
  | none => s

/-- Waits and declarations of an image are made again (R362, R424). -/
def State.reviveWaits (s : State) (rid : Nat) (rd : Nat → Word) : State :=
  let s := (chunks 2 (rsiSec rd 9)).foldl (fun s ws =>
    let p := s.part (s.region rid).part
    let k := fld (ws.getD 0 0) 3 0
    if p.holds.any (fun d => d.1 == k && d.2.1 == ws.getD 1 0) then s else s.declare rid k (ws.getD 1 0)) s
  (chunks 4 (rsiSec rd 8)).foldl (fun s ws =>
    let w := ws.getD 0 0
    let key := keyOf (fld w 42 33) (fld w 32 29)
    match s.register rid key (fld w 28 25) (fld w 20 17) (ws.getD 1 0) (bitOf w 62) with
    | (s, 2) => onRegion s rid (fun r => r.raise { code := 0x29, src := 4, key := key, elem := fld w 20 17, aux := (ws.getD 1 0).toNat })
    | (s, _) => s) s

/-- One extent at the next element of a context, where its page is valid (R378, R424). -/
def State.nextExtent (s : State) (rid c : Nat) : State := s.copyExtents rid c

/-- What an image says of extents, pending operations and waits stands again (R424). -/
def State.standUp (s : State) (rid : Nat) (rd : Nat → Word) : State :=
  let s := (ctxNums (s.region rid)).foldl (fun s c => s.nextExtent rid c) s
  let ops := (((rsiTiles rd).filter (fun t => keyIsCt t.1)).map (fun t =>
    ((chunks 4 (slice t.2.2 1288 64)).filter (fun o => bitOf (o.getD 0 0) 63)).map (fun o => (t.1, t.2.1, o)))).flatten
  let ops := (sortBy (fun a b => decide (fld (a.2.2.getD 0 0) 51 36 ≤ fld (b.2.2.getD 0 0) 51 36)) ops)
  let s := ops.foldl (fun s o =>
    let n := fld (o.2.2.getD 0 0) 51 36
    if o.2.1 = 0 then s.reviveOp rid o.1 n o.2.2
    else onRegion ((onRegion s rid (flipTile o.1)).reviveOp rid o.1 n o.2.2) rid (flipTile o.1)) s
  let s := onRegion s rid (fun r =>
    { r with ptags := r.ptags.map (fun t => (idOwner (opIds r) t.1, t.2)) })
  (onRegion s rid (fun r => (r.nles.map (·.1)).foldl (fun r e => nlRefill 9 e r) { r with sysAns := [] })).reviveWaits rid rd

/-- RESTORE_COMPLETE: the checks, the placement, and the state of the image (R424). -/
def State.restore (s : State) (rid : Nat) : State :=
  let r := s.region rid
  match r.lop with
  | none => s
  | some l =>
    if l.f7 ≠ 8 ∨ s.ckptOn = true then s
    else
      let i : Issuer := { hart := l.hart, vs := l.vs }
      let rd := s.imgWord i l.addr
      if !rsiOk rd || fld (rd 8) 63 52 != rid || fld (rd 8) 51 46 != r.part || rsiPair rd != bitOf (partWord (s.part r.part) 0) 35 then
        s.lopFail rid kvEinval
      else
        let r1 := s.rsiRegion i rd r
        match configCheck r1 with
        | some b =>
          let s := match s.trOf i l.b.toNat with
            | some pa => if l.b = 0 then s else s.wrWs pa (badWords b)
            | none => s
          s.restFail rid kvEreject
        | none =>
          if !framesFit r1 (mtLimit r1) then s.lopFail rid kvEinval
          else if l.vs && decide (fld (s.hart l.hart).quota 17 8 < r1.w * r1.h) then s.restFail rid kvEnospc
          else
            match s.place r1 with
            | .error e => if e = kvEnospc ∧ l.hart = 208 ∧ s.couldFit r1 = true then s else s.restFail rid e
            | .ok r2 =>
              let strms := r2.strms
              let s := (s.install { r2 with busy := true, rest := false, lop := r.lop }).rejoinRecs rid
              let s := ((onRegion s rid (fun r => { r with strms := strms })).standUp rid rd).lopEnd rid 0
              let s := onRegion s rid (fun r => { r with cwEnd := r.cwEnd.map (fun x => (x.1, r.seq)) })
              if !l.start then s.sync rid
              else
                let (s, st) := if r2.st = rIdle then (s.sync rid, (0 : Int)) else s.runOp i rid
                if st < 0 then l.cw.foldl (fun s cw => s.launchWord cw (kv st)) s
                else if (s.region rid).st = rIdle then l.cw.foldl (fun s cw => s.launchWord cw 1) s
                else onRegion s rid (fun r => { r with cmplt := r.cmplt ++ l.cw })

def execRestoreComplete (rid : Nat) (s : State) : Res := after (s.restore rid)

/-! ## Insole loads and exchanges (R333, R408) -/

/-- crn.fshadow at issue: the new region in SHADOW and BUSY. -/
def State.shadowIssue (s : State) (i : Issuer) (rcb : Nat) (host : Region) : Except Int State :=
  match s.chainCheck i rcb with
  | .error e => .error e
  | .ok ns =>
    match ns with
    | [] => .error kvEinval
    | n :: _ =>
      if ¬ [rFrozen, rRunning, rReady, rIdle].contains host.st then .error kvEstate
      else if (s.region? (nRid n)).isSome ∨ s.rcbHeld n.pa (nRid n) = true then .error kvEstate
      else if !host.pair ∨ nPart n ≠ host.part then .error kvEinval
      else if s.longFull i then .error kvEbusy
      else
        let r : Region := { rid := nRid n, rcb := n.pa, part := nPart n, st := rShadow, image := (nW n 6).toNat, host := some host.rid }
        .ok ((s.setRegion (nRid n) (takeChain ns r)).lopStart i (nRid n) 2 (BitVec.ofNat 64 rcb) 0 false (nW n 7).toNat)

def execCrnFshadow (x : Xr) (s : State) : Res :=
  crnFrame s 2 x (fun s i a b =>
    if a.toNat % 128 ≠ 0 then s.ends x kvEinval
    else
      match s.ridOp i b false with
      | .error e => s.ends x e
      | .ok host => s.loadBlocks i a.toNat (fun s =>
          match s.shadowIssue i a.toNat host with
          | .error e => s.ends x e
          | .ok s => s.ends x 0))

/-- The host's Insole planes are free, and the contexts and engines of a second region can be bound (R348, R354). -/
def State.shadowFits (s : State) (r host : Region) : Bool :=
  host.partner.isNone && !host.shp && s.live.all (fun q => q.rid == r.rid || q.host != some host.rid) && s.columnsOk r host.origin
    && (s.bindEngines r host.origin (nleCount r)).isSome && s.boundsOk r.chain r.rid [] (nleCount r) (exqMts r)

/-- SHADOW_LOAD_COMPLETE (R333). -/
def State.shadowComplete (s : State) (rid : Nat) : State :=
  let r := s.region rid
  match r.lop with
  | none => s
  | some l =>
    if l.f7 ≠ 2 ∨ s.ckptOn = true then s
    else
      let i : Issuer := { hart := l.hart, vs := l.vs }
      match checkImage (s.imgWord i r.image) Config.mtHalf with
      | .error b =>
        let s := match s.trOf i l.addr with
          | some pa => if l.addr = 0 then s else s.wrWs pa (badWords b)
          | none => s
        s.lopFail rid kvEreject
      | .ok m =>
        let r1 := buildRegion m (fld r.eff3 39 30) r
        match r.host.bind (fun h => s.region? h) with
        | none => s.lopFail rid kvEnospc
        | some host =>
          if m.w ≠ host.w ∨ m.h ≠ host.h ∨ r1.shp = true then s.lopFail rid kvEinval
          else if l.vs && decide (fld (s.hart l.hart).quota 17 8 < m.w * m.h) then s.lopFail rid kvEnospc
          else if s.weltBusy r1 then s.lopFail rid kvEbusy
          else if !s.weltOk r1 || !s.shadowFits r1 host then s.lopFail rid kvEnospc
          else
            let r2 := s.rebind { r1 with origin := host.origin, res := false, active := false, parked := true, settled := true }
            (s.install { r2 with busy := true }).lopEnd rid 0

def execShadowLoadComplete (rid : Nat) (s : State) : Res := after (s.shadowComplete rid)

/-- A tile exchanges its own planes; the queued tokens move (R405). -/
def swapPlanes (t : Tile) : Tile :=
  let a := t.act
  let b := t.ins
  { t with act := { b with inp := tmap a.inp (fun k c => { c with buf := (tget b.inp {} k).buf ++ c.buf }) }, ins := { a with inp := [] } }

/-- The planes of every tile are exchanged; what a refill of a spill ring has read is read again when its plane is active (R291). -/
def swapOwn (r : Region) : Region :=
  { r with tiles := tmap r.tiles (fun _ t => swapPlanes t),
           flight := r.flight.filter (fun a => match a.2.own with | .unit k tag => !(planeMode (r.pl k) == 7 && tag == refillTag) | _ => true) }

/-- crn.fswap: a region with its shadow region, or a region's own planes; it waits for the region to settle (R333, R401, R404). -/
def execCrnFswap (x : Xr) (s : State) : Res :=
  crnFrame s 3 x (fun s i a b =>
    match s.ridOp i a false, s.ridOp i b false with
    | .error e, _ => s.ends x e
    | _, .error e => s.ends x e
    | .ok r, .ok q =>
      if r.st ≠ rFrozen ∨ r.mcheck = true then s.ends x kvEstate
      else if q.rid = r.rid then
        if !r.shp then s.ends x kvEinval
        else if !r.settled then s
        else (onRegion s r.rid (fun r => swapOwn r)).ends x 0
      else if q.st ≠ rShadow ∨ q.host ≠ some r.rid then s.ends x kvEinval
      else if !r.settled then s
      else
        let s := s.updSync r.rid (fun r =>
          { r with st := rShadow, shState := rFrozen, host := some q.rid, res := false, active := false, parked := true })
        (s.updSync q.rid (fun q =>
          { q with st := if q.shState = 0 then rReady else q.shState, shState := 0, host := none, res := true, active := true, parked := false })).ends x 0)

/-! ## Moves (R351) -/

/-- Regions that move together: the region, its partner, and regions in its Insole planes. -/
def State.moveSet (s : State) (rid : Nat) : List Nat :=
  let r := s.region rid
  rid :: (r.partner.toList ++ (s.live.filter (fun q => q.host == some rid)).map (fun q => q.rid))

/-- Stage 1 of a move: what runs stops, as a parked region does; its STATE stays, but for what crn.fstat shows (R351). -/
def State.moveStop (s : State) (rid : Nat) : State :=
  onRegion s rid (fun r =>
    if (r.st = rRunning ∧ r.parked = false) ∨ r.st = rIdle then
      let r := r.keys.foldl (fun r k => swapTick (s.fc + 2) k r) r
      { clearMarks r with parked := true, moving := true, settled := false, cut := false }
    else { r with moving := true })

/-- crn.fmove. -/
def execCrnFmove (x : Xr) (s : State) : Res :=
  crnFrame s 9 x (fun s i a b =>
    match s.ridOp i a false with
    | .error e => s.ends x e
    | .ok r =>
      let set := s.moveSet r.rid
      let tgt := fld b 9 0
      if ¬ [rReady, rRunning, rFrozen, rIdle].contains r.st then s.ends x kvEstate
      else if 768 ≤ tgt ∧ tgt ≠ 1023 then s.ends x kvEinval
      else if s.longFull i || set.any (fun q => (s.region q).busy || (s.region q).st == rDying) then s.ends x kvEbusy
      else
        let was := pk ((lenum set).map (fun q => (8 * q.1, (s.region q.2).st + nb ((s.region q.2).parked) * 8)))
        let s := set.foldl (fun s q => s.moveStop q) s
        (s.lopStart i r.rid 9 was (BitVec.ofNat 64 tgt) false 0).ends x 0)

/-- The device with regions, and all that moves with each, at new origins. -/
def State.placed (s : State) (l : List (Nat × Nat)) : State :=
  l.foldl (fun s x => (s.moveSet x.1).foldl (fun s q => onRegion s q (fun r => { r with origin := x.2 })) s) s

/-- Moves made together leave every region that moves in a place of R348: its pages of the partition and held by none but those that move with
it, its columns, its engines, and the bounds of R322. -/
def State.movesFit (s : State) (l : List (Nat × Nat)) : Bool :=
  let s' := s.placed l
  l.all (fun x =>
    let set := s.moveSet x.1
    set.all (fun q =>
      let r := s'.region q
      let pages := rectPages r.w r.h x.2
      rectFits r.w r.h x.2
        && pages.all (fun p => partPage (s.part r.part) p && s'.live.all (fun z => set.contains z.rid || !(heldPages z).contains p))
        && s'.columnsOk r x.2 && (s'.bindEngines r x.2 (nleCount r)).isSome
        && s'.boundsOk r.chain r.rid (if r.st = rShadow then [] else pages) (nleCount r) (exqMts r)))

/-- The origin of least cost, then of least page id, for a region and what moves with it (R349, R351). -/
def State.moveBest (s : State) (r : Region) : Option Nat :=
  (List.range 768).foldl (fun (best : Option Nat) o =>
    if s.movesFit [(r.rid, o)] then
      (match best with
       | some b => if placeCost r o < placeCost r b then some o else some b
       | none => some o)
    else best) none

/-- The regions stand at an origin, their engines bound anew, and go on as before. -/
def State.moveTo (s : State) (rid o : Nat) (was : Nat) : State :=
  let r := s.region rid
  let r := s.rebind { r with origin := o, strms := tmap r.strms (fun _ z => { z with ext := [] }), copies := tmap r.copies (fun _ z => { z with ext := [] }) }
  let s := ((s.setRegion rid r).sync rid).startExtents rid
  if !r.moving then s
  else if was / 8 = 1 then onRegion s rid (fun r => { r with moving := false })
  else if r.st = rRunning ∨ r.st = rIdle then
    (onRegion s rid (fun r => { resumeParts (sealOf s r.part) (s.callsOf rid) r with parked := false, moving := false, settled := false, cut := false })).queuedReplay rid
  else onRegion s rid (fun r => { r with parked := false, moving := false })

/-- The moves that end with a region's: a move the allocator has ordered ends with the other moves of its plan (R352). -/
def State.movesOf (s : State) (r : Region) (l : LongOp) : List (Region × LongOp) :=
  if l.hart ≠ 209 then [(r, l)]
  else (s.live.filter (fun q => q.part == r.part)).filterMap (fun q => q.lop.bind (fun m => if m.f7 = 9 ∧ m.hart = 209 then some (q, m) else none))

/-- MOVE_COMPLETE: once all that moves has settled. -/
def State.moveComplete (s : State) (rid : Nat) : State :=
  let r := s.region rid
  match r.lop with
  | none => s
  | some l =>
    let ms := s.movesOf r l
    let set := (ms.map (fun m => s.moveSet m.1.rid)).flatten
    let ready := set.all (fun q => let x := s.region q; x.st == rReady || x.st == rShadow || x.settled)
    if l.f7 ≠ 9 ∨ !ready then s
    else
      let s := set.foldl (fun s q => s.withdraw q (fun _ => true)) s
      if set.any (fun q => recalled (s.region q)) then s
      else
      let best := if l.b.toNat = 1023 then s.moveBest r else none
      let at' := fun (m : Region × LongOp) => if m.2.b.toNat = 1023 then best else some m.2.b.toNat
      let ok := ms.all (fun m => (at' m).isSome) && s.movesFit (ms.filterMap (fun m => (at' m).map (fun o => (m.1.rid, o))))
      ms.foldl (fun s m =>
        let o := if ok then (at' m).getD m.1.origin else m.1.origin
        let s := (lenum (s.moveSet m.1.rid)).foldl (fun s q => s.moveTo q.2 o (fld m.2.a (8 * q.1 + 7) (8 * q.1))) s
        s.lopEnd m.1.rid (if ok then 0 else kvEnospc)) s

def execMoveComplete (rid : Nat) (s : State) : Res := after (s.moveComplete rid)

end Sys2Proof.Machine
end

