-- ==== Sys2Proof/Machine/Launch.lean ====
section
/-! DEFINITION. Launch queues (R345-R347): taking a head, and the moves the allocator makes on its own (R352, R353). -/

namespace Sys2Proof.Machine

/-! ## What a head waits for (R346) -/

/-- What a head waits for: ready, held back, or over with a status. -/
inductive Ready where
  | go | hold | fail (st : Int)
deriving DecidableEq, Repr

def State.lqReady (s : State) (part q : Nat) (e : List Word) : Ready :=
  if !leOk e then .fail kvEinval
  else
    let h := (s.rdW (lqBase (s.part part) q)).toNat
    match tfind (s.part part).lqSeen q with
    | some (h', l) =>
      if h' ≠ h ∨ l.contains depNone = true then .fail kvEnoent
      else if (List.range (leDeps e)).all l.contains then .go
      else if l.contains depDead then .fail kvEcancel
      else .hold
    | none => .fail kvEnoent

/-! ## Taking a head (R345-R347) -/

/-- A launch ends with a status. -/
def State.leFail (s : State) (e : List Word) (st : Int) : State := s.launchWord (leCw e) (kv st)

def State.advance (s : State) (part q : Nat) : State :=
  let b := lqBase (s.part part) q
  s.wrW b (s.rdW b + 1)

/-- The Last a LOAD or RESTORE would place. -/
def State.leRegion (s : State) (ns : List Node) (e : List Word) : Option Region :=
  match ns with
  | [] => none
  | n :: _ =>
    let r := takeChain ns { rid := nRid n, part := nPart n, rcb := n.pa, image := (nW n 6).toNat }
    let lim := if bitOf (partWord (s.part r.part) 0) 35 then Config.mtHalf else Config.mtBytes
    if leOp e = 0 then
      match checkImage (s.imgWord {} r.image) lim with
      | .ok m => some (buildRegion m (fld r.eff3 39 30) r)
      | .error _ => none
    else
      let rd := s.imgWord {} (e.getD 2 0).toNat
      if rsiOk rd then some (s.rsiRegion {} rd r) else none

/-- A LOAD or RESTORE that would fit later stays at the head. -/
def State.leWaits (s : State) (part : Nat) (e : List Word) : Option Region :=
  if leOp e = 0 ∨ leOp e = 2 then
    match s.chainCheck {} (e.getD 1 0).toNat with
    | .error _ => none
    | .ok ns =>
      match s.leRegion ns e with
      | none => none
      | some r =>
        if r.part ≠ part then none
        else
          match s.place r with
          | .error st => if st = kvEnospc ∧ s.couldFit r = true then some r else none
          | .ok _ => none
  else none

/-- A block of an entry lies in DRAM. -/
def blockOk (a n al : Nat) : Bool := decide (a % al = 0) && dramRange a n

/-- The operation of an entry, with the partition's HS authority: its status at issue. -/
def State.leIssue (s : State) (part : Nat) (e : List Word) : State × Int :=
  let i : Issuer := {}
  let a := (e.getD 1 0).toNat
  let cw := if leCw e = 0 then [] else [leCw e]
  let own := fun (x : Except Int State) (rid : Nat) =>
    match x with
    | .error st => (s, st)
    | .ok s' => (onRegion s' rid (fun r =>
        if leOp e = 0 then { r with cmplt := cw } else { r with lop := r.lop.map (fun l => { l with cw := cw }) }), (0 : Int))
  let rid := match s.chainCheck i a with | .ok (n :: _) => some n | _ => none
  if leOp e = 0 ∨ leOp e = 2 then
    if !blockOk a 128 128 || (leOp e == 2 && !blockOk (e.getD 2 0).toNat 512 4096) then (s, kvEinval)
    else
      match rid with
      | none => (s, match s.chainCheck i a with | .error st => st | .ok _ => kvEinval)
      | some n =>
        if nPart n ≠ part then (s, kvEperm)
        else own (if leOp e = 0 then s.loadIssue i a true else s.restIssue i a (e.getD 2 0).toNat true) (nRid n)
  else
    match s.ridOp i (BitVec.ofNat 64 (leRid e)) false with
    | .error st => (s, st)
    | .ok r =>
      if r.part ≠ part then (s, kvEperm)
      else if leOp e = 1 then
        if a ≠ 0 ∧ blockOk a 4096 4096 = false then (s, kvEinval)
        else s.parOp r.rid (if a = 0 then none else some (s.patchWords [(a, 4096)])) cw
      else
        let (s, st) := s.runOp i r.rid
        if st < 0 then (s, st)
        else if (s.region r.rid).st = rIdle then (cw.foldl (fun s c => s.launchWord c 1) s, st)
        else (onRegion s r.rid (fun r => { r with cmplt := r.cmplt ++ cw }), st)

/-- The head of highest priority that can start or has failed: its queue, its entry, its failing status (R345-R347). -/
def State.lqPick (s : State) (part : Nat) : Option (Nat × List Word × Option Int) :=
  let p := s.part part
  let cand := (List.range 16).filterMap (fun q =>
    match s.lqHead part q with
    | none => none
    | some e =>
      match s.lqReady part q e with
      | .hold => none
      | .fail st => some (q, e, some st)
      | .go => if (s.leWaits part e).isSome then none else some (q, e, none))
  match pickBy (fun b a => decide (lqPrio p b < lqPrio p a)) (cand.map (·.1)) with
  | none => none
  | some q => cand.find? (fun c => c.1 == q)

/-- The queues as LAUNCH_TAKE finds them: checked against their limits, their heads' dependences noted. -/
def State.lqLook (s : State) (part : Nat) : State := ((List.range 16).foldl (fun s q => s.lqCheck part q) s).lqNote part

/-- LAUNCH_TAKE: the head of highest priority that can start or has failed is taken; no queue is served while a checkpoint is quiesced, nor one of
a partition that is reset (R434, R452). -/
def State.launchTake (s : State) (part : Nat) : State :=
  if s.ckptOn || s.rst.any (fun r => r.pid == part) then s else
  let s := s.lqLook part
  match s.lqPick part with
  | none => s
  | some (q, e, some st) => ((s.leFail e st).advance part q).lqNote part
  | some (q, e, none) =>
    let (s, st) := s.leIssue part e
    ((if st < 0 then s.leFail e st else s).advance part q).lqNote part

def execLaunchTake (part : Nat) (s : State) : Res := after (s.launchTake part)

/-- LAUNCH_TAIL_WRITE: a producer's write of TAIL. -/
def execLaunchTailWrite (part q : Nat) (tail : Word) (s : State) : Res :=
  let p := s.part part
  if q < 16 ∧ partValid p = true ∧ lqValid p q = true then after (((s.wrW (lqBase p q + 8) tail).lqCheck part q).lqNote part) else .next s

/-! ## Moves of the allocator (R352, R353) -/

/-- A move the allocator orders (its issuer is 209: it changes ORIGIN alone). -/
def State.autoMove (s : State) (rid o : Nat) : State :=
  let set := s.moveSet rid
  let was := pk ((lenum set).map (fun q => (8 * q.1, (s.region q.2).st + nb ((s.region q.2).parked) * 8)))
  (set.foldl (fun s q => s.moveStop q) s).lopStart { hart := 209 } rid 9 was (BitVec.ofNat 64 o) false 0

/-- The allocator may move a region now. -/
def State.movable (s : State) (rid : Nat) : Bool :=
  (s.moveSet rid).all (fun q => let r := s.region q; !r.busy && [rReady, rRunning, rFrozen, rIdle, rShadow].contains r.st)

/-- AUTO_MOVE: an idle region moves where its cost is below half (R353). -/
def State.autoMoveIdle (s : State) (rid : Nat) : State :=
  let r := s.region rid
  if r.st ≠ rIdle ∨ !s.movable rid then s
  else
    match s.moveBest r with
    | some o => if 2 * placeCost r o < placeCost r r.origin then s.autoMove rid o else s
    | none => s

def execAutoMove (rid : Nat) (s : State) : Res := after (s.autoMoveIdle rid)

/-- The moves fit, and leave the target free for the region (R348, R352). -/
def State.planOk (s : State) (r : Region) (o : Nat) (l : List (Nat × Nat)) : Bool := s.movesFit l && (s.placed l).fits r [] o

/-- Places for displaced regions that make a plan: free pages outside the target, each used once. -/
def State.assign (s : State) (ok : List (Nat × Nat) → Bool) (ds : List Nat) (used : List Nat) (acc : List (Nat × Nat)) : Option (List (Nat × Nat)) :=
  match ds with
  | [] => if ok acc then some acc else none
  | d :: rest =>
    let r := s.region d
    (List.range 768).findSome? (fun o =>
      let pg := rectPages r.w r.h o
      if rectFits r.w r.h o && pg.all (fun p => partPage (s.part r.part) p && s.pageFree p && !used.contains p) then
        State.assign s ok rest (used ++ pg) (acc ++ [(d, o)])
      else none)

/-- The plan for a target: its moves and the pages they move (R352). -/
def State.plan (s : State) (r : Region) (prio o : Nat) : Option (List (Nat × Nat) × Nat) :=
  let tgt := rectPages r.w r.h o
  let hit := s.live.filter (fun q => (heldPages q).any tgt.contains)
  let lead := hit.filter (fun q => q.active && q.st != rShadow)
  let ok := rectFits r.w r.h o && tgt.all (partPage (s.part r.part)) && hit.all (fun q => q.part == r.part && s.movable q.rid && decide (prio ≤ q.eprio))
  if !ok then none
  else
    match s.assign (s.planOk r o) (lead.map (fun q => q.rid)) tgt [] with
    | none => none
    | some l => some (l, (lead.map (fun q => q.w * q.h)).foldl (· + ·) 0)

/-- The eligible head of highest priority that does not fit: its region (R352). -/
def State.compHead (s : State) (part : Nat) : Option Region :=
  let p := s.part part
  let heads := (List.range 16).filterMap (fun q =>
    match s.lqHead part q with
    | some e => if s.lqReady part q e = .go then (s.leWaits part e).map (fun r => (q, r)) else none
    | none => none)
  match pickBy (fun b a => decide (lqPrio p b < lqPrio p a)) (heads.map (·.1)) with
  | none => none
  | some q => (heads.find? (fun h => h.1 == q)).map (·.2)

/-- The plan of the fewest pages, then of the least target (R352). -/
def State.bestPlan (s : State) (r : Region) : Option (List (Nat × Nat) × Nat) :=
  (List.range 768).foldl (fun (b : Option (List (Nat × Nat) × Nat)) o =>
    match s.plan r (effPrio r) o, b with
    | some x, some y => if x.2 < y.2 then some x else some y
    | some x, none => some x
    | none, b => b) none

/-- Free pages of a partition. -/
def State.freePages (s : State) (part : Nat) : Nat :=
  ((List.range 768).filter (fun pg => partPage (s.part part) pg && s.pageFree pg)).length

/-- COMPACTION: moves for an eligible head that does not fit (R352). -/
def State.compaction (s : State) (part : Nat) : State :=
  if s.rst.any (fun r => r.pid == part) then s else
  let s := s.lqNote part
  match s.compHead part with
  | none => s
  | some r =>
    if s.freePages part < r.w * r.h then s
    else
      match s.bestPlan r with
      | some (l, _) => l.foldl (fun s x => s.autoMove x.1 x.2) s
      | none => s

def execCompaction (part : Nat) (s : State) : Res := after (s.compaction part)

end Sys2Proof.Machine
end

