-- ==== Sys2Proof/Machine/Migrate.lean ====
section
/-! DEFINITION. Migration of pages (R387-R390), heat epochs and automatic placement (R386, R388), the edge stream ports' side of
remote requests (R393, R395, R467), and the Welt links (R428, R466). -/

namespace Sys2Proof.Machine

/-! ## The rings of the migration engine (R387) -/

def ringBase (p : Part) (k : Nat) : Nat := fld (partWord p k) 41 6 * 64

/-- The ring that descriptor word k names, when it exists and its header keeps its limits; else it stops, its ERR written (R344). -/
def State.ringOk (s : State) (part k : Nat) : State × Bool :=
  let p := s.part part
  let b := ringBase p k
  if b = 0 ∨ p.lqStop.contains (k - 8) = true then (s, false)
  else if s.lqOk b then (s, true)
  else ((s.wrW (b + 16) (BitVec.ofNat 64 ((s.rdW (b + 16)).toNat % 2 ^ 56) ||| (kv kvEinval) <<< 56)).updPart part
    (fun p => { p with lqStop := nset p.lqStop (k - 8) true }), false)

/-- Take n words from the head of a ring. -/
def State.ringTake (s : State) (part k n : Nat) : State × Option (List Word) :=
  let b := ringBase (s.part part) k
  match s.ringOk part k with
  | (s, true) =>
    if s.lqCount b = 0 then (s, none)
    else
      let ws := s.rdWs (b + 64 + (s.rdW b).toNat % s.lqN b * (8 * n)) n
      (s.wrW b (s.rdW b + 1), some ws)
  | (s, false) => (s, none)

/-- Put a page into a spare ring; a full ring takes none (log 22). -/
def State.ringPut (s : State) (part k pa : Nat) : State :=
  let b := ringBase (s.part part) k
  match s.ringOk part k with
  | (s, true) =>
    if s.lqN b ≤ s.lqCount b then s
    else
      let t := s.rdW (b + 8)
      (s.wrW (b + 64 + t.toNat % s.lqN b * 8) (BitVec.ofNat 64 pa)).wrW (b + 8) (t + 1)
  | (s, false) => s

/-! ## A migration in progress (R389) -/

def migPages (m : Mig) : Nat := if m.big then 32 else 1
def migSize (m : Mig) : Nat := migPages m * 2 ^ 16
def migSrc (m : Mig) : Nat := leafPpn m.l0 * 2 ^ 16
def migPeerDst (m : Mig) : Bool := m.kind == 3
/-- L1: L0 with its new PPN, PEER and DEVID. -/
def migLeaf (m : Mig) : Word :=
  BitVec.ofNat 64 (m.l0.toNat / 2 ^ 62 * 2 ^ 62 + (if migPeerDst m then m.dev * 2 ^ 43 + 2 ^ 42 else 0) + m.tgt / 2 ^ 16 * 2 ^ 16
    + m.l0.toNat % 2 ^ 16)
/-- A virtual address lies in the page. -/
def inMig (m : Mig) (va : Nat) : Bool := decide (va % 2 ^ 57 / 2 ^ 16 / migPages m = m.vpn / migPages m)

/-- The status of a request is written once. -/
def State.migStatus (s : State) (cw : Nat) (st : Int) : State := if cw = 0 ∨ dramRange cw 8 = false then s else s.wrW cw (kv st)

/-- MIGRATION_REQUEST: the engine takes the oldest request; it is served before automatic moves still to come. -/
def State.migRequest (s : State) (part : Nat) : State :=
  match s.ringTake part 26 4 with
  | (s, none) => s
  | (s, some ws) =>
    s.updPart part (fun p => { p with migq := p.migq.filter (fun q => q.length == 4) ++ [ws] ++ p.migq.filter (fun q => q.length != 4) })

def execMigrationRequest (part : Nat) (s : State) : Res := after (s.migRequest part)

/-- The fields of a request. -/
def migBad (q : List Word) : Bool :=
  let w := fun k => q.getD k 0
  fld (w 0) 63 57 != 0 || fld (w 0) 15 0 != 0 || decide (3 < fld (w 1) 63 60) || fld (w 1) 59 0 != 0 || fld (w 2) 44 42 != 0
    || (w 3).toNat % 8 != 0

/-- The target of a request: from a spare ring, or as named. -/
def State.migTarget (s : State) (part : Nat) (q : List Word) (size : Nat) : State × Except Int Nat :=
  let p := s.part part
  let kind := fld (q.getD 1 0) 63 60
  let pa := fld (q.getD 2 0) 41 0
  if kind < 2 then
    match s.ringTake part (24 + kind) 1 with
    | (s, none) => (s, .error kvEnospc)
    | (s, some ws) =>
      let t := (ws.getD 0 0).toNat
      if t % 2 ^ 16 ≠ 0 ∨ partData p t = false then (s, .error kvEperm) else (s, .ok t)
  else if kind = 2 then
    (s, if partData p pa && partData p (pa + size - 1) && dramRange pa size then .ok pa else .error kvEperm)
  else (s, .ok pa)

/-- Operations deferred at an old home of a peer are withdrawn there: the answers come back (R225, R389). -/
def State.migRecall (s : State) (part : Nat) (m : Mig) : State :=
  (s.regions.filter (fun x => x.2.part == part && x.1 != Config.regionIds)).foldl (fun s x =>
    x.2.flight.foldl (fun s a =>
      if a.2.sp = 1 ∧ inMig m a.2.addr = true ∧ a.2.home.isSome = true ∧ mayRecall a.2 = true then s.recall x.1 a.1 a.2 else s) s) s

/-- Accesses at the old home that wait there are withdrawn, in the order of their deferral (R225, R389). -/
def State.migWithdraw (s : State) (part src size : Nat) : State :=
  let all := (s.regions.map (fun x => x.2.flight.filterMap (fun a =>
    let inside := a.2.sp == 1 && decide (src ≤ a.2.pa) && decide (a.2.pa < src + size)
    match a.2.st with
    | .deferred n => if inside then some (n, x.1, a.1, a.2) else none
    | .waiting => if inside then some (s.dord, x.1, a.1, a.2) else none
    | _ => none))).flatten
  ((sortBy (fun x y => decide (x.1 ≤ y.1)) all)).foldl (fun s x =>
    let rid := x.2.1
    let s := setAcc s rid x.2.2.1 (fun a => { a with st := .travel })
    let s := match x.2.2.2.own with
      | .pe k id _ =>
        let slot := (((s.region rid).op? k id).map (fun (o : PendOp) => o.slot)).getD 0
        onRegion (s.endWait rid k slot) rid (fun r => r.updCt k (fun c => { c with hold := tdel c.hold slot }))
      | _ => s
    s.migStall part rid x.2.2.1) s

/-- MIGRATION_START: step 1 of the next move. -/
def State.migStart (s : State) (part : Nat) : State :=
  let p := s.part part
  match (if s.ckptOn then some {} else p.mig), p.migq with
  | none, q :: rest =>
    let s := s.updPart part (fun p => { p with migq := rest })
    let w := fun k => q.getD k 0
    let cw := (w 3).toNat
    let vpn := fld (w 0) 56 16
    let kind := fld (w 1) 63 60
    if migBad q then (if cw % 8 = 0 then s.migStatus cw kvEinval else s)
    else
      match s.walk part (vpn * 2 ^ 16) with
      | .error _ => s.migStatus cw kvEnoent
      | .ok (l, a) =>
        let big := l.2 == 4
        let size := if big then 2 ^ 21 else 2 ^ 16
        if (big && decide (kind < 2)) || (decide (2 ≤ kind) && fld (w 2) 41 0 % size != 0) then s.migStatus cw kvEinval
        else
          if q.length != 4 && (big || leafPeer l.1) then s
          else
          match s.migTarget part q size with
          | (s, .error st) => s.migStatus cw st
          | (s, .ok t) =>
            let m : Mig := { kind := kind, vpn := if big then vpn / 32 * 32 else vpn, cw := cw, dev := fld (w 2) 63 45, l0 := l.1, leaf := a,
                             big := big, tgt := t }
            let s := s.updPart part (fun p => { p with mig := some m })
            if leafPeer l.1 then s.migRecall part m else s.migWithdraw part (migSrc m) (migSize m)
  | _, _ => s

def execMigrationStart (part : Nat) (s : State) : Res := after (s.migStart part)

/-- Step 2 is over: nothing issued to the old home is on its way, and none that was sent to a peer there waits for a link (R389, R395). -/
def State.migDrained (s : State) (part : Nat) (m : Mig) : Bool :=
  s.regions.all (fun x => x.2.part != part || x.1 == Config.regionIds || x.2.flight.all (fun a =>
    !((a.2.st == .travel || a.2.st == .stalled 0x60) && a.2.sp == 1 && inMig m a.2.addr && a.2.home.isSome)))

/-- MIGRATION_DRAINED. -/
def execMigrationDrained (part : Nat) (s : State) : Res :=
  .next (match (s.part part).mig with
    | some m => if m.step = 1 ∧ s.migDrained part m = true then s.updPart part (fun p => { p with mig := some { m with step := 3 } }) else s
    | none => s)

/-! ## A peer's request at this device (R467) -/

/-- The port's context of a request (R393). -/
def State.portAt (s : State) (q : PeerReq) : Option Nat :=
  q.ctx.bind (fun c => s.ports.findIdx? (fun p => p.src == q.src.toNat && p.rid == q.rid && p.ctx == c.1))
def State.portOf (s : State) (i : Nat) : PortCtx := s.ports.getD i {}
def State.setPort (s : State) (i : Nat) (f : PortCtx → PortCtx) : State := { s with ports := s.ports.set i (f (s.portOf i)) }

/-- The count of the page a port's context walks goes to the page's heat (R386). -/
def State.portLeave (s : State) (i : Nat) : State :=
  let p := s.portOf i
  let pa := (p.hpg - 1) * 2 ^ 16
  let s := if p.hpg = 0 ∨ p.hcnt = 0 ∨ partData (s.part p.part) pa = false then s else s.addHeat p.part pa p.hcnt
  s.setPort i (fun p => { p with hcnt := 0, hstay := 0 })

/-- A port's context counts at the page it walks (R386). -/
def State.portCount (s : State) (i pa n : Nat) : State :=
  let s := if (s.portOf i).hpg = pa / 2 ^ 16 + 1 then s else s.portLeave i
  s.setPort i (fun p => { p with hpg := pa / 2 ^ 16 + 1, hcnt := p.hcnt + n })

/-- The address of an event of a context, which the port generates from the descriptor it holds (R249, R393): of an element, or of the word of
it that a copy writes. -/
def portAddr (p : PortCtx) (e i : Nat) (op : MOp) : Nat :=
  let entry := [BitVec.ofNat 64 p.cap.toNat, BitVec.ofNat 64 (p.cap.toNat / 2 ^ 64)]
  let a := capBase entry + wrapN 54 ((fld (p.desc.getD 0 0) 53 0 : Int) + elemOff p.desc e)
  match op with | .writeMask _ _ => 8 * (a / 8 + i) | .rmws _ _ _ => 8 * (a / 8 + i) | _ => a

/-- An earlier event of the same context has not been performed: the port takes them in order (R380, R393). -/
def State.portBehind (s : State) (acc : Nat) (q : PeerReq) : Bool :=
  match q.ctx with
  | none => false
  | some c => s.links.any (fun l => l.2.pend.any (fun x =>
      decide (x.1 < acc) && x.2.src == q.src && x.2.rid == q.rid && x.2.ctx.any (fun d => d.1 == c.1)
        && (match tfind (s.region portRid).flight x.1 with | some a => accOpen a | none => false)))

/-- A word of a migrating page is read or written together with its presence bit (R385, R389). -/
def State.portCopy (s : State) (acc : Nat) (a : Access) (pres : Bool) : State :=
  match a.op with
  | .write _ v => setAcc ((s.wr8 a.pa v).setPres a.pa pres) portRid acc (fun a => { a with st := .done })
  | _ => setAcc s portRid acc (fun x => { x with st := .done, ans := s.rd8 a.pa, rel := s.presAt a.pa })

/-- A request that has not been performed is tried at its home; behind an element that failed, none of its context is performed (R393). -/
def State.portTry (s : State) (acc : Nat) (q : PeerReq) : State :=
  match tfind (s.region portRid).flight acc with
  | none => s
  | some a =>
    let i := s.portAt q
    if a.st ≠ .travel ∨ s.portBehind acc q = true then s
    else if i.any (fun i => (s.portOf i).fail) then setAcc s portRid acc (fun a => { a with st := .stalled 0 })
    else
      match s.portCheck q with
      | .error c =>
        let s := match i with | some i => s.setPort i (fun p => { p with fail := true }) | none => s
        setAcc s portRid acc (fun a => { a with st := .failed c })
      | .ok none => s
      | .ok (some pa) =>
        let a := { a with pa := pa, addr := q.addr }
        let s := setAcc s portRid acc (fun _ => a)
        let s := match i with | some i => s.portCount i pa 1 | none => s
        if let some b := q.copy then s.portCopy acc a b
        else if isQueueOp a.op then s.queueTake portRid acc a pa
        else s.perform portRid acc a

/-- The answer of a request goes back to the device it came from (R428). -/
def State.answer (s : State) (link : Nat) (q : PeerReq) (ans : PeerAns) : State :=
  { s with out := s.out ++ [.peerAns link q.src.toNat s.dev.devId.toNat q.part q.tag ans] }

/-- A link keeps the last 1,024 tags performed, with their answers (R395). -/
def keepTag (q : PeerReq) (ans : PeerAns) (l : Link) : Link :=
  let t := l.tags ++ [(q.src.toNat, q.tag, ans)]
  { l with tags := t.drop (t.length - 1024) }

/-- Answers of requests that are done go back over their links; performed ones are kept by tag (R395). -/
def State.portAnswers (s : State) : State :=
  s.links.foldl (fun s k =>
    k.2.pend.foldl (fun s x =>
      match tfind (s.region portRid).flight x.1 with
      | none => s
      | some a =>
        let ans := match a.st with | .done => some (PeerAns.ok a.ans a.rel) | .failed c => some (PeerAns.fail c) | .stalled _ => some .back | _ => none
        match ans with
        | none => s
        | some ans =>
          let keep := fun (l : Link) =>
            let l := { l with pend := tdel l.pend x.1 }
            match a.st with | .done => keepTag x.2 ans l | _ => l
          let s := onRegion s portRid (fun r => { r with flight := tdel r.flight x.1 })
          ({ s with links := tupd s.links {} k.1 keep } : State).answer k.1 x.2 ans) s) s

/-- Requests held back by a migration are tried again. -/
def State.portRetry (s : State) : State :=
  s.links.foldl (fun s k => k.2.pend.foldl (fun s x => s.portTry x.1 x.2) s) s

/-- The answer the ports have recorded for a tag (R395). -/
def State.tagDone (s : State) (q : PeerReq) : Option PeerAns :=
  s.links.findSome? (fun l => (l.2.tags.find? (fun t => t.1 == q.src.toNat && t.2.1 == q.tag)).map (fun t => t.2.2))

/-- The link and the access of a request that has the tag and has not been answered. -/
def State.tagPend (s : State) (q : PeerReq) : Option (Nat × Nat) :=
  s.links.findSome? (fun l => (l.2.pend.find? (fun x => x.2.tag == q.tag && x.2.src == q.src)).map (fun x => (l.1, x.1)))

/-- The port receives a descriptor: its capability's partition is checked, and the context holds it (R393, R467). -/
def State.portDesc (s : State) (link : Nat) (q : PeerReq) (d : List Word) : State :=
  let cap := q.cap.getD 0
  let part := fld (BitVec.ofNat 64 cap.toNat) 22 15
  if part ≠ q.part ∨ !partValid (s.part part) then s.answer link q (.fail 0x11)
  else
    let new : PortCtx := { src := q.src.toNat, rid := q.rid, ctx := (q.ctx.getD (0, 0, 0)).1, part := q.part, cap := cap, desc := d }
    let s := match s.portAt q with
      | some i => (s.portLeave i).setPort i (fun _ => new)
      | none => { s with ports := s.ports ++ [new] }
    ({ s with links := tupd s.links {} link (keepTag q (.ok {} false)) } : State).answer link q (.ok {} false)

/-- The port takes a new request: a descriptor, or an operation; an event of a context it does not hold stays unanswered. -/
def State.portTake (s : State) (link : Nat) (q : PeerReq) : State :=
  match q.desc with
  | some d => s.portDesc link q d
  | none =>
    if q.ctx.isSome ∧ (s.portAt q).isNone then s
    else
      let q := match s.portAt q, q.ctx with | some i, some c => { q with addr := portAddr (s.portOf i) c.2.1 c.2.2 q.op } | _, _ => q
      let s := if (tfind s.regions portRid).isSome then s else { s with regions := tset s.regions portRid { rid := portRid } }
      let a : Access := { own := .peer link q.tag, op := q.op, sp := 1, addr := q.addr, capx := 256, remote := some q.rid }
      let r := s.region portRid
      let id := r.seq
      let s := s.setRegion portRid { r with flight := tset r.flight id a, seq := id + 1 }
      let s := { s with links := tupd s.links {} link (fun l => { l with pend := tset l.pend id q }) }
      (s.portTry id q).portAnswers

/-- PEER_REQUEST: a repeated tag is answered from the record; a new one is checked and performed once (R395, R467). A request that comes
again over another link is answered there; a withdrawal takes back what has not been performed (R225). A packet for another device is not this
device's, and is not forwarded (R428). -/
def State.peerRequest (s : State) (link : Nat) (q : PeerReq) : State :=
  let l := tget s.links {} link
  if q.dst ≠ s.dev.devId.toNat then s
  else
  match s.tagDone q with
  | some t => s.answer link q t
  | none =>
    if !l.trained ∨ !l.up then s
    else
      match s.tagPend q with
      | some (k, acc) =>
        let was := tget (tget s.links {} k).pend q acc
        let s := { s with links := tupd (tupd s.links {} k (fun l => { l with pend := tdel l.pend acc })) {} link (fun l => { l with pend := tset l.pend acc was }) }
        if q.back then (setAcc s portRid acc (fun a => if accOpen a then { a with st := .stalled 0 } else a)).portAnswers else s
      | none => if q.back then s.answer link q .back else s.portTake link q

def execPeerRequest (link : Nat) (req : PeerReq) (s : State) : Res := after ((s.peerRequest link req).wake.portAnswers)

/-! ## Steps 3 to 6 -/

/-- Step 6: stalled accesses and withdrawn operations issue in their order; those of a region that has stopped wait for it to resume (R390). -/
def State.migReissue (s : State) (l : List (Nat × Nat)) : State :=
  (l.foldl (fun s x =>
    if x.1 = portRid then s
    else if (s.region x.1).st = rFrozen ∨ (s.region x.1).parked = true then
      setAcc s x.1 x.2 (fun a => if a.st = .travel then { a with st := .stalled 0 } else a)
    else
      match tfind (s.region x.1).flight x.2 with
      | some a => if isQueueOp a.op then s.queueAccess x.1 x.2 else s.homeAccess x.1 x.2
      | none => s) s).portRetry.portAnswers

/-- What is cached of the page goes: stalled accesses translate from the current leaf (R389, R390). -/
def State.migForget (s : State) (part : Nat) (m : Mig) : State :=
  let apart := fun (e : Extent) => decide (m.vpn + migPages m ≤ e.vpn) || decide (e.vpn + e.npg ≤ m.vpn)
  let drop := fun (z : Strm) => { z with ext := z.ext.filter apart }
  let s := s.updPart part (fun p => { p with tlb := p.tlb.filter (fun e => !inMig m (e.1 % 2 ^ 41 * 2 ^ 16)) })
  { s with regions := tmap s.regions (fun _ r =>
      if r.part = part then { r with strms := tmap r.strms (fun _ z => drop z), copies := tmap r.copies (fun _ z => drop z) } else r) }

/-- The move is over with a status; of one that did not take place nothing stays cached. -/
def State.migEnd (s : State) (part : Nat) (m : Mig) (st : Int) : State :=
  let s := if st = 0 then s else s.migForget part m
  (((s.updPart part (fun p => { p with mig := none })).migStatus m.cw st).migReissue m.stalled).wake

/-- A target that is not used goes back to its ring. -/
def State.migGiveBack (s : State) (part : Nat) (m : Mig) : State := if m.kind < 2 then s.ringPut part (24 + m.kind) m.tgt else s

/-- An object that names a word of the page follows it (R360, R389). -/
def migObj (m : Mig) (o : Word) : Word :=
  let src := migSrc m
  let hit := fun (pa : Nat) => decide (src ≤ pa) && decide (pa < src + migSize m)
  let pa := fld o 41 0
  let new := if migPeerDst m then objPeer m.dev (m.tgt + (pa - src)) else objDram (m.tgt + (pa - src))
  if fld o 63 62 = 1 ∧ leafPeer m.l0 = false ∧ hit pa = true then new
  else if fld o 63 62 = 2 ∧ leafPeer m.l0 = true ∧ fld o 61 43 = leafDev m.l0 ∧ hit pa = true then new
  else o

/-- Step 5: cached leaves and extents of the page take L1. -/
def State.migPatch (s : State) (part : Nat) (m : Mig) : State :=
  let l1 := migLeaf m
  let x : Extent := { vpn := m.vpn, npg := migPages m, ppn := leafPpn l1, dev := leafDev l1, peer := leafPeer l1, pr := leafPr l1,
                      w := leafW l1, r := leafR l1, use := s.fc }
  let apart := fun (e : Extent) => decide (m.vpn + migPages m ≤ e.vpn) || decide (e.vpn + e.npg ≤ m.vpn)
  let fix := fun (z : Strm) => if z.ext.all apart then z else { z with ext := z.ext.filter apart ++ [x] }
  let s := s.updPart part (fun p =>
    { p with tlb := tmap p.tlb (fun k l => if inMig m (k % 2 ^ 41 * 2 ^ 16) then (l1, l.2) else l),
             holds := p.holds.map (fun h => (h.1, migObj m h.2.1, h.2.2)) })
  { s with regions := tmap s.regions (fun _ r =>
      if r.part = part then { r with strms := tmap r.strms (fun _ z => fix z), copies := tmap r.copies (fun _ z => fix z) } else r) }

/-- Step 4: the leaf is replaced, or the move is abandoned. -/
def State.migRepoint (s : State) (part : Nat) (m : Mig) : State :=
  let v := s.rd8 m.leaf
  if v.pois ∨ v.bits ≠ m.l0 then (s.migGiveBack part m).migEnd part m kvEstate
  else
    let s := s.wrW m.leaf (migLeaf m)
    let s := s.mapEntries (fun e => if e.part = part then { e with obj := migObj m e.obj } else e)
    let s := if m.kind < 2 ∧ leafPeer m.l0 = false then s.ringPut part (if memIdx (migSrc m) < 12 then 24 else 25) (migSrc m) else s
    (s.migPatch part m).migEnd part m 0

/-- One word of the page with its presence bit is written at a local target. -/
def State.migPut (s : State) (m : Mig) (k : Nat) (v : Val) (pres : Bool) : State := (s.wr8 (m.tgt + 8 * k) v).setPres (m.tgt + 8 * k) pres

/-- Data, poison and presence of a page of this device. -/
def State.migCopy (s : State) (m : Mig) : State :=
  (List.range (migSize m / 8)).foldl (fun s k => s.migPut m k (s.rd8 (migSrc m + 8 * k)) (s.presAt (migSrc m + 8 * k))) s

/-- A word of the page as the copy has it, with its presence. -/
def State.migWord (s : State) (m : Mig) (k : Nat) : Val × Bool :=
  if leafPeer m.l0 then ((m.words.find? (fun w => w.1 == k)).map (fun w => w.2)).getD ({}, false)
  else (s.rd8 (migSrc m + 8 * k), s.presAt (migSrc m + 8 * k))

/-- The request of a step to a peer for word k and its presence: 4 reads the source, 6 writes the target (R385, R389). -/
def State.migOp (s : State) (m : Mig) (k : Nat) : Nat × Nat × MOp × Bool :=
  match m.step with
  | 4 => (leafDev m.l0, migSrc m + 8 * k, .read 8, false)
  | _ => let w := s.migWord m k; (m.dev, m.tgt + 8 * k, .write 8 w.1, w.2)

/-- The requests of a step that are not answered go out, by the route there is now. -/
def State.migSend (s : State) (part : Nat) (m : Mig) : State :=
  m.tags.foldl (fun s t =>
    let (dev, addr, op, pres) := s.migOp m t.2
    match s.route part dev with
    | none => s
    | some k => { s with out := s.out ++ [.peerReq k { tag := t.1, src := s.dev.devId, dst := dev, part := part, addr := addr, op := op, copy := some pres }] }) s

/-- A step that works at a peer begins: one request for each word. -/
def State.migBegin (s : State) (part : Nat) (m : Mig) (step : Nat) : State :=
  let n := migSize m / 8
  let m := { m with step := step, tags := (List.range n).map (fun k => (s.fresh + k, k)) }
  ({ s with fresh := s.fresh + n }.updPart part (fun p => { p with mig := some m })).migSend part m

/-- The copy goes to its target. -/
def State.migToTarget (s : State) (part : Nat) (m : Mig) : State :=
  if migPeerDst m then s.migBegin part m 6
  else if leafPeer m.l0 then
    let n := migSize m / 8
    ((List.range n).foldl (fun s' k => let w := s.migWord m k; s'.migPut m k w.1 w.2) s).migRepoint part m
  else (s.migCopy m).migRepoint part m

/-- MIGRATION_COPY_DONE: the copy ends, and steps 4 to 6 follow. Where a peer is an end of the move, this sends what is unanswered. -/
def State.migCopied (s : State) (part : Nat) : State :=
  match (s.part part).mig with
  | none => s
  | some m =>
    if m.step < 3 then s
    else if !m.tags.isEmpty then s.migSend part m
    else
      match m.step with
      | 3 => if leafPeer m.l0 then s.migBegin part m 4 else s.migToTarget part m
      | 4 => s.migToTarget part m
      | _ => s.migRepoint part m

def execMigrationCopyDone (part : Nat) (s : State) : Res := after (s.migCopied part)

/-! ## Heat epochs (R386, R388) -/

/-- Leaves of a table below an address. -/
def leavesFrom (fuel : Nat) (s : State) (lvl base va : Nat) : List (Nat × Leaf) :=
  match fuel with
  | 0 => []
  | f + 1 =>
    ((List.range (if lvl = 5 then 32 else 512)).map (fun i =>
      let e := s.rd8 (base + 8 * i)
      let va := va + i * (match lvl with | 1 => 2 ^ 48 | 2 => 2 ^ 39 | 3 => 2 ^ 30 | 4 => 2 ^ 21 | _ => 2 ^ 16)
      if e.pois || !bitOf e.bits 63 then []
      else if bitOf e.bits 62 then (if leafOk lvl e.bits then [(va, (e.bits, lvl))] else [])
      else if ptrOk lvl e.bits then leavesFrom f s (lvl + 1) (fld e.bits 41 8 * 256) va
      else [])).flatten

/-- Pages that 64 KiB leaves of the partition map: VPN, physical address, heat. A page that several leaves map is named by the first of them
(log 22). -/
def State.autoPages (s : State) (part : Nat) : List (Nat × Nat × Nat) :=
  let p := s.part part
  let ls := (leavesFrom 5 s 1 (partFtt p) 0).filter (fun l => l.2.2 == 5 && !leafPeer l.2.1 && partData p (leafPpn l.2.1 * 2 ^ 16))
  (ls.foldl (fun (l : List (Nat × Leaf)) x => if l.any (fun y => leafPpn y.2.1 == leafPpn x.2.1) then l else l ++ [x]) []).map (fun l =>
    (l.1 / 2 ^ 16, leafPpn l.2.1 * 2 ^ 16, rdNat s.mem (heatAddr p (leafPpn l.2.1 * 2 ^ 16)) 4))

/-- One candidate of an epoch: spares left, HBM pages still to demote (coldest first), moves so far. -/
def autoStep (acc : Nat × List (Nat × Nat × Nat) × List (List Word)) (c : Nat × Nat × Nat) : Nat × List (Nat × Nat × Nat) × List (List Word) :=
  let mv := fun (vpn kind : Nat) => [BitVec.ofNat 64 (vpn * 2 ^ 16), BitVec.ofNat 64 (kind * 2 ^ 60), (0 : Word), 0, 1]
  let (n, hbm, l) := acc
  if 0 < n then (n - 1, hbm, l ++ [mv c.1 0])
  else
    match hbm with
    | [] => acc
    | h :: rest => if 2 * h.2.2 ≤ c.2.2 ∧ 2 * h.2.2 < c.2.2 then (n, rest, l ++ [mv h.1 1, mv c.1 0]) else acc

/-- The moves of an epoch, hottest candidate first, at most 256 promotions. -/
def State.autoPlan (s : State) (part : Nat) : State :=
  let pages := s.autoPages part
  let hot := (sortBy (fun x y => decide (y.2.2 ≤ x.2.2)) (pages.filter (fun x => decide (12 ≤ memIdx x.2.1))))
  let cold := (sortBy (fun x y => decide (x.2.2 ≤ y.2.2)) (pages.filter (fun x => decide (memIdx x.2.1 < 12))))
  match s.ringOk part 24 with
  | (s, ok) =>
    let n := if ok then s.lqCount (ringBase (s.part part) 24) else 0
    let plan := (hot.take 256).foldl autoStep (n, cold, [])
    s.updPart part (fun p => { p with migq := p.migq ++ plan.2.2 })

/-- Every heat word that is not 0 is halved. -/
def State.halveHeat (s : State) (part : Nat) : State :=
  let b := partHeat (s.part part)
  let pagesOf := fun (m : Nat) => if m < 12 then (2 ^ 36 - 2 ^ 30) / 2 ^ 16 else (2 ^ 37 - 2 ^ 31) / 2 ^ 16
  let own := fun (m : Nat) => if m < 12 then bitOf (partWord (s.part part) 14) (52 + m) else bitOf (partWord (s.part part) 14) (36 + (m - 12))
  let n := ((List.range 28).map (fun k => if own k then pagesOf k else 0)).foldl (· + ·) 0
  let ws := ((s.mem.filter (fun c => decide (b ≤ c.1) && decide (c.1 < b + 4 * n))).map (fun c => (c.1 - b) / 4)).eraseDups
  ws.foldl (fun (s : State) k => ({ s with mem := wrNat s.mem (b + 4 * k) 4 (rdNat s.mem (b + 4 * k) 4 / 2) } : State).track (b + 4 * k)) s

/-- HEAT_EPOCH_END: automatic placement, then the halving. -/
def State.epochEnd (s : State) (part : Nat) : State :=
  let p := s.part part
  if !partValid p ∨ p.slice.toNat / 2 ^ 20 ≤ p.epoch then s
  else
    let s := if bitOf (partWord p 0) 52 then s.autoPlan part else s
    (s.halveHeat part).updPart part (fun p => { p with epoch := p.epoch + 1 })

def execHeatEpochEnd (part : Nat) (s : State) : Res := after (s.epochEnd part)

/-! ## Answers and links (R395, R428, R466) -/

/-- The access a tag belongs to. -/
def State.accOfTag (s : State) (tag : Nat) : Option (Nat × Nat × Access) :=
  s.regions.findSome? (fun x => (x.2.flight.find? (fun a => a.2.peer == some tag && accOpen a.2)).map (fun a => (x.1, a.1, a.2)))

/-- The peer's port holds the descriptor of a side of a context (R393). -/
def descHeld (acc c side : Nat) (r : Region) : Region :=
  ({ r with flight := tdel r.flight acc } : Region).setStrm c (fun z => { z with dsent := side :: z.dsent })

/-- A context whose element the peer has refused stalls there (R380, R393). -/
def peerStall (a : Access) (r : Region) : Region :=
  match remEvent a.own, remDesc a.own with
  | some (c, _, side, _), _ => stallStrm c (side == 0) r
  | none, some (c, side) => stallStrm c (side == 0) r
  | none, none => r

/-- A request that the peer has not performed: it is issued again when its region resumes, or at once where the region runs: behind a
migration of its page, where there is one (R225, R389). -/
def State.peerBack (s : State) (rid acc : Nat) (a : Access) : State :=
  let r := s.region rid
  let fresh := fun (st : AccSt) => setAcc s rid acc (fun a => { a with st := st, via := none, back := false, peer := none, home := none })
  if r.st = rDying then onRegion s rid (fun r => { r with flight := tdel r.flight acc })
  else if (remEvent a.own).isSome then setAcc s rid acc (fun a => { a with st := .stalled 0, via := none, back := false })
  else if r.st = rRunning ∧ r.parked = false then
    let s := fresh .travel
    if capRemote (capEntry r a.capx) = false ∧ pageFrozen (s.part r.part) a.addr = true then s.migStall r.part rid acc else s
  else fresh (.stalled 0)

/-- The answer of an access's request (R395): a check that failed at the peer is PEER_FAULT, and the access stays pending. -/
def State.accAck (s : State) (rid acc : Nat) (a : Access) (ans : PeerAns) : State :=
  match ans with
  | .ok v moved =>
    (match remDesc a.own with
     | some (c, side) => onRegion s rid (descHeld acc c side)
     | none =>
       if (s.region rid).st = rDying then onRegion s rid (fun r => { r with flight := tdel r.flight acc })
       else if isQueueOp a.op then doneQueue s rid acc v moved
       else setAcc s rid acc (fun a => { a with st := .done, ans := v, via := none, back := false }))
  | .fail c =>
    if (s.region rid).st = rDying then onRegion s rid (fun r => { r with flight := tdel r.flight acc })
    else if c = 0x11 ∨ c = 0x18 ∨ c = 0x19 then onRegion (s.stall rid acc a { code := 0x61, aux := c }) rid (peerStall a)
    else setAcc s rid acc (fun a => { a with st := .failed c, via := none, back := false })
  | .back => s.peerBack rid acc a

/-- PEER_ACK: the answer of a remote request (R395), of a step of a migration, or of the checkpoint logic. -/
def State.peerAck (s : State) (tag : Nat) (ans : PeerAns) : State :=
  match s.accOfTag tag with
  | some (rid, acc, a) => (onRegion s rid (fun r => { r with ptags := r.ptags.filter (fun t => t.2 != tag) })).accAck rid acc a ans
  | none =>
    match s.parts.findSome? (fun p => p.2.mig.bind (fun m => (m.tags.find? (fun t => t.1 == tag)).map (fun t => (p.1, m, t.2)))) with
    | none =>
      match s.ckpt.wait.find? (fun t => t.1 == tag) with
      | none => s
      | some (_, a, _) =>
        { s with ckpt := { s.ckpt with wait := s.ckpt.wait.filter (fun t => t.1 != tag),
                                       got := match ans with | .ok v _ => if s.ckpt.step = 20 ∨ s.ckpt.step = 21 ∨ s.ckpt.step = 22 then s.ckpt.got else s.ckpt.got ++ [(a, v.bits)] | _ => s.ckpt.got,
                                       bad := match ans with | .ok _ _ => s.ckpt.bad | _ => true } }
    | some (part, m, k) =>
      match ans with
      | .ok v moved =>
        s.updPart part (fun p => { p with mig := some { m with tags := m.tags.filter (fun t => t.1 != tag),
                                                               words := if m.step = 4 then m.words ++ [(k, v, moved)] else m.words } })
      | _ => (s.migGiveBack part m).migEnd part m kvEperm

/-- A failure a peer can report: a check of R467, or what an event fails with at its home (R75, R219). Another code is none of R7, and its
packet is ignored (log 49). -/
def ansOk (ans : PeerAns) : Bool := match ans with | .fail c => [0x10, 0x11, 0x18, 0x19, 0x20, 0x21].contains c | _ => true

def execPeerAck (link tag : Nat) (ans : PeerAns) (s : State) : Res :=
  if ansOk ans && (tget s.links {} link).trained && (tget s.links {} link).up then after (s.peerAck tag ans) else .next s

/-- The words sent to the buddy, or asked of it, go out over the lowest link up toward it (R449, R466). -/
def State.ckptSend (s : State) : State :=
  let w0 := (if s.ckpt.step = 10 then s.ckpt.new else s.ckpt.plan).getD 0 0
  match (List.range Config.links).find? (fun k => linkUp (tget s.links {} k) (fld w0 63 45)) with
  | none => s
  | some k =>
    let q := fun (t : Nat × Nat × Word) => Out.peerReq k
      { tag := t.1, src := s.dev.devId, dst := fld w0 63 45, part := fld w0 44 39, addr := t.2.1, n := 8,
        op := if s.ckpt.step = 20 ∨ s.ckpt.step = 21 ∨ s.ckpt.step = 22 then .write 8 { bits := t.2.2 } else .read 8 }
    { s with out := s.out ++ s.ckpt.wait.map q }

/-- A withdrawal goes out again on the next route; without one the request stays unacknowledged, and is issued again with its tag (R395); a
killed region drops it. -/
def State.recallAgain (s : State) (rid acc : Nat) (a : Access) (dev : Nat) : State :=
  match s.route (s.region rid).part dev with
  | some k => (setAcc s rid acc (fun a => { a with via := some k })).recall rid acc { a with via := some k }
  | none =>
    if (s.region rid).st = rDying then onRegion s rid (fun r => { r with flight := tdel r.flight acc })
    else setAcc s rid acc (fun a => { a with st := .stalled 0x60, back := false })

/-- Requests sent over a link and not answered are sent again, with their tags, on the next route (R466). -/
def State.resend (s : State) (link : Nat) (dev : Option Nat) : State :=
  s.regions.foldl (fun s x =>
    x.2.flight.foldl (fun s a =>
      let d := accDev x.2 a.2
      if a.2.via = some link ∧ accOpen a.2 = true ∧ (dev = none ∨ dev = some d) then
        let acc := { a.2 with via := none }
        let s := setAcc s x.1 a.1 (fun _ => acc)
        if acc.back then s.recallAgain x.1 a.1 acc d
        else
        match acc.home with
        | some (.peer _ pa) => s.sendPeer x.1 a.1 acc d none pa
        | _ => s.sendPeer x.1 a.1 acc d (some (capBits (capEntry x.2 acc.capx))) acc.addr
      else s) s) s

/-- A request sent and not acknowledged. -/
def unAcked (a : Access) : Bool := a.peer.isSome && (a.st == .travel || a.st == .stalled 0x60)

/-- Requests not acknowledged go out again where a link is up (R395, R452). -/
def State.resendAll (s : State) : State :=
  s.regions.foldl (fun s x =>
    x.2.flight.foldl (fun s a =>
      let d := accDev x.2 a.2
      if unAcked a.2 && a.2.via.isNone && (s.accLink x.2 a.2 d).isSome then
        let acc := { a.2 with st := .travel }
        let s := setAcc s x.1 a.1 (fun _ => acc)
        match acc.home with
        | some (.peer _ pa) => s.sendPeer x.1 a.1 acc d none pa
        | _ => s.sendPeer x.1 a.1 acc d (some (capBits (capEntry x.2 acc.capx))) acc.addr
      else s) s) s

/-- LINK_TRAIN: training decides the mode; a direct link learns its far end (R428). -/
def execLinkTrain (link : Nat) (switched : Bool) (far : BitVec 19) (s : State) : Res :=
  if link < Config.links then
    .next <| State.ckptSend { s with links := tupd s.links {} link (fun l =>
      { l with trained := true, up := true, switched := switched, far := if switched then 0 else far.toNat, noRoute := [] }) }
  else .next s

/-- LINK_LOSS: the link trains again, and is up toward no device meanwhile. -/
def execLinkLoss (link : Nat) (s : State) : Res :=
  if (tfind s.links link).isSome then
    .next ({ s with links := tupd s.links {} link (fun l => { l with trained := false, up := false }) }.resend link none).ckptSend
  else .next s

/-- NO_ROUTE_FLIT: a switched link is down toward that device (R466). -/
def execNoRouteFlit (link : Nat) (dev : BitVec 19) (s : State) : Res :=
  let l := tget s.links {} link
  if l.trained && l.switched then
    .next ({ s with links := tupd s.links {} link (fun l => { l with noRoute := nset l.noRoute dev.toNat true }) }.resend link (some dev.toNat)).ckptSend
  else .next s

end Sys2Proof.Machine
end

