-- ==== Sys2Proof/Machine/Manager.lean ====
section
/-! DEFINITION. The partition manager (R426-R435): the checks of a commit, seals, the VF reset; the SBI extensions of the hypervisor
Cobblers (R428, R429, R458), the measurement registers and the attestation report (R456, R458). -/

namespace Sys2Proof.Machine

/-! ## Measurement (R456) -/

/-- The 64 bytes of a measurement register, and the register of eight words. -/
def mrBytes (v : BitVec 512) : List Byte := (List.range 64).map (fun i => BitVec.ofNat 8 (v.toNat / 2 ^ (8 * i)))
def mrOf (ws : List Word) : BitVec 512 := BitVec.ofNat 512 (ws.foldr (fun w acc => w.toNat + 2 ^ 64 * acc) 0)
def wordsBytes (ws : List Word) : List Byte := (ws.map wordBytes).flatten

/-- EXTENSION: MR := SHA3-512 (MR, d). -/
def State.extend (s : State) (k : Nat) (d : List Byte) : State :=
  { s with dev := { s.dev with mr := tset s.dev.mr k (mrOf (sha3 (mrBytes (tget s.dev.mr 0 k) ++ d))) } }

/-! ## The checks of a commit (R427) -/

abbrev sbiNotSupported : Int := -2
abbrev sbiInvalidParam : Int := -3
abbrev sbiDenied : Int := -4
abbrev sbiInvalidAddress : Int := -5

/-- The fields that are reserved. -/
def descRes0 (w : Nat → Word) : Bool :=
  fld (w 0) 34 0 == 0 && fld (w 1) 29 0 == 0 && fld (w 14) 11 0 == 0 && fld (w 15) 15 0 == 0
    && [19, 20, 21, 22].all (fun k => fld (w k) 63 42 == 0 && fld (w k) 11 0 == 0) && fld (w 23) 63 32 == 0
    && [24, 25, 26].all (fun k => fld (w k) 63 42 == 0 && fld (w k) 5 0 == 0) && w 27 == 0
    && (List.range 16).all (fun q => fld (w (28 + q)) 63 42 == 0 && !bitOf (w (28 + q)) 4)
    && (List.range 8).all (fun k => fld (w (44 + k)) 19 0 == 0)
    && (List.range 4).all (fun j => fld (w (52 + 2 * j)) 37 0 == 0 && fld (w (53 + 2 * j)) 63 42 == 0) && w 62 == 0 && w 63 == 0

/-- Fields in range. -/
def descRange (w : Nat → Word) (creation : Bool) : Bool :=
  decide (fld (w 1) 63 50 ≤ 8192) && decide (1 ≤ fld (w 1) 41 30) && decide (fld (w 23) 31 0 ≤ 2 ^ 20) && fld (w 0) 55 54 != 3
    && (!bitOf (w 0) 56 || bitOf (w 0) 35) && (!creation || fld (w 0) 50 36 != 0)

/-- Pages of a memory that a program may own. -/
def memPages (m : Nat) : Nat := if m < 12 then (2 ^ 36 - 2 ^ 30) / 2 ^ 16 else (2 ^ 37 - 2 ^ 31) / 2 ^ 16
def memBase (m : Nat) : Nat := if m < 12 then m * 2 ^ 36 else 2 ^ 40 + (m - 12) * 2 ^ 37
def ownsMem (p : Part) (m : Nat) : Bool := if m < 12 then bitOf (partWord p 14) (52 + m) else bitOf (partWord p 14) (36 + (m - 12))
def partMems (p : Part) : List Nat := (List.range 28).filter (ownsMem p)
def heatWords (p : Part) : Nat := ((partMems p).map memPages).foldl (· + ·) 0

/-- Bytes of a ring of entries of n bytes: its header, and as many entries as that gives it (R344). -/
def State.ringBytes (s : State) (b n : Nat) : Nat := 64 + (if 1 ≤ fld (s.rdW (b + 16)) 3 0 ∧ fld (s.rdW (b + 16)) 3 0 ≤ 12 then s.lqN b * n else 0)

/-- Tables, rings and queues a descriptor names: address and bytes. -/
def State.descTables (s : State) (p : Part) : List (Nat × Nat) :=
  [(partFtt p, 4096), (partHeat p, 4 * heatWords p), (partDirty p, 2 ^ 23), (partSpill p, 32 * fld (partWord p 23) 31 0)]
    ++ ([24, 25, 26].filter (fun k => ringBase p k != 0)).map (fun k => (ringBase p k, s.ringBytes (ringBase p k) (if k = 26 then 32 else 8)))
    ++ ((List.range 16).filter (lqValid p)).map (fun q => (lqBase p q, s.ringBytes (lqBase p q) 64))

/-- The tables below a table of a fabric translation table: address and bytes (R374). -/
def tablesFrom (fuel : Nat) (s : State) (lvl base : Nat) : List (Nat × Nat) :=
  match fuel with
  | 0 => []
  | f + 1 =>
    (base, if lvl = 5 then 256 else 4096) :: ((List.range (if lvl = 5 then 32 else 512)).map (fun i =>
      let e := s.rd8 (base + 8 * i)
      if e.pois || !bitOf e.bits 63 || bitOf e.bits 62 || !ptrOk lvl e.bits then [] else tablesFrom f s (lvl + 1) (fld e.bits 41 8 * 256))).flatten

/-- All of a partition's tables, those its translation table leads to among them. -/
def State.allTables (s : State) (p : Part) : List (Nat × Nat) := s.descTables p ++ tablesFrom 5 s 1 (partFtt p)

/-- Other valid partitions. -/
def State.others (s : State) (pid : Nat) : List Part := (s.parts.filter (fun x => x.1 != pid && partValid x.2)).map (·.2)

/-- A table lies in DRAM, outside the reserves and outside the memory of others. -/
def tableOk (others : List Part) (t : Nat × Nat) : Bool :=
  t.2 == 0 || (dramRange t.1 t.2 && isData t.1 && isData (t.1 + t.2 - 1) && others.all (fun p => !partOwnsMem p t.1))

/-- Routes within WELT, and lend windows within the partition's memory. -/
def descRoutes (p : Part) : Bool :=
  (List.range 8).all (fun k =>
    let w := partWord p (44 + k)
    !bitOf w 20 || (decide (fld w 25 21 < 24) && bitOf (partWord p 14) (12 + fld w 25 21) && decide (fld w 63 45 ≤ fld w 44 26)))
  && (List.range 4).all (fun j =>
    let v := partWord p (53 + 2 * j)
    !bitOf (partWord p (52 + 2 * j)) 38
      || (List.range (if fld v 15 0 = 0 then 65536 else fld v 15 0)).all (fun n => partData p ((fld v 41 16 + n) * 2 ^ 16)))

def epaOf (p : Part) : BitVec 128 := BitVec.ofNat 128 ((partWord p 60).toNat * 2 ^ 64 + (partWord p 61).toNat)

/-- A resource is named by another valid partition. -/
def descClash (p q : Part) : Bool :=
  (List.range 12).any (fun k => (partWord p (2 + k) &&& partWord q (2 + k)) != 0)
    || (partWord p 14 &&& partWord q 14) != 0 || (partWord p 15 &&& partWord q 15) != 0
    || [16, 17, 18].any (fun k => (partWord p k &&& partWord q k) != 0)

/-- A memory of the partition is reached by a valid leaf, an extent or a cached leaf (R427). -/
def State.memLive (s : State) (pid m : Nat) : Bool :=
  let p := s.part pid
  let inM := fun (pa : Nat) => isDram pa && memIdx pa == m
  (leavesFrom 5 s 1 (partFtt p) 0).any (fun l => !leafPeer l.2.1 && inM (leafPpn l.2.1 * 2 ^ 16))
    || p.tlb.any (fun l => !leafPeer l.2.1 && inM (leafPpn l.2.1 * 2 ^ 16))
    || s.regions.any (fun x => x.2.part == pid && (x.2.strms ++ x.2.copies).any (fun z => z.2.ext.any (fun e => !e.peer && inM (e.ppn * 2 ^ 16))))

/-- Something removed is in use. -/
def State.removesUsed (s : State) (pid : Nat) (new : Part) : Bool :=
  let old := s.part pid
  let rs := s.live.filter (fun r => r.part == pid)
  (List.range 768).any (fun pg => partPage old pg && !partPage new pg && rs.any (fun r => (heldPages r).contains pg))
    || (List.range 48).any (fun c => bitOf (partWord old 15) (16 + c) && !bitOf (partWord new 15) (16 + c)
          && rs.any (fun r => r.st != rOut && r.nles.any (fun n => n.2.phys == c)))
    || (List.range 28).any (fun m => ownsMem old m && !ownsMem new m && s.memLive pid m)

/-- THE CHECKS OF A COMMIT, in the order of R427. -/
def State.commitCheck (s : State) (pid : Nat) (ws : List Word) : Option Int :=
  let old := s.part pid
  let was := partValid old
  let new : Part := { desc := ws }
  let w := partWord new
  let vd := partValid new
  let oth := s.others pid
  if fld (w 0) 62 57 ≠ pid ∨ !descRes0 w ∨ !descRange w (vd && !was) then some sbiInvalidParam
  else if !(s.descTables new).all (tableOk oth) then some sbiInvalidParam
  else if !descRoutes new then some sbiInvalidParam
  else if epaOf new != 0 && (oth.any (fun q => epaOf q == epaOf new) || s.dev.hep == epaOf new) then some sbiInvalidParam
  else if oth.any (descClash new) then some sbiDenied
  else if 8192 < ((oth.map (fun q => fld (partWord q 1) 63 50)).foldl (· + ·) 0) + (if vd then fld (w 1) 63 50 else 0) then some sbiDenied
  else if was && s.removesUsed pid new then some sbiDenied
  else if was && (!vd || bitOf (w 0) 56 != bitOf (partWord old 0) 56 || bitOf (w 0) 35 != bitOf (partWord old 0) 35)
      && s.live.any (fun r => r.part == pid) then some sbiDenied
  else none

/-- THE COMMIT: SEAL stays while the partition exists (R430); a partition that is created counts from 0 (R355); a Cobbler taken away loses its VPV (R432); MR4 is extended (R456). -/
def State.commit (s : State) (pid : Nat) (ws : List Word) : State :=
  let old := s.part pid
  let ws := if partValid old ∧ bitOf (ws.getD 0 0) 63 = true then
      lset ws 0 (BitVec.ofNat 64 ((ws.getD 0 0).toNat / 2 ^ 51 * 2 ^ 51 + fld (partWord old 0) 50 36 * 2 ^ 36 + (ws.getD 0 0).toNat % 2 ^ 36))
    else ws
  let s := (s.sysNote pid).updPart pid (fun p =>
    if partValid old then { p with desc := ws, lqStop := [] } else { p with desc := ws, lqStop := [], slice := 0, epoch := 0 })
  let s := { s with harts := tmap s.harts (fun c h =>
    if bitOf h.pmap 6 && fld h.pmap 5 0 == pid && !partCob { desc := ws } c then { h with pmap := h.pmap &&& ~~~(64#64) } else h) }
  s.extend 4 (wordsBytes ws)

/-- The 64 words of a committed descriptor. -/
def descOf (p : Part) : List Word := (List.range 64).map (partWord p)

/-- PART_SEAL (R431). -/
def State.sealNext (s : State) (pid : Nat) : State :=
  s.updPart pid (fun p =>
    let v := fld (partWord p 0) 50 36
    let n := if v = 32767 then 1 else v + 1
    { p with desc := lset p.desc 0 (BitVec.ofNat 64 ((partWord p 0).toNat / 2 ^ 51 * 2 ^ 51 + n * 2 ^ 36 + (partWord p 0).toNat % 2 ^ 36)) })

/-! ## VF reset (R434) -/

/-- Every word of the partition's memory is zero, unpoisoned, with its presence bit clear; the writes are tracked (R391). -/
def State.scrubMem (s : State) (pid : Nat) : State :=
  let p := s.part pid
  let gone := fun (a : Nat) => partOwnsMem p a
  let s := { s with mem := s.mem.filter (fun c => !gone c.1), dpois := s.dpois.filter (fun w => !gone (8 * w)) }
  let s := (partMems p).foldl (fun s m => (List.range (memPages m)).foldl (fun s n => s.track (memBase m + n * 2 ^ 16)) s) s
  let subs := ((s.sess.map (fun x => x.2.subs)).flatten).eraseDups
  (subs.filter (partData p)).foldl (fun s a => s.events a) s

/-- Steps 5: entries between HEAD and TAIL of each launch queue are cancelled. -/
def State.cancelQueue (s : State) (pid q : Nat) : State :=
  let p := s.part pid
  let b := lqBase p q
  if !lqValid p q || !s.lqOk b then s
  else
    let s := (List.range (s.lqCount b)).foldl (fun s k =>
      let e := s.rdWs (b + 64 + ((s.rdW b).toNat + k) % s.lqN b * 64) 8
      s.leFail e kvEcancel) s
    s.wrW b (s.rdW (b + 8))

/-- Step 6: no migration has passed the leaf's replacement between two steps; all are abandoned, queued requests with them. -/
def State.cancelMigs (s : State) (pid : Nat) : State :=
  let p := s.part pid
  let s := match p.mig with | some m => (s.migGiveBack pid m).migEnd pid m kvEstate | none => s
  let s := p.migq.foldl (fun s q => s.migStatus ((q.getD 3 0).toNat / 8 * 8) kvEstate) (s.updPart pid (fun p => { p with migq := [] }))
  let b := ringBase p 26
  if b = 0 ∨ !s.lqOk b then s
  else
    let s := (List.range (s.lqCount b)).foldl (fun s k =>
      s.migStatus ((s.rdW (b + 64 + ((s.rdW b).toNat + k) % s.lqN b * 32 + 24)).toNat / 8 * 8) kvEstate) s
    s.wrW b (s.rdW (b + 8))

/-- Step 2: a region of the partition is killed and gone. -/
def State.resetRegion (s : State) (rid : Nat) : State :=
  let r := s.region rid
  let s := if r.st = rDying ∨ r.st = rOut then s else s.kill rid
  let s := s.groupEnd rid
  s.removeRegion rid

/-- THE VF RESET of R434, steps 2 to 10; `keep` are the sessions that ordered it. -/
def State.vfReset (s : State) (pid : Nat) (scrubIt : Bool) (keep : List Nat) : State :=
  let rs := (s.live.filter (fun r => r.part == pid)).map (fun r => r.rid)
  let s := rs.foldl (fun s r => s.resetRegion r) s
  let p := s.part pid
  let s := match p.server with
    | some ss => { s with out := s.out ++ p.files.map (fun f => Out.khr 0x41 ss 0 0 [4, BitVec.ofNat 64 f]) }
    | none => s
  let s := p.conns.foldl (fun s c => if c.2.st = 3 then s else s.connReset pid c.1 c.2 kvEconnreset true) s
  let s := s.updPart pid (fun p => { p with calls := [], arr := [], files := [], conns := [], lists := [], server := none })
  let s := { s with sess := tmap s.sess (fun _ x => if x.ep = pid then { x with subs := [] } else x) }
  let s := (List.range 16).foldl (fun s q => s.cancelQueue pid q) s
  let s := s.cancelMigs pid
  let s := s.dropEntries (fun e => e.part == pid)
  let s := { s with cycles := s.cycles.filter (fun c => c.part != pid),
                    recQ := s.recQ.filter (fun x => fld (x.w.getD 0 0) 53 48 != pid),
                    harts := tmap s.harts (fun _ h =>
                      let cut := fun (f : Fctx) => { f with queue := f.queue.filter (fun x => fld (x.w.getD 0 0) 53 48 != pid) }
                      { h with fh := cut h.fh, fv := cut h.fv }) }
  let s := s.updPart pid (fun p => { p with untrk := 0, holds := [], lqSeen := [] })
  let s := s.sealNext pid
  let s := if scrubIt then s.scrubMem pid else s
  { s with sess := s.sess.filter (fun x => x.2.ep != pid || keep.contains x.1) }

/-! ## The operations of the manager, whatever their source (R430) -/

/-- What an operation answers: its error and what it returns; none while it is in progress. -/
abbrev MgrRes := State × Option (Int × List Word)

/-- A reset that may be ordered. -/
def State.rstOk (s : State) (pid : Nat) (a2 : Word) : Bool := decide (pid < 64) && fld a2 63 1 == 0 && partValid (s.part pid)

/-- A partition operation whose turn has come: a reset begins, any other operation is over at once. -/
def State.manageNow (s : State) (src : MgrSrc) (fid pid : Nat) (a2 : Word) (desc : List Word) : MgrRes :=
  let bad : MgrRes := (s, some (sbiInvalidParam, []))
  match fid with
  | 0 =>
    if 64 ≤ pid ∨ a2 ≠ 0 then bad
    else
      match s.commitCheck pid desc with
      | some e => (s, some (e, []))
      | none => (s.commit pid desc, some (0, [0]))
  | 1 => if 64 ≤ pid ∨ a2 ≠ 0 then bad else (s, some (0, descOf (s.part pid)))
  | 2 =>
    if 64 ≤ pid ∨ a2 ≠ 0 ∨ !partValid (s.part pid) then bad
    else
      let s := s.sealNext pid
      (s, some (0, [BitVec.ofNat 64 (sealOf s pid)]))
  | 3 => if s.rstOk pid a2 then ({ s with rst := some { pid := pid, scrub := bitOf a2 0, who := [src] } }, none) else bad
  | 4 =>
    if Config.links ≤ pid ∨ a2 ≠ 0 then bad
    else
      let l := tget s.links {} pid
      (s, some (0, [BitVec.ofNat 64 ((if l.switched then 0 else l.far * 2 ^ 45) + (if l.trained then 4 else 0) + (if l.switched then 2 else 0)
        + (if l.up then 1 else 0))]))
  | _ => (s, some (sbiNotSupported, []))

/-- AN OPERATION REACHES THE MANAGER: it waits for the reset in progress, and for RESUME while a checkpoint is quiesced; a second reset of the
same partition ends with the first (R430, R435, R452). -/
def State.manage (s : State) (src : MgrSrc) (fid pid : Nat) (a2 : Word) (desc : List Word) : MgrRes :=
  match s.rst with
  | some r =>
    if fid = 3 ∧ r.pid = pid ∧ s.rstOk pid a2 = true then ({ s with rst := some { r with who := r.who ++ [src] } }, none)
    else ({ s with mgrQ := s.mgrQ ++ [{ src := src, fid := fid, pid := pid, a2 := a2, desc := desc }] }, none)
  | none =>
    if s.ckptOn || !s.mgrQ.isEmpty then ({ s with mgrQ := s.mgrQ ++ [{ src := src, fid := fid, pid := pid, a2 := a2, desc := desc }] }, none)
    else s.manageNow src fid pid a2 desc

/-- A KHR answer is sent, and kept among the 64 latest of its session (R438). -/
def State.khrAnswer (s : State) (typ sid seq : Nat) (st : Int) (body : List Word) : State :=
  let s := { s with out := s.out ++ [.khr typ sid seq st body] }
  match tfind s.sess sid with
  | none => s
  | some x => { s with sess := tset s.sess sid { x with cache := let c := x.cache ++ [(seq, st, body)]; c.drop (c.length - 64) } }

/-- The status and payload of a partition operation as KHR gives them (R439). -/
def mgrKhr (typ : Nat) (a : Int × List Word) : Int × List Word :=
  if typ = 0x51 then (if a.1 = 0 then 0 else kvEinval, []) else (a.1, if a.1 = 0 then a.2 else [])

/-- What an operation that had to wait answers, when it is over. -/
def State.mgrAnswer (s : State) (fid pid : Nat) (a : Int × List Word) (src : MgrSrc) : State :=
  match src with
  | .hart h => { s with mgrDone := tset s.mgrDone h (fid, pid, a) }
  | .khr sid seq typ => s.khrAnswer typ sid seq (mgrKhr typ a).1 (mgrKhr typ a).2
  | .port => { s with out := s.out ++ [.mgmt [kv a.1]] }

/-- Operations that wait have their turn, as far as a reset among them. -/
def State.mgrNext (fuel : Nat) (s : State) : State :=
  match fuel, s.mgrQ with
  | f + 1, x :: rest =>
    if s.rst.isSome || s.ckptOn then s
    else
      match ({ s with mgrQ := rest } : State).manageNow x.src x.fid x.pid x.a2 x.desc with
      | (s, some a) => State.mgrNext f (s.mgrAnswer x.fid x.pid a x.src)
      | (s, none) => s
  | _, _ => s

/-- THE MANAGER GOES ON, once each fc: a reset is carried out when no connection of its partition waits for a migration (R389, R434); then the
operations that wait have their turn. -/
def State.mgrTick (s : State) : State :=
  match s.rst with
  | none => s.mgrNext s.mgrQ.length
  | some r =>
    let p := s.part r.pid
    if p.conns.any (fun c => c.2.st != 3 && s.connHeld r.pid c.2) then s
    else
      let keep := r.who.filterMap (fun w => match w with | .khr ss _ _ => some ss | _ => none)
      let s := { s.vfReset r.pid r.scrub keep with rst := none }
      let s := r.who.foldl (fun s w => s.mgrAnswer 3 r.pid (0, [0]) w) s
      s.mgrNext s.mgrQ.length

/-! ## SBI calls (R429, R458) -/

def eidPart : Word := 0x09004B56
def eidAtt : Word := 0x09004B41

/-- The return of a call: the error in a0 and the value in a1; with an error the value is not stated (log 23). -/
def State.sbiRet (s : State) (err : Int) (v : Word) : State :=
  let (s, v) := if err = 0 then (s, v) else s.freeW
  s.updHart s.curHart (fun h => { hset 11 v (hset 10 (kv err) h) with pc := h.pc + 4 })

/-- THE FRAME OF A CALL: from HS on a hypervisor Cobbler; from VS or another hart it is denied, from U it is an environment call of
that level. While a checkpoint is quiesced it waits (R452); so does a call that is not over (R429): the hart makes it again. -/
def sbiFrame (s : State) (f : State → Word → Word → Word → State × Option (Int × Word)) : Res :=
  let h := s.hart s.curHart
  if s.ckptOn then .next s
  else if isUser h.priv then .next (s.hartExc s.curHart 8 0 0)
  else if h.priv = .vs ∨ 192 ≤ s.curHart ∨ s.dev.hcob.getLsbD s.curHart = false then .next (s.sbiRet sbiDenied 0)
  else
    match f s (hx h 10) (hx h 11) (hx h 12) with
    | (s, some (e, v)) => after (s.sbiRet e v)
    | (s, none) => .next s

/-- A call of the partition extension. -/
def sbiPart (fid : Nat) (s : State) : Res :=
  sbiFrame s (fun s a0 a1 a2 =>
    let a := a0.toNat
    let h := s.curHart
    let pid := a1.toNat
    let done' := fun (s : State) (x : Int × List Word) => if fid = 1 ∧ x.1 = 0 then (s.wrWs a x.2, some ((0 : Int), (0 : Word))) else (s, some (x.1, x.2.getD 0 0))
    match tfind s.mgrDone h with
    | some (f, p, x) =>
      let s := { s with mgrDone := tdel s.mgrDone h }
      if f = fid ∧ p = pid then done' s x else (s, none)
    | none =>
      if (s.rst.any (fun r => r.who.contains (.hart h))) || s.mgrQ.any (fun x => x.src == .hart h) then (s, none)
      else if (fid = 0 ∨ fid = 1) ∧ (a % 512 ≠ 0 ∨ dramRange a 512 = false ∨ isDram a = false) then (s, some (sbiInvalidAddress, 0))
      else if 2 ≤ fid ∧ a0 ≠ 0 then (s, some (sbiInvalidParam, 0))
      else
        match s.manage (.hart h) fid pid a2 (s.rdWs a 64) with
        | (s, some x) => done' s x
        | (s, none) => (s, none))

def execPartSet (s : State) : Res := sbiPart 0 s
def execPartGet (s : State) : Res := sbiPart 1 s
def execPartSeal (s : State) : Res := sbiPart 2 s
def execPartReset (s : State) : Res := sbiPart 3 s
def execLinkGet (s : State) : Res := sbiPart 4 s

/-! ## Attestation (R458) -/

/-- The report before its signature: 0x280 bytes. -/
def reportBody (d : Device) (nonce : List Byte) : List Byte :=
  wordsBytes [BitVec.ofNat 64 (0x4B415231 * 2 ^ 32 + 2 ^ 16), BitVec.ofNat 64 (d.devId.toNat * 2 ^ 45), d.svnM, d.svnF, d.floorF, 0, 0, 0]
    ++ nonce ++ ((List.range 8).map (fun k => mrBytes (tget d.mr 0 k))).flatten

def execAttReport (s : State) : Res :=
  sbiFrame s (fun s a0 a1 _ =>
    if a0.toNat % 64 ≠ 0 ∨ !isDram a0.toNat ∨ !dramRange a0.toNat 5376 ∨ !isDram a1.toNat ∨ !dramRange a1.toNat 64 then (s, some (sbiInvalidAddress, 0))
    else
      let body := reportBody s.dev (s.rdBs a1.toNat 64)
      let sig := (List.range 4627).map (Config.sign (wordsBytes (sha3 body)))
      (s.wrBs a0.toNat (body ++ sig ++ List.replicate 109 0), some (0, 0)))

def execAttExtend (s : State) : Res :=
  sbiFrame s (fun s a0 a1 _ =>
    if a0 ≠ 6 ∧ a0 ≠ 7 then (s, some (sbiInvalidParam, 0))
    else if !isDram a1.toNat ∨ !dramRange a1.toNat 64 then (s, some (sbiInvalidAddress, 0))
    else (s.extend a0.toNat (s.rdBs a1.toNat 64), some (0, 0)))

end Sys2Proof.Machine
end

