-- ==== Sys2Proof/Machine/Ckpt.lean ====
section
/-! DEFINITION. Checkpoints (R449-R455): the plan, slots, QUIESCE, WRITE, RESUME, STATUS and RESTORE. -/

namespace Sys2Proof.Machine

/-! ## The plan (R449, R450) -/

def ckW (p : List Word) (k : Nat) : Word := p.getD k 0
def ckBase (p : List Word) (k : Nat) : Nat := fld (ckW p k) 41 16 * 2 ^ 16
def ckTb (p : List Word) (k : Nat) : Nat := fld (ckW p k) 41 23 * 2 ^ 23
def ckLen (p : List Word) : Nat := (ckW p 2).toNat
/-- Ranges: base and bytes. -/
def ckRanges (p : List Word) : List (Nat × Nat) :=
  (List.range (fld (ckW p 9) 4 0)).map (fun r => (ckBase p (10 + 2 * r), fld (ckW p (11 + 2 * r)) 25 0 * 2 ^ 16))
/-- Pages of the ranges in the order of the page area (R451). -/
def ckPages (p : List Word) : List Nat := ((ckRanges p).map (fun r => (List.range (r.2 / 2 ^ 16)).map (fun n => r.1 + n * 2 ^ 16))).flatten

def ckRes0 (p : List Word) : Bool :=
  let only := fun (k hi lo : Nat) => (ckW p k).toNat % 2 ^ lo == 0 && decide ((ckW p k).toNat < 2 ^ (hi + 1))
  fld (ckW p 0) 38 36 == 0 && fld (ckW p 0) 15 0 == 0 && [3, 4, 5, 6].all (fun k => only k 41 16) && [7, 8].all (fun k => only k 41 23)
    && only 9 4 0 && (List.range 16).all (fun r => only (10 + 2 * r) 41 16 && only (11 + 2 * r) 25 0) && (List.range 22).all (fun k => ckW p (42 + k) == 0)

def overlap (a n b m : Nat) : Bool := decide (a < b + m) && decide (b < a + n)
def covered (rs : List (Nat × Nat)) (pg : Nat) : Bool := rs.any (fun r => decide (r.1 ≤ pg) && decide (pg < r.1 + r.2))
/-- Pages that a range of bytes touches. -/
def pagesOf (a n : Nat) : List Nat := (List.range (n / 2 ^ 16 + 2)).map (fun k => (a / 2 ^ 16 + k) * 2 ^ 16) |>.filter (fun x => decide (x < a + n))

/-- KV_EINVAL of R450, but for what the buddy must say. -/
def State.planBad (s : State) (p : List Word) : Bool :=
  let rs := ckRanges p
  let vp := s.parts.filter (fun x => partValid x.2)
  let locals := [(ckBase p 5, ckLen p), (ckBase p 6, ckLen p), (ckTb p 7, 2 ^ 23), (ckTb p 8, 2 ^ 23)]
  !ckRes0 p || fld (ckW p 0) 35 16 == 0 || ckLen p % 2 ^ 16 != 0 || rs.isEmpty || decide (16 < rs.length)
    || rs.any (fun r => r.2 == 0 || !dramRange r.1 r.2 || !isData (r.1 + r.2 - 1))
    || (lenum rs).any (fun a => (lenum rs).any (fun b => decide (a.1 < b.1) && overlap a.2.1 a.2.2 b.2.1 b.2.2))
    || vp.any (fun x => (partMems x.2).any (fun m => (List.range (memPages m)).any (fun n => !covered rs (memBase m + n * 2 ^ 16))))
    || vp.any (fun x => (s.descTables x.2).any (fun t => (pagesOf t.1 t.2).any (fun pg => !covered rs pg)))
    || s.live.any (fun r => !covered rs r.rcb)
    || locals.any (fun l => !dramRange l.1 l.2 || rs.any (fun r => overlap l.1 l.2 r.1 r.2)
        || (pagesOf l.1 l.2).any (fun pg => vp.any (fun x => partOwnsMem x.2 pg)))

/-! ## What a slot holds (R451); the layout of sections 2 and 3 is the model's (log 24) -/

def privNo (p : Priv) : Nat := match p with | .m => 0 | .hs => 1 | .vs => 2 | .u => 3 | .vu => 4
def privOf (n : Nat) : Priv := match n with | 0 => .m | 1 => .hs | 2 => .vs | 3 => .u | _ => .vu
def trsWords (t : Trs) : List Word := [t.tvec, t.epc, t.cause, t.tval, pk [(0, nb t.ie), (1, nb t.pie), (2, t.pp.toNat)], t.enab]
def trsOf (ws : List Word) : Trs :=
  let w := fun k => ws.getD k 0
  { tvec := w 0, epc := w 1, cause := w 2, tval := w 3, ie := bitOf (w 4) 0, pie := bitOf (w 4) 1, pp := BitVec.ofNat 2 (fld (w 4) 3 2), enab := w 5 }
def fctxWords (f : Fctx) : List Word := [f.tvec, f.frec, f.prod, f.cons, pk [(0, nb f.ovf), (1, nb f.foc)]]
def fctxOf (ws : List Word) : Fctx :=
  let w := fun k => ws.getD k 0
  { tvec := w 0, frec := w 1, prod := w 2, cons := w 3, ovf := bitOf (w 4) 0, foc := bitOf (w 4) 1 }

/-- A hart record: 8 KiB; the CSRs that stand in a table come after the rest, with their number, and last the measurement of the main firmware,
MR2, whose layout it is (R451). -/
def hartWords (mr2 : BitVec 512) (h : Hart) (rsv : Option Nat) : List Word :=
  fit 1016 ((List.range 32).map (fun i => tget h.x 0 i) ++ [h.pc, pk [(0, privNo h.priv), (8, nb h.mpv), (9, nb h.spv)]]
    ++ trsWords h.ms ++ trsWords h.hs ++ trsWords h.vs ++ [h.medeleg, h.hedeleg, h.hideleg, h.hgatp, h.htval, h.mtval2, h.pmap, h.quota, h.policy]
    ++ fctxWords h.fh ++ fctxWords h.fv
    ++ [h.mst, h.vst, h.hst, h.mideleg, h.ip, h.ninst, pk [(0, h.fcsr.toNat), (8, h.vcsr.toNat), (16, h.vl), (32, h.vstart)], h.vtype,
        BitVec.ofNat 64 (match rsv with | some b => b + 1 | none => 0)]
    ++ (List.range 32).map (fun i => tget h.f 0 i)
    ++ (List.range (4 * Config.vlenb)).map (fun k => bytesWord ((List.range 8).map (fun i => tget h.vb 0 (8 * k + i))))
    ++ BitVec.ofNat 64 h.csr.length :: (h.csr.map (fun c => [BitVec.ofNat 64 c.1, c.2])).flatten)
  ++ (List.range 8).map (fun k => vword mr2 k)
def hartOf (ws : List Word) : Hart :=
  let w := fun k => ws.getD k 0
  { x := tabOf (slice ws 0 32), pc := w 32, priv := privOf (fld (w 33) 7 0), mpv := bitOf (w 33) 8, spv := bitOf (w 33) 9,
    ms := trsOf (slice ws 34 6), hs := trsOf (slice ws 40 6), vs := trsOf (slice ws 46 6), medeleg := w 52, hedeleg := w 53, hideleg := w 54,
    hgatp := w 55, htval := w 56, mtval2 := w 57, pmap := w 58, quota := w 59, policy := w 60, fh := fctxOf (slice ws 61 5), fv := fctxOf (slice ws 66 5),
    mst := w 71, vst := w 72, hst := w 73, mideleg := w 74, ip := w 75, ninst := w 76, fcsr := BitVec.ofNat 8 (fld (w 77) 7 0),
    vcsr := BitVec.ofNat 3 (fld (w 77) 10 8), vl := fld (w 77) 31 16, vstart := fld (w 77) 47 32, vtype := w 78, f := tabOf (slice ws 80 32),
    vb := (lenum ((slice ws 112 (4 * Config.vlenb)).map wordBytes).flatten).filter (fun b => b.2 != 0),
    csr := (chunks 2 (slice ws (113 + 4 * Config.vlenb) (2 * (w (112 + 4 * Config.vlenb)).toNat))).map (fun c => ((c.getD 0 0).toNat, c.getD 1 0)),
    stopped := true }
/-- The block a hart holds reserved, of its record. -/
def hartRsv (ws : List Word) : Option Nat := match (ws.getD 79 0).toNat with | 0 => none | n + 1 => some n

/-- What RSIs do not say of a region: its RCB, image, place, engines and slicing. -/
def regionWords (r : Region) : List Word :=
  let opt := fun (o : Option Nat) => match o with | some n => n + 1 | none => 0
  fit 24 ([pk [(0, r.rid), (12, r.part), (18, r.origin), (28, opt r.partner), (41, opt r.host), (54, nb r.active), (55, nb r.parked), (56, nb r.res),
            (57, r.shState)],
     BitVec.ofNat 64 r.rcb, BitVec.ofNat 64 r.image, pk [(0, r.st), (3, r.frz.toNat), (5, nb r.fidl), (8, r.lastop.toNat), (16, r.lstat.toNat)],
     BitVec.ofNat 64 r.spent, r.eff3, r.eff4, r.eff5] ++ pack16 (r.nles.map (fun n => n.2.phys)))

def ansWords (a : PeerAns) : List Word :=
  match a with | .ok v m => [pk [(0, 0), (8, nb v.pois), (9, nb m)], v.bits] | .fail c => [pk [(0, 1)], BitVec.ofNat 64 c] | .back => [pk [(1, 1)], 0]
def ansOf (ws : List Word) : PeerAns :=
  let w := ws.getD 0 0
  if bitOf w 1 then .back else if bitOf w 0 then .fail (ws.getD 1 0).toNat else .ok { bits := ws.getD 1 0, pois := bitOf w 8 } (bitOf w 9)

def blockWords (bs : List (List Word)) : List Word := (bs.map (fun b => BitVec.ofNat 64 b.length :: b)).flatten
def blocksOf (fuel : Nat) (ws : List Word) : List (List Word) :=
  match fuel, ws with
  | 0, _ => []
  | _, [] => []
  | f + 1, n :: r => r.take n.toNat :: blocksOf f (r.drop n.toNat)

def ownerWords (o : Owner) : List Word :=
  (match o with
   | .pe t i x => [0, t, i, x, 0] | .strm c e a => [1, c, e, a, 0] | .copy c e a d => [2, c, e, a, d] | .unit t g => [3, t, g, 0, 0]
   | .peer l t => [4, l, t, 0, 0]).map (BitVec.ofNat 64)
def ownerOf (ws : List Word) : Owner :=
  let w := fun k => (ws.getD k 0).toNat
  match w 0 with
  | 0 => .pe (w 1) (w 2) (w 3) | 1 => .strm (w 1) (w 2) (w 3) | 2 => .copy (w 1) (w 2) (w 3) (w 4) | 3 => .unit (w 1) (w 2) | _ => .peer (w 1) (w 2)

/-- What crosses a Welt binding: 11 words. -/
def weltMsgWords (m : WeltMsg) : List Word := match m with | .credit => zeros 11 | .stop => 1 :: zeros 10 | .tok t => 2 :: entryWords true t
def weltMsgOf (ws : List Word) : WeltMsg :=
  match (ws.getD 0 0).toNat with | 0 => .credit | 1 => .stop | _ => .tok (entryTok true (ws.drop 1))

/-- A record on its way: where it waits (0 behind full queues, 1 and 2 in the contexts of a hart, 3 in a region) and whose. -/
def recWords (at' who : Nat) (x : Rec) : List Word :=
  [BitVec.ofNat 64 at', BitVec.ofNat 64 who, pk [(0, x.fcob), (8, nb x.vs)], BitVec.ofNat 64 x.fvec, BitVec.ofNat 64 x.w.length] ++ x.w ++ x.more
def recOfWords (ws : List Word) : Rec :=
  let n := (ws.getD 4 0).toNat
  { w := slice ws 5 n, more := ws.drop (5 + n), fcob := fld (ws.getD 2 0) 7 0, vs := bitOf (ws.getD 2 0) 8, fvec := (ws.getD 3 0).toNat }

def lopWords (l : LongOp) : List Word :=
  [pk [(0, l.f7), (8, l.hart), (24, nb l.vs), (25, nb l.start)], l.a, l.b, BitVec.ofNat 64 l.addr] ++ l.cw.map (BitVec.ofNat 64)
def lopOf (ws : List Word) : LongOp :=
  let w := fun k => ws.getD k 0
  { f7 := fld (w 0) 7 0, hart := fld (w 0) 23 8, vs := bitOf (w 0) 24, start := bitOf (w 0) 25, a := w 1, b := w 2, addr := (w 3).toNat,
    cw := (ws.drop 4).map BitVec.toNat }

def pairWords (l : List (Nat × Nat)) : List Word := (l.map (fun x => [BitVec.ofNat 64 x.1, BitVec.ofNat 64 x.2])).flatten
def pairsOf (ws : List Word) : List (Nat × Nat) := (chunks 2 ws).map (fun x => ((x.getD 0 0).toNat, (x.getD 1 0).toNat))

/-- What is kept beside the image of a unit: its place, its requests and updates, and the pairs of its windows. -/
def unitKeptWords (k : Nat) (u : MtU) : List Word :=
  let n := fun (k : Nat) => BitVec.ofNat 64 k
  blockWords
    [[n k, n u.reqOrd, n u.first],
     (u.greqs.map (fun q => [n q.kind, q.idx] ++ entryWords true q.tok ++ [n q.loc.1, n q.loc.2.1, n q.loc.2.2, q.val.bits, n (nb q.val.pois), n q.acc, n q.ord])).flatten,
     blockWords (u.sreqs.map (fun q => [n q.addr, n q.acc, n q.ord, n (nb q.ends.isSome)] ++ entryWords true (q.ends.getD {})
       ++ (q.vals.map (fun v => [v.bits, n (nb v.pois)])).flatten)),
     (u.win.map (fun x => (x.2.map (fun p => [n x.1, n p.1, p.2.1.bits, n (nb p.2.1.pois), n p.2.2.pois.toNat]
       ++ (List.range 8).map (fun k => vword p.2.2.bits k))).flatten)).flatten]
def unitKeptOf (ws : List Word) : Nat × MtU :=
  let bs := blocksOf 4 ws
  let b := fun k => bs.getD k []
  let n := fun (ws : List Word) k => (ws.getD k 0).toNat
  let val := fun (ws : List Word) (k : Nat) => ({ bits := ws.getD k 0, pois := bitOf (ws.getD (k + 1) 0) 0 } : Val)
  (n (b 0) 0,
   { reqOrd := n (b 0) 1, first := n (b 0) 2,
     greqs := (chunks 19 (b 1)).map (fun w =>
       { kind := n w 0, idx := w.getD 1 0, tok := entryTok true (w.drop 2), loc := (n w 12, n w 13, n w 14), val := val w 15, acc := n w 17, ord := n w 18 }),
     sreqs := (blocksOf (b 2).length (b 2)).map (fun w =>
       { addr := n w 0, acc := n w 1, ord := n w 2, ends := if n w 3 = 1 then some (entryTok true (w.drop 4)) else none,
         vals := (chunks 2 (w.drop 14)).map (fun v => val v 0) }),
     win := (chunks 13 (b 3)).foldl (fun t w =>
       tupd t [] (n w 0) (fun l => l ++ [(n w 1, val w 2,
         { vofWords ((slice w 5 8).map (fun x => { bits := x })) with pois := BitVec.ofNat 8 (n w 4) })])) [] })

/-- What is kept beside the image of a region, but for the statuses of copies (log 24). -/
def keptWords (k : Kept) : List (List Word) :=
  let n := fun (k : Nat) => BitVec.ofNat 64 k
  [[k.rcyc], k.parPres.map n, k.parPois.map n, blockWords (k.held.map (fun h => [n h.1, n h.2.2] ++ (h.2.1.map (entryWords true)).flatten)),
   blockWords (k.units.map (fun u => unitKeptWords u.1 u.2)), (k.accs.map (fun a => [n a.1, n a.2.1, a.2.2.bits, n (nb a.2.2.pois)])).flatten]
def keptOf (bs : List (List Word)) (cstat : Tab (Word × Nat)) : Kept :=
  let b := fun k => bs.getD k []
  let n := fun (ws : List Word) k => (ws.getD k 0).toNat
  { rcyc := (b 0).getD 0 0, parPres := (b 1).map BitVec.toNat, parPois := (b 2).map BitVec.toNat, cstat := cstat,
    held := (blocksOf (b 3).length (b 3)).map (fun w => (n w 0, (chunks 10 (w.drop 2)).map (entryTok true), n w 1)),
    units := (blocksOf (b 4).length (b 4)).map unitKeptOf,
    accs := (chunks 4 (b 5)).map (fun w => (n w 0, n w 1, { bits := w.getD 2 0, pois := bitOf (w.getD 3 0) 0 })) }

/-- The rest of a region, in lists of their own lengths: its chain, completion words, copy statuses, heat, Welt contexts, tags of requests
not acknowledged, system calls answered, what it has emitted, the operation that waits for RESUME, and what is kept beside its image. -/
def regionMore (r : Region) : List (List Word) :=
  let n := fun (k : Nat) => BitVec.ofNat 64 k
  let kept := if r.tiles.isEmpty then r.kept else keepOf r
  [[pk [(0, r.rid), (12, nb r.mcheck), (13, nb r.onl), (14, nb r.rest), (16, r.eprio)]], (r.chain.map (fun c => [n c.1, c.2])).flatten, r.cmplt.map n, r.cmpltQ.map n,
   r.cwEnd.map (fun c => n c.1), (kept.cstat.map (fun c => [n c.1, c.2.1, n c.2.2])).flatten, pairWords r.rheat, pairWords r.heatP,
   (r.wctx.map (fun c => [n c.1, n c.2.1, n c.2.2])).flatten,
   ((keepTags (rankOwner r) (fun _ => true) { r with ptags := r.ptags.map (fun t => (rankOwner r t.1, t.2)) }).map (fun t => ownerWords t.1 ++ [n t.2])).flatten,
   ((sysKept r).map (fun a => [n a.1, n a.2.1, a.2.2])).flatten, (r.tx.map (fun x => [n x.1, n x.2.1] ++ weltMsgWords x.2.2)).flatten,
   match r.lop with | some l => lopWords l | none => []] ++ keptWords kept
def regionMoreOf (bs : List (List Word)) (r : Region) : Region :=
  let b := fun k => bs.getD k []
  let w := fun (ws : List Word) k => ws.getD k 0
  let n := fun (ws : List Word) k => (ws.getD k 0).toNat
  let f := w (b 0) 0
  { r with mcheck := bitOf f 12, onl := bitOf f 13, rest := bitOf f 14, eprio := fld f 23 16, chain := (chunks 2 (b 1)).map (fun x => (n x 0, w x 1)), cmplt := (b 2).map BitVec.toNat,
           cmpltQ := (b 3).map BitVec.toNat, cwEnd := (b 4).map (fun x => (x.toNat, r.seq)), cstat := (chunks 3 (b 5)).map (fun x => (n x 0, w x 1, n x 2)),
           rheat := pairsOf (b 6), heatP := pairsOf (b 7), wctx := (chunks 3 (b 8)).map (fun x => (n x 0, n x 1, n x 2)),
           ptags := (chunks 6 (b 9)).map (fun x => (ownerOf x, n x 5)), sysAns := (chunks 3 (b 10)).map (fun x => (n x 0, n x 1, w x 2)),
           tx := (chunks 13 (b 11)).map (fun x => (n x 0, n x 1, weltMsgOf (x.drop 2))),
           kept := keptOf (bs.drop 13) ((chunks 3 (b 5)).map (fun x => (n x 0, w x 1, n x 2))), busy := !(b 12).isEmpty, lop := if (b 12).isEmpty then none else some (lopOf (b 12)) }

/-- A region whose state an RSI holds; the others are OUT, or wait to be loaded. -/
def hasRsi (r : Region) : Bool := r.st != rOut && !r.tiles.isEmpty

/-- The blocks of section 3: regions, regions without an RSI, what QUIESCE stopped, partitions, files, listeners, connections, tags, names; the
records on their way, what regions gone have emitted, the rest of the regions, the vectors of the rings, launch-queue heads, migrations to
come, and the operations QUIESCE withdrew (region, tile, rank). -/
def State.devBlocks (s : State) : List (List Word) :=
  let n := fun (k : Nat) => BitVec.ofNat 64 k
  let each := fun (f : Nat → Part → List Word) => (s.parts.map (fun p => f p.1 p.2)).flatten
  [((s.live.filter hasRsi).map regionWords).flatten, ((s.live.filter (fun r => !hasRsi r)).map regionWords).flatten,
   (s.ckpt.held.map (fun h => [n h.1, n h.2])).flatten,
   each (fun i p => [n i, p.root, p.slice, n p.epoch] ++ fit 1 (bitWords 1 p.lqStop.contains)),
   each (fun i p => (p.files.map (fun f => [n i, n f])).flatten),
   each (fun i p => (p.lists.map (fun l => [n i, n l.1, n l.2.1, n l.2.2])).flatten),
   each (fun i p => (p.conns.map (fun c => [n i, n c.1, n c.2.blk, n c.2.txl, n c.2.rxl, n c.2.txhead, n c.2.txtail, n c.2.rxtail, n c.2.rxhead, n c.2.st])).flatten),
   (s.links.map (fun l => (l.2.tags.map (fun t => [n l.1, n t.1, n t.2.1] ++ ansWords t.2.2)).flatten)).flatten,
   [n s.fresh],
   blockWords (s.recQ.map (recWords 0 0) ++ (s.harts.map (fun h => h.2.fh.queue.map (recWords 1 h.1) ++ h.2.fv.queue.map (recWords 2 h.1))).flatten
     ++ (s.live.map (fun r => r.recs.map (recWords 3 r.rid))).flatten),
   (s.txQ.map (fun x => [n x.1, n x.2.1, n x.2.2.1] ++ weltMsgWords x.2.2.2)).flatten,
   blockWords (s.live.map (fun r => blockWords (regionMore r))),
   (s.harts.map (fun h => (h.2.fh.vecs.map (fun v => [n h.1, 0, n v.1, n v.2])).flatten ++ (h.2.fv.vecs.map (fun v => [n h.1, 1, n v.1, n v.2])).flatten)).flatten,
   blockWords (s.parts.map (fun p => p.2.lqSeen.map (fun q => [n p.1, n q.1, n q.2.1] ++ q.2.2.map n))).flatten,
   blockWords (s.parts.map (fun p => p.2.migq.map (fun q => n p.1 :: q))).flatten,
   (s.ckpt.wd.map (fun x => [n x.1, n x.2.1, n (opRank (s.region x.1) x.2.2)])).flatten]

/-- Sections 0-3, each padded to 4,096 bytes by its place; and their lengths in words. -/
def State.ckSections (s : State) : List (List Word) :=
  [((List.range 64).map (fun i => descOf (s.part i))).flatten,
   ((s.live.filter hasRsi).map s.rsiWords).flatten,
   ((List.range Config.harts).map (fun h => hartWords (tget s.dev.mr 0 2) (s.hart h) (tfind s.rsv h))).flatten,
   blockWords s.devBlocks]

def up512 (n : Nat) : Nat := (n + 511) / 512 * 512
/-- Word offsets and lengths of sections 0-4. -/
def ckPlaces (secs : List (List Word)) (pages : Nat) : List (Nat × Nat) :=
  let l := secs.foldl (fun (x : List (Nat × Nat) × Nat) ws => (x.1 ++ [(x.2, ws.length)], x.2 + up512 ws.length)) (([] : List (Nat × Nat)), 512)
  l.1 ++ [(l.2, pages * (8192 + 256))]

/-- SHAPE: the digest of the named fields of the 64 descriptors, in the order of R451. -/
def State.shape (s : State) : List Word :=
  sha3 (wordsBytes (((List.range 64).map (fun i =>
    let w := partWord (s.part i)
    (List.range 12).map (fun k => w (2 + k)) ++ [pk [(0, fld (w 14) 63 52)], pk [(0, fld (w 14) 51 36)], pk [(0, fld (w 14) 35 12)], pk [(0, fld (w 15) 63 16)],
      w 16, w 17, w 18, pk [(0, nb (bitOf (w 0) 56))], pk [(0, nb (bitOf (w 0) 35))]])).flatten))

/-- Header words 0-21 of an epoch; MAGIC is put in last. -/
def State.ckHeader (s : State) (e : Nat) (places : List (Nat × Nat)) : List Word :=
  let p := s.ckpt.plan
  [pk [(32, 0x4B435331), (16, 1)], ckW p 1, BitVec.ofNat 64 e, pk [(45, s.dev.devId.toNat), (16, fld (ckW p 0) 35 16)]] ++ s.shape
    ++ (places.map (fun x => [BitVec.ofNat 64 (8 * x.1), BitVec.ofNat 64 (8 * x.2)])).flatten

/-- The words of one page in the page area: data, poison bits, presence bits. -/
def State.pageWords (s : State) (pg : Nat) : List Word :=
  s.rdWs pg 8192 ++ bitWords 128 (fun k => s.dpois.contains (pg / 8 + k)) ++ bitWords 128 (fun k => s.presAt (pg + 8 * k))

/-! ## QUIESCE (R452) -/

/-- An answer to a CKPT request goes out. -/
def State.ckAnswer (s : State) (st : Int) (body : List Word) : State :=
  match s.ckpt.busy with
  | none => s
  | some (ss, seq) =>
    let s := { s with ckpt := { s.ckpt with busy := none, step := 0 }, out := s.out ++ [.khr 0x60 ss seq st body] }
    match tfind s.sess ss with
    | none => s
    | some x => { s with sess := tset s.sess ss { x with cache := let c := x.cache ++ [(seq, st, body)]; c.drop (c.length - 64) } }

/-- A region stands still. -/
def ckStill (r : Region) : Bool :=
  ckWaits r || (!r.busy && (r.st == rOut || ((r.st == rFrozen && r.settled) || (r.st == rRunning && r.parked && r.settled)
    || ((r.st == rReady || r.st == rIdle || r.st == rShadow) && settleReady r))))

/-- The operations of a region that a withdrawal would take: region, tile, operation. -/
def waitingOps (r : Region) : List (Nat × Nat × Nat) :=
  r.flight.filterMap (fun a => match a.2.own with | .pe k id _ => if accWaits a.2 then some (r.rid, k, id) else none | _ => none)

/-- One look at a QUIESCE in progress: markers for what runs, then the harts stop and the answer goes out. -/
def State.quiesceOn (s : State) : State :=
  let s := s.live.foldl (fun s r =>
    if r.st = rRunning ∧ r.parked = false ∧ r.res = true ∧ r.drain.isNone ∧ r.frzReq.isNone then
      (onRegion s r.rid (drainStart s.fc false)) |> fun s => { s with ckpt := { s.ckpt with held := s.ckpt.held.filter (fun h => h.1 != r.rid) ++ [(r.rid, rRunning)] } }
    else s) s
  if !s.live.all ckStill || s.rst.isSome || s.parts.any (fun p => !p.2.calls.isEmpty) then s
  else
    let s := { s with ckpt := { s.ckpt with step := 2, wd := s.ckpt.wd ++ (s.live.map waitingOps).flatten } }
    let s := s.live.foldl (fun s r => s.withdraw r.rid (fun _ => true)) s
    let s := s.resendAll
    if s.regions.any (fun x => x.2.flight.any (fun a => unAcked a.2)) || s.parts.any (fun p => p.2.mig.isSome) then s
    else
      let s := s.live.foldl (fun s r =>
        if r.st = rRunning then
          (s.updSync r.rid (fun r => { r with st := rFrozen, frz := 2 })) |> fun s => { s with ckpt := { s.ckpt with held := s.ckpt.held ++ [(r.rid, rRunning)] } }
        else s) s
      let s := { s with harts := (List.range Config.harts).map (fun h => (h, { s.hart h with stopped := true })) }
      let s := { s with ckpt := { s.ckpt with st := 1 } }
      s.ckAnswer 0 []

/-! ## WRITE (R453) -/

/-- Words of the slot at the buddy are sent. -/
def State.ckTell (s : State) (step base : Nat) (ws : List (Nat × Word)) : State :=
  let s1 := { s with fresh := s.fresh + ws.length,
                     ckpt := { s.ckpt with step := step, wait := (lenum ws).map (fun (x : Nat × Nat × Word) => (s.fresh + x.1, base + 8 * x.2.1, x.2.2)) } }
  s1.ckptSend

def ckSlot (p : List Word) (e k : Nat) : Nat := ckBase p (if e % 2 = 0 then k else k + 1)
def ckMap (p : List Word) (e : Nat) : Nat := ckTb p (if e % 2 = 0 then 7 else 8)

/-- Every bit of an 8 MiB bitmap set, or clear. -/
def setBitmap (m : List Host.Cell) (tb : Nat) (v : Bool) : List Host.Cell :=
  let out := m.filter (fun c => !(decide (tb ≤ c.1) && decide (c.1 < tb + 2 ^ 23)))
  if v then (List.range (2 ^ 20)).foldl (fun m k => wrNat m (tb + 8 * k) 8 (2 ^ 64 - 1)) out else out

/-- The header, sections 0-3 with the zeros that pad them, and the pages whose bits are set, by word offset; the bits are cleared. Where the
lengths of sections 0-3 have moved the page area from where the slot's earlier write put it, every page is written. -/
def State.ckWords (s : State) : State × List (Nat × Word) :=
  let e := s.ckpt.cur
  let p := s.ckpt.plan
  let s := (s.live.filter (fun r => r.st == rFrozen || r.st == rIdle)).foldl (fun s r => s.scanPrepare r.rid) s
  let secs := s.ckSections
  let places := ckPlaces secs (ckPages p).length
  let at' := fun (o : Nat) (ws : List Word) => (lenum ws).map (fun x => (o + x.1, x.2))
  let low := ((places.zip secs).map (fun x => at' x.1.1 (fit (up512 x.2.length) x.2))).flatten
  let area := (places.getD 4 (0, 0)).1
  let tb := ckMap p e
  let moved := s.rdW (ckSlot p e 5 + 8 * 20) != BitVec.ofNat 64 (8 * area)
  let pgs := (lenum (ckPages p)).filter (fun x => moved || (rdByte s.mem (tb + x.2 / 2 ^ 16 % 2 ^ 26 / 8)).getLsbD (x.2 / 2 ^ 16 % 8))
  let high := (pgs.map (fun x => at' (area + x.1 * 8448) (s.pageWords x.2))).flatten
  let s := { s with mem := pgs.foldl (fun m x => setBitAt m (tb + x.2 / 2 ^ 16 % 2 ^ 26 / 8) (x.2 / 2 ^ 16 % 8) false) s.mem }
  (s, at' 1 ((s.ckHeader e places).drop 1) ++ at' 30 (zeros 482) ++ low ++ high)

/-- The steps of a WRITE, each when the buddy has answered the one before; a buddy that refuses a word leaves it unanswered. -/
def State.writeOn (s : State) : State :=
  let e := s.ckpt.cur
  let p := s.ckpt.plan
  let loc := ckSlot p e 5
  let bud := ckSlot p e 3
  if !s.ckpt.wait.isEmpty || s.ckpt.bad then s
  else
    match s.ckpt.step with
    | 20 =>
      let (s', ws) := s.ckWords
      if ckLen p / 8 < ws.foldl (fun m x => Nat.max m (x.1 + 1)) 0 then { s with ckpt := { s.ckpt with st := 1 } }.ckAnswer kvEnospc []
      else
      let s := s'
      (ws.foldl (fun s x => s.wrW (loc + 8 * x.1) x.2) s).ckTell 21 bud ws
    | 21 =>
      let tot := (s.rdW (loc + 8 * 20)).toNat + (s.rdW (loc + 8 * 21)).toNat
      let head : List Word := pk [(32, 0x4B435331), (16, 1)] :: s.rdWs (loc + 8) 21
      let dig := sha3 (wordsBytes head ++ s.rdBs (loc + 4096) (tot - 4096))
      let ws := (lenum (head ++ dig))
      (ws.foldl (fun s x => s.wrW (loc + 8 * x.1) x.2) s).ckTell 22 bud ws
    | _ => { s with ckpt := { s.ckpt with st := 3, last := some e } }.ckAnswer 0 []

/-! ## RESTORE (R454) -/

/-- A slot is valid (R451): its MAGIC and VER, its JOBID, its DIGEST. -/
def State.slotValid (s : State) (rd : Nat → Word) : Bool :=
  let p := s.ckpt.plan
  let tot := (rd 160).toNat + (rd 168).toNat
  fld (rd 0) 63 32 == 0x4B435331 && fld (rd 0) 31 16 == 1 && rd 8 == ckW p 1
    && decide (4096 ≤ tot) && decide (tot ≤ ckLen p)
    && (List.range 8).map (fun k => rd (176 + 8 * k))
        == sha3 (wordsBytes ((List.range 22).map (fun k => rd (8 * k)) ++ (List.range ((tot - 4096) / 8)).map (fun k => rd (4096 + 8 * k))))

/-- A slot may be restored (R454): valid, of the epoch, and its NDEV and SHAPE those of the plan and of the device's descriptors. -/
def State.slotOk (s : State) (rd : Nat → Word) (e : Nat) : Bool :=
  s.slotValid rd && (rd 16).toNat == e && fld (rd 24) 35 16 == fld (ckW s.ckpt.plan 0) 35 16 && (List.range 8).map (fun k => rd (32 + 8 * k)) == s.shape

/-- The RSIs of section 1, one after another: a reader for each. -/
def ckRsis (fuel : Nat) (rd : Nat → Word) (off stop : Nat) : List (Nat → Word) :=
  match fuel with
  | 0 => []
  | f + 1 =>
    if stop ≤ off then []
    else
      let n := (rd (off + 16)).toNat
      if n = 0 then [] else (fun k => rd (off + k)) :: ckRsis f rd (off + n) stop

/-- A region of a slot stands as it stood (R454). -/
def State.ckRegion (s : State) (more : List (List Word)) (ws : List Word) (rd : Option (Nat → Word)) : State :=
  let w := fun k => ws.getD k 0
  let opt := fun (n : Nat) => if n = 0 then none else some (n - 1)
  let rid := fld (w 0) 11 0
  let base : Region := { rid := rid, part := fld (w 0) 17 12, rcb := (w 1).toNat, image := (w 2).toNat, eff3 := w 5, eff4 := w 6, eff5 := w 7 }
  let dev := fun (r : Region) =>
    { r with origin := fld (w 0) 27 18, partner := opt (fld (w 0) 40 28), host := opt (fld (w 0) 53 41), active := bitOf (w 0) 54, parked := bitOf (w 0) 55,
             res := bitOf (w 0) 56, shState := fld (w 0) 63 57, st := fld (w 3) 2 0, frz := BitVec.ofNat 2 (fld (w 3) 4 3), fidl := bitOf (w 3) 5,
             lastop := BitVec.ofNat 4 (fld (w 3) 11 8), lstat := BitVec.ofNat 8 (fld (w 3) 23 16), spent := (w 4).toNat,
             nles := (lenum r.nles).map (fun n => (n.2.1, { n.2.2 with phys := get16 (slice ws 8 16) n.1 })) }
  match rd with
  | none => s.setRegion rid (regionMoreOf more { dev base with runs := (s.rdW (base.rcb + 88)).toNat })
  | some rd =>
    let r := putKept (regionMoreOf more (dev (s.rsiRegion {} rd base)))
    ((s.setRegion rid { r with recs := [] }).standUp rid rd).sync rid

/-- Records, emissions, vectors, heads of launch queues, migrations to come and withdrawn operations as they stood, from the blocks of section 3. -/
def State.ckDevice (s : State) (b : Nat → List Word) : State :=
  let n := fun (ws : List Word) (k : Nat) => (ws.getD k 0).toNat
  let all := fun (k : Nat) => blocksOf (b k).length (b k)
  let s := (all 9).foldl (fun s ws =>
    let x := recOfWords ws
    match n ws 0 with
    | 0 => { s with recQ := s.recQ ++ [x] }
    | 3 => onRegion s (n ws 1) (fun r => { r with recs := r.recs ++ [x] })
    | k => s.updF (n ws 1) (k == 2) (fun f => { f with queue := f.queue ++ [x] })) s
  let s := { s with txQ := (chunks 14 (b 10)).map (fun ws => (n ws 0, n ws 1, n ws 2, weltMsgOf (ws.drop 3))) }
  let s := (chunks 4 (b 12)).foldl (fun s ws => s.updF (n ws 0) (n ws 1 == 1) (fun f => { f with vecs := tset f.vecs (n ws 2) (n ws 3) })) s
  let s := (all 13).foldl (fun s ws => s.updPart (n ws 0) (fun p => { p with lqSeen := tset p.lqSeen (n ws 1) (n ws 2, (ws.drop 3).map BitVec.toNat) })) s
  let s := (all 14).foldl (fun s ws => s.updPart (n ws 0) (fun p => { p with migq := p.migq ++ [ws.drop 1] })) s
  { s with ckpt := { s.ckpt with wd := (chunks 3 (b 15)).map (fun ws =>
      (n ws 0, n ws 1, (opIds (s.region (n ws 0))).getD (n ws 2) 0)) } }

/-- Every section of a slot is loaded; connections are reset, files closed, and the other slot's bitmap set. -/
def State.ckLoad (s : State) (rd : Nat → Word) (e : Nat) : State :=
  let p := s.ckpt.plan
  let sec := fun (k : Nat) => ((rd (96 + 16 * k)).toNat, (rd (104 + 16 * k)).toNat / 8)
  let words := fun (k : Nat) => (List.range (sec k).2).map (fun i => rd ((sec k).1 + 8 * i))
  let s := (s.live.map (fun r => r.rid)).foldl (fun s r => s.resetRegion r) s
  let s := { s with wft := [], cycles := [], regions := [], recQ := [], txQ := [], ports := [], links := tmap s.links (fun _ l => { l with tags := [], pend := [] }) }
  let s := (lenum (ckPages p)).foldl (fun s (x : Nat × Nat) =>
    let o := (sec 4).1 + x.1 * 8448 * 8
    let bit := fun (at' k : Nat) => bitOf (rd (o + 65536 + at' + k / 64 * 8)) (k % 64)
    (List.range 8192).foldl (fun s k =>
      (s.wr8 (x.2 + 8 * k) { bits := rd (o + 8 * k), pois := bit 0 k }).setPres (x.2 + 8 * k) (bit 1024 k)) s) s
  let blk := blocksOf 32 (words 3)
  let b := fun (k : Nat) => blk.getD k []
  let n := fun (ws : List Word) (k : Nat) => (ws.getD k 0).toNat
  let s := { s with parts := (lenum (chunks 64 (words 0))).map (fun (x : Nat × List Word) => (x.1, ({ desc := x.2, server := (s.part x.1).server } : Part))) }
  let s := { s with harts := (lenum (chunks 1024 (words 2))).map (fun (x : Nat × List Word) => (x.1, hartOf x.2)),
                    rsv := (lenum (chunks 1024 (words 2))).filterMap (fun (x : Nat × List Word) => (hartRsv x.2).map (fun b => (x.1, b))) }
  let s := (chunks 5 (b 3)).foldl (fun s ws =>
    s.updPart (n ws 0) (fun p => { p with root := ws.getD 1 0, slice := ws.getD 2 0, epoch := n ws 3, lqStop := wordBits [ws.getD 4 0] })) s
  let s := (chunks 4 (b 5)).foldl (fun s ws => s.updPart (n ws 0) (fun p => { p with lists := tset p.lists (n ws 1) (n ws 2, n ws 3) })) s
  let s := (chunks 10 (b 6)).foldl (fun s ws =>
    let c : Conn := { blk := n ws 2, txl := n ws 3, rxl := n ws 4, txhead := n ws 5, txtail := n ws 6, rxtail := n ws 7, rxhead := n ws 8, st := n ws 9 }
    let s := s.updPart (n ws 0) (fun p => { p with conns := tset p.conns (n ws 1) c })
    if c.st = 3 then s else s.connReset (n ws 0) (n ws 1) c kvEconnreset true) s
  let s := (chunks 5 (b 7)).foldl (fun s ws =>
    { s with links := tupd s.links {} (n ws 0) (fun l => { l with tags := l.tags ++ [(n ws 1, n ws 2, ansOf (slice ws 3 2))] }) }) s
  let s := { s with fresh := Nat.max s.fresh (n (b 8) 0) }
  let rs := ckRsis 4096 rd (sec 1).1 ((sec 1).1 + 8 * (sec 1).2)
  let mores := (blocksOf 4096 (b 11)).map (blocksOf 32)
  let moreOf := fun (ws : List Word) => (mores.find? (fun m => fld ((m.getD 0 []).getD 0 0) 11 0 == fld (ws.getD 0 0) 11 0)).getD []
  let s := ((chunks 24 (b 0)).zip rs).foldl (fun s x => s.ckRegion (moreOf x.1) x.1 (some x.2)) s
  let s := (chunks 24 (b 1)).foldl (fun s ws => s.ckRegion (moreOf ws) ws none) s
  let s := s.ckDevice b
  let s := s.extend 5 (wordBytes (BitVec.ofNat 64 e) ++ wordsBytes ((List.range 8).map (fun k => rd (176 + 8 * k))))
  let s := { s with mem := setBitmap (setBitmap s.mem (ckMap p e) false) (ckMap p (e + 1)) true }
  { s with ckpt := { s.ckpt with st := 1, last := some e, held := (chunks 2 (b 2)).map (fun ws => (n ws 0, n ws 1)), got := [] } }

/-- Words the buddy has given, by offset in its slot. -/
def ckGot (base : Nat) (got : List (Nat × Word)) (off : Nat) : Word := ((got.find? (fun g => g.1 == base + off)).map (·.2)).getD 0

/-- The steps of a RESTORE from the buddy. -/
def State.restoreOn (s : State) : State :=
  let e := s.ckpt.cur
  let bud := ckSlot s.ckpt.plan e 3
  if !s.ckpt.wait.isEmpty then s
  else
    let rd := ckGot bud s.ckpt.got
    if s.ckpt.step = 30 then
      let tot := Nat.min (ckLen s.ckpt.plan) ((rd 160).toNat + (rd 168).toNat)
      s.ckTell 31 bud ((List.range ((tot - 4096) / 8)).map (fun k => (512 + k, (0 : Word))))
    else if s.ckpt.bad || !s.slotOk rd e then { s with ckpt := { s.ckpt with got := [], bad := false } }.ckAnswer kvEinval []
    else (s.ckLoad rd e).ckAnswer 0 []

/-- What follows the answers of the buddy to CONFIG: the plan stands, both bitmaps are set, both local slots invalid (R450). -/
def State.configOn (s : State) : State :=
  if !s.ckpt.wait.isEmpty then s
  else
    let p := s.ckpt.new
    if s.ckpt.bad then { s with ckpt := { s.ckpt with new := [], got := [], bad := false } }.ckAnswer kvEinval []
    else
      let s := { s with mem := setBitmap (setBitmap s.mem (ckTb p 7) true) (ckTb p 8) true }
      let s := (s.wrW (ckBase p 5) 0).wrW (ckBase p 6) 0
      { s with ckpt := { s.ckpt with plan := p, new := [], has := true, last := none, st := 0, held := [], got := [] } }.ckAnswer 0 []

/-- The checkpoint logic looks again (once each fc). -/
def State.ckptOnward (s : State) : State :=
  match s.ckpt.step with
  | 0 => s
  | 1 => s.quiesceOn
  | 2 => s.quiesceOn
  | 10 => s.configOn
  | 30 => s.restoreOn
  | 31 => s.restoreOn
  | _ => s.writeOn

/-! ## The commands (R453, R454) -/

/-- What becomes of a request at once: a status and a payload, or an answer that comes later. -/
abbrev CkRes := State × Option (Int × List Word)

def State.ckConfig (s : State) (who : Nat × Nat) (body : List Word) : CkRes :=
  let p := body.take 64
  if body.length ≠ 64 ∨ s.planBad p then (s, some (kvEinval, []))
  else if s.ckpt.st ≠ 0 ∨ s.ckpt.busy.isSome then (s, some (kvEbusy, []))
  else
    let need := 8 * (let l := ckPlaces s.ckSections (ckPages p).length; (l.getD 4 (0, 0)).1 + (l.getD 4 (0, 0)).2)
    if ckLen p < need then (s, some (kvEnospc, []))
    else
      let probe := ((List.range (ckLen p / 2 ^ 16)).map (fun n => [ckBase p 3 + n * 2 ^ 16, ckBase p 4 + n * 2 ^ 16])).flatten
      (({ s with ckpt := { s.ckpt with new := p, busy := some who, bad := false, got := [] } }.ckTell 10 0 (probe.map (fun a => (a / 8, (0 : Word))))), none)

def State.ckQuiesce (s : State) (who : Nat × Nat) (body : List Word) : CkRes :=
  let e := (body.getD 0 0).toNat
  if !s.ckpt.has ∨ s.ckpt.st ≠ 0 ∨ s.ckpt.busy.isSome then (s, some (kvEstate, []))
  else if body.length ≠ 1 ∨ e ≠ (match s.ckpt.last with | some l => l + 1 | none => 0) then (s, some (kvEinval, []))
  else ({ s with ckpt := { s.ckpt with busy := some who, step := 1, cur := e, held := [], wd := [] } }.quiesceOn, none)

def State.ckWrite (s : State) (who : Nat × Nat) (body : List Word) : CkRes :=
  let e := (body.getD 0 0).toNat
  if s.ckpt.st ≠ 1 ∨ s.ckpt.busy.isSome then (s, some (kvEstate, []))
  else if body.length ≠ 1 ∨ e ≠ (match s.ckpt.last with | some l => l + 1 | none => 0) then (s, some (kvEinval, []))
  else
    let p := s.ckpt.plan
    let s := { s with ckpt := { s.ckpt with busy := some who, st := 2, cur := e, bad := false } }
    (((s.wrW (ckSlot p e 5) 0).ckTell 20 (ckSlot p e 3) [(0, 0)]), none)

/-- RESUME: harts go on, every region in the state it held, and the operations QUIESCE withdrew are issued again. -/
def State.ckResume (s : State) (body : List Word) : CkRes :=
  if (s.ckpt.st ≠ 1 ∧ s.ckpt.st ≠ 3) ∨ s.ckpt.busy.isSome then (s, some (kvEstate, []))
  else if !body.isEmpty then (s, some (kvEinval, []))
  else
    let held := s.ckpt.held
    let wd := s.ckpt.wd
    let s := { s with ckpt := { s.ckpt with st := 0, held := [], wd := [] }, harts := tmap s.harts (fun _ h => { h with stopped := false }) }
    let s := held.foldl (fun s h =>
      let r := s.region h.1
      if r.st = rFrozen ∧ r.frz ≠ 1 then s.resumeRegion h.1 else s) s
    (wd.foldl (fun s x => onRegion s x.1 (fun r => { r with flight := tmap r.flight (fun _ a =>
      match a.own with | .pe k id _ => if k = x.2.1 ∧ id = x.2.2 ∧ a.st = .stalled 0 then { a with st := .travel } else a | _ => a) })) s, some (0, []))

def State.ckStatus (s : State) : CkRes :=
  let p := s.ckpt.plan
  let slot := fun (k : Nat) =>
    let rd := fun (o : Nat) => s.rdW (ckBase p k + o)
    if s.ckpt.has && s.slotValid rd then rd 16 else -1
  (s, some (0, [BitVec.ofNat 64 (s.ckpt.st * 2 ^ 62), slot 5, slot 6]))

/-- RESTORE: an operation in progress, whose buddy may be lost, is given up and never answers (R454, R455). -/
def State.ckRestore (s : State) (who : Nat × Nat) (body : List Word) : CkRes :=
  let e := (body.getD 0 0).toNat
  let p := s.ckpt.plan
  if !s.ckpt.has then (s, some (kvEstate, []))
  else if body.length ≠ 2 ∨ 1 < (body.getD 1 0).toNat then (s, some (kvEinval, []))
  else if body.getD 1 0 = 0 then
    let rd := fun (o : Nat) => s.rdW (ckSlot p e 5 + o)
    if !s.slotOk rd e then (s, some (kvEinval, []))
    else ({ s with ckpt := { s.ckpt with busy := none, step := 0, wait := [], bad := false } }.ckLoad rd e, some (0, []))
  else
    let s := { s with ckpt := { s.ckpt with busy := some who, cur := e, bad := false, got := [] } }
    (s.ckTell 30 (ckSlot p e 3) ((List.range 512).map (fun k => (k, (0 : Word)))), none)

end Sys2Proof.Machine
end

