-- ==== Sys2Proof/Machine/Khr.lean ====
section
/-! DEFINITION. The host's side: KHR sessions and messages (R436-R440, R442, R454) and ICMPv6 on the host ports (R436). -/

namespace Sys2Proof.Machine

/-! ## Endpoints and sessions (R436-R438) -/

/-- The hypervisor's endpoint among endpoints. -/
abbrev hvEp : Nat := 64

/-- The endpoint an address names. -/
def State.endpoint (s : State) (a : BitVec 128) : Option Nat :=
  if a = 0 then none
  else if s.dev.hep = a then some hvEp
  else (s.parts.find? (fun x => partValid x.2 && epaOf x.2 == a)).map (·.1)

/-- The session of a request, bound to its source (R437). -/
def State.sessOf (s : State) (k : Khr) : Option (Nat × Sess) :=
  match tfind s.sess k.sess.toNat, s.endpoint k.dst with
  | some x, some ep => if x.ep = ep ∧ x.src = k.src ∧ x.port = k.port then some (k.sess.toNat, x) else none
  | _, _ => none

/-- KHR_OPEN: a session bound to its source; an endpoint holds 64 (R438). -/
def State.khrOpen (s : State) (k : Khr) : State :=
  match s.endpoint k.dst with
  | none => s
  | some ep =>
    if k.sess ≠ 0 then s
    else if s.ckptOn || s.rst.any (fun r => r.pid == ep) then { s with out := s.out ++ [.khr 0x01 0 k.seq.toNat kvEbusy []] }
    else if !k.body.isEmpty || k.odd then { s with out := s.out ++ [.khr 0x01 0 k.seq.toNat kvEinval []] }
    else if 64 ≤ (s.sess.filter (fun x => x.2.ep == ep)).length then { s with out := s.out ++ [.khr 0x01 0 k.seq.toNat kvEnospc []] }
    else
      let (s, n) := s.new
      { s with sess := tset s.sess n { ep := ep, src := k.src, port := k.port }, out := s.out ++ [.khr 0x01 n k.seq.toNat 0 []] }

/-! ## What requests do (R439, R440) -/

/-- A range lies in a partition's memory or tables. -/
def State.khrMine (s : State) (p : Part) (a n : Nat) : Bool :=
  n == 0 || (partData p a && partData p (a + n - 1) && dramRange a n) || (s.allTables p).any (fun t => decide (t.1 ≤ a) && decide (a + n ≤ t.1 + t.2))

/-- The check of a copy at an endpoint (R440): its address and its length are multiples of 8 bytes. -/
def State.khrAddr (s : State) (ep a n : Nat) : Option Int :=
  if a % 8 ≠ 0 ∨ n % 8 ≠ 0 then some kvEinval
  else if ep = hvEp then (if n = 0 ∨ (dramRange a n && isData a && isData (a + n - 1)) = true then none else some kvEperm)
  else if s.khrMine (s.part ep) a n then none
  else some kvEperm

/-- LAUNCH: an entry for a queue of the endpoint's partition, as the producer of R344. -/
def State.khrLaunch (s : State) (ep : Nat) (body : List Word) : CkRes :=
  let p := s.part ep
  let q := (body.getD 0 0).toNat
  let b := lqBase p q
  if ep = hvEp then (s, some (kvEperm, []))
  else if body.length ≠ 9 ∨ 16 ≤ q ∨ !lqValid p q ∨ !s.lqOk b then (s, some (kvEinval, []))
  else if s.lqN b ≤ s.lqCount b then (s, some (kvEnospc, []))
  else
    let t := s.rdW (b + 8)
    ((s.wrWs (b + 64 + t.toNat % s.lqN b * 64) (body.drop 1)).wrW (b + 8) (t + 1), some (0, []))

/-- REPLAY as crn.fpar (R336). -/
def State.khrReplay (s : State) (ep : Nat) (body : List Word) : CkRes :=
  let a := (body.getD 1 0).toNat
  if body.length ≠ 2 then (s, some (kvEinval, []))
  else
    match s.ridOp {} (body.getD 0 0) false with
    | .error e => (s, some (e, []))
    | .ok r =>
      let s := s.crnMark r.rid 208
      if ep ≠ hvEp ∧ r.part ≠ ep then (s, some (kvEperm, []))
      else if a % 4096 ≠ 0 then (s, some (kvEinval, []))
      else if a ≠ 0 ∧ (s.khrAddr ep a 4096).isSome then (s, some (kvEperm, []))
      else
        let (s, st) := s.parOp r.rid (if a = 0 then none else some (s.patchWords [(a, 4096)])) []
        (s, some (st, []))

def State.khrCopyin (s : State) (ep : Nat) (body : List Word) : CkRes :=
  let a := (body.getD 0 0).toNat
  let ws := body.drop 1
  if body.isEmpty ∨ 1023 < ws.length then (s, some (kvEinval, []))
  else
    match s.khrAddr ep a (8 * ws.length) with
    | some e => (s, some (e, []))
    | none => (s.wrWs a ws, some (0, []))

def State.khrCopyout (s : State) (ep : Nat) (body : List Word) : CkRes :=
  let a := (body.getD 0 0).toNat
  let n := (body.getD 1 0).toNat
  if body.length ≠ 2 ∨ 8192 < n then (s, some (kvEinval, []))
  else
    match s.khrAddr ep a n with
    | some e => (s, some (e, []))
    | none => if s.anyPois a n then (s, some (kvEio, [])) else (s, some (0, bytesWords n (s.rdBs a n)))

/-- EVSUB: writes of a word are told to the session, at most 256 words. -/
def State.khrEvsub (s : State) (ep sid : Nat) (body : List Word) : CkRes :=
  let a := (body.getD 0 0).toNat
  if body.length ≠ 1 then (s, some (kvEinval, []))
  else
    match s.khrAddr ep a 8 with
    | some e => (s, some (e, []))
    | none =>
      let x := tget s.sess {} sid
      if x.subs.contains a then (s, some (0, []))
      else if 256 ≤ x.subs.length then (s, some (kvEnospc, []))
      else ({ s with sess := tset s.sess sid { x with subs := x.subs ++ [a] } }, some (0, []))

/-- SRVREG: this session is its partition's file server. -/
def State.khrSrvreg (s : State) (ep sid : Nat) (body : List Word) : CkRes :=
  if ep = hvEp then (s, some (kvEperm, []))
  else if !body.isEmpty then (s, some (kvEinval, []))
  else (s.updPart ep (fun p => { p with server := some sid }), some (0, []))

/-- PCFG: a partition operation of the hypervisor's host side. -/
def State.khrPcfg (s : State) (ep sid seq : Nat) (body : List Word) : CkRes :=
  let fid := (body.getD 0 0).toNat
  if ep ≠ hvEp then (s, some (kvEperm, []))
  else if body.length ≠ (if fid = 0 then 67 else 3) then (s, some (kvEinval, []))
  else
    let (s, a) := s.manage (.khr sid seq 0x50) fid (body.getD 1 0).toNat (body.getD 2 0) (body.drop 3)
    (s, a.map (mgrKhr 0x50))

/-- VFRESET: any partition for the hypervisor, its own for a partition (R434, R439). -/
def State.khrVfreset (s : State) (ep sid seq : Nat) (body : List Word) : CkRes :=
  let pid := (body.getD 0 0).toNat
  if body.length ≠ 2 then (s, some (kvEinval, []))
  else if ep ≠ hvEp ∧ ep ≠ pid then (s, some (kvEperm, []))
  else
    let (s, a) := s.manage (.khr sid seq 0x51) 3 pid (body.getD 1 0) []
    (s, a.map (mgrKhr 0x51))

/-- CKPT: its subcommands, at the hypervisor's endpoint only (R454). -/
def State.khrCkpt (s : State) (ep sid seq : Nat) (body : List Word) : CkRes :=
  let rest := body.drop 1
  if ep ≠ hvEp then (s, some (kvEperm, []))
  else
    match (body.getD 0 0).toNat with
    | 1 => s.ckConfig (sid, seq) rest
    | 2 => s.ckQuiesce (sid, seq) rest
    | 3 => s.ckWrite (sid, seq) rest
    | 4 => s.ckResume rest
    | 5 => if rest.isEmpty then s.ckStatus else (s, some (kvEinval, []))
    | 6 => s.ckRestore (sid, seq) rest
    | _ => (s, some (kvEinval, []))

/-- A session ends; it is no file server any more. -/
def State.khrClose (s : State) (sid : Nat) : State :=
  { s with sess := tdel s.sess sid, parts := tmap s.parts (fun _ p => if p.server = some sid then { p with server := none } else p) }

/-- A request by its type; while a checkpoint is quiesced, and while the endpoint's partition is reset, only some types are served (R434, R452). -/
def State.khrDo (s : State) (typ ep sid seq : Nat) (body : List Word) : CkRes :=
  if s.ckptOn && !(typ == 0x60 || typ == 0x21 || typ == 0x02) then (s, some (kvEbusy, []))
  else if s.rst.any (fun r => r.pid == ep) && typ != 0x02 then (s, some (kvEbusy, []))
  else
    match typ with
    | 0x02 => (s.khrClose sid, some (0, []))
    | 0x10 => s.khrLaunch ep body
    | 0x11 => s.khrReplay ep body
    | 0x20 => s.khrCopyin ep body
    | 0x21 => s.khrCopyout ep body
    | 0x30 => s.khrEvsub ep sid body
    | 0x40 => s.khrSrvreg ep sid body
    | 0x50 => s.khrPcfg ep sid seq body
    | 0x51 => s.khrVfreset ep sid seq body
    | 0x60 => s.khrCkpt ep sid seq body
    | _ => (s, some (kvEinval, []))

/-! ## The order of a session (R438) -/

/-- The next request of a session is performed; its answer is sent and kept among the 64 latest. A payload that is no whole number of words
fits no request. -/
def State.khrNext (s : State) (typ sid : Nat) (k : Khr) : State :=
  let seq := k.seq.toNat
  let s := { s with sess := tupd s.sess {} sid (fun x => { x with last := seq }) }
  match (if k.odd then (s, some (kvEinval, [])) else s.khrDo typ (tget s.sess {} sid).ep sid seq k.body) with
  | (s, none) => s
  | (s, some (st, body)) => s.khrAnswer typ sid seq st body

/-- Held requests whose turn has come. -/
def State.khrHeld (fuel : Nat) (s : State) (sid : Nat) : State :=
  match fuel with
  | 0 => s
  | f + 1 =>
    match tfind s.sess sid with
    | none => s
    | some x =>
      match x.held.find? (fun h => h.2.seq.toNat == x.last + 1) with
      | none => s
      | some (typ, k) =>
        let s := { s with sess := tset s.sess sid { x with held := x.held.filter (fun h => h.2.seq.toNat != x.last + 1) } }
        State.khrHeld f (s.khrNext typ sid k) sid

/-- A request arrives: the next one is performed, one within 64 is held, an old one is answered again, any other is dropped. -/
def State.khrEnter (s : State) (typ : Nat) (k : Khr) : State :=
  match s.sessOf k with
  | none => s
  | some (sid, x) =>
    let seq := k.seq.toNat
    if seq ≤ x.last then
      match x.cache.find? (fun c => c.1 == seq) with
      | some (_, st, body) => { s with out := s.out ++ [.khr typ sid seq st body] }
      | none => s
    else if seq = x.last + 1 then State.khrHeld 64 (s.khrNext typ sid k) sid
    else if seq ≤ x.last + 64 ∧ x.held.any (fun h => h.2.seq == k.seq) = false then
      { s with sess := tset s.sess sid { x with held := x.held ++ [(typ, k)] } }
    else s

/-- KHR_FILE_RESPONSE: the file server answers a FILEREQ of its partition; calls on one file id in their order (R441, R442). -/
def State.khrFile (s : State) (k : Khr) (call : Nat) (status : Word) (data : List Byte) : State :=
  match s.sessOf k with
  | none => s
  | some (sid, x) =>
    match tfind (s.part x.ep).calls call with
    | none => s
    | some c => if (s.part x.ep).server = some sid ∧ c.lst = 0 then s.fileAnswer x.ep call status data else s

/-! ## Datagrams (R436, R437) -/

def be16 (bs : List Byte) (i : Nat) : Nat := (bs.getD i 0).toNat * 256 + (bs.getD (i + 1) 0).toNat
def toBe16 (n : Nat) : List Byte := [BitVec.ofNat 8 (n / 256), BitVec.ofNat 8 n]
def addrOf (bs : List Byte) (i : Nat) : BitVec 128 := BitVec.ofNat 128 (((bs.drop i).take 16).foldl (fun a b => a * 256 + b.toNat) 0)
def addrBytes (a : BitVec 128) : List Byte := (List.range 16).map (fun i => BitVec.ofNat 8 (a.toNat / 2 ^ (8 * (15 - i))))

/-- The ones' complement sum over the pseudo-header and the message, of an upper-layer protocol. -/
def ipSum (proto : Byte) (src dst : List Byte) (msg : List Byte) : Nat :=
  let all := src ++ dst ++ toBe16 0 ++ toBe16 msg.length ++ [0, 0, 0, proto] ++ msg ++ (if msg.length % 2 = 1 then [0] else [])
  let t := ((List.range (all.length / 2)).map (fun i => be16 all (2 * i))).foldl (· + ·) 0
  let f := fun (x : Nat) => x % 65536 + x / 65536
  f (f (f t))

/-- The message of an IPv6 frame of a protocol: a frame of at most 9,216 bytes whose checksum is right (R436). -/
def ipMsg (proto : Byte) (f : List Byte) : Option (List Byte) :=
  let n := be16 f 18
  let msg := (f.drop 54).take n
  if 9216 < f.length ∨ f.length < 54 + n ∨ n < 8 ∨ be16 f 12 ≠ 0x86DD ∨ (f.getD 14 0).toNat / 16 ≠ 6 ∨ f.getD 20 0 ≠ proto
      ∨ ipSum proto ((f.drop 22).take 16) ((f.drop 38).take 16) msg ≠ 65535 then none
  else some msg

/-- What a KHR datagram carries: TYPE, RSP, the request, and its payload bytes. -/
structure KhrMsg where
  typ  : Nat := 0
  rsp  : Bool := false
  req  : Khr := {}
  data : List Byte := []
deriving DecidableEq, Repr

/-- The port of KHR at the device (R436). -/
abbrev khrPort : Nat := 29440

/-- A KHR DATAGRAM: IPv6, UDP to port 29,440, and the 32-byte header of R437; none of one that is malformed. -/
def khrParse (f : List Byte) : Option KhrMsg :=
  match ipMsg 17 f with
  | none => none
  | some m =>
    let w := fun (k : Nat) => bytesWord ((m.drop (8 + 8 * k)).take 8)
    let data := m.drop 40
    if m.length < 40 ∨ be16 m 2 ≠ khrPort ∨ be16 m 4 ≠ m.length ∨ be16 m 6 = 0 then none
    else if fld (w 0) 63 56 ≠ 1 ∨ fld (w 0) 46 32 ≠ 0 ∨ fld (w 1) 31 16 ≠ data.length ∨ 8192 < data.length ∨ w 2 ≠ 0 ∨ w 3 ≠ 0
        ∨ (bitOf (w 0) 47 = false ∧ fld (w 1) 15 0 ≠ 0) then none
    else
      some { typ := fld (w 0) 55 48, rsp := bitOf (w 0) 47, data := data,
             req := { src := addrOf f 22, port := BitVec.ofNat 16 (be16 m 0), dst := addrOf f 38, sess := BitVec.ofNat 32 (fld (w 0) 31 0),
                      seq := BitVec.ofNat 32 (fld (w 1) 63 32), body := bytesWords data.length data, odd := data.length % 8 != 0 } }

/-- The bytes of a KHR datagram that the device sends (R437). -/
def khrBytes (typ : Nat) (rsp : Bool) (sess seq : Nat) (stat : Int) (body : List Word) : List Byte :=
  wordsBytes ([pk [(56, 1), (48, typ), (47, nb rsp), (0, sess % 2 ^ 32)],
    pk [(32, seq % 2 ^ 32), (16, 8 * body.length), (0, (BitVec.ofInt 16 stat).toNat)], 0, 0] ++ body)

/-- A message sent to the host as its datagram: an EVENT or a FILEREQ is no response. -/
def khrSent (o : Out) : Option (List Byte) :=
  match o with | .khr typ sess seq stat body => some (khrBytes typ (typ != 0x31 && typ != 0x41) sess seq stat body) | _ => none

/-- A request of a type. -/
def State.khrType (s : State) (typ : Nat) (k : Khr) : State := if typ = 0x01 then s.khrOpen k else s.khrEnter typ k

/-- A datagram arrives; what it carries says what is done. A response answers a FILEREQ: SEQ is the call's number, the first word of its payload
the status, and the rest what was read (log 27); any other is dropped. -/
def State.khrDatagram (s : State) (f : List Byte) : State :=
  match khrParse f with
  | none => s
  | some x =>
    if x.rsp = false then s.khrType x.typ x.req
    else if x.typ = 0x41 ∧ 8 ≤ x.data.length then s.khrFile x.req x.req.seq.toNat (bytesWord (x.data.take 8)) (x.data.drop 8)
    else s

/-- A request of a type, given by its fields or as the frame that brings it. -/
def khrIn (typ : Nat) (k : Khr) (s : State) : Res := after (if k.frame.isEmpty then s.khrType typ k else s.khrDatagram k.frame)

def execKhrOpen (k : Khr) (s : State) : Res := khrIn 0x01 k s
def execKhrClose (k : Khr) (s : State) : Res := khrIn 0x02 k s
def execKhrLaunch (k : Khr) (s : State) : Res := khrIn 0x10 k s
def execKhrReplay (k : Khr) (s : State) : Res := khrIn 0x11 k s
def execKhrCopyin (k : Khr) (s : State) : Res := khrIn 0x20 k s
def execKhrCopyout (k : Khr) (s : State) : Res := khrIn 0x21 k s
def execKhrEvsub (k : Khr) (s : State) : Res := khrIn 0x30 k s
def execKhrSrvreg (k : Khr) (s : State) : Res := khrIn 0x40 k s
def execKhrPcfg (k : Khr) (s : State) : Res := khrIn 0x50 k s
def execKhrVfreset (k : Khr) (s : State) : Res := khrIn 0x51 k s

/-- A CKPT request with its subcommand. -/
def khrSub (n : Word) (k : Khr) (s : State) : Res :=
  if k.frame.isEmpty = false ∨ k.body.head? = some n then khrIn 0x60 k s else .next s

def execCkptConfig (k : Khr) (s : State) : Res := khrSub 1 k s
def execCkptQuiesce (k : Khr) (s : State) : Res := khrSub 2 k s
def execCkptWrite (k : Khr) (s : State) : Res := khrSub 3 k s
def execCkptResume (k : Khr) (s : State) : Res := khrSub 4 k s
def execCkptStatus (k : Khr) (s : State) : Res := khrSub 5 k s
def execCkptRestore (k : Khr) (s : State) : Res := khrSub 6 k s

/-- KHR_FILE_RESPONSE. -/
def execKhrFileResponse (k : Khr) (call : Nat) (status : Word) (data : List Byte) (s : State) : Res :=
  after (if k.frame.isEmpty then s.khrFile k call status data else s.khrDatagram k.frame)

/-! ## ICMPv6 (R436; RFC 4443, RFC 4861, log 25) -/

/-- A frame with an ICMPv6 message whose checksum is put in. -/
def icmpFrame (mac own : List Byte) (hop : Byte) (src dst : List Byte) (typ : Byte) (body : List Byte) : List Byte :=
  let m0 : List Byte := [typ, 0, 0, 0] ++ body
  let ck := 65535 - ipSum 58 src dst m0
  mac ++ own ++ [0x86, 0xDD, 0x60, 0, 0, 0] ++ toBe16 m0.length ++ [58, hop] ++ src ++ dst ++ [typ, 0] ++ toBe16 ck ++ body

/-- ICMPV6_FRAME: Echo and Neighbour Solicitation are answered; anything else is dropped. -/
def State.icmp (s : State) (port : Nat) (f : List Byte) : State :=
  let src := (f.drop 22).take 16
  let dst := (f.drop 38).take 16
  if 2 ≤ port then s
  else
    match ipMsg 58 f with
    | none => s
    | some msg =>
    if msg.getD 1 0 ≠ 0 then s
    else
    let mac := (f.drop 6).take 6
    let own := (List.range 6).map (Config.freeByte s.freeC)
    let s' := { s with freeC := s.freeC + 1 }
    if msg.getD 0 0 = 128 ∧ (s.endpoint (addrOf f 38)).isSome then
      { s' with out := s.out ++ [.icmp port (icmpFrame mac own 64 dst src 129 (msg.drop 4))] }
    else if msg.getD 0 0 = 135 ∧ f.getD 21 0 = 255 ∧ 24 ≤ msg.length ∧ (s.endpoint (addrOf msg 8)).isSome then
      let tgt := (msg.drop 8).take 16
      let none' := addrOf f 22 == 0
      let dest := if none' then addrBytes (BitVec.ofNat 128 (0xFF02 * 2 ^ 112 + 1)) else src
      { s' with out := s.out ++ [.icmp port (icmpFrame mac own 255 tgt dest 136 ([if none' then 0x20 else 0x60, 0, 0, 0] ++ tgt ++ [2, 1] ++ own))] }
    else s

def execIcmpv6Frame (port : Nat) (frame : List Byte) (s : State) : Res := .next (s.icmp port frame)

end Sys2Proof.Machine
end

