-- ==== Sys2Proof/Machine/Power.lean ====
section
/-! DEFINITION. The management side (R447, R448), firmware (R456, R457), power states and bring-up (R459), and the power cap (R460). -/

namespace Sys2Proof.Machine

/-! ## Losing and gaining the main side (R459) -/

/-- Memory that is not said to keep its contents: every listed byte and every poison bit is free (log 26). -/
def State.memLost (s : State) : State :=
  { s with mem := (s.mem.map (fun c => ((c.1, Config.freeByte s.freeC c.1) : Host.Cell))).filter (fun c => c.2 != 0),
           dpois := s.dpois.filter (fun w => (Config.freeByte (s.freeC + 1) w).getLsbD 0), freeC := s.freeC + 2 }

/-- The main side stops: everything it held is gone, and what the partition manager had pending ends unperformed (R448). -/
def State.mainOff (s : State) : State :=
  { s.memLost with
    regions := [], parts := [], wft := [], cycles := [], harts := [], rsv := [], txQ := [], crnAt := [], recQ := [], links := [], ports := [], sess := [],
    ckpt := {}, rst := none, mgrQ := [], mgrDone := [], notes := [], ending := false }

/-- An image passes (R457): its signature, and its SVN against the floor of its stage. -/
def fwOk (d : Device) (f : FwImage) : Bool :=
  Config.verify (wordsBytes (sha3 f.bytes)) f.sig && decide ((if f.main then d.floorF else d.floorM).toNat ≤ f.svn.toNat)

/-- Activation of a staged image raises the floor of its stage. -/
def fwTake (d : Device) (f : FwImage) : Device :=
  if f.main then { d with svnF := f.svn, floorF := f.svn } else { d with svnM := f.svn, floorM := f.svn }

/-- A register is extended by a firmware image's or the fuses' measurement, whose bytes the spec does not give (R456). -/
def State.measure (s : State) (k : Nat) : State :=
  { s.extend k ((List.range 64).map (Config.freeByte s.freeC)) with freeC := s.freeC + 1 }

/-- Staged images that pass: the boot ROM judges the management firmware, and management firmware, if it runs, the main firmware (R457). -/
def fwPass (d : Device) : List FwImage :=
  let okM := (d.staged.filter (fun f => !f.main)).all (fwOk d)
  d.staged.filter (fun f => okM && fwOk d f)

/-- AT A DEVICE RESET: images that pass are activated, one that is rejected leaves a fault that PLDM Type 5 reports (R448, R457); open sessions
hear of an activation; the hypervisor's settings take effect (R447); the registers are zero, and the boot ROM measures into MR0 and MR1 (R456). -/
def State.bootRom (s : State) : State :=
  let d := s.dev
  let pass := fwPass d
  let bad := pass.length != d.staged.length
  let ev := if pass.isEmpty then [] else s.sess.map (fun x => Out.khr 0x31 x.1 0 0 [0, Config.freeWord s.freeC])
  let dev := { (pass.foldl fwTake d) with
    staged := d.staged.filter (fun f => !pass.contains f), mr := [], hcob := d.hcobN.getD d.hcob, hep := d.hepN.getD d.hep, fwFault := bad }
  (({ s with dev := dev, freeC := s.freeC + 1, out := s.out ++ ev ++ (if bad then [.mgmt [5, 1]] else []) } : State).measure 0).measure 1

/-- Management firmware that did not pass runs nothing. -/
def mgmtBad (d : Device) : Bool := d.staged.any (fun f => !f.main)

/-- THE RISE of the main side, steps 2 and 3 of R459: main firmware is measured into MR2, and if it passes the hub dies load it; the device id is
latched. With a fault the main side stays off (R457). -/
def State.riseUp (s : State) : State :=
  if s.dev.fwFault && mgmtBad s.dev then s
  else
    let s := s.measure 2
    if s.dev.fwFault then s else { s with dev := { s.dev with rise := true, devId := s.dev.devIdN } }

/-- STEPS 4 TO 6: with memory and links trained, main firmware starts the cores and measures the hypervisor into MR3; the host ports come up. -/
def State.mainUp (s : State) : State :=
  if s.dev.rise then
    let s := s.measure 3
    { s with dev := { s.dev with rise := false, power := .on } }
  else s

/-- A DEVICE RESET: what is in progress ends unperformed, and bring-up is repeated where the main side had power (R448, R459). -/
def State.deviceReset (s : State) : State :=
  let up := s.dev.power = .on || s.dev.rise
  let s := s.bootRom.mainOff
  let s := { s with dev := { s.dev with power := .standby, rise := false } }
  if up then s.riseUp else s

/-- POWER_48V_ON: the management controller runs from ROM, its registers zero and measured anew; the main side waits for its enable. -/
def execPower48vOn (s : State) : Res :=
  .next (if s.dev.power = .off then
    (({ s with dev := { s.dev with v48 := true, power := .standby, mr := [] } } : State).measure 0).measure 1 else s)

/-- POWER_ENABLE: by the pin or by PLDM. -/
def execPowerEnable (byPin : Bool) (s : State) : Res :=
  .next (if s.dev.power = .standby ∧ s.dev.rise = false then
    let t := s.riseUp
    { t with out := t.out ++ (if byPin then [] else [.mgmt [0]]) } else s)

/-- POWER_STANDBY. -/
def execPowerStandby (byPin : Bool) (s : State) : Res :=
  .next (if s.dev.power = .on ∨ s.dev.rise = true then
    let t := s.mainOff
    { t with dev := { s.dev with power := .standby, rise := false }, out := t.out ++ (if byPin then [] else [.mgmt [0]]) } else s)

/-- POWER_48V_OFF. -/
def execPower48vOff (s : State) : Res :=
  .next (let t := s.mainOff; { t with dev := { s.dev with v48 := false, power := .off, rise := false, mr := [] } })

/-- RESET_N: the pin resets the device. -/
def execResetN (s : State) : Res := after (if s.dev.power = .off then s else s.deviceReset)

/-! ## The side-band port (R447, R448, R460) -/

/-- An answer of the management controller, while it has power. -/
def State.mgmt (s : State) (body : List Word) : State := if s.dev.power = .off then s else { s with out := s.out ++ [.mgmt body] }

def execMgmtReadDescriptor (part : Nat) (s : State) : Res := .next (s.mgmt (if part < 64 then descOf (s.part part) else []))

/-- MGMT_VF_RESET: taken by the partition manager in its turn, and answered when it is over (R430, R452). -/
def execMgmtVfReset (part : Nat) (scrub : Bool) (s : State) : Res :=
  if s.dev.power ≠ .on then .next s
  else
    match s.manage .port 3 part (if scrub then 1 else 0) [] with
    | (s, some a) => after (s.mgmt [kv a.1])
    | (s, none) => .next s

/-- MGMT_DEVICE_RESET: it may give the device another id (R454, R459). -/
def execMgmtDeviceReset (dev : Option (BitVec 19)) (s : State) : Res :=
  if s.dev.power = .off then .next s
  else
    let s := { s with dev := { s.dev with devIdN := dev.getD s.dev.devIdN } }
    after (s.deviceReset.mgmt [0])

def execMgmtSetHypervisor (ep : BitVec 128) (cobs : BitVec 192) (s : State) : Res :=
  .next (if s.dev.power = .off then s else ({ s with dev := { s.dev with hepN := some ep, hcobN := some cobs } } : State).mgmt [0])

/-- A reading of a sensor, a field of the FRU data, the answer to a base command: the spec gives none of these values (log 27). -/
def execPldmSensorRead (sensor : Nat) (s : State) : Res := let (s, w) := s.freeW; .next (s.mgmt [BitVec.ofNat 64 sensor, w])
def execPldmFruRead (field : Nat) (s : State) : Res := let (s, w) := s.freeW; .next (s.mgmt [BitVec.ofNat 64 field, w])
def execPldmBase (cmd : Nat) (s : State) : Res := let (s, w) := s.freeW; .next (s.mgmt [BitVec.ofNat 64 cmd, w])

/-- PLDM_POWER_CAP: 1,200 to 3,300 W; the code of a refusal is not given (log 27). -/
def execPldmPowerCap (watts : Nat) (s : State) : Res :=
  if s.dev.power = .off then .next s
  else if 1200 ≤ watts ∧ watts ≤ 3300 then .next (({ s with dev := { s.dev with cap := watts } } : State).mgmt [0])
  else let (s, w) := s.freeW; .next (s.mgmt [w])

/-- PLDM_FIRMWARE_UPDATE: an image is staged; running work goes on (R448). The answer carries the fault of the latest reset (R457). -/
def execPldmFirmwareUpdate (fw : FwImage) (s : State) : Res :=
  .next (if s.dev.power = .off then s
    else ({ s with dev := { s.dev with staged := s.dev.staged.filter (fun f => f.main != fw.main) ++ [fw] } } : State).mgmt [0, nb s.dev.fwFault])

/-- CLOCK_THROTTLE: above the cap the clock falls by 50 MHz, down to 600; else it rises again to the nominal clock (R3, R460). -/
def execClockThrottle (watts : Nat) (s : State) : Res :=
  .next (if s.dev.power ≠ .on then s
    else { s with dev := { s.dev with mhz := if s.dev.cap < watts then Nat.max 600 (s.dev.mhz - 50) else Nat.min 1050 (s.dev.mhz + 50) } })

end Sys2Proof.Machine
end

