-- ==== Sys2Proof/Machine/Clock.lean ====
section
/-! DEFINITION. The end of an fc and the start of the next (R21, R355): what commits by itself, what is counted, and what is granted for
the fc that begins (R87, R165). -/

namespace Sys2Proof.Machine

/-! ## Commits of the fc -/

/-- A fence or a handle operation, which completes when what stands before it has (R229, R230). -/
def isFence (o : PendOp) : Bool := o.code == 0xD9 || o.code == 0xD5 || o.code == 0xD7

/-- Operations that complete at the end of this fc by themselves: at their latency (R146), fences, and handle operations behind
every earlier access (R229, R230). -/
def dueOps (fc : Nat) (r : Region) : List (Nat × Nat × PendOp) :=
  (r.tiles.map (fun t => ((t.2.act.ct.ops ++ t.2.ins.ct.ops).filter (fun o =>
    (o.2.due.isSome && opDue fc o.2) || isFence o.2)).map (fun o => (t.1, o.1, o.2)))).flatten

/-- Of one tile in ascending slot number, where SR steps are taken (R59, R176); fences and handle operations see every completion of
the fc (R229, R230). -/
def dueSorted (fc : Nat) (r : Region) : List (Nat × Nat × PendOp) :=
  let l := sortBy (fun a b => decide (a.1 < b.1) || (a.1 == b.1 && decide (a.2.2.slot ≤ b.2.2.slot))) (dueOps fc r)
  l.filter (fun x => !isFence x.2.2) ++ l.filter (fun x => isFence x.2.2)

/-- The completions of the fc. -/
def State.completions (s : State) (rid : Nat) : State :=
  let r := s.region rid
  if opsRun r then
    (dueSorted s.fc r).foldl (fun s x =>
      if x.2.2.ph = 3 then (s.inPlane rid x.1 x.2.1 (fun s => onRegion s rid (fun r => completeTensor s.fc r x.1 x.2.1 x.2.2))).wake else s.completeLong rid x.1 x.2.1) s
  else s

/-- Counters run at a tile of the region (R27, R401, R410). -/
def pulsesRun (r : Region) (key : Nat) : Bool :=
  r.st == rRunning && r.res && !r.parked && keyIsCt key && !(r.tile key).mark && (r.tile key).swBusy.isNone

/-- Each control input offers at most one pending pulse (R27). DESIGN CHOICE (log 47): the inputs of one PE make their offers in the order
ci0 to ci3; the rule orders the counters of one offer only. -/
def pulses (r : Region) : Region :=
  r.keys.foldl (fun r k => if pulsesRun r k then [0, 1, 2, 3].foldl (fun r ci => r.offerPulse k ci) r else r) r

/-- Handles take the state of their claim, places freed in the fc are free, and the marks of the fc go (R21, log 2). -/
def planeTick (p : Plane) : Plane :=
  { p with hs := tmap p.hs (fun _ h => { h with st := h.nxt.getD h.st, nxt := none, grant := none, moved := false }),
           inp := tmap p.inp (fun _ c => { c with popped := 0, came := 0 }), used := [], u := { p.u with frFwd := none },
           ct := { p.ct with fired := false, ciDone := [] } }

/-- Colours change as the firings of the fc said (R164, R167). -/
def colourTick (r : Region) : Region :=
  { r with cols := r.colEnd.foldl (fun t c => tset t c.1 c.2) r.cols, colEnd := [], grants := [] }

/-- Accesses performed for an operation that is no more; one that stands in the Insole plane of its tile completes when the plane is active
again (log 52). -/
def pruneAccs (r : Region) : Region :=
  { r with flight := r.flight.filter (fun a => match a.2.own with | .pe k id _ => accOpen a.2 || (r.op? k id).isSome | _ => true) }

/-- The endpoint of a read can take an element, or that of a write has one to give (R386). -/
def endReady (r : Region) (z : Strm) : Bool :=
  if z.copy then true
  else if dWrite z.desc then
    (if dChan z.desc then (match z.held with | t :: _ => !tokHw t && t.mark != mkC && t.mark != mkE | [] => false)
     else (match z.box with | some b => decide (z.next < boxEnd z.desc b) | none => false))
  else if dChan z.desc then r.inSpace z.tile (dEndp z.desc) != 0 else z.box.isSome

/-- A context whose endpoint is ready waits on memory for a local page: 8 to that page's count (R386). A write waits for the element it
has not issued, through the extent that covers it. -/
def stvOf (r : Region) (c : Nat) (z : Strm) : Option Nat :=
  if !strmLive r c ∨ z.st ≠ 1 ∨ endReady r z = false then none
  else if !z.copy && dWrite z.desc then
    let a := strmAddr r c z.next
    if a.1 = 1 ∧ z.next < dN z.desc then
      match (extFind z a.2.1).map (fun x => extHome x a.2.1) with
      | some (.dram pa) => some (a.2.2 * 2 ^ 26 + pa / 2 ^ 16)
      | _ => none
    else none
  else
    match r.flight.find? (fun a => a.2.own == strmOwner c z.got 0 && accOpen a.2) with
    | some (_, a) => (match a.home with
      | some (.dram pa) => some (a.capx * 2 ^ 26 + pa / 2 ^ 16)
      | _ => none)
    | none => none

def heatTick (r : Region) : Region :=
  (r.strms.map (·.1) ++ r.copies.map (·.1)).foldl (fun r c =>
    let r := match stvOf r c (r.strm c) with | some k => countHeat c k 8 r | none => r
    let z := r.strm c
    if z.hpg = 0 then r
    else if z.hstay + 1 < 4096 then r.setStrm c (fun z => { z with hstay := z.hstay + 1 })
    else
      ({ r with heatP := if z.hcnt = 0 then r.heatP else tupd r.heatP 0 (z.hpg - 1) (· + z.hcnt) } : Region).setStrm c (fun z =>
        { z with hcnt := 0, hstay := 0 })) r

/-- The port contexts that serve peers: an event that waits on memory counts, and a stay of 4,096 fc ends the count (R386). -/
def State.portTick (s : State) : State :=
  let waits := fun (p : PortCtx) => s.links.any (fun l => l.2.pend.any (fun x =>
    x.2.src.toNat == p.src && x.2.rid == p.rid && x.2.ctx.any (fun c => c.1 == p.ctx)))
  let step := fun (p : PortCtx) => if p.hpg = 0 then p else { p with hcnt := if waits p then p.hcnt + 8 else p.hcnt, hstay := p.hstay + 1 }
  let s := { s with ports := s.ports.map step }
  s.ports.foldl (fun s p =>
    if 4096 ≤ p.hstay ∧ 0 < p.hcnt ∧ partData (s.part p.part) ((p.hpg - 1) * 2 ^ 16) = true then s.addHeat p.part ((p.hpg - 1) * 2 ^ 16) p.hcnt else s)
    { s with ports := s.ports.map (fun p => if 4096 ≤ p.hstay then { p with hcnt := 0, hstay := 0 } else p) }

/-- The region is resident and unfrozen in this fc (R246, R284, R355). -/
def runsNow (r : Region) : Bool := r.st == rRunning && r.res && !r.parked

/-- The whole fc counts: the region ran at its start and runs at its end (log 30). -/
def countsNow (r : Region) : Bool := runsNow r && r.cnt == rRunning

/-- The state in which a resident region begins an fc. -/
def cntOf (r : Region) : Nat := if r.res ∧ !r.parked then r.st else 0

/-- What an fc counts (DESIGN CHOICE, log 55: the LCLK of an EXQ plane that is not active stands still): RDCYC, LCLK, the consumed budget and idle fc of a stage (R246, R284, R356, R358), a drain's length (R409,
R414), and the fc since a freeze was asked for (R401). -/
def countTick (r : Region) : Region :=
  let r := { r with drain := r.drain.map (· + 1), frzAge := if r.frzReq.isSome then r.frzAge + 1 else 0 }
  if countsNow r then
    { r with rcyc := r.rcyc + 1, spent := if r.partner.isSome && r.active then r.spent + 1 else r.spent,
             quiet := if r.tiles.any (fun t => t.2.act.ct.fired || tileLive r t.1 && (List.range 16).any (fun n => wordReady r t.1 n)) then 0 else r.quiet + 1,
             tiles := tmap r.tiles (fun _ t =>
               if planeMode t.act = 7 then { t with act := { t.act with u := { t.act.u with lclk := t.act.u.lclk + 1 } } } else t) }
  else r

/-- A region at the end of the fc: everything but completions. -/
def regionTick (fc : Nat) (r : Region) : Region :=
  let r := pulses (nlSample r)
  let r := heatTick (countTick r)
  let r := colourTick { r with tiles := tmap r.tiles (fun _ t => { t with act := planeTick t.act, ins := planeTick t.ins }) }
  let r := r.keys.foldl (fun r k => (swapTick fc k (frameEnd k r)).drainOut fc k) r
  pruneAccs r

/-! ## Grants of the next fc -/

/-- The claims a tile's slots would make: MT, handle, side (R87). -/
def claimsAt (r : Region) (key : Nat) : List (Nat × Nat × Nat) :=
  if tileLive r key then
    ((List.range 16).map (fun n =>
      match slotTi r key n with
      | some (op, t) =>
        if triggered r key op t && needsMet .assumed .real r key n op t then
          (hreqsOf r key op t).filterMap (fun q => match q with | .claim k h side _ => some (k, h, side) | _ => none)
        else []
      | none => [])).flatten
  else []

/-- Each MT grants one claim on a handle: the first side (R87). -/
def grantHandles (r : Region) : Region :=
  let cs := (r.keys.map (claimsAt r)).flatten
  cs.foldl (fun r c => r.updHnd c.1 c.2.1 (fun x => { x with grant := some (match x.grant with | some g => Nat.min g c.2.2 | none => c.2.2) })) r

/-- SPAWN slots that only need a colour, in order of page and CT (R165). DESIGN CHOICE (log 50): the waiting SPAWN slots of one CT are
granted in ascending slot; the rule orders pages and CTs only. -/
def spawnWaits (r : Region) : List Nat :=
  (r.keys.map (fun k =>
    if tileLive r k then
      (List.range 16).filterMap (fun n =>
        match slotTi r k n with
        | some (op, t) => if op == 0x38 && triggered r k op t && needsMet .real .waived r k n op t then some (k * 16 + n) else none
        | none => none)
    else [])).flatten

def grantColours (r : Region) : Region := { r with grants := (spawnWaits r).zip r.pool }

/-- What a unit judges at the start of an fc: a FRAME node's choice (R465), the heads of a GATH tile (R276), the choice of an EXQ tile (R285). -/
def unitStart (fc key : Nat) (r : Region) : Region :=
  match planeMode (r.pl key) with
  | 3 => frameChoose key r
  | 4 => gathHeads key r
  | 7 => exqChoose fc key r
  | _ => r

/-- What the next fc finds granted and chosen. -/
def regionGrant (fc : Nat) (r : Region) : Region :=
  let r := grantColours (grantHandles r)
  let r := { r with cnt := cntOf r }
  r.keys.foldl (fun r k => if unitLive r k then unitStart fc k r else r) r

/-! ## The device -/

/-- A packet of a binding goes out over a link, with a tag of its own (R428). -/
def State.weltSend (s : State) (link part : Nat) (x : Nat × Nat × WeltMsg) : State :=
  { s with fresh := s.fresh + 1, out := s.out ++ [Out.welt link x.1 s.dev.devId.toNat part s.fresh x.2.1 x.2.2] }

/-- The context a binding's message belongs to: tokens go out of a send binding, credits out of a receive binding. -/
def weltKey (r : Region) (x : Nat × Nat × WeltMsg) : Nat :=
  let send := match x.2.2 with | .tok _ => true | _ => false
  (r.tiles.findSome? (fun t => ((t.2.act.welt ++ t.2.ins.welt).find? (fun b =>
    decide (b.1 < 16) == send && fld b.2 63 45 == x.1 && fld b.2 44 37 == x.2.1)).map (fun b => t.1 * 32 + b.1))).getD (2 ^ 40)

/-- Tokens and credits of Welt bindings leave over the link of their binding while one is up toward their device (R136, R395, R430). -/
def State.weltOut (s : State) (rid : Nat) : State :=
  let r := s.region rid
  let link := fun (x : Nat × Nat × WeltMsg) => s.linkFor r (weltKey r x) x.1
  match r.tx with
  | [] => s
  | _ =>
    (r.tx.filterMap (fun x => (link x).map (fun k => (k, x)))).foldl (fun s y => s.weltSend y.1 r.part y.2)
      (onRegion s rid (fun r => { r with tx := r.tx.filter (fun x => (link x).isNone) }))

/-- What regions that have left the device emitted leaves in the same way. -/
def State.weltLate (s : State) : State :=
  let link := fun (x : Nat × Nat × Nat × WeltMsg) => s.route x.1 x.2.1
  match s.txQ with
  | [] => s
  | _ =>
    (s.txQ.filterMap (fun x => (link x).map (fun k => (k, x)))).foldl (fun s y => s.weltSend y.1 y.2.1 y.2.2)
      { s with txQ := s.txQ.filter (fun x => (link x).isNone) }

/-- A freeze a trap asked for takes place within 32 fc (R401). -/
def State.frzTick (s : State) (rid : Nat) : State :=
  let r := s.region rid
  if r.frzReq.isSome ∧ 31 ≤ r.frzAge then s.freezeStop rid else s

/-- One region at the end of the fc. -/
def State.regionEnd (s : State) (rid : Nat) : State :=
  match s.region? rid with
  | none => s
  | some _ =>
    let s := onRegion (s.completions rid) rid (regionTick s.fc)
    let s := ((((((s.heatFlush rid).firedWaits rid).sliceDue rid).frzTick rid).holdTick rid).runComplete rid).launchWords rid
    let s := s.sliceKeep rid
    (onRegion s rid (regionGrant (s.fc + 1))).queueRecs rid

/-- The slicing count of a partition goes on while a region of it runs, is ready or idle, and is resident (R355). -/
def State.sliceTick (s : State) (part : Nat) : State :=
  if s.regions.any (fun x => x.2.part == part && x.2.res && (x.2.st == rReady || x.2.st == rRunning || x.2.st == rIdle) && x.2.cnt != 0) then
    s.updPart part (fun p => { p with slice := p.slice + 1 })
  else s

def State.rids (s : State) : List Nat := (s.regions.map (·.1)).filter (fun r => decide (r < portRid))

/-- THE END OF AN FC. -/
def State.tick (s : State) : State :=
  let s :=
    if s.dev.power = .on then
      let s := s.rids.foldl (fun s r => s.regionEnd r) s
      let s := (s.weltLate.rids).foldl (fun s r => (onRegion s r weltGive).weltOut r) s.weltLate
      let s := (validParts s).foldl (fun s p => ((s.sysNote p).lqNote p).sliceTick p) s.mgrTick
      ((((s.rehold.ckptOnward.portRetry).wake).portAnswers).portTick).connTick
    else s.mainUp
  { s with fc := s.fc + 1, ending := false }

end Sys2Proof.Machine
end

