-- ==== Sys2Proof/Machine/RvMem.lean ====
section
/-! DEFINITION. Loads, stores and fetches of the harts (R318, R470; RISC-V, log 10): an access piece by piece, one for each 8-byte word it
touches; every piece is translated and checked before any is performed. -/

namespace Sys2Proof.Machine

/-- The exception of an access: cause, the address for tval, the guest-physical address for htval. -/
abbrev HExc := Nat × Nat × Nat

/-- The pieces of an access, none across a word. -/
def hPieces (va n : Nat) : List (Nat × Nat) :=
  let k := Nat.min n (8 - va % 8)
  if k = n then [(va, n)] else [(va, k), ((va + k) % 2 ^ 64, n - k)]

/-- The physical address of a piece: translated, in memory, and unpoisoned where it is read (R470). -/
def State.hPiece1 (s : State) (h : Hart) (p : Priv) (k : HKind) (hx reads : Bool) (va : Nat) : Except HExc Nat :=
  match hTrans s h p va k hx with
  | .error f => .error (failCause k f, va, match f with | .guest g => g / 4 | _ => 0)
  | .ok pa => if !isDram pa || (reads && (s.rd8 pa).pois) then .error (failCause k .access, va, 0) else .ok pa

/-- The physical pieces of an access, or the exception of the first that fails. -/
def State.hAddrs (s : State) (h : Hart) (p : Priv) (k : HKind) (hx reads : Bool) : List (Nat × Nat) → Except HExc (List (Nat × Nat))
  | [] => .ok []
  | (va, n) :: l =>
    match s.hPiece1 h p k hx reads va with
    | .error e => .error e
    | .ok pa => match State.hAddrs s h p k hx reads l with | .error e => .error e | .ok r => .ok ((pa, n) :: r)

/-- The number that physical pieces hold, lowest first. -/
def State.readPas (s : State) : List (Nat × Nat) → Nat
  | [] => 0
  | (pa, n) :: l => rdNat s.mem pa n + 2 ^ (8 * n) * State.readPas s l

/-- Write a number to physical pieces: a whole word loses its poison, a narrower piece leaves it (R91, R470). -/
def State.writePas (s : State) : List (Nat × Nat) → Nat → State
  | [], _ => s
  | (pa, n) :: l, v =>
    State.writePas (if n = 8 then s.wrW pa (BitVec.ofNat 64 v) else s.wrN pa n (BitVec.ofNat 64 (v % 2 ^ (8 * n)))) l (v / 2 ^ (8 * n))

/-- A load of n bytes at an effective address. -/
def State.hLoadAt (s : State) (h : Hart) (p : Priv) (hx : Bool) (va n : Nat) : Except HExc Nat :=
  match s.hAddrs h p .load hx true (hPieces va n) with
  | .error e => .error e
  | .ok l => .ok (s.readPas l)

/-- A store of n bytes at an effective address. -/
def State.hStoreAt (s : State) (h : Hart) (p : Priv) (va n v : Nat) : Except HExc State :=
  match s.hAddrs h p .store false false (hPieces va n) with
  | .error e => .error e
  | .ok l => .ok (s.writePas l v)

/-- The current hart takes the exception of an access made at a level. -/
def State.accExc (s : State) (p : Priv) (e : HExc) : State :=
  let was := s.hart s.curHart
  let s := s.hartExc s.curHart e.1 (BitVec.ofNat 64 e.2.1) (BitVec.ofNat 64 e.2.2)
  if isVirt p && !isVirt was.priv then
    s.updHart s.curHart (fun h => match h.priv with | .m => { h with mst := putBit h.mst 38 true } | _ => { h with hst := putBit h.hst 6 true })
  else s

/-- A load by the current hart, then what is done with the value; or its exception. -/
def State.hLoad (s : State) (va : Word) (n : Nat) (f : State → Nat → State) : State :=
  let h := s.hart s.curHart
  let p := accPriv h
  match s.hLoadAt h p false (maskPtr h p va) n with
  | .error e => s.accExc p e
  | .ok v => f s v

/-- A store by the current hart; or its exception. -/
def State.hStore (s : State) (va : Word) (n v : Nat) (f : State → State) : State :=
  let h := s.hart s.curHart
  let p := accPriv h
  match s.hStoreAt h p (maskPtr h p va) n v with
  | .error e => s.accExc p e
  | .ok s => f s

/-! ## Poisoned words (R470) -/

/-- POISONED_HART_ACCESS of hart h at an address of its own: the access fault of its access type, 1, 5 or 7, with that address; or a store,
which its word's poison does not stop (R470). -/
def State.hartAcc (s : State) (h : Nat) (a : HartAcc) : State :=
  let x := s.hart h
  let p := accPriv x
  let at' := fun (k : HKind) (va : Word) (f : Nat → State) =>
    match hTrans s x (if k = .fetch then x.priv else p) va.toNat k false with
    | .ok pa => if isDram pa && (s.rd8 pa).pois then f pa else s
    | .error _ => s
  match a with
  | .load va => at' .load va (fun _ => s.hartExc h 5 va 0)
  | .fetch va => at' .fetch va (fun _ => s.hartExc h 1 va 0)
  | .amo va => at' .store va (fun _ => s.hartExc h 7 va 0)
  | .store va n data =>
    at' .store va (fun pa =>
      if n = 0 ∨ 8 < pa % 8 + n then s
      else (if n = 8 then s.wrW pa data else s.wrN pa n data).updHart h (fun x => { x with pc := x.pc + 4 }))

def execPoisonedHartAccess (h : Nat) (a : HartAcc) (s : State) : Res := .next (s.hartAcc h a).wake

end Sys2Proof.Machine
end

