-- ==== Sys2Proof/Machine/Scalar.lean ====
section
/-! DEFINITION. The integer instructions, OPs 0x00-0x29 (R149-R153). -/

namespace Sys2Proof.Machine

/-! ## Results (R150-R153, R62, R63) -/

/-- The low 32 bits, sign-extended (R150 ADDW). -/
def sx32 (w : Word) : Word := (w.truncate 32 : BitVec 32).signExtend 64
def mulhS (a b : Word) : Word := BitVec.ofInt 64 (a.toInt * b.toInt / 2 ^ 64)
def mulhU (a b : Word) : Word := BitVec.ofNat 64 (a.toNat * b.toNat / 2 ^ 64)
/-- Signed quotient truncated toward zero; divisor 0 gives all ones; -2^63 by -1 gives -2^63 (R63). -/
def divS (a b : Word) : Word := if b = 0 then BitVec.ofInt 64 (-1) else BitVec.ofInt 64 (a.toInt.tdiv b.toInt)
def divU (a b : Word) : Word := if b = 0 then BitVec.ofInt 64 (-1) else BitVec.ofNat 64 (a.toNat / b.toNat)
def remS (a b : Word) : Word := if b = 0 then a else BitVec.ofInt 64 (a.toInt.tmod b.toInt)
def remU (a b : Word) : Word := if b = 0 then a else BitVec.ofNat 64 (a.toNat % b.toNat)
def sh6 (b : Word) : Nat := b.toNat % 64
def popc (a : Word) : Nat := ((List.range 64).filter (fun i => a.getLsbD i)).length
/-- Number of zero bits before the first one, over a list of bit places. -/
def zerosIn (a : Word) (places : List Nat) : Nat := (places.takeWhile (fun i => !a.getLsbD i)).length
def clz (a : Word) : Nat := zerosIn a (List.range 64).reverse
def ctz (a : Word) : Nat := zerosIn a (List.range 64)
/-- BEXT (R151). -/
def fieldLen (b : Word) : Nat := let n := fld b 13 8; if n = 0 then 64 else n
def bext (a b : Word) : Word := BitVec.ofNat 64 (a.toNat / 2 ^ sh6 b % 2 ^ fieldLen b)
/-- BINS (R151). -/
def bins (d a b : Word) : Word :=
  let m : Word := BitVec.ofNat 64 (2 ^ fieldLen b - 1)
  (d &&& ~~~(m <<< sh6 b)) ||| ((a &&& m) <<< sh6 b)
/-- Extension length of SEXT and ZEXT: b[5:0], 0 meaning 64. -/
def extLen (b : Word) : Nat := if sh6 b = 0 then 64 else sh6 b
def zextN (a b : Word) : Word := BitVec.ofNat 64 (a.toNat % 2 ^ extLen b)
def sextN (a b : Word) : Word := sxTo (extLen b) a.toNat

/-! ## Meanings -/

/-- NOP writes nothing; cond is 0 (R150). -/
def execNop (t : Ti) (s : State) : Res := pe s (fun x r => fireScalar x 0x00 t (fun _ _ => .ok ({}, false)) r)
/-- MOV carries poison (R147, R150). -/
def execMov (t : Ti) (s : State) : Res := pe s (fun x r => fireScalar x 0x01 t (fun _ o => .ok (o.a, condNz o.a)) r)
def execAdd (t : Ti) (s : State) : Res := pe s (fun x r => fireAlu x 0x02 t (fun a b => a + b) r)
def execSub (t : Ti) (s : State) : Res := pe s (fun x r => fireAlu x 0x03 t (fun a b => a - b) r)
def execAddw (t : Ti) (s : State) : Res := pe s (fun x r => fireAlu x 0x04 t (fun a b => sx32 (a + b)) r)
def execSubw (t : Ti) (s : State) : Res := pe s (fun x r => fireAlu x 0x05 t (fun a b => sx32 (a - b)) r)
def execMul (t : Ti) (s : State) : Res := pe s (fun x r => fireLongAlu x 0x06 t 3 (fun a b => a * b) r)
def execMulh (t : Ti) (s : State) : Res := pe s (fun x r => fireLongAlu x 0x07 t 3 mulhS r)
def execMulhu (t : Ti) (s : State) : Res := pe s (fun x r => fireLongAlu x 0x08 t 3 mulhU r)
def execDiv (t : Ti) (s : State) : Res := pe s (fun x r => fireLongAlu x 0x09 t 18 divS r)
def execDivu (t : Ti) (s : State) : Res := pe s (fun x r => fireLongAlu x 0x0A t 18 divU r)
def execRem (t : Ti) (s : State) : Res := pe s (fun x r => fireLongAlu x 0x0B t 18 remS r)
def execRemu (t : Ti) (s : State) : Res := pe s (fun x r => fireLongAlu x 0x0C t 18 remU r)
def execAnd (t : Ti) (s : State) : Res := pe s (fun x r => fireAlu x 0x0D t (fun a b => a &&& b) r)
def execOr (t : Ti) (s : State) : Res := pe s (fun x r => fireAlu x 0x0E t (fun a b => a ||| b) r)
def execXor (t : Ti) (s : State) : Res := pe s (fun x r => fireAlu x 0x0F t (fun a b => a ^^^ b) r)
def execAndn (t : Ti) (s : State) : Res := pe s (fun x r => fireAlu x 0x10 t (fun a b => a &&& ~~~b) r)
def execShl (t : Ti) (s : State) : Res := pe s (fun x r => fireAlu x 0x11 t (fun a b => a <<< sh6 b) r)
def execShr (t : Ti) (s : State) : Res := pe s (fun x r => fireAlu x 0x12 t (fun a b => a >>> sh6 b) r)
def execSar (t : Ti) (s : State) : Res := pe s (fun x r => fireAlu x 0x13 t (fun a b => a.sshiftRight (sh6 b)) r)
def execRol (t : Ti) (s : State) : Res := pe s (fun x r => fireAlu x 0x14 t (fun a b => a.rotateLeft (sh6 b)) r)
def execClz (t : Ti) (s : State) : Res := pe s (fun x r => fireAlu x 0x15 t (fun a _ => BitVec.ofNat 64 (clz a)) r)
def execCtz (t : Ti) (s : State) : Res := pe s (fun x r => fireAlu x 0x16 t (fun a _ => BitVec.ofNat 64 (ctz a)) r)
def execPopc (t : Ti) (s : State) : Res := pe s (fun x r => fireAlu x 0x17 t (fun a _ => BitVec.ofNat 64 (popc a)) r)
def execMin (t : Ti) (s : State) : Res := pe s (fun x r => fireAlu x 0x18 t (fun a b => if a.slt b then a else b) r)
def execMax (t : Ti) (s : State) : Res := pe s (fun x r => fireAlu x 0x19 t (fun a b => if a.slt b then b else a) r)
def execMinu (t : Ti) (s : State) : Res := pe s (fun x r => fireAlu x 0x1A t (fun a b => if a.ult b then a else b) r)
def execMaxu (t : Ti) (s : State) : Res := pe s (fun x r => fireAlu x 0x1B t (fun a b => if a.ult b then b else a) r)
def execBext (t : Ti) (s : State) : Res := pe s (fun x r => fireAlu x 0x1C t bext r)
/-- BINS consumes the old destination too (R147, R151). -/
def execBins (t : Ti) (s : State) : Res :=
  pe s (fun x r => fireScalar x 0x1D t (fun _ o =>
    if o.a.pois || o.b.pois || o.d.pois then .error poisonTrap
    else .ok ({ bits := bins o.d.bits o.a.bits o.b.bits }, bins o.d.bits o.a.bits o.b.bits != 0)) r)
/-- SEL: the predicate chooses; the operand not selected is read and its poison ignored (R152). -/
def execSel (t : Ti) (s : State) : Res :=
  pe s (fun x r => fireScalar x 0x1E t (fun r o =>
    let v := if predOf (r.ct x.key) (t.imm.toNat % 16) then o.a else o.b
    .ok (v, condNz v)) r)
/-- MAC: old destination plus the product (R150); it consumes the old destination (R147). -/
def execMac (t : Ti) (s : State) : Res :=
  pe s (fun x r => fireLongVal x 0x1F t 3 (fun o =>
    if o.a.pois || o.b.pois || o.d.pois then .error poisonTrap
    else .ok { bits := o.d.bits + o.a.bits * o.b.bits }) r)
def execCmpeq (t : Ti) (s : State) : Res := pe s (fun x r => fireCmp x 0x20 t (fun a b => a == b) r)
def execCmpne (t : Ti) (s : State) : Res := pe s (fun x r => fireCmp x 0x21 t (fun a b => a != b) r)
def execCmplt (t : Ti) (s : State) : Res := pe s (fun x r => fireCmp x 0x22 t (fun a b => a.slt b) r)
def execCmpltu (t : Ti) (s : State) : Res := pe s (fun x r => fireCmp x 0x23 t (fun a b => a.ult b) r)
def execCmple (t : Ti) (s : State) : Res := pe s (fun x r => fireCmp x 0x24 t (fun a b => a.sle b) r)
def execCmpleu (t : Ti) (s : State) : Res := pe s (fun x r => fireCmp x 0x25 t (fun a b => a.ule b) r)
def execTstb (t : Ti) (s : State) : Res := pe s (fun x r => fireCmp x 0x26 t (fun a b => a.getLsbD (sh6 b)) r)
def execTstand (t : Ti) (s : State) : Res := pe s (fun x r => fireCmp x 0x27 t (fun a b => a &&& b != 0) r)
def execSext (t : Ti) (s : State) : Res := pe s (fun x r => fireAlu x 0x28 t sextN r)
def execZext (t : Ti) (s : State) : Res := pe s (fun x r => fireAlu x 0x29 t zextN r)

end Sys2Proof.Machine
end

