-- ==== Sys2Proof/Machine/Token.lean ====
section
/-! DEFINITION. Token, counter, colour and predicate instructions, OPs 0x30-0x3F (R154-R172). -/

namespace Sys2Proof.Machine

/-- A single-cycle instruction that emits with a mark and a colour of its own. -/
def fireToken (x : At) (op : Nat) (t : Ti) (f : Region → Opnds → Except TrapInfo (Val × BitVec 2 × BitVec 10 × Bool)) (r : Region) : Region :=
  fire x op t (popsOf op t) (fun r =>
    match f r (opndsOf r x.key op t) with
    | .error e => .error e
    | .ok (v, m, c, cond) => .ok ((deliverS x.fc r x.key op t v m c).updCt x.key (fun ct => predUpd ct t cond))) r

/-- Head token of SA's channel. -/
def aHead (r : Region) (key op : Nat) (t : Ti) : Token :=
  match aChan op t with
  | some (c, _) => (r.head key c).getD {}
  | none => {}

/-- The low byte of a control token is a hardware code (R114, R158). -/
def reservedCode (v : Val) : Bool := decide (0xF0 ≤ v.bits.toNat % 256)
def ctrlTrap (v : Val) : TrapInfo := { code := 0x16, aux := v.bits.toNat }

/-- FWD (R155). -/
def execFwd (t : Ti) (s : State) : Res :=
  pe s (fun x r => fireToken x 0x30 t (fun r o =>
    let k := t.imm.getLsbD 0
    if !k && t.om == mkC && reservedCode o.a then .error (ctrlTrap o.a)
    else .ok (o.a, if k then (aHead r x.key 0x30 t).mark else t.om, colourOf r x.key 0x30 t, condNz o.a)) r)
/-- DROP (R156). -/
def execDrop (t : Ti) (s : State) : Res := pe s (fun x r => fireScalar x 0x31 t (fun _ _ => .ok ({}, false)) r)
/-- MARK (R157). -/
def execMark (t : Ti) (s : State) : Res :=
  pe s (fun x r => fireScalar x 0x32 t (fun r _ =>
    let v : Val := { bits := (aHead r x.key 0x32 t).mark.zeroExtend 64 }
    .ok (v, condNz v)) r)
/-- EMITC (R158). -/
def execEmitc (t : Ti) (s : State) : Res :=
  pe s (fun x r => fireToken x 0x33 t (fun r o =>
    if reservedCode o.a then .error (ctrlTrap o.a)
    else .ok (o.a, mkC, colourOf r x.key 0x33 t, condNz o.a)) r)
/-- JOIN (R159). -/
def execJoin (t : Ti) (s : State) : Res :=
  pe s (fun x r => fireScalar x 0x34 t (fun _ o =>
    .ok ({ bits := o.a.bits, pois := o.a.pois || o.b.pois }, o.a.bits == o.b.bits)) r)

/-- CNTSET's counter after the write, by OPN (R160). -/
def cntset (c : Ct) (n opn : Nat) (a : Word) : Ctr :=
  let v : BitVec 32 := BitVec.ofNat 32 (a.toNat % kLim (tget c.kcfg 0 n))
  match opn with
  | 0 => if (kGet c n).run then { val := v, run := true } else { val := 0, run := false }
  | 1 => { val := v, run := true }
  | _ => { val := 0, run := false }

/-- CNTSET (R160). -/
def execCntset (t : Ti) (s : State) : Res :=
  pe s (fun x r => fire x 0x35 t (popsOf 0x35 t) (fun r =>
    let o := opndsOf r x.key 0x35 t
    if o.a.pois then .error poisonTrap
    else
      let n := t.imm.toNat % 4
      let k := cntset (r.ct x.key) n (t.imm.toNat / 4) o.a.bits
      .ok (r.updCt x.key (fun c => predUpd { c with k := tset c.k n k } t (k.val != 0)))) r)
/-- CNTINC: one increment with its carries and finish pulse; r is whether it wrapped (R161). -/
def execCntinc (t : Ti) (s : State) : Res :=
  pe s (fun x r => fire x 0x36 t [] (fun r =>
    let (r', w) := Region.kInc 4 r x.key (t.imm.toNat % 4)
    .ok (r'.updCt x.key (fun c => predUpd c t w))) r)
/-- CNTRD (R162). -/
def execCntrd (t : Ti) (s : State) : Res :=
  pe s (fun x r => fireScalar x 0x37 t (fun r _ =>
    let v : Val := { bits := (kGet (r.ct x.key) (t.imm.toNat % 4)).val.zeroExtend 64 }
    .ok (v, condNz v)) r)

/-- SPAWN (R164): the granted colour becomes LIVE with the source's colour as parent, at the end of the fc. -/
def execSpawn (t : Ti) (s : State) : Res :=
  pe s (fun x r => fire x 0x38 t (popsOf 0x38 t) (fun r =>
    let o := opndsOf r x.key 0x38 t
    let c := tget r.grants 0 (x.key * 16 + x.slot)
    let par := colourOf r x.key 0x38 t
    let r := { r with pool := r.pool.erase c, colEnd := r.colEnd ++ [(c, ({ st := .live, par := par } : Colour))] }
    let r := r.updCt x.key (fun ct => setG ct 13 { bits := BitVec.ofNat 64 c })
    .ok ((deliverS x.fc r x.key 0x38 t o.a t.om (BitVec.ofNat 10 c)).updCt x.key (fun ct => predUpd ct t (condNz o.a)))) r)
/-- SENDC (R166). -/
def execSendc (t : Ti) (s : State) : Res :=
  pe s (fun x r => fireToken x 0x39 t (fun _ o =>
    if o.b.pois then .error poisonTrap
    else .ok (o.a, t.om, o.b.bits.truncate 10, condNz o.a)) r)
/-- CRET (R167). -/
def execCret (t : Ti) (s : State) : Res :=
  pe s (fun x r => fire x 0x3A t (popsOf 0x3A t) (fun r =>
    let o := opndsOf r x.key 0x3A t
    let c := (colourOf r x.key 0x3A t).toNat
    let col := tget r.cols {} c
    let live := decide (c ≠ 0) && col.st == .live
    let r := if live then { r with colEnd := r.colEnd ++ [(c, ({ col with st := .clearing } : Colour))] } else r
    .ok ((deliverS x.fc r x.key 0x3A t o.a t.om (if live then col.par else 0)).updCt x.key (fun ct => predUpd ct t (condNz o.a)))) r)
/-- COLR (R157). -/
def execColr (t : Ti) (s : State) : Res :=
  pe s (fun x r => fireScalar x 0x3B t (fun r _ =>
    let v : Val := { bits := (colourOf r x.key 0x3B t).zeroExtend 64 }
    .ok (v, condNz v)) r)

/-- All predicates as a word, pn in bit n (R169). -/
def predWord (c : Ct) : Word :=
  BitVec.ofNat 64 (c.p.toNat + 2 ^ 12 * ((List.range 4).foldr (fun n acc => (if kFlag c n then 1 else 0) + 2 * acc) 0))

/-- PRD (R169). -/
def execPrd (t : Ti) (s : State) : Res :=
  pe s (fun x r => fireScalar x 0x3C t (fun r _ =>
    let v : Val := { bits := predWord (r.ct x.key) }
    .ok (v, condNz v)) r)
/-- PWR: predicates under the mask, but for pending ones (R170). -/
def execPwr (t : Ti) (s : State) : Res :=
  pe s (fun x r => fire x 0x3D t (popsOf 0x3D t) (fun r =>
    let o := opndsOf r x.key 0x3D t
    if o.a.pois || o.b.pois then .error poisonTrap
    else .ok (r.updCt x.key (fun c =>
      let m : BitVec 12 := o.b.bits.truncate 12 &&& ~~~c.pp
      { c with p := (c.p &&& ~~~m) ||| (o.a.bits.truncate 12 &&& m) }))) r)
/-- DONE (R171). DESIGN CHOICE (log 50): DONE has no result and no test, so its cond under PUO 01 is 0; the rule gives none. -/
def execDone (t : Ti) (s : State) : Res :=
  pe s (fun x r => fire x 0x3E t (popsOf 0x3E t) (fun r =>
    let r := { r with doneC := if r.doneN == 0 then r.doneC else Nat.min (r.doneC + 1) r.doneN }
    .ok (r.updCt x.key (fun c => predUpd c t false))) r)
/-- TRAP raises SW_TRAP and cancels its firing (R172). -/
def execTrap (t : Ti) (s : State) : Res :=
  pe s (fun x r => fire x 0x3F t [] (fun r =>
    .error { code := 0x40, elem := t.imm.toNat, va := (opndsOf r x.key 0x3F t).a.bits.toNat }) r)

end Sys2Proof.Machine
end

