-- ==== Sys2Proof/Machine/Dispatch.lean ====
section
/-! DEFINITION. One arm for each instruction: a direct call of its meaning. -/

namespace Sys2Proof.Machine

def exec (i : Instr) (s : State) : Host.Outcome State Fault Refusal :=
  match i with
  | .nop t => Sys2Proof.Machine.execNop t s
  | .mov t => Sys2Proof.Machine.execMov t s
  | .add t => Sys2Proof.Machine.execAdd t s
  | .sub t => Sys2Proof.Machine.execSub t s
  | .addw t => Sys2Proof.Machine.execAddw t s
  | .subw t => Sys2Proof.Machine.execSubw t s
  | .mul t => Sys2Proof.Machine.execMul t s
  | .mulh t => Sys2Proof.Machine.execMulh t s
  | .mulhu t => Sys2Proof.Machine.execMulhu t s
  | .div t => Sys2Proof.Machine.execDiv t s
  | .divu t => Sys2Proof.Machine.execDivu t s
  | .rem t => Sys2Proof.Machine.execRem t s
  | .remu t => Sys2Proof.Machine.execRemu t s
  | .and t => Sys2Proof.Machine.execAnd t s
  | .or t => Sys2Proof.Machine.execOr t s
  | .xor t => Sys2Proof.Machine.execXor t s
  | .andn t => Sys2Proof.Machine.execAndn t s
  | .shl t => Sys2Proof.Machine.execShl t s
  | .shr t => Sys2Proof.Machine.execShr t s
  | .sar t => Sys2Proof.Machine.execSar t s
  | .rol t => Sys2Proof.Machine.execRol t s
  | .clz t => Sys2Proof.Machine.execClz t s
  | .ctz t => Sys2Proof.Machine.execCtz t s
  | .popc t => Sys2Proof.Machine.execPopc t s
  | .min t => Sys2Proof.Machine.execMin t s
  | .max t => Sys2Proof.Machine.execMax t s
  | .minu t => Sys2Proof.Machine.execMinu t s
  | .maxu t => Sys2Proof.Machine.execMaxu t s
  | .bext t => Sys2Proof.Machine.execBext t s
  | .bins t => Sys2Proof.Machine.execBins t s
  | .sel t => Sys2Proof.Machine.execSel t s
  | .mac t => Sys2Proof.Machine.execMac t s
  | .cmpeq t => Sys2Proof.Machine.execCmpeq t s
  | .cmpne t => Sys2Proof.Machine.execCmpne t s
  | .cmplt t => Sys2Proof.Machine.execCmplt t s
  | .cmpltu t => Sys2Proof.Machine.execCmpltu t s
  | .cmple t => Sys2Proof.Machine.execCmple t s
  | .cmpleu t => Sys2Proof.Machine.execCmpleu t s
  | .tstb t => Sys2Proof.Machine.execTstb t s
  | .tstand t => Sys2Proof.Machine.execTstand t s
  | .sext t => Sys2Proof.Machine.execSext t s
  | .zext t => Sys2Proof.Machine.execZext t s
  | .fwd t => Sys2Proof.Machine.execFwd t s
  | .drop t => Sys2Proof.Machine.execDrop t s
  | .mark t => Sys2Proof.Machine.execMark t s
  | .emitc t => Sys2Proof.Machine.execEmitc t s
  | .join t => Sys2Proof.Machine.execJoin t s
  | .cntset t => Sys2Proof.Machine.execCntset t s
  | .cntinc t => Sys2Proof.Machine.execCntinc t s
  | .cntrd t => Sys2Proof.Machine.execCntrd t s
  | .spawn t => Sys2Proof.Machine.execSpawn t s
  | .sendc t => Sys2Proof.Machine.execSendc t s
  | .cret t => Sys2Proof.Machine.execCret t s
  | .colr t => Sys2Proof.Machine.execColr t s
  | .prd t => Sys2Proof.Machine.execPrd t s
  | .pwr t => Sys2Proof.Machine.execPwr t s
  | .done t => Sys2Proof.Machine.execDone t s
  | .trap t => Sys2Proof.Machine.execTrap t s
  | .faddD t => Sys2Proof.Machine.execFaddD t s
  | .fsubD t => Sys2Proof.Machine.execFsubD t s
  | .fmulD t => Sys2Proof.Machine.execFmulD t s
  | .ffmaD t => Sys2Proof.Machine.execFfmaD t s
  | .fminD t => Sys2Proof.Machine.execFminD t s
  | .fmaxD t => Sys2Proof.Machine.execFmaxD t s
  | .fdivD t => Sys2Proof.Machine.execFdivD t s
  | .fsqrtD t => Sys2Proof.Machine.execFsqrtD t s
  | .faddS t => Sys2Proof.Machine.execFaddS t s
  | .fsubS t => Sys2Proof.Machine.execFsubS t s
  | .fmulS t => Sys2Proof.Machine.execFmulS t s
  | .ffmaS t => Sys2Proof.Machine.execFfmaS t s
  | .fminS t => Sys2Proof.Machine.execFminS t s
  | .fmaxS t => Sys2Proof.Machine.execFmaxS t s
  | .fdivS t => Sys2Proof.Machine.execFdivS t s
  | .fsqrtS t => Sys2Proof.Machine.execFsqrtS t s
  | .fcmpeq t => Sys2Proof.Machine.execFcmpeq t s
  | .fcmplt t => Sys2Proof.Machine.execFcmplt t s
  | .fcmple t => Sys2Proof.Machine.execFcmple t s
  | .fcmpun t => Sys2Proof.Machine.execFcmpun t s
  | .fcvt t => Sys2Proof.Machine.execFcvt t s
  | .fcvti t => Sys2Proof.Machine.execFcvti t s
  | .icvtf t => Sys2Proof.Machine.execIcvtf t s
  | .fexp2S t => Sys2Proof.Machine.execFexp2S t s
  | .flog2S t => Sys2Proof.Machine.execFlog2S t s
  | .frcpS t => Sys2Proof.Machine.execFrcpS t s
  | .frsqS t => Sys2Proof.Machine.execFrsqS t s
  | .fclass t => Sys2Proof.Machine.execFclass t s
  | .vadd t => Sys2Proof.Machine.execVadd t s
  | .vsub t => Sys2Proof.Machine.execVsub t s
  | .vmul t => Sys2Proof.Machine.execVmul t s
  | .vfma t => Sys2Proof.Machine.execVfma t s
  | .vmin t => Sys2Proof.Machine.execVmin t s
  | .vmax t => Sys2Proof.Machine.execVmax t s
  | .vabs t => Sys2Proof.Machine.execVabs t s
  | .vneg t => Sys2Proof.Machine.execVneg t s
  | .vexp2 t => Sys2Proof.Machine.execVexp2 t s
  | .vrcp t => Sys2Proof.Machine.execVrcp t s
  | .vrsq t => Sys2Proof.Machine.execVrsq t s
  | .vlog2 t => Sys2Proof.Machine.execVlog2 t s
  | .vcvt t => Sys2Proof.Machine.execVcvt t s
  | .vredsum t => Sys2Proof.Machine.execVredsum t s
  | .vredmax t => Sys2Proof.Machine.execVredmax t s
  | .vredmin t => Sys2Proof.Machine.execVredmin t s
  | .vand t => Sys2Proof.Machine.execVand t s
  | .vor t => Sys2Proof.Machine.execVor t s
  | .vxor t => Sys2Proof.Machine.execVxor t s
  | .vshl t => Sys2Proof.Machine.execVshl t s
  | .vshr t => Sys2Proof.Machine.execVshr t s
  | .vsar t => Sys2Proof.Machine.execVsar t s
  | .vcmpeq t => Sys2Proof.Machine.execVcmpeq t s
  | .vcmplt t => Sys2Proof.Machine.execVcmplt t s
  | .vcmple t => Sys2Proof.Machine.execVcmple t s
  | .vsel t => Sys2Proof.Machine.execVsel t s
  | .vbcast t => Sys2Proof.Machine.execVbcast t s
  | .vextr t => Sys2Proof.Machine.execVextr t s
  | .vins t => Sys2Proof.Machine.execVins t s
  | .vshuf t => Sys2Proof.Machine.execVshuf t s
  | .vpack t => Sys2Proof.Machine.execVpack t s
  | .vunpk t => Sys2Proof.Machine.execVunpk t s
  | .vlrec t => Sys2Proof.Machine.execVlrec t s
  | .vscan t => Sys2Proof.Machine.execVscan t s
  | .vmov t => Sys2Proof.Machine.execVmov t s
  | .vld t => Sys2Proof.Machine.execVld t s
  | .vst t => Sys2Proof.Machine.execVst t s
  | .mma t => Sys2Proof.Machine.execMma t s
  | .mmas t => Sys2Proof.Machine.execMmas t s
  | .mmax t => Sys2Proof.Machine.execMmax t s
  | .accz t => Sys2Proof.Machine.execAccz t s
  | .accrd t => Sys2Proof.Machine.execAccrd t s
  | .accwr t => Sys2Proof.Machine.execAccwr t s
  | .accscl t => Sys2Proof.Machine.execAccscl t s
  | .accadd t => Sys2Proof.Machine.execAccadd t s
  | .ld t => Sys2Proof.Machine.execLd t s
  | .st t => Sys2Proof.Machine.execSt t s
  | .ldw t => Sys2Proof.Machine.execLdw t s
  | .stw t => Sys2Proof.Machine.execStw t s
  | .ldp t => Sys2Proof.Machine.execLdp t s
  | .stp t => Sys2Proof.Machine.execStp t s
  | .clrp t => Sys2Proof.Machine.execClrp t s
  | .ldne t => Sys2Proof.Machine.execLdne t s
  | .atadd t => Sys2Proof.Machine.execAtadd t s
  | .atmin t => Sys2Proof.Machine.execAtmin t s
  | .atmax t => Sys2Proof.Machine.execAtmax t s
  | .atand t => Sys2Proof.Machine.execAtand t s
  | .ator t => Sys2Proof.Machine.execAtor t s
  | .atxor t => Sys2Proof.Machine.execAtxor t s
  | .atxchg t => Sys2Proof.Machine.execAtxchg t s
  | .atcas t => Sys2Proof.Machine.execAtcas t s
  | .redadd t => Sys2Proof.Machine.execRedadd t s
  | .redfadd t => Sys2Proof.Machine.execRedfadd t s
  | .gath t => Sys2Proof.Machine.execGath t s
  | .scat t => Sys2Proof.Machine.execScat t s
  | .hwait t => Sys2Proof.Machine.execHwait t s
  | .hrel t => Sys2Proof.Machine.execHrel t s
  | .hclm t => Sys2Proof.Machine.execHclm t s
  | .hfin t => Sys2Proof.Machine.execHfin t s
  | .hstat t => Sys2Proof.Machine.execHstat t s
  | .fence t => Sys2Proof.Machine.execFence t s
  | .wreg t => Sys2Proof.Machine.execWreg t s
  | .whold t => Sys2Proof.Machine.execWhold t s
  | .wdrop t => Sys2Proof.Machine.execWdrop t s
  | .barr t => Sys2Proof.Machine.execBarr t s
  | .mlock t => Sys2Proof.Machine.execMlock t s
  | .munlk t => Sys2Proof.Machine.execMunlk t s
  | .eqpush t => Sys2Proof.Machine.execEqpush t s
  | .eqflush t => Sys2Proof.Machine.execEqflush t s
  | .eqstat t => Sys2Proof.Machine.execEqstat t s
  | .eqpri t => Sys2Proof.Machine.execEqpri t s
  | .nlbin t => Sys2Proof.Machine.execNlbin t s
  | .nlsweep t => Sys2Proof.Machine.execNlsweep t s
  | .nlmove t => Sys2Proof.Machine.execNlmove t s
  | .nlstat t => Sys2Proof.Machine.execNlstat t s
  | .nlclr t => Sys2Proof.Machine.execNlclr t s
  | .scopy t => Sys2Proof.Machine.execScopy t s
  | .scstat t => Sys2Proof.Machine.execScstat t s
  | .qenq t => Sys2Proof.Machine.execQenq t s
  | .qdeq t => Sys2Proof.Machine.execQdeq t s
  | .qsteal t => Sys2Proof.Machine.execQsteal t s
  | .sysc t => Sys2Proof.Machine.execSysc t s
  | .brk t => Sys2Proof.Machine.execBrk t s
  | .cfgsw t => Sys2Proof.Machine.execCfgsw t s
  | .rdcyc t => Sys2Proof.Machine.execRdcyc t s
  | .crnFload x => Sys2Proof.Machine.execCrnFload x s
  | .crnFkill x => Sys2Proof.Machine.execCrnFkill x s
  | .crnFshadow x => Sys2Proof.Machine.execCrnFshadow x s
  | .crnFswap x => Sys2Proof.Machine.execCrnFswap x s
  | .crnFrun x => Sys2Proof.Machine.execCrnFrun x s
  | .crnFhalt x => Sys2Proof.Machine.execCrnFhalt x s
  | .crnFmark x => Sys2Proof.Machine.execCrnFmark x s
  | .crnFscan x => Sys2Proof.Machine.execCrnFscan x s
  | .crnFrest x => Sys2Proof.Machine.execCrnFrest x s
  | .crnFmove x => Sys2Proof.Machine.execCrnFmove x s
  | .crnFpatch x => Sys2Proof.Machine.execCrnFpatch x s
  | .crnFinval x => Sys2Proof.Machine.execCrnFinval x s
  | .crnFtok x => Sys2Proof.Machine.execCrnFtok x s
  | .crnFinject x => Sys2Proof.Machine.execCrnFinject x s
  | .crnFstat x => Sys2Proof.Machine.execCrnFstat x s
  | .crnFpar x => Sys2Proof.Machine.execCrnFpar x s
  | .crnWftrd x => Sys2Proof.Machine.execCrnWftrd x s
  | .crnWftclr x => Sys2Proof.Machine.execCrnWftclr x s
  | .crnfrecWrite c => Sys2Proof.Machine.execCrnfrecWrite c s
  | .hcrnpmapWrite c => Sys2Proof.Machine.execHcrnpmapWrite c s
  | .csrWrite c => Sys2Proof.Machine.execCsrWrite c s
  | .longOpComplete rid tile op => Sys2Proof.Machine.execLongOpComplete rid tile op s
  | .tensorComplete rid tile op => Sys2Proof.Machine.execTensorComplete rid tile op s
  | .homeAccess rid acc => Sys2Proof.Machine.execHomeAccess rid acc s
  | .deferralAdmit rid acc => Sys2Proof.Machine.execDeferralAdmit rid acc s
  | .queueControllerOp rid acc => Sys2Proof.Machine.execQueueControllerOp rid acc s
  | .tokenArrival rid tile inp => Sys2Proof.Machine.execTokenArrival rid tile inp s
  | .weltTokenArrival rid tile inp tok => Sys2Proof.Machine.execWeltTokenArrival rid tile inp tok s
  | .weltCredit rid tile out => Sys2Proof.Machine.execWeltCredit rid tile out s
  | .controlPulse rid tile ci => Sys2Proof.Machine.execControlPulse rid tile ci s
  | .waitRegister rid tile slot => Sys2Proof.Machine.execWaitRegister rid tile slot s
  | .cycleConfirm cyc => Sys2Proof.Machine.execCycleConfirm cyc s
  | .colourClearDone rid col => Sys2Proof.Machine.execColourClearDone rid col s
  | .frameFiring rid tile => Sys2Proof.Machine.execFrameFiring rid tile s
  | .frameForward rid tile => Sys2Proof.Machine.execFrameForward rid tile s
  | .frameStore rid tile inp => Sys2Proof.Machine.execFrameStore rid tile inp s
  | .runComplete rid => Sys2Proof.Machine.execRunComplete rid s
  | .replayStart rid => Sys2Proof.Machine.execReplayStart rid s
  | .streamStart rid ctx => Sys2Proof.Machine.execStreamStart rid ctx s
  | .boxStart rid ctx => Sys2Proof.Machine.execBoxStart rid ctx s
  | .streamElement rid ctx => Sys2Proof.Machine.execStreamElement rid ctx s
  | .extentRefill rid ctx => Sys2Proof.Machine.execExtentRefill rid ctx s
  | .boxComplete rid ctx box => Sys2Proof.Machine.execBoxComplete rid ctx box s
  | .streamCompletionWord rid ctx => Sys2Proof.Machine.execStreamCompletionWord rid ctx s
  | .writeStreamTake rid ctx => Sys2Proof.Machine.execWriteStreamTake rid ctx s
  | .tapArrival rid ctx => Sys2Proof.Machine.execTapArrival rid ctx s
  | .copyStart rid tile op => Sys2Proof.Machine.execCopyStart rid tile op s
  | .copyComplete rid ctx => Sys2Proof.Machine.execCopyComplete rid ctx s
  | .fifoTake rid tile => Sys2Proof.Machine.execFifoTake rid tile s
  | .fifoGive rid tile => Sys2Proof.Machine.execFifoGive rid tile s
  | .lineToken rid tile => Sys2Proof.Machine.execLineToken rid tile s
  | .gathMtGather rid tile => Sys2Proof.Machine.execGathMtGather rid tile s
  | .gathMtScatter rid tile => Sys2Proof.Machine.execGathMtScatter rid tile s
  | .gathMtOrderingToken rid tile => Sys2Proof.Machine.execGathMtOrderingToken rid tile s
  | .suuUpdate rid tile sel => Sys2Proof.Machine.execSuuUpdate rid tile sel s
  | .compTileRecord rid tile => Sys2Proof.Machine.execCompTileRecord rid tile s
  | .exqPushAccept rid acc => Sys2Proof.Machine.execExqPushAccept rid acc s
  | .queueAged rid tile q => Sys2Proof.Machine.execQueueAged rid tile q s
  | .exqChoose rid tile => Sys2Proof.Machine.execExqChoose rid tile s
  | .exqBatchToken rid tile => Sys2Proof.Machine.execExqBatchToken rid tile s
  | .exqFlushToken rid tile => Sys2Proof.Machine.execExqFlushToken rid tile s
  | .exqRingRefill rid tile => Sys2Proof.Machine.execExqRingRefill rid tile s
  | .excPair rid tile => Sys2Proof.Machine.execExcPair rid tile s
  | .excEmit rid tile => Sys2Proof.Machine.execExcEmit rid tile s
  | .excEnd rid tile => Sys2Proof.Machine.execExcEnd rid tile s
  | .nleTakeOp rid eng => Sys2Proof.Machine.execNleTakeOp rid eng s
  | .nlePairToken rid eng dst => Sys2Proof.Machine.execNlePairToken rid eng dst s
  | .nlstatArrive rid eng op => Sys2Proof.Machine.execNlstatArrive rid eng op s
  | .swapTake rid tile inp => Sys2Proof.Machine.execSwapTake rid tile inp s
  | .swapDiscard rid tile inp => Sys2Proof.Machine.execSwapDiscard rid tile inp s
  | .markerTake rid tile => Sys2Proof.Machine.execMarkerTake rid tile s
  | .markerEmit rid tile => Sys2Proof.Machine.execMarkerEmit rid tile s
  | .pmarkLogEnd rid tile inp => Sys2Proof.Machine.execPmarkLogEnd rid tile inp s
  | .pmarkLateInject rid => Sys2Proof.Machine.execPmarkLateInject rid s
  | .markDrainComplete rid => Sys2Proof.Machine.execMarkDrainComplete rid s
  | .drainTimeout rid => Sys2Proof.Machine.execDrainTimeout rid s
  | .freezeStop rid => Sys2Proof.Machine.execFreezeStop rid s
  | .regionSettled rid => Sys2Proof.Machine.execRegionSettled rid s
  | .faultRecordDeliver h vs => Sys2Proof.Machine.execFaultRecordDeliver h vs s
  | .faultInterrupt h => Sys2Proof.Machine.execFaultInterrupt h s
  | .focInterrupt h => Sys2Proof.Machine.execFocInterrupt h s
  | .softError target => Sys2Proof.Machine.execSoftError target s
  | .loadComplete rid => Sys2Proof.Machine.execLoadComplete rid s
  | .shadowLoadComplete rid => Sys2Proof.Machine.execShadowLoadComplete rid s
  | .scanOutComplete rid => Sys2Proof.Machine.execScanOutComplete rid s
  | .restoreComplete rid => Sys2Proof.Machine.execRestoreComplete rid s
  | .moveComplete rid => Sys2Proof.Machine.execMoveComplete rid s
  | .scrubComplete rid => Sys2Proof.Machine.execScrubComplete rid s
  | .launchTailWrite part q tail => Sys2Proof.Machine.execLaunchTailWrite part q tail s
  | .launchTake part => Sys2Proof.Machine.execLaunchTake part s
  | .compaction part => Sys2Proof.Machine.execCompaction part s
  | .autoMove rid => Sys2Proof.Machine.execAutoMove rid s
  | .budgetExpiry rid => Sys2Proof.Machine.execBudgetExpiry rid s
  | .sliceSwitch rid => Sys2Proof.Machine.execSliceSwitch rid s
  | .sliceCutTimeout rid => Sys2Proof.Machine.execSliceCutTimeout rid s
  | .stageYield rid => Sys2Proof.Machine.execStageYield rid s
  | .groupEnd rid => Sys2Proof.Machine.execGroupEnd rid s
  | .heatAccount rid ctx => Sys2Proof.Machine.execHeatAccount rid ctx s
  | .heatEpochEnd part => Sys2Proof.Machine.execHeatEpochEnd part s
  | .migrationRequest part => Sys2Proof.Machine.execMigrationRequest part s
  | .migrationStart part => Sys2Proof.Machine.execMigrationStart part s
  | .migrationDrained part => Sys2Proof.Machine.execMigrationDrained part s
  | .migrationCopyDone part => Sys2Proof.Machine.execMigrationCopyDone part s
  | .peerRequest link req => Sys2Proof.Machine.execPeerRequest link req s
  | .peerAck link tag ans => Sys2Proof.Machine.execPeerAck link tag ans s
  | .linkTrain link switched far => Sys2Proof.Machine.execLinkTrain link switched far s
  | .linkLoss link => Sys2Proof.Machine.execLinkLoss link s
  | .noRouteFlit link dev => Sys2Proof.Machine.execNoRouteFlit link dev s
  | .partSet => Sys2Proof.Machine.execPartSet s
  | .partGet => Sys2Proof.Machine.execPartGet s
  | .partSeal => Sys2Proof.Machine.execPartSeal s
  | .partReset => Sys2Proof.Machine.execPartReset s
  | .linkGet => Sys2Proof.Machine.execLinkGet s
  | .attReport => Sys2Proof.Machine.execAttReport s
  | .attExtend => Sys2Proof.Machine.execAttExtend s
  | .icmpv6Frame port frame => Sys2Proof.Machine.execIcmpv6Frame port frame s
  | .khrOpen k => Sys2Proof.Machine.execKhrOpen k s
  | .khrClose k => Sys2Proof.Machine.execKhrClose k s
  | .khrLaunch k => Sys2Proof.Machine.execKhrLaunch k s
  | .khrReplay k => Sys2Proof.Machine.execKhrReplay k s
  | .khrCopyin k => Sys2Proof.Machine.execKhrCopyin k s
  | .khrCopyout k => Sys2Proof.Machine.execKhrCopyout k s
  | .khrEvsub k => Sys2Proof.Machine.execKhrEvsub k s
  | .khrSrvreg k => Sys2Proof.Machine.execKhrSrvreg k s
  | .khrFileResponse k call status data => Sys2Proof.Machine.execKhrFileResponse k call status data s
  | .khrPcfg k => Sys2Proof.Machine.execKhrPcfg k s
  | .khrVfreset k => Sys2Proof.Machine.execKhrVfreset k s
  | .ckptConfig k => Sys2Proof.Machine.execCkptConfig k s
  | .ckptQuiesce k => Sys2Proof.Machine.execCkptQuiesce k s
  | .ckptWrite k => Sys2Proof.Machine.execCkptWrite k s
  | .ckptResume k => Sys2Proof.Machine.execCkptResume k s
  | .ckptStatus k => Sys2Proof.Machine.execCkptStatus k s
  | .ckptRestore k => Sys2Proof.Machine.execCkptRestore k s
  | .fopen rid tile op => Sys2Proof.Machine.execFopen rid tile op s
  | .fread rid tile op => Sys2Proof.Machine.execFread rid tile op s
  | .fwrite rid tile op => Sys2Proof.Machine.execFwrite rid tile op s
  | .fclose rid tile op => Sys2Proof.Machine.execFclose rid tile op s
  | .fsize rid tile op => Sys2Proof.Machine.execFsize rid tile op s
  | .sconnect rid tile op => Sys2Proof.Machine.execSconnect rid tile op s
  | .slisten rid tile op => Sys2Proof.Machine.execSlisten rid tile op s
  | .saccept rid tile op => Sys2Proof.Machine.execSaccept rid tile op s
  | .sclose rid tile op => Sys2Proof.Machine.execSclose rid tile op s
  | .mzero rid tile op => Sys2Proof.Machine.execMzero rid tile op s
  | .mheat rid tile op => Sys2Proof.Machine.execMheat rid tile op s
  | .fileServerTimeout part call => Sys2Proof.Machine.execFileServerTimeout part call s
  | .connTxSend part conn => Sys2Proof.Machine.execConnTxSend part conn s
  | .connRxDeliver part conn bytes => Sys2Proof.Machine.execConnRxDeliver part conn bytes s
  | .connPeerFin part conn => Sys2Proof.Machine.execConnPeerFin part conn s
  | .connReset part conn rst => Sys2Proof.Machine.execConnReset part conn rst s
  | .mgmtReadDescriptor part => Sys2Proof.Machine.execMgmtReadDescriptor part s
  | .mgmtVfReset part scrub => Sys2Proof.Machine.execMgmtVfReset part scrub s
  | .mgmtDeviceReset dev => Sys2Proof.Machine.execMgmtDeviceReset dev s
  | .mgmtSetHypervisor ep cobs => Sys2Proof.Machine.execMgmtSetHypervisor ep cobs s
  | .pldmSensorRead sensor => Sys2Proof.Machine.execPldmSensorRead sensor s
  | .pldmPowerCap watts => Sys2Proof.Machine.execPldmPowerCap watts s
  | .pldmFruRead field => Sys2Proof.Machine.execPldmFruRead field s
  | .pldmFirmwareUpdate fw => Sys2Proof.Machine.execPldmFirmwareUpdate fw s
  | .pldmBase cmd => Sys2Proof.Machine.execPldmBase cmd s
  | .clockThrottle watts => Sys2Proof.Machine.execClockThrottle watts s
  | .power48vOn => Sys2Proof.Machine.execPower48vOn s
  | .powerEnable byPin => Sys2Proof.Machine.execPowerEnable byPin s
  | .powerStandby byPin => Sys2Proof.Machine.execPowerStandby byPin s
  | .power48vOff => Sys2Proof.Machine.execPower48vOff s
  | .resetN => Sys2Proof.Machine.execResetN s
  | .poisonedHartAccess h a => Sys2Proof.Machine.execPoisonedHartAccess h a s
  | .tcpPeerConnect part call refused => Sys2Proof.Machine.execTcpPeerConnect part call refused s

end Sys2Proof.Machine
end

