-- ==== Sys2Proof/Machine/RvInt.lean ====
section
/-! DEFINITION. RISC-V words of the harts (R318; log 10): fields and immediates, and the integer instructions that only write a register: RV64I,
M, Zba, Zbb, Zbs, Zicond. An encoding these functions answer `none` for is no instruction. -/

namespace Sys2Proof.Machine

/-! ## Fields of a word -/

def opRd (w : Word) : BitVec 5 := BitVec.ofNat 5 (fld w 11 7)
def opRs1 (w : Word) : BitVec 5 := BitVec.ofNat 5 (fld w 19 15)
def opRs2 (w : Word) : BitVec 5 := BitVec.ofNat 5 (fld w 24 20)
def opF3 (w : Word) : Nat := fld w 14 12
def opF7 (w : Word) : Nat := fld w 31 25
def immI (w : Word) : Word := sxTo 12 (fld w 31 20)
def immS (w : Word) : Word := sxTo 12 (fld w 31 25 * 32 + fld w 11 7)
def immB (w : Word) : Word := sxTo 13 (fld w 31 31 * 2 ^ 12 + fld w 7 7 * 2 ^ 11 + fld w 30 25 * 32 + fld w 11 8 * 2)
def immU (w : Word) : Word := sxTo 32 (fld w 31 12 * 2 ^ 12)
def immJ (w : Word) : Word := sxTo 21 (fld w 31 31 * 2 ^ 20 + fld w 19 12 * 2 ^ 12 + fld w 20 20 * 2 ^ 11 + fld w 30 21 * 2)

/-! ## Bit counts and bytes -/

/-- Leading and trailing zeros, and ones, of an n-bit number. -/
def clzN (n x : Nat) : Nat := ((List.range n).find? (fun i => x.testBit (n - 1 - i))).getD n
def ctzN (n x : Nat) : Nat := ((List.range n).find? (fun i => x.testBit i)).getD n
def popN (n x : Nat) : Nat := ((List.range n).filter (fun i => x.testBit i)).length
/-- A word made of its eight bytes. -/
def mapBytes (f : Nat → Nat) : Word := BitVec.ofNat 64 ((List.range 8).foldl (fun a i => a + f i % 256 * 2 ^ (8 * i)) 0)
def byteOf (x : Word) (i : Nat) : Nat := x.toNat / 2 ^ (8 * i) % 256

/-- A word whose low 32 bits are a result. -/
def res32 (n : Nat) : Word := sxTo 32 n
def low32 (x : Word) : Nat := x.toNat % 2 ^ 32
def rol64 (x : Word) (k : Nat) : Word := x <<< (k % 64) ||| x >>> ((64 - k % 64) % 64)
def rol32 (x : Word) (k : Nat) : Word := let a := low32 x; res32 (a * 2 ^ (k % 32) + a / 2 ^ (32 - k % 32))

/-! ## Multiply and divide -/

/-- Signed quotient towards zero and remainder of w-bit operands, with RISC-V's results for a divisor of 0 and for overflow. -/
def rvDiv (a b : Int) : Int := if b = 0 then -1 else Int.tdiv a b
def rvRem (a b : Int) : Int := if b = 0 then a else Int.tmod a b
def rvDivu (n a b : Nat) : Nat := if b = 0 then 2 ^ n - 1 else a / b
def rvRemu (a b : Nat) : Nat := if b = 0 then a else a % b

/-- M on words. -/
def mulOp (f3 : Nat) (a b : Word) : Word :=
  match f3 with
  | 0 => a * b
  | 1 => BitVec.ofInt 64 (a.toInt * b.toInt / 2 ^ 64)
  | 2 => BitVec.ofInt 64 (a.toInt * (b.toNat : Int) / 2 ^ 64)
  | 3 => BitVec.ofNat 64 (a.toNat * b.toNat / 2 ^ 64)
  | 4 => BitVec.ofInt 64 (rvDiv a.toInt b.toInt)
  | 5 => BitVec.ofNat 64 (rvDivu 64 a.toNat b.toNat)
  | 6 => BitVec.ofInt 64 (rvRem a.toInt b.toInt)
  | _ => BitVec.ofNat 64 (rvRemu a.toNat b.toNat)

/-- M on low halves. -/
def mulOpW (f3 : Nat) (a b : Word) : Option Word :=
  let x := (sxTo 32 a.toNat).toInt
  let y := (sxTo 32 b.toNat).toInt
  match f3 with
  | 0 => some (res32 (a.toNat * b.toNat))
  | 4 => some (sxTo 32 (BitVec.ofInt 64 (rvDiv x y)).toNat)
  | 5 => some (res32 (rvDivu 32 (low32 a) (low32 b)))
  | 6 => some (sxTo 32 (BitVec.ofInt 64 (rvRem x y)).toNat)
  | 7 => some (res32 (rvRemu (low32 a) (low32 b)))
  | _ => none

/-! ## Register and immediate operations -/

/-- OP: two registers. -/
def opReg (f7 f3 : Nat) (a b : Word) : Option Word :=
  let k := b.toNat % 64
  match f7, f3 with
  | 0x00, 0 => some (a + b)
  | 0x00, 1 => some (a <<< k)
  | 0x00, 2 => some (wofb (a.slt b))
  | 0x00, 3 => some (wofb (a.ult b))
  | 0x00, 4 => some (a ^^^ b)
  | 0x00, 5 => some (a >>> k)
  | 0x00, 6 => some (a ||| b)
  | 0x00, 7 => some (a &&& b)
  | 0x20, 0 => some (a - b)
  | 0x20, 5 => some (a.sshiftRight k)
  | 0x20, 4 => some (~~~(a ^^^ b))
  | 0x20, 6 => some (a ||| ~~~b)
  | 0x20, 7 => some (a &&& ~~~b)
  | 0x01, f => some (mulOp f a b)
  | 0x05, 4 => some (if a.slt b then a else b)
  | 0x05, 5 => some (if a.ult b then a else b)
  | 0x05, 6 => some (if a.slt b then b else a)
  | 0x05, 7 => some (if a.ult b then b else a)
  | 0x10, 2 => some ((a <<< 1) + b)
  | 0x10, 4 => some ((a <<< 2) + b)
  | 0x10, 6 => some ((a <<< 3) + b)
  | 0x30, 1 => some (rol64 a k)
  | 0x30, 5 => some (rol64 a (64 - k))
  | 0x14, 1 => some (a ||| ((1 : Word) <<< k))
  | 0x24, 1 => some (a &&& ~~~((1 : Word) <<< k))
  | 0x34, 1 => some (a ^^^ ((1 : Word) <<< k))
  | 0x24, 5 => some (wofb (bitOf a k))
  | 0x07, 5 => some (if b = 0 then 0 else a)
  | 0x07, 7 => some (if b = 0 then a else 0)
  | _, _ => none

/-- OP-32: two registers, low halves. -/
def opReg32 (f7 f3 rs2 : Nat) (a b : Word) : Option Word :=
  let k := b.toNat % 32
  let u := BitVec.ofNat 64 (low32 a)
  match f7, f3 with
  | 0x00, 0 => some (res32 (a + b).toNat)
  | 0x00, 1 => some (res32 (low32 a * 2 ^ k))
  | 0x00, 5 => some (res32 (low32 a / 2 ^ k))
  | 0x20, 0 => some (res32 (a - b).toNat)
  | 0x20, 5 => some ((sxTo 32 a.toNat).sshiftRight k)
  | 0x01, f => mulOpW f a b
  | 0x04, 0 => some (u + b)
  | 0x04, 4 => if rs2 = 0 then some (BitVec.ofNat 64 (a.toNat % 2 ^ 16)) else none
  | 0x10, 2 => some ((u <<< 1) + b)
  | 0x10, 4 => some ((u <<< 2) + b)
  | 0x10, 6 => some ((u <<< 3) + b)
  | 0x30, 1 => some (rol32 a k)
  | 0x30, 5 => some (rol32 a (32 - k))
  | _, _ => none

/-- OP-IMM: a register and an immediate; `top` is imm[11:6], `k` imm[5:0]. -/
def opImm (w : Word) (a : Word) : Option Word :=
  let i := immI w
  let top := fld w 31 26
  let k := fld w 25 20
  match opF3 w with
  | 0 => some (a + i)
  | 2 => some (wofb (a.slt i))
  | 3 => some (wofb (a.ult i))
  | 4 => some (a ^^^ i)
  | 6 => some (a ||| i)
  | 7 => some (a &&& i)
  | 1 =>
    (match top, k with
     | 0x00, _ => some (a <<< k)
     | 0x0A, _ => some (a ||| ((1 : Word) <<< k))
     | 0x12, _ => some (a &&& ~~~((1 : Word) <<< k))
     | 0x1A, _ => some (a ^^^ ((1 : Word) <<< k))
     | 0x18, 0 => some (BitVec.ofNat 64 (clzN 64 a.toNat))
     | 0x18, 1 => some (BitVec.ofNat 64 (ctzN 64 a.toNat))
     | 0x18, 2 => some (BitVec.ofNat 64 (popN 64 a.toNat))
     | 0x18, 4 => some (sxTo 8 a.toNat)
     | 0x18, 5 => some (sxTo 16 a.toNat)
     | _, _ => none)
  | _ =>
    (match top, k with
     | 0x00, _ => some (a >>> k)
     | 0x10, _ => some (a.sshiftRight k)
     | 0x18, _ => some (rol64 a (64 - k))
     | 0x12, _ => some (wofb (bitOf a k))
     | 0x0A, 7 => some (mapBytes (fun j => if byteOf a j = 0 then 0 else 255))
     | 0x1A, 0x38 => some (mapBytes (fun j => byteOf a (7 - j)))
     | _, _ => none)

/-- OP-IMM-32. -/
def opImm32 (w : Word) (a : Word) : Option Word :=
  let k := fld w 24 20
  match opF3 w, opF7 w with
  | 0, _ => some (res32 (a + immI w).toNat)
  | 1, 0x00 => some (res32 (low32 a * 2 ^ k))
  | 1, 0x04 => some (BitVec.ofNat 64 (low32 a) <<< k)
  | 1, 0x05 => some (BitVec.ofNat 64 (low32 a) <<< (k + 32))
  | 1, 0x30 =>
    (match k with
     | 0 => some (BitVec.ofNat 64 (clzN 32 (low32 a)))
     | 1 => some (BitVec.ofNat 64 (ctzN 32 (low32 a)))
     | 2 => some (BitVec.ofNat 64 (popN 32 (low32 a)))
     | _ => none)
  | 5, 0x00 => some (res32 (low32 a / 2 ^ k))
  | 5, 0x20 => some ((sxTo 32 a.toNat).sshiftRight k)
  | 5, 0x30 => some (rol32 a (32 - k))
  | _, _ => none

/-- The test of a branch. -/
def brTest (f3 : Nat) (a b : Word) : Option Bool :=
  match f3 with
  | 0 => some (a == b)
  | 1 => some (a != b)
  | 4 => some (a.slt b)
  | 5 => some (!a.slt b)
  | 6 => some (a.ult b)
  | 7 => some (!a.ult b)
  | _ => none

/-- The function of an AMO on n-byte operands, by funct5. -/
def amoFn (f5 n : Nat) (a b : Nat) : Option Nat :=
  let lt := (sxTo (8 * n) a).slt (sxTo (8 * n) b)
  match f5 with
  | 0x01 => some b
  | 0x00 => some ((a + b) % 2 ^ (8 * n))
  | 0x04 => some (a ^^^ b)
  | 0x0C => some (a &&& b)
  | 0x08 => some (a ||| b)
  | 0x10 => some (if lt then a else b)
  | 0x14 => some (if lt then b else a)
  | 0x18 => some (Nat.min a b)
  | 0x1C => some (Nat.max a b)
  | _ => none

end Sys2Proof.Machine
end

