-- ==== Sys2Proof/Machine/RvC.lean ====
section
/-! DEFINITION. Compressed instructions (C with Zcb and Zcmop, R318; log 10): the 32-bit word each stands for; none where it is no instruction. -/

namespace Sys2Proof.Machine

/-! ## Words from their fields -/

def encI (op f3 rd rs1 imm : Nat) : Nat := imm % 2 ^ 12 * 2 ^ 20 + rs1 * 2 ^ 15 + f3 * 2 ^ 12 + rd * 2 ^ 7 + op
def encS (op f3 rs1 rs2 imm : Nat) : Nat := imm / 32 % 2 ^ 7 * 2 ^ 25 + rs2 * 2 ^ 20 + rs1 * 2 ^ 15 + f3 * 2 ^ 12 + imm % 32 * 2 ^ 7 + op
def encR (op f7 f3 rd rs1 rs2 : Nat) : Nat := f7 * 2 ^ 25 + rs2 * 2 ^ 20 + rs1 * 2 ^ 15 + f3 * 2 ^ 12 + rd * 2 ^ 7 + op
def encB (f3 rs1 imm : Nat) : Nat :=
  imm / 2 ^ 12 % 2 * 2 ^ 31 + imm / 32 % 2 ^ 6 * 2 ^ 25 + rs1 * 2 ^ 15 + f3 * 2 ^ 12 + imm / 2 % 16 * 2 ^ 8 + imm / 2 ^ 11 % 2 * 2 ^ 7 + 0x63
def encJ (rd imm : Nat) : Nat :=
  imm / 2 ^ 20 % 2 * 2 ^ 31 + imm / 2 % 2 ^ 10 * 2 ^ 21 + imm / 2 ^ 11 % 2 * 2 ^ 20 + imm / 2 ^ 12 % 2 ^ 8 * 2 ^ 12 + rd * 2 ^ 7 + 0x6F

/-- An immediate gathered from bits of the instruction: (bit of the instruction, bit of the immediate). -/
def gather (c : Nat) (l : List (Nat × Nat)) : Nat := l.foldl (fun a p => a + c / 2 ^ p.1 % 2 * 2 ^ p.2) 0
/-- An n-bit immediate as the low 32 bits of its sign extension. -/
def sxImm (n x : Nat) : Nat := (sxTo n x).toNat % 2 ^ 32

def imm6 (c : Nat) : Nat := gather c [(2, 0), (3, 1), (4, 2), (5, 3), (6, 4), (12, 5)]
def immLw (c : Nat) : Nat := gather c [(6, 2), (10, 3), (11, 4), (12, 5), (5, 6)]
def immLd (c : Nat) : Nat := gather c [(10, 3), (11, 4), (12, 5), (5, 6), (6, 7)]

/-! ## The quadrants -/

def expandC0 (c : Nat) : Option Nat :=
  let rd := 8 + c / 4 % 8
  let rs := 8 + c / 128 % 8
  match c / 2 ^ 13 with
  | 0 =>
    let i := gather c [(6, 2), (5, 3), (11, 4), (12, 5), (7, 6), (8, 7), (9, 8), (10, 9)]
    if i = 0 then none else some (encI 0x13 0 rd 2 i)
  | 1 => some (encI 0x07 3 rd rs (immLd c))
  | 2 => some (encI 0x03 2 rd rs (immLw c))
  | 3 => some (encI 0x03 3 rd rs (immLd c))
  | 4 =>
    let b := gather c [(6, 0), (5, 1)]
    let h := gather c [(5, 1)]
    (match c / 2 ^ 10 % 8 with
     | 0 => some (encI 0x03 4 rd rs b)
     | 1 => some (encI 0x03 (if c / 64 % 2 = 0 then 5 else 1) rd rs h)
     | 2 => some (encS 0x23 0 rs rd b)
     | 3 => if c / 64 % 2 = 0 then some (encS 0x23 1 rs rd h) else none
     | _ => none)
  | 5 => some (encS 0x27 3 rs rd (immLd c))
  | 6 => some (encS 0x23 2 rs rd (immLw c))
  | _ => some (encS 0x23 3 rs rd (immLd c))

/-- Arithmetic on the short registers. -/
def expandAlu (c : Nat) : Option Nat :=
  let rd := 8 + c / 128 % 8
  let r2 := 8 + c / 4 % 8
  match c / 2 ^ 10 % 4 with
  | 0 => some (encI 0x13 5 rd rd (imm6 c))
  | 1 => some (encI 0x13 5 rd rd (0x400 + imm6 c))
  | 2 => some (encI 0x13 7 rd rd (sxImm 6 (imm6 c)))
  | _ =>
    match c / 2 ^ 12 % 2, c / 32 % 4 with
    | 0, 0 => some (encR 0x33 0x20 0 rd rd r2)
    | 0, 1 => some (encR 0x33 0 4 rd rd r2)
    | 0, 2 => some (encR 0x33 0 6 rd rd r2)
    | 0, 3 => some (encR 0x33 0 7 rd rd r2)
    | 1, 0 => some (encR 0x3B 0x20 0 rd rd r2)
    | 1, 1 => some (encR 0x3B 0 0 rd rd r2)
    | 1, 2 => some (encR 0x33 1 0 rd rd r2)
    | _, _ =>
      match c / 4 % 8 with
      | 0 => some (encI 0x13 7 rd rd 255)
      | 1 => some (encI 0x13 1 rd rd 0x604)
      | 2 => some (encR 0x3B 4 4 rd rd 0)
      | 3 => some (encI 0x13 1 rd rd 0x605)
      | 4 => some (encR 0x3B 4 0 rd rd 0)
      | 5 => some (encI 0x13 4 rd rd 0xFFF)
      | _ => none

def expandC1 (c : Nat) : Option Nat :=
  let rd := c / 128 % 32
  let i := sxImm 6 (imm6 c)
  match c / 2 ^ 13 with
  | 0 => some (encI 0x13 0 rd rd i)
  | 1 => if rd = 0 then none else some (encI 0x1B 0 rd rd i)
  | 2 => some (encI 0x13 0 rd 0 i)
  | 3 =>
    let k := gather c [(6, 4), (2, 5), (5, 6), (3, 7), (4, 8), (12, 9)]
    if rd = 2 then (if k = 0 then none else some (encI 0x13 0 2 2 (sxImm 10 k)))
    else if imm6 c = 0 then (if rd % 2 = 1 ∧ rd < 16 then some (encI 0x13 0 0 0 0) else none)
    else some (i % 2 ^ 20 * 2 ^ 12 + rd * 2 ^ 7 + 0x37)
  | 4 => expandAlu c
  | 5 => some (encJ 0 (sxImm 12 (gather c [(3, 1), (4, 2), (5, 3), (11, 4), (2, 5), (7, 6), (6, 7), (9, 8), (10, 9), (8, 10), (12, 11)])))
  | f =>
    some (encB (f - 6) (8 + c / 128 % 8) (sxImm 9 (gather c [(3, 1), (4, 2), (10, 3), (11, 4), (2, 5), (5, 6), (6, 7), (12, 8)])))

def expandC2 (c : Nat) : Option Nat :=
  let rd := c / 128 % 32
  let r2 := c / 4 % 32
  let dsp := gather c [(5, 3), (6, 4), (12, 5), (2, 6), (3, 7), (4, 8)]
  let sdsp := gather c [(10, 3), (11, 4), (12, 5), (7, 6), (8, 7), (9, 8)]
  match c / 2 ^ 13 with
  | 0 => some (encI 0x13 1 rd rd (imm6 c))
  | 1 => some (encI 0x07 3 rd 2 dsp)
  | 2 => if rd = 0 then none else some (encI 0x03 2 rd 2 (gather c [(4, 2), (5, 3), (6, 4), (12, 5), (2, 6), (3, 7)]))
  | 3 => if rd = 0 then none else some (encI 0x03 3 rd 2 dsp)
  | 4 =>
    (match c / 2 ^ 12 % 2, rd, r2 with
     | 0, 0, 0 => none
     | 0, _, 0 => some (encI 0x67 0 0 rd 0)
     | 0, _, _ => some (encR 0x33 0 0 rd 0 r2)
     | _, 0, 0 => some 0x00100073
     | _, _, 0 => some (encI 0x67 0 1 rd 0)
     | _, _, _ => some (encR 0x33 0 0 rd rd r2))
  | 5 => some (encS 0x27 3 2 r2 sdsp)
  | 6 => some (encS 0x23 2 2 r2 (gather c [(9, 2), (10, 3), (11, 4), (12, 5), (7, 6), (8, 7)]))
  | _ => some (encS 0x23 3 2 r2 sdsp)

/-- The 32-bit word of a 16-bit instruction. -/
def expandC (c : Nat) : Option Nat :=
  match c % 4 with
  | 0 => expandC0 c
  | 1 => expandC1 c
  | 2 => expandC2 c
  | _ => none

end Sys2Proof.Machine
end

