-- ==== Sys2Proof/Machine/RvFp.lean ====
section
/-! DEFINITION. Floating point of the harts: F, D, Zfhmin and Zfa (R318; log 10), over the exact values and roundings of the number formats; with
the five accrued exception flags. Formats are coded as there: 0 double, 1 single, 2 half. -/

namespace Sys2Proof.Machine

/-- Exception flags. -/
abbrev fNX : Nat := 1
abbrev fUF : Nat := 2
abbrev fOF : Nat := 4
abbrev fDZ : Nat := 8
abbrev fNV : Nat := 16

/-- A result with the flags it raises. -/
abbrev FRes := Nat × Nat

/-- The rounding mode of a code: 7 is frm's; 5 and 6 are reserved. RISC-V numbers down 2 and up 3. -/
def rmOf (frm code : Nat) : Option Nat :=
  match (if code = 7 then frm else code) with
  | 0 => some 0
  | 1 => some 1
  | 2 => some 3
  | 3 => some 2
  | 4 => some 4
  | _ => none

/-- A signaling NaN. -/
def fSnan (f x : Nat) : Bool := (fdec f x).isNan && !(x.testBit (fmtM f - 1))
def fIsNan (f x : Nat) : Bool := (fdec f x).isNan
def nvIf (b : Bool) : Nat := if b then fNV else 0

/-- An exact value rounded, with overflow, underflow (tininess after rounding) and inexact. -/
def fRound (f mode : Nat) (x : RVal) : FRes :=
  let bits := (rnd f mode false false 0 x).1
  match x with
  | .fin neg m =>
    if m.isZero then (bits, 0)
    else
      let emin : Int := 1 - (fmtB f : Int)
      let u := max (m.log - (fmtM f : Int)) (emin - (fmtM f : Int))
      let q := roundAt mode neg 0 m u
      let code := if q < 2 ^ fmtM f then q else q + (u - (emin - (fmtM f : Int))).toNat * 2 ^ fmtM f
      let t := m.log - (fmtM f : Int)
      let tiny := decide ((Nat.log2 (roundAt mode neg 0 m t) : Int) + t < emin)
      let nx := (m.floorAt u).2
      (bits, if fmtMax f < code then fOF ||| fNX else if nx then (if tiny then fUF ||| fNX else fNX) else 0)
  | _ => (bits, 0)

/-- A result whose operands decide whether a NaN is new. -/
def fArith (f mode : Nat) (ops : List Nat) (x : RVal) : FRes :=
  if x.isNan then (fmtNaN f, nvIf (ops.any (fSnan f) || ops.all (fun o => !fIsNan f o)))
  else fRound f mode x

/-- Addition, subtraction, multiplication, division, by funct7 / 4; square root. -/
def fBin (op f mode a b : Nat) : FRes :=
  let x := fdec f a
  let y := fdec f b
  match op with
  | 0 => fArith f mode [a, b] (addVals mode x y)
  | 1 => fArith f mode [a, b] (addVals mode x y.neg)
  | 2 => fArith f mode [a, b] (mulVals x y)
  | _ =>
    let r := fArith f mode [a, b] (divVals x y)
    match x, y with
    | .fin _ m, .fin _ n => if n.isZero && !m.isZero then (r.1, fDZ) else r
    | _, _ => r
def fSqrt (f mode a : Nat) : FRes := fArith f mode [a] (sqrtVal (fdec f a))

/-- Fused multiply and add: infinity times zero is invalid even beside a quiet NaN. -/
def fFma (f mode : Nat) (neg negC : Bool) (a b c : Nat) : FRes :=
  let p := mulVals (fdec f a) (fdec f b)
  let p := if neg then p.neg else p
  let z := fdec f c
  let r := fArith f mode [a, b, c] (addVals mode p (if negC then z.neg else z))
  if p.isNan && !fIsNan f a && !fIsNan f b then (fmtNaN f, fNV) else r

/-- Minimum and maximum; under `strict` (FMINM, FMAXM) a NaN gives NaN. -/
def fMinMax (mx strict : Bool) (f a b : Nat) : FRes :=
  (if strict && fUn f a b then fmtNaN f else if mx then fMax f a b else fMin f a b, nvIf (fSnan f a || fSnan f b))

/-- Comparisons: 0 less or equal, 1 less, 2 equal; the quiet ones raise invalid for signaling NaNs only. -/
def fCmp (k : Nat) (quiet : Bool) (f a b : Nat) : FRes :=
  let un := fUn f a b
  let nv := nvIf (if quiet then fSnan f a || fSnan f b else un)
  let r := match k with | 0 => fLe f a b | 1 => fLt f a b | _ => fEq f a b
  (if r && !un then 1 else 0, nv)

/-- Sign injection: 0 the sign of b, 1 its complement, 2 the exclusive or. -/
def fSgnj (k f a b : Nat) : Nat :=
  let sa := decide (a / fmtSign f % 2 = 1)
  let sb := decide (b / fmtSign f % 2 = 1)
  withSign f (match k with | 0 => sb | 1 => !sb | _ => sa != sb) (a % fmtSign f)

/-- To an integer of n bits: out of range and NaN are invalid and give the nearest end, NaN the upper. -/
def fToI (n : Nat) (sg : Bool) (f mode a : Nat) : Int × Nat :=
  let lo := intMin n sg
  let hi := intMax n sg
  match fdec f a with
  | .nan => (hi, fNV)
  | .inf s => (if s then lo else hi, fNV)
  | .fin s m =>
    let i := (rndInt mode 0 s m).1
    if i < lo then (lo, fNV) else if hi < i then (hi, fNV)
    else (i, if !m.isZero && (m.floorAt 0).2 then fNX else 0)

/-- From an integer. -/
def fOfI (f mode : Nat) (i : Int) : FRes := fRound f mode (.fin (decide (i < 0)) (.dyad i.natAbs 0))

/-- Between formats. -/
def fCvt (df sf mode a : Nat) : FRes :=
  if fIsNan sf a then (fmtNaN df, nvIf (fSnan sf a)) else fRound df mode (fdec sf a)

/-- FROUND and FROUNDNX: to an integral value of the same format. -/
def fRoundInt (nx : Bool) (f mode a : Nat) : FRes :=
  match fdec f a with
  | .nan => (fmtNaN f, nvIf (fSnan f a))
  | .inf _ => (a, 0)
  | .fin s m =>
    if m.isZero then (a, 0)
    else
      let q := roundAt mode s 0 m 0
      ((rnd f 0 false false 0 (.fin s (.dyad q 0))).1, if nx && (m.floorAt 0).2 then fNX else 0)

/-- FCVTMOD.W.D: the truncated value modulo 2^32. -/
def fCvtMod (a : Nat) : Int × Nat :=
  match fdec 0 a with
  | .fin s m =>
    let q := roundAt 1 s 0 m 0
    let i : Int := if s then -(q : Int) else q
    let fl := if i < intMin 32 true ∨ intMax 32 true < i then fNV else if !m.isZero && (m.floorAt 0).2 then fNX else 0
    (if m.isZero then 0 else i, fl)
  | _ => (0, fNV)

/-- The constants of FLI, by rs1. -/
def fliVal (f k : Nat) : Nat :=
  let d := fun (m : Nat) (e : Int) => (rnd f 0 false false 0 (.fin false (.dyad m e))).1
  match k with
  | 0 => withSign f true (d 1 0)
  | 1 => 2 ^ fmtM f
  | 30 => fmtInf f
  | 31 => fmtNaN f
  | _ => ([d 1 (-16), d 1 (-15), d 1 (-8), d 1 (-7), d 1 (-4), d 1 (-3), d 1 (-2), d 5 (-4), d 3 (-3), d 7 (-4), d 1 (-1), d 5 (-3), d 3 (-2),
           d 7 (-3), d 1 0, d 5 (-2), d 3 (-1), d 7 (-2), d 1 1, d 5 (-1), d 3 0, d 1 2, d 1 3, d 1 4, d 1 7, d 1 8, d 1 15, d 1 16]).getD (k - 2) 0

/-! ## Registers -/

/-- A register read at a format: a narrower value that is not boxed in ones is the canonical NaN. -/
def fGet (h : Hart) (f : Nat) (n : BitVec 5) : Nat :=
  let w := fmtW f
  let v := (tget h.f 0 n.toNat).toNat
  if w = 64 ∨ v / 2 ^ w = 2 ^ (64 - w) - 1 then v % 2 ^ w else fmtNaN f
/-- A narrower value boxed in ones. -/
def fBox (f v : Nat) : Word := let w := fmtW f; BitVec.ofNat 64 ((2 ^ 64 - 2 ^ w) % 2 ^ 64 + v % 2 ^ w)

/-- FS and VS of a hart allow the instructions of the unit; bit 13 names FS, bit 9 VS; a guest needs both of its own and the machine's. -/
def unitOn (h : Hart) (b : Nat) : Bool :=
  let on := fun (w : Word) => fld w (b + 1) b != 0
  on h.mst && (!isVirt h.priv || on h.vst)
/-- The unit's state is dirty. -/
def unitDirty (b : Nat) (h : Hart) : Hart :=
  let d := fun (w : Word) => putBit (putBit w b true) (b + 1) true
  { h with mst := d h.mst, vst := if isVirt h.priv then d h.vst else h.vst }

/-- Write a register and accrue flags. -/
def fPut (n : BitVec 5) (v : Word) (fl : Nat) (h : Hart) : Hart :=
  unitDirty 13 { h with f := tset h.f n.toNat v, fcsr := h.fcsr ||| BitVec.ofNat 8 fl }
/-- Accrue flags with an integer result. -/
def fFlags (fl : Nat) (h : Hart) : Hart := if fl = 0 then h else unitDirty 13 { h with fcsr := h.fcsr ||| BitVec.ofNat 8 fl }

def frmOf (h : Hart) : Nat := h.fcsr.toNat / 32

/-! ## OP-FP and the fused operations -/

/-- Format code of fmt: single, double, half. -/
def fmtCode (k : Nat) : Option Nat := match k with | 0 => some 1 | 1 => some 0 | 2 => some 2 | _ => none

/-- MADD, MSUB, NMSUB, NMADD. -/
def fusedOp (w : Word) (h : Hart) : Option Hart :=
  match fmtCode (fld w 26 25), rmOf (frmOf h) (opF3 w) with
  | some f, some m =>
    if f = 2 then none
    else
      let k := fld w 6 0
      let neg := k == 0x4B || k == 0x4F
      let negC := k == 0x47 || k == 0x4F
      let r := fFma f m neg negC (fGet h f (opRs1 w)) (fGet h f (opRs2 w)) (fGet h f (BitVec.ofNat 5 (fld w 31 27)))
      some (fPut (opRd w) (fBox f r.1) r.2 h)
  | _, _ => none

/-- Integer width and signedness of the conversions, by rs2. -/
def cvtInt (k : Nat) : Option (Nat × Bool) :=
  match k with | 0 => some (32, true) | 1 => some (32, false) | 2 => some (64, true) | 3 => some (64, false) | _ => none

/-- OP-FP. Half precision converts and moves only. -/
def fpOp (w : Word) (h : Hart) : Option Hart :=
  let f3 := opF3 w
  let r2 := (opRs2 w).toNat
  let mode := rmOf (frmOf h) f3
  match fmtCode (fld w 26 25) with
  | none => none
  | some f =>
    let a := fGet h f (opRs1 w)
    let b := fGet h f (opRs2 w)
    let put := fun (r : FRes) => some (fPut (opRd w) (fBox f r.1) r.2 h)
    let toX := fun (v : Word) (fl : Nat) => some (hset (opRd w) v (fFlags fl h))
    let full := f != 2
    match fld w 31 27 with
    | 0x00 => if full then mode.bind (fun m => put (fBin 0 f m a b)) else none
    | 0x01 => if full then mode.bind (fun m => put (fBin 1 f m a b)) else none
    | 0x02 => if full then mode.bind (fun m => put (fBin 2 f m a b)) else none
    | 0x03 => if full then mode.bind (fun m => put (fBin 3 f m a b)) else none
    | 0x0B => if full && r2 == 0 then mode.bind (fun m => put (fSqrt f m a)) else none
    | 0x04 => if full && decide (f3 < 3) then put (fSgnj f3 f a b, 0) else none
    | 0x05 => if full && decide (f3 < 4) then put (fMinMax (f3 % 2 == 1) (decide (2 ≤ f3)) f a b) else none
    | 0x14 =>
      if !full then none
      else
        (match f3 with
         | 0 => let r := fCmp 0 false f a b; toX (BitVec.ofNat 64 r.1) r.2
         | 1 => let r := fCmp 1 false f a b; toX (BitVec.ofNat 64 r.1) r.2
         | 2 => let r := fCmp 2 true f a b; toX (BitVec.ofNat 64 r.1) r.2
         | 4 => let r := fCmp 0 true f a b; toX (BitVec.ofNat 64 r.1) r.2
         | 5 => let r := fCmp 1 true f a b; toX (BitVec.ofNat 64 r.1) r.2
         | _ => none)
    | 0x08 =>
      if r2 = 4 ∨ r2 = 5 then (if full then mode.bind (fun m => put (fRoundInt (r2 == 5) f m a)) else none)
      else
        (match fmtCode r2, mode with
         | some g, some m => if r2 < 3 ∧ g ≠ f then put (fCvt f g m (fGet h g (opRs1 w))) else none
         | _, _ => none)
    | 0x18 =>
      if r2 = 8 then
        (if f = 0 ∧ f3 = 1 then let r := fCvtMod a; toX (BitVec.ofInt 64 r.1 |> fun x => sxTo 32 x.toNat) r.2 else none)
      else
        (match cvtInt r2, mode with
         | some (n, sg), some m =>
           if full then let r := fToI n sg f m a; toX (sxTo n (BitVec.ofInt 64 r.1).toNat) r.2 else none
         | _, _ => none)
    | 0x1A =>
      (match cvtInt r2, mode with
       | some (n, sg), some m =>
         let x := (hx h (opRs1 w)).toNat
         if full then put (fOfI f m (if sg then (sxTo n x).toInt else ((x % 2 ^ n : Nat) : Int))) else none
       | _, _ => none)
    | 0x1C =>
      if r2 ≠ 0 then none
      else if f3 = 0 then toX (sxTo (fmtW f) (tget h.f 0 (opRs1 w).toNat).toNat) 0
      else if f3 = 1 ∧ full = true then toX (BitVec.ofNat 64 (2 ^ fClass f a)) 0
      else none
    | 0x1E =>
      if f3 ≠ 0 then none
      else if r2 = 0 then put ((hx h (opRs1 w)).toNat, 0)
      else if r2 = 1 ∧ full = true then put (fliVal f (opRs1 w).toNat, 0)
      else none
    | _ => none

end Sys2Proof.Machine
end

