-- ==== Sys2Proof/Machine/RvCsr.lean ====
section
/-! DEFINITION. The CSRs of RISC-V (R317, R318, R343; log 10): who may reach them, what they read and what a write leaves, at M, S, H and VS level;
the standard interrupts. The Xcarnar CSRs are in Hart.lean. -/

namespace Sys2Proof.Machine

/-! ## Status registers -/

/-- A field put in place. -/
def atBit (b n : Nat) : Nat := n * 2 ^ b
def bitAt (b : Nat) (x : Bool) : Nat := if x then 2 ^ b else 0
/-- Bits of a word that a mask names. -/
def keepBits (w m : Word) : Nat := (w &&& m).toNat
/-- Put the masked bits of v into w. -/
def mergeBits (w m v : Word) : Word := (w &&& ~~~m) ||| (v &&& m)

/-- FS, VS, SUM and MXR; what mst and hst hold. -/
abbrev sMask : Word := 0xC6600
abbrev mMask : Word := 0x40007E6600
abbrev hMask : Word := 0x700340

/-- SD: a unit's state is dirty. -/
def sdBit (w : Word) : Nat := bitAt 63 (fld w 14 13 == 3 || fld w 10 9 == 3)

def statusOf (t : Trs) (w : Word) : Nat :=
  bitAt 1 t.ie + bitAt 5 t.pie + bitAt 8 (t.pp != 0) + atBit 32 2 + sdBit w + keepBits w sMask
def mstatusOf (h : Hart) : Word :=
  BitVec.ofNat 64 (bitAt 1 h.hs.ie + bitAt 3 h.ms.ie + bitAt 5 h.hs.pie + bitAt 7 h.ms.pie + bitAt 8 (h.hs.pp != 0) + atBit 11 h.ms.pp.toNat
    + atBit 32 10 + bitAt 39 h.mpv + sdBit h.mst + keepBits h.mst mMask)
def hstatusOf (h : Hart) : Word := BitVec.ofNat 64 (bitAt 7 h.spv + atBit 32 2 + keepBits h.hst hMask)

def putStatus (t : Trs) (v : Word) : Trs := { t with ie := bitOf v 1, pie := bitOf v 5, pp := if bitOf v 8 then 1 else 0 }
def putMstatus (v : Word) (h : Hart) : Hart :=
  { h with hs := putStatus h.hs v,
           ms := { h.ms with ie := bitOf v 3, pie := bitOf v 7, pp := if fld v 12 11 = 2 then h.ms.pp else BitVec.ofNat 2 (fld v 12 11) },
           mpv := bitOf v 39, mst := mergeBits h.mst mMask v }

/-! ## Interrupt registers -/

/-- The supervisor-level interrupts, those of the guest, and the two of R343, which are supervisor-level by rule. -/
abbrev iS : Word := 0x2222
abbrev iV : Word := 0x1444
abbrev iLoc : Word := 0x30000
abbrev iM : Word := 0x888

/-- mideleg: the guest's and R343's are delegated always. -/
def midelegOf (h : Hart) : Word := (h.mideleg &&& iS) ||| iV ||| iLoc

/-- The pending bits of R343: those of the HS context, and of the VS context while hideleg does not delegate them; and the latter's. -/
def localPend (h : Hart) : Nat :=
  bitAt 16 (h.fh.foc || (h.fv.foc && !bitOf h.hideleg 16)) + bitAt 17 (fPend h.fh || (fPend h.fv && !bitOf h.hideleg 17))
def localPendV (h : Hart) : Nat := bitAt 16 (h.fv.foc && bitOf h.hideleg 16) + bitAt 17 (fPend h.fv && bitOf h.hideleg 17)

/-- mip without the timer bits that stimecmp makes. -/
def mipOf (h : Hart) : Word := h.ip ||| BitVec.ofNat 64 (localPend h)
/-- The guest's view: its interrupts 2, 6 and 10 as 1, 5 and 9. -/
def vsView (h : Hart) (w : Word) : Word := ((w &&& h.hideleg &&& 0x444) >>> 1)

/-! ## CSRs that hold what is written -/

/-- CSR and its writable bits. -/
def plainCsrs : List (Nat × Word) :=
  [(0x106, 0xFFFFFFFF), (0x10A, 0x3000000F1), (0x140, -1), (0x14D, -1), (0x240, -1), (0x24D, -1), (0x306, 0xFFFFFFFF), (0x606, 0xFFFFFFFF),
   (0x30A, 0xC0000003000000F1), (0x60A, 0xC0000003000000F1), (0x605, -1), (0x60C, 0xC000000000000000), (0x30C, 0xC000000000000000), (0x340, -1),
   (0x34A, -1), (0x64A, -1), (0x320, 5), (0x747, 0x300000000)]
/-- CSRs that read 0: the other state-enable registers, hgeie and hgeip, PMP (the harts have no entry), the event counters and their selectors,
the ids. -/
def zeroCsr (n : Nat) : Bool :=
  (decide (0x10C ≤ n) && decide (n ≤ 0x10F)) || (decide (0x30D ≤ n) && decide (n ≤ 0x30F)) || (decide (0x60D ≤ n) && decide (n ≤ 0x60F))
    || n == 0x607 || n == 0xE12 || (decide (0x3A0 ≤ n) && decide (n ≤ 0x3EF) && (decide (0x3B0 ≤ n) || n % 2 == 0))
    || (decide (0xB03 ≤ n) && decide (n ≤ 0xB1F)) || (decide (0x323 ≤ n) && decide (n ≤ 0x33F)) || (decide (0xC03 ≤ n) && decide (n ≤ 0xC1F))
    || n == 0xDA0 || n == 0xF11 || n == 0xF12 || n == 0xF13 || n == 0xF15

/-- The guest's CSRs stand under the supervisor's numbers. -/
def csrNum (h : Hart) (n : Nat) : Nat :=
  if isVirt h.priv && [0x100, 0x104, 0x105, 0x140, 0x141, 0x142, 0x143, 0x144, 0x14D, 0x180].contains n then n + 0x100 else n

/-- What misa says: RV64 with A, B, C, D, F, H, I, M, S, U and V. -/
abbrev misaWord : Word := 0x80000000003411AF

/-- A trap register of a level: scratch is a plain CSR. -/
def trsGet (t : Trs) (k : Nat) : Option Word := match k with | 5 => some t.tvec | 0x41 => some t.epc | 0x42 => some t.cause | 0x43 => some t.tval | _ => none
def trsPut (t : Trs) (k : Nat) (v : Word) : Trs :=
  match k with
  | 5 => { t with tvec := v &&& ~~~2 }
  | 0x41 => { t with epc := v &&& ~~~1 }
  | 0x42 => { t with cause := v }
  | 0x43 => { t with tval := v }
  | _ => t
/-- The level whose trap registers a number names: M 0x3xx, S 0x1xx, VS 0x2xx. -/
def trsOf3 (h : Hart) (n : Nat) : Option Trs := match n / 256 with | 3 => some h.ms | 1 => some h.hs | 2 => some h.vs | _ => none

/-- Bits of henvcfg and hstateen0 that the machine's register of the same name allows: the others read 0 and keep what they hold. -/
def hypMask (h : Hart) (n : Nat) : Word :=
  match n with
  | 0x60A => hcsr h 0x30A ||| ~~~(0xC000000000000000 : Word)
  | 0x60C => hcsr h 0x30C
  | _ => -1

/-- The value of a CSR; none for a number no CSR has. Time and cycle are not here. -/
def csrVal (hart : Nat) (h : Hart) (n : Nat) : Option Word :=
  let nat := fun (x : Nat) => some (BitVec.ofNat 64 x)
  match (trsOf3 h n).bind (fun t => trsGet t (n % 256)) with
  | some v => some v
  | none =>
    match n with
    | 0x001 => nat (h.fcsr.toNat % 32)
    | 0x002 => nat (frmOf h)
    | 0x003 => nat h.fcsr.toNat
    | 0x008 => nat h.vstart
    | 0x009 => nat (h.vcsr.toNat % 2)
    | 0x00A => nat (h.vcsr.toNat / 2)
    | 0x00F => nat h.vcsr.toNat
    | 0xC20 => nat h.vl
    | 0xC21 => some h.vtype
    | 0xC22 => nat Config.vlenb
    | 0xC02 => some h.ninst
    | 0xB02 => some h.ninst
    | 0x100 => nat (statusOf h.hs h.mst)
    | 0x200 => nat (statusOf h.vs h.vst)
    | 0x300 => some (mstatusOf h)
    | 0x600 => some (hstatusOf h)
    | 0x301 => some misaWord
    | 0x302 => some h.medeleg
    | 0x303 => some (midelegOf h)
    | 0x304 => some (h.ms.enab ||| h.hs.enab)
    | 0x344 => some (mipOf h)
    | 0x104 => some (h.hs.enab &&& midelegOf h &&& ~~~iV)
    | 0x144 => some (mipOf h &&& midelegOf h &&& ~~~iV)
    | 0x604 => some (h.hs.enab &&& iV)
    | 0x644 => some (h.ip &&& iV)
    | 0x645 => some (h.ip &&& 0x444)
    | 0x204 => some (vsView h h.hs.enab ||| (h.vs.enab &&& h.hideleg &&& iLoc))
    | 0x244 => some (vsView h h.ip ||| BitVec.ofNat 64 (localPendV h))
    | 0x602 => some h.hedeleg
    | 0x603 => some h.hideleg
    | 0x643 => some h.htval
    | 0x34B => some h.mtval2
    | 0x680 => some h.hgatp
    | 0x180 => some (hcsr h 0x180)
    | 0x280 => some (hcsr h 0x280)
    | 0xF14 => nat hart
    | _ => if (plainCsrs.any (fun p => p.1 == n)) then some (hcsr h n &&& hypMask h n) else if zeroCsr n then some 0 else none

/-- A write of satp, vsatp or hgatp with a mode that is none leaves it as it is. -/
def atpOk (v : Word) : Bool := [0, 8, 9, 10].contains (fld v 63 60)
/-- The cache-block field of an envcfg register takes 0, 1 and 3. -/
def envFix (old v : Word) : Word := if fld v 5 4 = 2 then mergeBits v 0x30 old else v

/-- What a write of a CSR leaves; the instruction that writes minstret does not count itself. -/
def csrPut (n : Nat) (v : Word) (h : Hart) : Hart :=
  let enab := fun (m : Word) => { h with hs := { h.hs with enab := mergeBits h.hs.enab m v } }
  match n / 256, n % 256 with
  | 3, 5 => { h with ms := trsPut h.ms 5 v }
  | 3, 0x41 => { h with ms := trsPut h.ms 0x41 v }
  | 3, 0x42 => { h with ms := trsPut h.ms 0x42 v }
  | 3, 0x43 => { h with ms := trsPut h.ms 0x43 v }
  | 1, 5 => { h with hs := trsPut h.hs 5 v }
  | 1, 0x41 => { h with hs := trsPut h.hs 0x41 v }
  | 1, 0x42 => { h with hs := trsPut h.hs 0x42 v }
  | 1, 0x43 => { h with hs := trsPut h.hs 0x43 v }
  | 2, 5 => { h with vs := trsPut h.vs 5 v }
  | 2, 0x41 => { h with vs := trsPut h.vs 0x41 v }
  | 2, 0x42 => { h with vs := trsPut h.vs 0x42 v }
  | 2, 0x43 => { h with vs := trsPut h.vs 0x43 v }
  | _, _ =>
    match n with
    | 0x001 => unitDirty 13 { h with fcsr := BitVec.ofNat 8 (h.fcsr.toNat / 32 * 32 + fld v 4 0) }
    | 0x002 => unitDirty 13 { h with fcsr := BitVec.ofNat 8 (fld v 2 0 * 32 + h.fcsr.toNat % 32) }
    | 0x003 => unitDirty 13 { h with fcsr := BitVec.ofNat 8 (fld v 7 0) }
    | 0x008 => unitDirty 9 { h with vstart := v.toNat % (8 * Config.vlenb) }
    | 0x009 => unitDirty 9 { h with vcsr := BitVec.ofNat 3 (h.vcsr.toNat / 2 * 2 + fld v 0 0) }
    | 0x00A => unitDirty 9 { h with vcsr := BitVec.ofNat 3 (fld v 1 0 * 2 + h.vcsr.toNat % 2) }
    | 0x00F => unitDirty 9 { h with vcsr := BitVec.ofNat 3 (fld v 2 0) }
    | 0xB02 => { h with ninst := if bitOf (hcsr h 0x320) 2 then v else v - 1 }
    | 0x100 => { h with hs := putStatus h.hs v, mst := mergeBits h.mst sMask v }
    | 0x200 => { h with vs := putStatus h.vs v, vst := mergeBits h.vst sMask v }
    | 0x300 => putMstatus v h
    | 0x600 => { h with spv := bitOf v 7, hst := mergeBits h.hst hMask v }
    | 0x302 => { h with medeleg := v &&& 0xF0B7FF }
    | 0x303 => { h with mideleg := v &&& iS }
    | 0x304 => { (enab (iS ||| iV ||| iLoc)) with ms := { h.ms with enab := v &&& iM } }
    | 0x344 => { h with ip := mergeBits h.ip (if bitOf (hcsr h 0x30A) 63 then 0x2206 else 0x2226) v }
    | 0x104 => enab (midelegOf h &&& ~~~iV)
    | 0x144 => { h with ip := mergeBits h.ip (h.mideleg &&& 0x2002) v }
    | 0x604 => enab iV
    | 0x644 => { h with ip := mergeBits h.ip 4 v }
    | 0x645 => { h with ip := mergeBits h.ip 0x444 v }
    | 0x204 => { h with hs := { h.hs with enab := mergeBits h.hs.enab (h.hideleg &&& 0x444) (v <<< 1) },
                        vs := { h.vs with enab := mergeBits h.vs.enab (h.hideleg &&& iLoc) v } }
    | 0x244 => { h with ip := mergeBits h.ip (h.hideleg &&& 4) (v <<< 1) }
    | 0x602 => { h with hedeleg := v &&& 0xB1FF }
    | 0x603 => { h with hideleg := v &&& 0x30444 }
    | 0x643 => { h with htval := v }
    | 0x34B => { h with mtval2 := v }
    | 0x680 => if atpOk v then { h with hgatp := v &&& 0xF3FFFFFFFFFFFFFC } else h
    | 0x180 => if atpOk v then { h with csr := tset h.csr 0x180 v } else h
    | 0x280 => if atpOk v then { h with csr := tset h.csr 0x280 v } else h
    | _ =>
      match plainCsrs.find? (fun p => p.1 == n) with
      | some p =>
        let old := hcsr h n
        let v := if n % 256 = 0x0A then envFix old v else v
        { h with csr := tset h.csr n (mergeBits old (p.2 &&& hypMask h n) v) }
      | none => h

/-! ## Who may reach a CSR -/

/-- Permission of an access: nothing, or the exception 2 (illegal instruction) or 22 (virtual instruction). -/
abbrev Deny := Option Nat

/-- The first denial. -/
def denyFirst (l : List Deny) : Deny := l.findSome? id
def denyIf (b : Bool) (c : Nat) : Deny := if b then some c else none

/-- A CSR that is there. -/
def csrKnown (h : Hart) (n : Nat) : Bool := (csrVal 0 h n).isSome || n == 0xB00

/-- The level bits of the number, and read-only numbers. A guest's access to a CSR that is there and that HS could make is a virtual instruction. -/
def denyLevel (h : Hart) (n : Nat) (wr : Bool) : Deny :=
  let lvl := n / 256 % 4
  let ro := wr && n / 1024 == 3
  match h.priv with
  | .m => denyIf ro 2
  | .hs => denyIf (ro || lvl == 3) 2
  | .u => denyIf (ro || lvl != 0) 2
  | .vs => denyFirst [denyIf (lvl == 3 || ro) 2, denyIf (lvl == 2 && csrKnown h n) 22]
  | .vu => denyFirst [denyIf (lvl == 3 || ro) 2, denyIf (lvl != 0 && csrKnown h n) 22]

/-- Counters: each level above allows them by its counteren bit. -/
def denyCounter (h : Hart) (k : Nat) : Deny :=
  let on := fun (n : Nat) => bitOf (hcsr h n) k
  match h.priv with
  | .m => none
  | .hs => denyIf (!on 0x306) 2
  | .u => denyIf (!(on 0x306 && on 0x106)) 2
  | .vs => denyFirst [denyIf (!on 0x306) 2, denyIf (!on 0x606) 22]
  | .vu => denyFirst [denyIf (!on 0x306) 2, denyIf (!(on 0x606 && on 0x106)) 22]

/-- stimecmp: the machine, and for a guest the hypervisor, allow it. -/
def denyTimer (h : Hart) : Deny :=
  let allow := bitOf (hcsr h 0x30A) 63 && bitOf (hcsr h 0x306) 1
  match h.priv with
  | .m => none
  | .hs => denyIf (!allow) 2
  | _ => denyFirst [denyIf (!allow) 2, denyIf (!(bitOf (hcsr h 0x60A) 63 && bitOf (hcsr h 0x606) 1)) 22]

/-- State-enable bits: 63 for the state-enable registers, 62 for envcfg. -/
def denyState (h : Hart) (b : Nat) : Deny :=
  match h.priv with
  | .m => none
  | .hs => denyIf (!bitOf (hcsr h 0x30C) b) 2
  | _ => denyFirst [denyIf (!bitOf (hcsr h 0x30C) b) 2, denyIf (!bitOf (hcsr h 0x60C) b) 22]

/-- Everything else that forbids an access: TVM and VTVM, the units, the counters, the state enables. -/
def denyCsr (h : Hart) (n : Nat) (wr : Bool) : Deny :=
  denyFirst
    [denyLevel h n wr,
     denyIf ((n == 0x180 || n == 0x680) && h.priv == .hs && bitOf h.mst 20) 2,
     denyIf (n == 0x180 && h.priv == .vs && bitOf h.hst 20) 22,
     denyIf (decide (1 ≤ n) && decide (n ≤ 3) && !unitOn h 13) 2,
     denyIf ((n == 8 || n == 9 || n == 10 || n == 15 || n == 0xC20 || n == 0xC21 || n == 0xC22) && !unitOn h 9) 2,
     if 0xC00 ≤ n ∧ n ≤ 0xC1F then denyCounter h (n - 0xC00) else none,
     if n = 0x14D ∨ n = 0x24D then denyTimer h else none,
     if n = 0x10A ∨ n = 0x60A then denyState h 62 else none,
     if (0x10C ≤ n ∧ n ≤ 0x10F) ∨ (0x60C ≤ n ∧ n ≤ 0x60F) then denyState h 63 else none]

/-- The current hart takes the exception of a denied instruction. -/
def State.deny (s : State) (w : Word) (c : Nat) : State := s.hartExc s.curHart c w 0

/-! ## The CSR instructions -/

/-- Bits of mip that a comparison of time with stimecmp or vstimecmp makes: nothing says what time it is (log 3). -/
def State.timerBits (s : State) (h : Hart) : State × Word :=
  let (s, a) := if bitOf (hcsr h 0x30A) 63 then s.flip else (s, false)
  let (s, b) := if bitOf (hcsr h 0x60A) 63 && bitOf (hcsr h 0x30A) 63 then s.flip else (s, false)
  (s, BitVec.ofNat 64 (bitAt 5 a + bitAt 6 b))

/-- The value read: cycle and time are free (log 3), and so are the timer bits of the pending registers. -/
def State.csrLook (s : State) (n : Nat) : State × Option Word :=
  let h := s.hart s.curHart
  if n = 0xC00 ∨ n = 0xC01 ∨ n = 0xB00 then ({ s with freeC := s.freeC + 1 }, some (Config.freeWord s.freeC))
  else if n = 0x344 ∨ n = 0x144 ∨ n = 0x644 ∨ n = 0x244 then
    let (s, t) := s.timerBits h
    let m := match n with | 0x344 => t | 0x144 => t &&& h.mideleg | 0x644 => t &&& iV | _ => vsView h t
    (s, (csrVal s.curHart h n).map (fun v => v ||| m))
  else (s, csrVal s.curHart h n)

/-- A CSR instruction on a RISC-V CSR. In a pending register the bits that are set or cleared are those of the register, not those of a
comparison. -/
def State.rvCsr (s : State) (w : Word) : State :=
  let h := s.hart s.curHart
  let n := csrNum h (fld w 31 20)
  let f := opF3 w % 4
  let src := if 4 ≤ opF3 w then BitVec.ofNat 64 (fld w 19 15) else hx h (opRs1 w)
  let wr := f == 1 || fld w 19 15 != 0
  match denyCsr h (fld w 31 20) wr with
  | some c => s.deny w c
  | none =>
    match s.csrLook n with
    | (_, none) => s.deny w 2
    | (s, some old) =>
      let held := (csrVal s.curHart h n).getD old
      let new := match f with | 1 => src | 2 => held ||| src | _ => held &&& ~~~src
      (if wr then s.updHart s.curHart (csrPut n new) else s).retire (opRd w) old

/-! ## Interrupts -/

/-- Interrupts of RISC-V, in the order of their priority. -/
def intOrder : List Nat := [9, 1, 5, 10, 2, 6, 13]

/-- The level at which an interrupt is taken now, if it is pending and enabled. -/
def stdLevel (h : Hart) (pend : Word) (code : Nat) : Option (Level × Nat) :=
  let guest := bitOf iV code
  if !bitOf (pend &&& (h.ms.enab ||| h.hs.enab)) code then none
  else if !bitOf (midelegOf h) code then (if h.priv ≠ .m ∨ h.ms.ie = true then some (.m, code) else none)
  else if guest && bitOf h.hideleg code then
    (if h.priv = .vu ∨ (h.priv = .vs ∧ h.vs.ie = true) then some (.vs, code - 1) else none)
  else if h.priv = .m then none
  else if h.priv ≠ .hs ∨ h.hs.ie = true then some (.hs, code)
  else none

/-- The hart takes a standard interrupt before its next instruction, if one is due. -/
def State.stdInt (s : State) (n : Nat) : State × Bool :=
  let h := s.hart n
  let (s, t) := s.timerBits h
  match intOrder.findSome? (stdLevel h (h.ip ||| t)) with
  | some (lvl, code) => (s.updHart n (hartEnter lvl true code 0 0 none), true)
  | none => (s, false)

end Sys2Proof.Machine
end

