-- ==== Sys2Proof/Machine/RvVec.lean ====
section
/-! DEFINITION. The vector registers of the harts (R318; RISC-V V with Zvbb and Zvfhmin, log 10): groups of registers, which an instruction may
name, writing a group with its tail and masked elements, vset, and the integer instructions. `none` is no instruction. -/

namespace Sys2Proof.Machine

/-! ## Elements -/

/-- Element i of n bytes from register r on. -/
def vGet (h : Hart) (n r i : Nat) : Nat :=
  (List.range n).foldr (fun k a => (tget h.vb 0 (Config.vlenb * r + n * i + k)).toNat + 256 * a) 0
def vPut (n r i v : Nat) (h : Hart) : Hart :=
  { h with vb := (List.range n).foldl (fun t k => tset t (Config.vlenb * r + n * i + k) (BitVec.ofNat 8 (v / 256 ^ k))) h.vb }
/-- Mask bit i of register r. -/
def vBit (h : Hart) (r i : Nat) : Bool := (tget h.vb 0 (Config.vlenb * r + i / 8)).getLsbD (i % 8)
def vPutBit (r i : Nat) (b : Bool) (h : Hart) : Hart :=
  let v := vGet h 1 r (i / 8)
  vPut 1 r (i / 8) (if b then v ||| 2 ^ (i % 8) else v &&& (255 - 2 ^ (i % 8))) h

/-- The integer that n bytes hold in two's complement, and back. -/
def vInt (n a : Nat) : Int := if a < 2 ^ (8 * n - 1) then a else (a : Int) - 2 ^ (8 * n)
def vNat (n : Nat) (i : Int) : Nat := (i % 2 ^ (8 * n)).toNat

/-! ## vtype -/

/-- Bytes of an element; the group multiplier in eighths; elements of a group. -/
def vSewOf (t : Word) : Nat := 2 ^ fld t 5 3
def vLmOf (t : Word) : Nat := match fld t 2 0 with | 0 => 8 | 1 => 16 | 2 => 32 | 3 => 64 | 5 => 1 | 6 => 2 | 7 => 4 | _ => 0
def vMaxOf (t : Word) : Nat := Config.vlenb * vLmOf t / 8 / vSewOf t
def vSew (h : Hart) : Nat := vSewOf h.vtype
def vLm (h : Hart) : Nat := vLmOf h.vtype
def vMax (h : Hart) : Nat := vMaxOf h.vtype

/-- A vtype that the harts support: elements to 64 bits, and to 64 times a fractional multiplier. -/
def vtypeOk (t : Word) : Bool := t.toNat / 256 == 0 && decide (fld t 5 3 ≤ 3) && vLmOf t != 0 && decide (vSewOf t ≤ Nat.min 8 (vLmOf t))

/-- Set vtype and vl. -/
def vSetTo (t : Word) (avl : Nat → Nat) (h : Hart) : Hart :=
  let ok := vtypeOk t
  { h with vtype := if ok then t else 0x8000000000000000, vl := if ok then Nat.min (avl (vMaxOf t)) (vMaxOf t) else 0 }

/-- VSETVLI, VSETIVLI, VSETVL: with rs1 x0 the length is the greatest, or with rd x0 too the one that stands. -/
def vSetOp (w : Word) (h : Hart) : Option Hart :=
  let avl := if opRs1 w ≠ 0 then fun _ => (hx h (opRs1 w)).toNat else if opRd w ≠ 0 then id else fun _ => h.vl
  let go := fun (t : Word) (a : Nat → Nat) => let h := unitDirty 9 { vSetTo t a h with vstart := 0 }; some (hset (opRd w) (BitVec.ofNat 64 h.vl) h)
  if !bitOf w 31 then go (BitVec.ofNat 64 (fld w 30 20)) avl
  else if bitOf w 30 then go (BitVec.ofNat 64 (fld w 29 20)) (fun _ => fld w 19 15)
  else if fld w 29 25 = 0 then go (hx h (opRs2 w)) avl
  else none

/-! ## Groups of registers -/

/-- A group: its first register, the bytes of its elements (0: bits of a mask; 99: a size that is none), its multiplier in eighths. -/
structure VGrp where
  reg  : Nat
  eew  : Nat
  emul : Nat
deriving DecidableEq, Repr

def VGrp.len (g : VGrp) : Nat := if g.emul < 8 then 1 else g.emul / 8
def VGrp.ok (g : VGrp) : Bool := decide (1 ≤ g.emul) && decide (g.emul ≤ 64) && decide (g.eew ≤ 8) && g.reg % g.len == 0
def VGrp.apart (a b : VGrp) : Bool := decide (a.reg + a.len ≤ b.reg) || decide (b.reg + b.len ≤ a.reg)
/-- A destination may hold a source: equal elements; narrower ones at its low end; wider ones with the source at the high end. -/
def VGrp.holds (d s : VGrp) : Bool :=
  d.apart s || d.eew == s.eew || (decide (d.eew < s.eew) && d.reg == s.reg)
    || (decide (s.eew < d.eew) && decide (8 ≤ s.emul) && d.reg + d.len == s.reg + s.len)

/-- A group whose elements are k/j of SEW wide. -/
def vGrp (h : Hart) (r k j : Nat) : VGrp :=
  let e := vSew h * k
  { reg := r, eew := if e % j = 0 ∧ 0 < e / j then e / j else 99, emul := if vLm h * k % j = 0 then vLm h * k / j else 0 }
def vMaskGrp (r : Nat) : VGrp := { reg := r, eew := 0, emul := 8 }

/-- No register is read as two widths. -/
def vOneWidth : List VGrp → Bool
  | [] => true
  | g :: l => l.all (fun k => g.apart k || g.eew == k.eew) && vOneWidth l

/-- An instruction may name these sources, `vm` unmasked. -/
def vReads (h : Hart) (vm : Bool) (srcs : List VGrp) : Bool :=
  !bitOf h.vtype 63 && srcs.all VGrp.ok && vOneWidth (if vm then srcs else vMaskGrp 0 :: srcs)
/-- And this destination. -/
def vLegal (h : Hart) (vm : Bool) (d : VGrp) (srcs : List VGrp) : Bool :=
  vReads h vm srcs && d.ok && srcs.all d.holds && (vm || d.eew == 0 || d.reg != 0)

/-! ## Writing -/

/-- A value with the flags it raises: the five of fcsr, and 32 for saturation. -/
abbrev VRes := Nat × Nat

def vAccrue (fl : Nat) (h : Hart) : Hart :=
  let h := if fl / 32 % 2 = 1 then { h with vcsr := h.vcsr ||| 1 } else h
  fFlags (fl % 32) h

/-- The elements an instruction acts on. -/
def vActs (h : Hart) (vm : Bool) : List Nat := (List.range h.vl).filter (fun i => decide (h.vstart ≤ i) && (vm || vBit h 0 i))
/-- An agnostic element takes ones: nothing says which do (log 10). -/
def vOnes (c i : Nat) : Bool := bitOf (Config.freeWord (c + i / 64)) (i % 64)
/-- Element i is agnostic under the flags of vtype: past `vl`, or masked off. -/
def vAgn (c : Nat) (h : Hart) (vm tail : Bool) (vl i : Nat) : Bool :=
  (if vl ≤ i then tail else decide (h.vstart ≤ i) && !(vm || vBit h 0 i) && bitOf h.vtype 7) && decide (h.vstart < vl) && vOnes c i

/-- The agnostic elements of a group. -/
def vFill (c : Nat) (h : Hart) (vm : Bool) (vl : Nat) (d : VGrp) (x : Hart) : Hart :=
  (List.range (d.len * Config.vlenb / d.eew)).foldl (fun x i =>
    if vAgn c h vm (bitOf h.vtype 6) vl i then vPut d.eew d.reg i (2 ^ (8 * d.eew) - 1) x else x) x

/-- Write the active elements. -/
def vWrite (c : Nat) (h : Hart) (vm : Bool) (d : VGrp) (f : Nat → VRes) : Hart :=
  vFill c h vm h.vl d ((vActs h vm).foldl (fun x i => let r := f i; vAccrue r.2 (vPut d.eew d.reg i r.1 x)) h)

/-- Write a mask: its tail is agnostic always. -/
def vWriteMask (c : Nat) (h : Hart) (vm : Bool) (r : Nat) (f : Nat → Bool × Nat) : Hart :=
  let x := (vActs h vm).foldl (fun x i => let v := f i; vAccrue v.2 (vPutBit r i v.1 x)) h
  (List.range (8 * Config.vlenb)).foldl (fun x i => if vAgn c h vm true h.vl i then vPutBit r i true x else x) x

/-- Write element 0 alone, the rest of its register being tail. -/
def vWrite0 (c : Nat) (h : Hart) (d : VGrp) (r : VRes) : Hart :=
  if h.vl ≤ h.vstart then h
  else
    vFill c { h with vstart := 0 } true 1 { d with emul := Nat.min 8 d.emul } (vAccrue r.2 (vPut d.eew d.reg 0 r.1 h))

/-- The end of a vector instruction. -/
def vDone (h : Hart) : Hart := unitDirty 9 { h with vstart := 0 }

/-! ## Integer functions on n-byte elements -/

/-- The rounding of fixed point: d bits go. -/
def vRound (mode : Nat) (v : Int) (d : Nat) : Int :=
  let q := v / 2 ^ d
  let r := (v % 2 ^ d).toNat
  let up := match mode with
    | 0 => decide (2 ^ d ≤ 2 * r)
    | 1 => decide (2 ^ d < 2 * r) || (decide (2 * r = 2 ^ d) && q % 2 != 0)
    | 2 => false
    | _ => r != 0 && q % 2 == 0
  if up then q + 1 else q
def vxrm (h : Hart) : Nat := h.vcsr.toNat / 2

/-- Clip to n bytes; flag 32 where the value changes. -/
def vClip (n : Nat) (sg : Bool) (v : Int) : VRes :=
  let lo := intMin (8 * n) sg
  let hi := intMax (8 * n) sg
  if v < lo then (vNat n lo, 32) else if hi < v then (vNat n hi, 32) else (vNat n v, 0)

def vReverse (n a : Nat) : Nat := (List.range n).foldl (fun x i => 2 * x + a / 2 ^ i % 2) 0
def vRol (n a k : Nat) : Nat := let m := k % (8 * n); (a * 2 ^ m + a / 2 ^ (8 * n - m)) % 2 ^ (8 * n)

/-- Operations on two elements, a of vs2, b the other operand; by funct6 of the OPI columns. -/
def vBinI (f6 n mode a b : Nat) : Option VRes :=
  let m := 2 ^ (8 * n)
  let k := b % (8 * n)
  let x := vInt n a
  let y := vInt n b
  let plain := fun (v : Nat) => some (v % m, 0)
  match f6 with
  | 0x00 => plain (a + b)
  | 0x01 => plain (a &&& (m - 1 - b))
  | 0x02 => plain (a + m - b)
  | 0x03 => plain (b + m - a)
  | 0x04 => plain (Nat.min a b)
  | 0x05 => plain (if x < y then a else b)
  | 0x06 => plain (Nat.max a b)
  | 0x07 => plain (if x < y then b else a)
  | 0x09 => plain (a &&& b)
  | 0x0A => plain (a ||| b)
  | 0x0B => plain (a ^^^ b)
  | 0x14 => plain (vRol n a (8 * n - k))
  | 0x15 => plain (vRol n a k)
  | 0x20 => some (vClip n false (a + b : Nat))
  | 0x21 => some (vClip n true (x + y))
  | 0x22 => some (vClip n false ((a : Int) - b))
  | 0x23 => some (vClip n true (x - y))
  | 0x25 => plain (a * 2 ^ k)
  | 0x27 => some (vClip n true (vRound mode (x * y) (8 * n - 1)))
  | 0x28 => plain (a / 2 ^ k)
  | 0x29 => plain (vNat n (x / 2 ^ k))
  | 0x2A => plain (vNat n (vRound mode a k))
  | 0x2B => plain (vNat n (vRound mode x k))
  | _ => none

/-- Comparisons. -/
def vCmpI (f6 n a b : Nat) : Bool :=
  match f6 with
  | 0x18 => a == b
  | 0x19 => a != b
  | 0x1A => decide (a < b)
  | 0x1B => decide (vInt n a < vInt n b)
  | 0x1C => decide (a ≤ b)
  | 0x1D => decide (vInt n a ≤ vInt n b)
  | 0x1E => decide (b < a)
  | _ => decide (vInt n b < vInt n a)

/-- Operations of the OPM columns of one width; d is the destination's element. -/
def vBinM (f6 n mode a b d : Nat) : Option VRes :=
  let x := vInt n a
  let y := vInt n b
  let int := fun (v : Int) => some (vNat n v, 0)
  match f6 with
  | 0x08 => int (vRound mode ((a : Int) + b) 1)
  | 0x09 => int (vRound mode (x + y) 1)
  | 0x0A => int (vRound mode ((a : Int) - b) 1)
  | 0x0B => int (vRound mode (x - y) 1)
  | 0x20 => int (rvDivu (8 * n) a b)
  | 0x21 => int (rvDiv x y)
  | 0x22 => int (rvRemu a b)
  | 0x23 => int (rvRem x y)
  | 0x24 => int ((a * b / 2 ^ (8 * n) : Nat))
  | 0x25 => int (x * y)
  | 0x26 => int (x * b / 2 ^ (8 * n))
  | 0x27 => int (x * y / 2 ^ (8 * n))
  | 0x29 => int ((d : Int) * b + a)
  | 0x2B => int (-((d : Int) * b) + a)
  | 0x2D => int ((a : Int) * b + d)
  | 0x2F => int (-((a : Int) * b) + d)
  | _ => none

/-- Widening operations: vs2 of n bytes, or of 2n where `wide`; the result has 2n. -/
def vWideM (f6 n a b d : Nat) : Option Int :=
  let a' : Int := a
  let b' : Int := b
  let x := vInt n a
  let y := vInt n b
  match f6 with
  | 0x30 => some (a' + b')
  | 0x31 => some (x + y)
  | 0x32 => some (a' - b')
  | 0x33 => some (x - y)
  | 0x34 => some (a' + b')
  | 0x35 => some (a' + y)
  | 0x36 => some (a' - b')
  | 0x37 => some (a' - y)
  | 0x38 => some (a' * b')
  | 0x3A => some (x * b')
  | 0x3B => some (x * y)
  | 0x3C => some (a' * b' + d)
  | 0x3D => some (x * y + d)
  | 0x3E => some (x * b' + d)
  | 0x3F => some (a' * y + d)
  | _ => none

/-! ## Operands of a word -/

def opVm (w : Word) : Bool := bitOf w 25
def opF6 (w : Word) : Nat := fld w 31 26
def opVd (w : Word) : Nat := fld w 11 7
def opV1 (w : Word) : Nat := fld w 19 15
def opV2 (w : Word) : Nat := fld w 24 20

/-- The second operand of n-byte elements: a group of vs1, the immediate, or x[rs1]. -/
def vSecond (h : Hart) (w : Word) (n : Nat) (unsignedImm : Bool) : Nat → Nat :=
  match opF3 w with
  | 0 => vGet h n (opV1 w)
  | 2 => vGet h n (opV1 w)
  | 3 => fun _ => if unsignedImm then opV1 w else vNat n (sxTo 5 (opV1 w)).toInt
  | _ => fun _ => (hx h (opRs1 w)).toNat % 2 ^ (8 * n)
/-- vs1 as a source, where the form has one. -/
def vSrc1 (w : Word) (g : VGrp) : List VGrp := if opF3 w ≤ 2 then [g] else []

/-! ## Reductions -/

/-- The step of an integer reduction; by funct6 of OPMVV. -/
def vRedStep (f6 n a b : Nat) : Nat :=
  match f6 with
  | 0 => (a + b) % 2 ^ (8 * n)
  | 1 => a &&& b
  | 2 => a ||| b
  | 3 => a ^^^ b
  | 4 => Nat.min a b
  | 5 => if vInt n a < vInt n b then a else b
  | 6 => Nat.max a b
  | _ => if vInt n a < vInt n b then b else a

/-- A reduction: element 0 of vs1 and the active elements of vs2, into element 0 of vd; vstart must be 0. -/
def vReduce (c : Nat) (h : Hart) (w : Word) (dn : Nat) (step : VRes → Nat → VRes) : Option Hart :=
  let d : VGrp := { reg := opVd w, eew := dn, emul := 8 }
  let vm := opVm w
  if h.vstart ≠ 0 ∨ !(vReads h vm [{ d with reg := opV1 w }, vGrp h (opV2 w) 1 1]) ∨ !d.ok then none
  else some (vWrite0 c h d ((vActs h vm).foldl (fun a i => step a (vGet h (vSew h) (opV2 w) i)) (vGet h dn (opV1 w) 0, 0)))

/-! ## OPIVV, OPIVX, OPIVI -/

/-- The forms a funct6 has: 1 VV, 2 VX, 4 VI. -/
def vFormI (f6 : Nat) : Nat :=
  match f6 with
  | 0x00 => 7 | 0x01 => 3 | 0x02 => 3 | 0x03 => 6 | 0x04 => 3 | 0x05 => 3 | 0x06 => 3 | 0x07 => 3 | 0x09 => 7 | 0x0A => 7 | 0x0B => 7
  | 0x0C => 7 | 0x0E => 7 | 0x0F => 6 | 0x10 => 7 | 0x11 => 7 | 0x12 => 3 | 0x13 => 3 | 0x14 => 7 | 0x15 => 7 | 0x17 => 7
  | 0x18 => 7 | 0x19 => 7 | 0x1A => 3 | 0x1B => 3 | 0x1C => 7 | 0x1D => 7 | 0x1E => 6 | 0x1F => 6
  | 0x20 => 7 | 0x21 => 7 | 0x22 => 3 | 0x23 => 3 | 0x25 => 7 | 0x27 => 7 | 0x28 => 7 | 0x29 => 7 | 0x2A => 7 | 0x2B => 7
  | 0x2C => 7 | 0x2D => 7 | 0x2E => 7 | 0x2F => 7 | 0x30 => 1 | 0x31 => 1 | 0x35 => 7
  | _ => 0
def vFormBit (f3 : Nat) : Nat := match f3 with | 0 => 0 | 4 => 1 | _ => 2

/-- A gather: the element an index names, 0 past the group. -/
def vAt (h : Hart) (w : Word) (i : Nat) : VRes := (if i < vMax h then vGet h (vSew h) (opV2 w) i else 0, 0)

/-- Addition with carry and subtraction with borrow: the sum before it wraps. -/
def vCarry (sub : Bool) (a b : Nat) (c : Bool) : Int := if sub then (a : Int) - b - c.toNat else (a : Int) + b + c.toNat

/-- VMV<nr>R: whole registers, from element vstart of SEW on. -/
def vMoveRegs (h : Hart) (w : Word) : Option Hart :=
  let k := opV1 w + 1
  if bitOf h.vtype 63 ∨ !(k == 1 || k == 2 || k == 4 || k == 8) ∨ opVd w % k ≠ 0 ∨ opV2 w % k ≠ 0 then none
  else
    some ((List.range (k * Config.vlenb)).foldl (fun x i =>
      if h.vstart * vSew h ≤ i then vPut 1 (opVd w) i (vGet h 1 (opV2 w) i) x else x) h)

def vOpI (c : Nat) (w : Word) (h : Hart) : Option Hart :=
  let f6 := opF6 w
  let f3 := opF3 w
  let n := vSew h
  let vm := opVm w
  let d := vGrp h (opVd w) 1 1
  let d2 := vGrp h (opVd w) 2 1
  let s1 := vSrc1 w (vGrp h (opV1 w) 1 1)
  let s2 := vGrp h (opV2 w) 1 1
  let s2w := vGrp h (opV2 w) 2 1
  let a := vGet h n (opV2 w)
  let aw := vGet h (2 * n) (opV2 w)
  let b := vSecond h w n false
  let u := vSecond h w n true
  let when := fun (ok : Bool) (x : Hart) => if ok then some x else none
  if !(vFormI f6).testBit (vFormBit f3) then none
  else
    match f6 with
    | 0x0C =>
      let ix := if f3 = 0 then vGet h n (opV1 w) else fun _ => if f3 = 3 then opV1 w else (hx h (opRs1 w)).toNat
      when (vLegal h vm d (s2 :: s1) && (s2 :: s1).all d.apart) (vWrite c h vm d (fun i => vAt h w (ix i)))
    | 0x0E =>
      if f3 = 0 then
        let g : VGrp := { reg := opV1 w, eew := 2, emul := vLm h * 2 / n }
        when (vLegal h vm d [s2, g] && [s2, g].all d.apart) (vWrite c h vm d (fun i => vAt h w (vGet h 2 (opV1 w) i)))
      else
        let k := if f3 = 3 then opV1 w else (hx h (opRs1 w)).toNat
        when (vLegal h vm d [s2] && d.apart s2)
          (vWrite c h vm d (fun i => if i < k then (vGet h n (opVd w) i, 0) else vAt h w (i - k)))
    | 0x0F =>
      let k := if f3 = 3 then opV1 w else (hx h (opRs1 w)).toNat
      when (vLegal h vm d [s2]) (vWrite c h vm d (fun i => vAt h w (i + k)))
    | 0x10 => when (!vm && vLegal h false d (s2 :: s1)) (vWrite c h true d (fun i => (vNat n (vCarry false (a i) (b i) (vBit h 0 i)), 0)))
    | 0x12 => when (!vm && vLegal h false d (s2 :: s1)) (vWrite c h true d (fun i => (vNat n (vCarry true (a i) (b i) (vBit h 0 i)), 0)))
    | 0x11 =>
      when (vLegal h vm (vMaskGrp (opVd w)) (s2 :: s1))
        (vWriteMask c h true (opVd w) (fun i => (decide (2 ^ (8 * n) ≤ vCarry false (a i) (b i) (!vm && vBit h 0 i)), 0)))
    | 0x13 =>
      when (vLegal h vm (vMaskGrp (opVd w)) (s2 :: s1))
        (vWriteMask c h true (opVd w) (fun i => (decide (vCarry true (a i) (b i) (!vm && vBit h 0 i) < 0), 0)))
    | 0x17 =>
      if vm then when (opV2 w == 0 && vLegal h true d s1) (vWrite c h true d (fun i => (b i, 0)))
      else when (vLegal h false d (s2 :: s1)) (vWrite c h true d (fun i => (if vBit h 0 i then b i else a i, 0)))
    | 0x2C => when (vLegal h vm d (s2w :: s1)) (vWrite c h vm d (fun i => (aw i / 2 ^ (u i % (16 * n)) % 2 ^ (8 * n), 0)))
    | 0x2D => when (vLegal h vm d (s2w :: s1)) (vWrite c h vm d (fun i => (vNat n (vInt (2 * n) (aw i) / 2 ^ (u i % (16 * n))), 0)))
    | 0x2E => when (vLegal h vm d (s2w :: s1)) (vWrite c h vm d (fun i => vClip n false (vRound (vxrm h) (aw i) (u i % (16 * n)))))
    | 0x2F => when (vLegal h vm d (s2w :: s1)) (vWrite c h vm d (fun i => vClip n true (vRound (vxrm h) (vInt (2 * n) (aw i)) (u i % (16 * n)))))
    | 0x30 => if 8 < 2 * n then none else vReduce c h w (2 * n) (fun x v => ((x.1 + v) % 2 ^ (16 * n), 0))
    | 0x31 => if 8 < 2 * n then none else vReduce c h w (2 * n) (fun x v => (vNat (2 * n) (x.1 + vInt n v), 0))
    | 0x35 => when (vLegal h vm d2 (s2 :: s1)) (vWrite c h vm d2 (fun i => (a i * 2 ^ (u i % (16 * n)) % 2 ^ (16 * n), 0)))
    | _ =>
      if 0x18 ≤ f6 ∧ f6 ≤ 0x1F then
        when (vLegal h vm (vMaskGrp (opVd w)) (s2 :: s1)) (vWriteMask c h vm (opVd w) (fun i => (vCmpI f6 n (a i) (b i), 0)))
      else if f6 = 0x27 ∧ f3 = 3 then (if vm then vMoveRegs h w else none)
      else if f3 = 3 ∧ (f6 = 0x14 ∨ f6 = 0x15) then
        when (vLegal h vm d [s2]) (vWrite c h vm d (fun i => (vRol n (a i) (8 * n - (fld w 26 26 * 32 + opV1 w) % (8 * n)), 0)))
      else
        let sh := 0x25 ≤ f6
        when (vLegal h vm d (s2 :: s1))
          (vWrite c h vm d (fun i => (vBinI f6 n (vxrm h) (a i) (if sh then u i else b i)).getD (0, 0)))

/-! ## OPMVV, OPMVX -/

/-- VXUNARY0: extension from a fraction of the width, and the bit instructions of Zvbb. -/
def vUnary (c : Nat) (w : Word) (h : Hart) : Option Hart :=
  let n := vSew h
  let k := opV1 w
  let vm := opVm w
  let d := vGrp h (opVd w) 1 1
  let one := fun (f : Nat → Nat) =>
    if vLegal h vm d [vGrp h (opV2 w) 1 1] then some (vWrite c h vm d (fun i => (f (vGet h n (opV2 w) i), 0))) else none
  let ext := fun (j : Nat) (sg : Bool) =>
    if vLegal h vm d [vGrp h (opV2 w) 1 j] then
      some (vWrite c h vm d (fun i => let v := vGet h (n / j) (opV2 w) i; (if sg then vNat n (vInt (n / j) v) else v, 0)))
    else none
  match k with
  | 2 => ext 8 false
  | 3 => ext 8 true
  | 4 => ext 4 false
  | 5 => ext 4 true
  | 6 => ext 2 false
  | 7 => ext 2 true
  | 8 => one (fun v => (List.range n).foldr (fun j x => vReverse 8 (v / 256 ^ j % 256) + 256 * x) 0)
  | 9 => one (fun v => (List.range n).foldl (fun x j => 256 * x + v / 256 ^ j % 256) 0)
  | 10 => one (vReverse (8 * n))
  | 12 => one (clzN (8 * n))
  | 13 => one (ctzN (8 * n))
  | 14 => one (popN (8 * n))
  | _ => none

/-- VWXUNARY0: element 0, the count of a mask and its first bit, to x[rd]. -/
def vToX (w : Word) (h : Hart) : Option Hart :=
  let on := (vActs h (opVm w)).filter (vBit h (opV2 w))
  match opV1 w with
  | 0 => if opVm w = true ∧ bitOf h.vtype 63 = false then some (hset (opRd w) (BitVec.ofInt 64 (vInt (vSew h) (vGet h (vSew h) (opV2 w) 0))) h) else none
  | 0x10 => if h.vstart = 0 ∧ vReads h (opVm w) [vMaskGrp (opV2 w)] = true then some (hset (opRd w) (BitVec.ofNat 64 on.length) h) else none
  | 0x11 =>
    if h.vstart = 0 ∧ vReads h (opVm w) [vMaskGrp (opV2 w)] = true then
      some (hset (opRd w) (match on with | [] => -1 | i :: _ => BitVec.ofNat 64 i) h)
    else none
  | _ => none

/-- VMUNARY0: set before, only and including first; iota; the indices. -/
def vMaskUnary (c : Nat) (w : Word) (h : Hart) : Option Hart :=
  let vm := opVm w
  let m := vMaskGrp (opVd w)
  let s := vMaskGrp (opV2 w)
  let d := vGrp h (opVd w) 1 1
  let on := (vActs h vm).filter (vBit h (opV2 w))
  let first := on.head?.getD h.vl
  let mask := fun (f : Nat → Bool) =>
    if h.vstart = 0 ∧ vLegal h vm m [s] = true ∧ m.apart s = true ∧ (vm || opVd w != 0) = true then
      some (vWriteMask c h vm (opVd w) (fun i => (f i, 0)))
    else none
  match opV1 w with
  | 1 => mask (fun i => decide (i < first))
  | 2 => mask (fun i => i == first)
  | 3 => mask (fun i => decide (i ≤ first))
  | 0x10 =>
    if h.vstart = 0 ∧ vLegal h vm d [s] = true ∧ d.apart s = true then
      some (vWrite c h vm d (fun i => ((on.filter (fun j => decide (j < i))).length, 0)))
    else none
  | 0x11 => if opV2 w = 0 ∧ vLegal h vm d [] = true then some (vWrite c h vm d (fun i => (i, 0))) else none
  | _ => none

/-- The logic of masks; by funct6. -/
def vMaskFn (f6 : Nat) (a b : Bool) : Bool :=
  match f6 with
  | 0x18 => a && !b
  | 0x19 => a && b
  | 0x1A => a || b
  | 0x1B => a != b
  | 0x1C => a || !b
  | 0x1D => !(a && b)
  | 0x1E => !(a || b)
  | _ => a == b

/-- Slides by one: the value that enters. -/
def vSlide1 (c : Nat) (w : Word) (h : Hart) (up : Bool) (v : Nat) : Option Hart :=
  let d := vGrp h (opVd w) 1 1
  let s := vGrp h (opV2 w) 1 1
  if !(vLegal h (opVm w) d [s]) || (up && !d.apart s) then none
  else if up then some (vWrite c h (opVm w) d (fun i => if i = 0 then (v, 0) else vAt h w (i - 1)))
  else some (vWrite c h (opVm w) d (fun i => if i + 1 = h.vl then (v, 0) else vAt h w (i + 1)))

def vOpM (c : Nat) (w : Word) (h : Hart) : Option Hart :=
  let f6 := opF6 w
  let vv := opF3 w == 2
  let n := vSew h
  let vm := opVm w
  let d := vGrp h (opVd w) 1 1
  let d2 := vGrp h (opVd w) 2 1
  let s1 := vSrc1 w (vGrp h (opV1 w) 1 1)
  let s2 := vGrp h (opV2 w) 1 1
  let b := vSecond h w n false
  match f6 with
  | 0x0E => if vv then none else vSlide1 c w h true (b 0)
  | 0x0F => if vv then none else vSlide1 c w h false (b 0)
  | 0x10 =>
    if vv then vToX w h
    else if vm = true ∧ opV2 w = 0 ∧ bitOf h.vtype 63 = false then some (vWrite0 c h { reg := opVd w, eew := n, emul := 8 } (b 0, 0))
    else none
  | 0x12 => if vv then vUnary c w h else none
  | 0x14 => if vv then vMaskUnary c w h else none
  | 0x17 =>
    let on := (List.range h.vl).filter (vBit h (opV1 w))
    let m := vMaskGrp (opV1 w)
    if vv && vm && h.vstart == 0 && vLegal h true d [s2, m] && d.apart s2 && d.apart m then
      some (if h.vl = 0 then h
            else vFill c h true on.length d ((lenum on).foldl (fun x p => vPut n (opVd w) p.1 (vGet h n (opV2 w) p.2) x) h))
    else none
  | _ =>
    if f6 < 8 then (if vv then vReduce c h w n (fun x v => (vRedStep f6 n x.1 v, 0)) else none)
    else if 0x18 ≤ f6 ∧ f6 ≤ 0x1F then
      (if vv && vm && !bitOf h.vtype 63 then
        some (vWriteMask c h true (opVd w) (fun i => (vMaskFn f6 (vBit h (opV2 w) i) (vBit h (opV1 w) i), 0)))
       else none)
    else if 0x30 ≤ f6 then
      (let wide := decide (0x34 ≤ f6) && decide (f6 ≤ 0x37)
       let s2' := if wide then vGrp h (opV2 w) 2 1 else s2
       let a := fun i => let v := vGet h (if wide then 2 * n else n) (opV2 w) i; v
       if (f6 = 0x3E ∧ vv = true) ∨ (vWideM f6 n 0 0 0).isNone ∨ !(vLegal h vm d2 (s2' :: s1)) then none
       else
        some (vWrite c h vm d2 (fun i =>
          (vNat (2 * n) ((vWideM f6 n (a i) (b i) (vGet h (2 * n) (opVd w) i)).getD 0), 0))))
    else
      (match vBinM f6 n (vxrm h) 0 0 0 with
       | none => none
       | some _ =>
         if vLegal h vm d (s2 :: s1) then
           some (vWrite c h vm d (fun i =>
             (vBinM f6 n (vxrm h) (vGet h n (opV2 w) i) (b i) (vGet h n (opVd w) i)).getD (0, 0)))
         else none)

end Sys2Proof.Machine
end

