-- ==== Sys2Proof/Machine/RvVecFp.lean ====
section
/-! DEFINITION. The floating-point vector instructions of the harts (R318; RISC-V V with Zvfhmin, log 10). -/

namespace Sys2Proof.Machine

/-- The format of n-byte elements. -/
def vFmt (n : Nat) : Nat := match n with | 8 => 0 | 4 => 1 | _ => 2
/-- Widths on which the harts compute. -/
def vFpOk (n : Nat) : Bool := n == 4 || n == 8

/-! ## Estimates -/

/-- Seven bits of 1/x and of 1/sqrt(x) for the middle of interval i; the second by the exponent's low bit and six bits. -/
def rec7Tab (i : Nat) : Nat := (65536 + (257 + 2 * i) / 2) / (257 + 2 * i) - 128
def rsqrt7Tab (i : Nat) : Nat :=
  let d := (129 + 2 * (i % 64)) * (if 64 ≤ i then 1 else 2)
  let y := 33554432 / d
  (((List.range 1024).filter (fun r => decide (r * r ≤ y))).length) / 2 - 128

/-- The exponent and fraction of a finite number, a subnormal's normalised. -/
def fNorm (f a : Nat) : Int × Nat :=
  let m := fmtM f
  let e := a / 2 ^ m % 2 ^ fmtE f
  let s := a % 2 ^ m
  if e ≠ 0 then (e, s) else let z := clzN m s; (-(z : Int), s * 2 ^ (z + 1) % 2 ^ m)

/-- VFREC7. -/
def fRec7 (f mode a : Nat) : FRes :=
  let neg := decide (a / fmtSign f % 2 = 1)
  match fdec f a with
  | .nan => (fmtNaN f, nvIf (fSnan f a))
  | .inf _ => (withSign f neg 0, 0)
  | .fin _ x =>
    if x.isZero then (withSign f neg (fmtInf f), fDZ)
    else
      let (e, s) := fNorm f a
      if e < -1 then
        (withSign f neg (if mode = 1 ∨ (mode = 2 ∧ neg = true) ∨ (mode = 3 ∧ neg = false) then fmtMax f else fmtInf f), fOF ||| fNX)
      else
        let m := fmtM f
        let sig := rec7Tab (s / 2 ^ (m - 7)) * 2 ^ (m - 7)
        let eo : Int := 2 * (fmtB f : Int) - 1 - e
        (withSign f neg
          (if 0 < eo then eo.toNat * 2 ^ m + sig else (sig / 2 + 2 ^ (m - 1)) / (if eo = 0 then 1 else 2)), 0)

/-- VFRSQRT7. -/
def fRsqrt7 (f a : Nat) : FRes :=
  let neg := decide (a / fmtSign f % 2 = 1)
  match fdec f a with
  | .nan => (fmtNaN f, nvIf (fSnan f a))
  | .inf s => if s then (fmtNaN f, fNV) else (0, 0)
  | .fin _ x =>
    if x.isZero then (withSign f neg (fmtInf f), fDZ)
    else if neg then (fmtNaN f, fNV)
    else
      let (e, s) := fNorm f a
      let m := fmtM f
      let sig := rsqrt7Tab ((e % 2).toNat * 64 + s / 2 ^ (m - 6)) * 2 ^ (m - 7)
      (((3 * (fmtB f : Int) - 1 - e) / 2).toNat * 2 ^ m + sig, 0)

/-- Round to odd. -/
def fRod (df sf a : Nat) : FRes :=
  let r := fCvt df sf 1 a
  (if r.2 % 2 = 1 then r.1 ||| 1 else r.1, r.2)

/-! ## Element functions -/

/-- Operations on two elements, a of vs2 and b of vs1 or f[rs1]; by funct6. -/
def vBinF (f6 f mode a b : Nat) : Option FRes :=
  match f6 with
  | 0x00 => some (fBin 0 f mode a b)
  | 0x02 => some (fBin 1 f mode a b)
  | 0x04 => some (fMinMax false false f a b)
  | 0x06 => some (fMinMax true false f a b)
  | 0x08 => some (fSgnj 0 f a b, 0)
  | 0x09 => some (fSgnj 1 f a b, 0)
  | 0x0A => some (fSgnj 2 f a b, 0)
  | 0x20 => some (fBin 3 f mode a b)
  | 0x21 => some (fBin 3 f mode b a)
  | 0x24 => some (fBin 2 f mode a b)
  | 0x27 => some (fBin 1 f mode b a)
  | _ => none

/-- The fused ones: those of 0x28 to 0x2B multiply the destination, the others add it. -/
def vFusedF (f6 f mode a b d : Nat) : FRes :=
  let neg := f6 % 4 == 1 || f6 % 4 == 3
  let negC := f6 % 4 == 1 || f6 % 4 == 2
  if f6 < 0x2C then fFma f mode neg negC b d a else fFma f mode neg negC b a d

def vCmpF (f6 f a b : Nat) : Option FRes :=
  match f6 with
  | 0x18 => some (fCmp 2 true f a b)
  | 0x19 => some (fCmp 0 false f a b)
  | 0x1B => some (fCmp 1 false f a b)
  | 0x1C => let r := fCmp 2 true f a b; some (1 - r.1, r.2)
  | 0x1D => some (fCmp 1 false f b a)
  | 0x1F => some (fCmp 0 false f b a)
  | _ => none

/-- The second operand at n bytes: vs1, or f[rs1], whose boxing counts. -/
def vSecondF (h : Hart) (w : Word) (n : Nat) : Nat → Nat :=
  if opF3 w = 1 then vGet h n (opV1 w) else fun _ => fGet h (vFmt n) (opRs1 w)

/-! ## Conversions -/

def ofRes (n : Nat) (r : Int × Nat) : VRes := (vNat n r.1, r.2)

/-- A conversion of VFUNARY0 from sn to dn bytes, by the low three bits of vs1: to an unsigned or signed integer, from one, between formats
(4), odd (5), to integers by truncation (6, 7). -/
def vConv (k sn dn mode a : Nat) : Option VRes :=
  let toI := fun (sg : Bool) (m : Nat) => if vFpOk sn then some (ofRes dn (fToI (8 * dn) sg (vFmt sn) m a)) else none
  match k with
  | 0 => toI false mode
  | 1 => toI true mode
  | 2 => if vFpOk dn then some (fOfI (vFmt dn) mode a) else none
  | 3 => if vFpOk dn then some (fOfI (vFmt dn) mode (vInt sn a)) else none
  | 4 => if sn ≠ dn ∧ 2 ≤ sn ∧ 2 ≤ dn then some (fCvt (vFmt dn) (vFmt sn) mode a) else none
  | 5 => if dn = 4 ∧ sn = 8 then some (fRod (vFmt dn) (vFmt sn) a) else none
  | 6 => toI false 1
  | _ => toI true 1

/-- VFUNARY0. -/
def vConvOp (c : Nat) (w : Word) (h : Hart) (mode : Nat) : Option Hart :=
  let n := vSew h
  let k := opV1 w
  let (sj, dj) := match k / 8 with | 0 => (1, 1) | 1 => (1, 2) | _ => (2, 1)
  let d := vGrp h (opVd w) dj 1
  if k < 24 ∧ vLegal h (opVm w) d [vGrp h (opV2 w) sj 1] = true ∧ (vConv (k % 8) (n * sj) (n * dj) mode 0).isSome = true then
    some (vWrite c h (opVm w) d (fun i => (vConv (k % 8) (n * sj) (n * dj) mode (vGet h (n * sj) (opV2 w) i)).getD (0, 0)))
  else none

/-- VFUNARY1. -/
def vUnaryF (k f mode a : Nat) : Option FRes :=
  match k with
  | 0 => some (fSqrt f mode a)
  | 4 => some (fRsqrt7 f a)
  | 5 => some (fRec7 f mode a)
  | 16 => some (2 ^ fClass f a, 0)
  | _ => none

/-! ## OPFVV, OPFVF -/

/-- Widening: sums of two narrow operands or a wide and a narrow one, products, and products added to the destination. -/
def vWideF (f6 g mode a b d : Nat) : Option FRes :=
  match f6 with
  | 0x30 => some (fBin 0 g mode a b)
  | 0x32 => some (fBin 1 g mode a b)
  | 0x34 => some (fBin 0 g mode a b)
  | 0x36 => some (fBin 1 g mode a b)
  | 0x38 => some (fBin 2 g mode a b)
  | 0x3C => some (fFma g mode false false a b d)
  | 0x3D => some (fFma g mode true true a b d)
  | 0x3E => some (fFma g mode false true a b d)
  | 0x3F => some (fFma g mode true false a b d)
  | _ => none

/-- A narrow operand at the wide format; invalid where it signals. -/
def vWiden (n a : Nat) : FRes := fCvt (vFmt (2 * n)) (vFmt n) 0 a

def vOpWideF (c : Nat) (w : Word) (h : Hart) (mode : Nat) : Option Hart :=
  let f6 := opF6 w
  let n := vSew h
  let g := vFmt (2 * n)
  let b := fun i => vWiden n (vSecondF h w n i)
  if n ≠ 4 then none
  else if f6 = 0x31 ∨ f6 = 0x33 then
    (if opF3 w = 1 then
      vReduce c h w (2 * n) (fun x v => let y := vWiden n v; let r := fBin 0 g mode x.1 y.1; (r.1, x.2 ||| y.2 ||| r.2))
     else none)
  else
    let wide := f6 == 0x34 || f6 == 0x36
    let a := fun i => if wide then (vGet h (2 * n) (opV2 w) i, 0) else vWiden n (vGet h n (opV2 w) i)
    let d := vGrp h (opVd w) 2 1
    if (vWideF f6 g mode 0 0 0).isNone ∨ !(vLegal h (opVm w) d (vGrp h (opV2 w) (if wide then 2 else 1) 1 :: (if opF3 w = 1 then [vGrp h (opV1 w) 1 1] else []))) then none
    else
      some (vWrite c h (opVm w) d (fun i =>
        let x := a i
        let y := b i
        let r := (vWideF f6 g mode x.1 y.1 (vGet h (2 * n) (opVd w) i)).getD (0, 0)
        (r.1, x.2 ||| y.2 ||| r.2)))

/-- The reductions of one width; by funct6 / 2. -/
def vRedF (c : Nat) (w : Word) (h : Hart) (mode : Nat) : Option Hart :=
  let n := vSew h
  let f := vFmt n
  let step := fun (x v : Nat) => match opF6 w with | 5 => fMinMax false false f x v | 7 => fMinMax true false f x v | _ => fBin 0 f mode x v
  vReduce c h w n (fun x v => let r := step x.1 v; (r.1, x.2 ||| r.2))

def vOpF (c : Nat) (w : Word) (h : Hart) : Option Hart :=
  let f6 := opF6 w
  let vv := opF3 w == 1
  let n := vSew h
  let f := vFmt n
  let vm := opVm w
  let d := vGrp h (opVd w) 1 1
  let s2 := vGrp h (opV2 w) 1 1
  let s1 := if vv then [vGrp h (opV1 w) 1 1] else []
  let a := vGet h n (opV2 w)
  let b := vSecondF h w n
  if !unitOn h 13 then none
  else
    match rmOf (frmOf h) 7 with
    | none => none
    | some mode =>
      if f6 = 0x12 then (if vv then vConvOp c w h mode else none)
      else if !vFpOk n then none
      else
        match f6 with
        | 0x0E => if vv then none else vSlide1 c w h true (b 0)
        | 0x0F => if vv then none else vSlide1 c w h false (b 0)
        | 0x10 =>
          if !vm || bitOf h.vtype 63 then none
          else if vv then (if opV1 w = 0 then some (fPut (opRd w) (fBox f (a 0)) 0 h) else none)
          else if opV2 w = 0 then some (vWrite0 c h { reg := opVd w, eew := n, emul := 8 } (b 0, 0))
          else none
        | 0x13 =>
          if vv && vLegal h vm d [s2] && (vUnaryF (opV1 w) f mode 0).isSome then
            some (vWrite c h vm d (fun i => (vUnaryF (opV1 w) f mode (a i)).getD (0, 0)))
          else none
        | 0x17 =>
          if vv then none
          else if vm then (if opV2 w = 0 ∧ vLegal h true d [] = true then some (vWrite c h true d (fun _ => (b 0, 0))) else none)
          else if vLegal h false d [s2] then some (vWrite c h true d (fun i => (if vBit h 0 i then b 0 else a i, 0)))
          else none
        | _ =>
          if 0x30 ≤ f6 then vOpWideF c w h mode
          else if f6 = 1 ∨ f6 = 3 ∨ f6 = 5 ∨ f6 = 7 then (if vv then vRedF c w h mode else none)
          else if 0x18 ≤ f6 ∧ f6 ≤ 0x1F then
            (if (vCmpF f6 f 0 0).isSome && (!vv || decide (f6 < 0x1D)) && vLegal h vm (vMaskGrp (opVd w)) (s2 :: s1) then
              some (vWriteMask c h vm (opVd w) (fun i => let r := (vCmpF f6 f (a i) (b i)).getD (0, 0); (r.1 == 1, r.2)))
             else none)
          else if 0x28 ≤ f6 then
            (if vLegal h vm d (s2 :: s1) then some (vWrite c h vm d (fun i => vFusedF f6 f mode (a i) (b i) (vGet h n (opVd w) i))) else none)
          else if (vBinF f6 f mode 0 0).isSome && !(vv && (f6 == 0x21 || f6 == 0x27)) && vLegal h vm d (s2 :: s1) then
            some (vWrite c h vm d (fun i => (vBinF f6 f mode (a i) (b i)).getD (0, 0)))
          else none

/-- A vector instruction that reaches no memory: the hart it leaves. -/
def vecOp (c : Nat) (w : Word) (h : Hart) : Option Hart :=
  let r := match opF3 w with
    | 0 => vOpI c w h
    | 3 => vOpI c w h
    | 4 => vOpI c w h
    | 2 => vOpM c w h
    | 6 => vOpM c w h
    | 7 => vSetOp w h
    | _ => vOpF c w h
  if unitOn h 9 then r.map vDone else none

end Sys2Proof.Machine
end

