-- ==== Sys2Proof/Machine/RvVecMem.lean ====
section
/-! DEFINITION. The vector loads and stores of the harts (R318, R470; RISC-V V, log 10): element by element, precise at the element that fails. -/

namespace Sys2Proof.Machine

/-- A vector access decoded: its data group for each field, the sources besides, the elements from vstart on, the address of a field of an
element. -/
structure VMem where
  d     : VGrp
  nf    : Nat
  srcs  : List VGrp
  vm    : Bool
  vl    : Nat
  addr  : Nat → Nat → Word
  first : Bool := false

/-- The elements an access touches, with their fields. -/
def VMem.elems (m : VMem) (h : Hart) : List (Nat × Nat) :=
  (((List.range m.vl).filter (fun i => decide (h.vstart ≤ i) && (m.vm || vBit h 0 i))).map (fun i =>
    (List.range m.nf).map (fun k => (i, k)))).flatten

/-- The register of field k. -/
def VMem.reg (m : VMem) (k : Nat) : Nat := m.d.reg + k * m.d.len

/-- Perform accesses in order: the state, and the element at which one failed with its exception. -/
def State.vAccs (s : State) (m : VMem) (store : Bool) : List (Nat × Nat) → State × Option (Nat × HExc)
  | [] => (s, none)
  | (i, k) :: l =>
    let h := s.hart s.curHart
    let p := accPriv h
    let va := maskPtr h p (m.addr i k)
    let n := m.d.eew
    if store then
      (match s.hStoreAt h p va n (vGet h n (m.reg k) i) with
       | .error e => (s, some (i, e))
       | .ok s => State.vAccs s m store l)
    else
      (match s.hLoadAt h p false va n with
       | .error e => (s, some (i, e))
       | .ok v => State.vAccs (s.updHart s.curHart (vPut n (m.reg k) i v)) m store l)

/-- The group multiplier of an access of e-byte elements. -/
def vEmul (h : Hart) (e : Nat) : Nat := if vLm h * e % vSew h = 0 then vLm h * e / vSew h else 0

/-- A vector access: whole registers, a mask, unit stride, a stride in x[rs2], or an index in vs2. -/
def vMemOf (w : Word) (h : Hart) (store : Bool) : Option VMem :=
  let e := match opF3 w with | 0 => 1 | 5 => 2 | 6 => 4 | _ => 8
  let nf := fld w 31 29 + 1
  let vm := opVm w
  let base := hx h (opRs1 w)
  let at' := fun (x : Nat) => base + BitVec.ofNat 64 x
  let legal := fun (m : VMem) =>
    if !bitOf h.vtype 63 && m.srcs.all VGrp.ok && m.d.ok && decide (m.d.len * m.nf ≤ 8) && decide (m.d.reg + m.d.len * m.nf ≤ 32)
        && (vm || store || m.d.reg != 0)
        && vOneWidth ((if vm then [] else [vMaskGrp 0]) ++ m.srcs ++ if store then [{ m.d with emul := Nat.max 8 m.d.emul * m.nf }] else []) then
      some m
    else none
  let d : VGrp := { reg := opVd w, eew := e, emul := vEmul h e }
  if bitOf w 28 then none
  else
    match fld w 27 26 with
    | 0 =>
      (match opV2 w with
       | 0 => legal { d := d, nf := nf, srcs := [], vm := vm, vl := h.vl, addr := fun i k => at' ((i * nf + k) * e) }
       | 0x10 => if store then none else legal { d := d, nf := nf, srcs := [], vm := vm, vl := h.vl, addr := fun i k => at' ((i * nf + k) * e), first := true }
       | 0x0B =>
         if nf = 1 ∧ vm = true ∧ e = 1 then
           legal { d := { d with emul := 8 }, nf := 1, srcs := [], vm := true, vl := (h.vl + 7) / 8, addr := fun i _ => at' i }
         else none
       | 0x08 =>
         if vm = true ∧ (nf = 1 ∨ nf = 2 ∨ nf = 4 ∨ nf = 8) ∧ opVd w % nf = 0 ∧ (store = false ∨ e = 1) then
           some { d := { d with emul := 8 * nf }, nf := 1, srcs := [], vm := true, vl := nf * Config.vlenb / e, addr := fun i _ => at' (i * e) }
         else none
       | _ => none)
    | 2 => legal { d := d, nf := nf, srcs := [], vm := vm, vl := h.vl, addr := fun i k => at' (k * e) + hx h (opRs2 w) * BitVec.ofNat 64 i }
    | _ =>
      let g : VGrp := { d with reg := opV2 w }
      let d := vGrp h (opVd w) 1 1
      let wide : VGrp := { d with emul := Nat.max 8 d.emul * nf }
      if !store && !((wide.holds g && nf == 1) || wide.apart g) then none
      else legal { d := d, nf := nf, srcs := [g], vm := vm, vl := h.vl, addr := fun i k => at' (vGet h e (opV2 w) i + k * d.eew) }

/-- VECTOR LOADS AND STORES. A failing element is left in vstart; a fault-only-first load past its first element ends there. -/
def State.vMem (s : State) (raw w : Word) (store : Bool) (fin : State → State) : State :=
  let h := s.hart s.curHart
  match (if unitOn h 9 then vMemOf w h store else none) with
  | none => s.illegal raw
  | some m =>
    let done := fun (s : State) (vl : Nat) =>
      let c := s.freeC
      let fill := fun (x : Hart) =>
        if store then x else (List.range m.nf).foldl (fun x k => vFill (c + 2 * k) h m.vm vl { m.d with reg := m.reg k } x) x
      fin ({ s with freeC := c + 2 * m.nf }.updHart s.curHart (fun x => vDone (fill x)))
    match s.vAccs m store (m.elems h) with
    | (s, none) => done s m.vl
    | (s, some (i, e)) =>
      if m.first = true ∧ i ≠ 0 then done (s.updHart s.curHart (fun x => { x with vl := i })) i
      else (s.updHart s.curHart (fun x => unitDirty 9 { x with vstart := i })).accExc (accPriv h) e

end Sys2Proof.Machine
end

