-- ==== Sys2Proof/Machine/Rv.lean ====
section
/-! DEFINITION. The RISC-V instructions of the harts that are no rows of the table (R318, R470; log 10): fetch, jumps, loads and stores, LR, SC and
the AMOs, cache blocks, the floating-point and vector units, SYSTEM. -/

namespace Sys2Proof.Machine

/-! ## Fetch -/

/-- Two bytes of an instruction at an address. -/
def State.parcel (s : State) (h : Hart) (va : Word) : Except HExc Nat :=
  match s.hAddrs h h.priv .fetch false true [(va.toNat, 2)] with
  | .error e => .error e
  | .ok l => .ok (s.readPas l)

/-- THE INSTRUCTION AT THE PC: its bits and its length; or the exception of the two bytes that fail. -/
def State.fetch (s : State) (h : Hart) : Except HExc (Nat × Nat) :=
  if h.pc.toNat % 2 ≠ 0 then .error (0, h.pc.toNat, 0)
  else
    match s.parcel h h.pc with
    | .error e => .error e
    | .ok a =>
      if a % 4 ≠ 3 then .ok (a, 2)
      else match s.parcel h (h.pc + 2) with | .error e => .error e | .ok b => .ok (a + 2 ^ 16 * b, 4)

/-! ## The end of an instruction -/

/-- The current hart changes and goes on to its next instruction, `len` bytes on. -/
def State.fin (s : State) (len : Nat) (f : Hart → Hart) : State :=
  s.updHart s.curHart (fun h => { countInst (f h) with pc := h.pc + BitVec.ofNat 64 len })
/-- The current hart goes on at an address. -/
def State.jump (s : State) (to' : Word) (f : Hart → Hart) : State := s.updHart s.curHart (fun h => { countInst (f h) with pc := to' })
/-- A result, or no instruction. -/
def State.finOr (s : State) (len : Nat) (raw : Word) (f : Hart → Option Hart) : State :=
  match f (s.hart s.curHart) with
  | some h => s.fin len (fun _ => h)
  | none => s.illegal raw
def State.finX (s : State) (len : Nat) (raw w : Word) (v : Option Word) : State :=
  s.finOr len raw (fun h => v.map (fun x => hset (opRd w) x h))

/-! ## Loads and stores -/

/-- Bytes of a load or store, by the low two bits of funct3. -/
def accBytes (f3 : Nat) : Nat := 2 ^ (f3 % 4)

def State.rvLoad (s : State) (len : Nat) (raw w : Word) : State :=
  let n := accBytes (opF3 w)
  if opF3 w = 7 then s.illegal raw
  else
    s.hLoad (hx (s.hart s.curHart) (opRs1 w) + immI w) n (fun s v =>
      s.fin len (hset (opRd w) (if opF3 w < 4 then sxTo (8 * n) v else BitVec.ofNat 64 v)))

def State.rvStore (s : State) (len : Nat) (raw w : Word) : State :=
  let h := s.hart s.curHart
  if 4 ≤ opF3 w then s.illegal raw
  else s.hStore (hx h (opRs1 w) + immS w) (accBytes (opF3 w)) (hx h (opRs2 w)).toNat (fun s => s.fin len id)

/-- Floating-point loads and stores of halves, singles and doubles; other widths are the vector unit's. -/
def State.rvFpMem (s : State) (len : Nat) (raw w : Word) (store : Bool) : State :=
  let h := s.hart s.curHart
  let k := opF3 w
  let n := accBytes k
  if k = 0 ∨ 5 ≤ k then s.vMem raw w store (fun s => s.fin len id)
  else if k = 4 ∨ !(unitOn h 13) then s.illegal raw
  else if store then s.hStore (hx h (opRs1 w) + immS w) n (tget h.f 0 (opRs2 w).toNat).toNat (fun s => s.fin len id)
  else
    s.hLoad (hx h (opRs1 w) + immI w) n (fun s v =>
      s.fin len (fPut (opRd w) (fBox (match n with | 2 => 2 | 4 => 1 | _ => 0) v) 0))

/-! ## LR, SC and the AMOs -/

/-- The reservation of a hart: the 64-byte block it loaded from. -/
def State.reserve (s : State) (h pa : Nat) : State := { s with rsv := tset s.rsv h (pa / 64) }
def State.noReserve (s : State) (h : Nat) : State := { s with rsv := tdel s.rsv h }

/-- The physical address of an aligned access, or its exception. -/
def State.hOne (s : State) (h : Hart) (k : HKind) (reads : Bool) (va n : Nat) : Except HExc Nat :=
  if va % n ≠ 0 then .error (match k with | .load => 4 | _ => 6, va, 0) else s.hPiece1 h (accPriv h) k false reads va

def State.rvAmo (s : State) (len : Nat) (raw w : Word) : State :=
  let h := s.hart s.curHart
  let n := accBytes (opF3 w)
  let va := maskPtr h (accPriv h) (hx h (opRs1 w))
  let b := (hx h (opRs2 w)).toNat % 2 ^ (8 * n)
  let f5 := fld w 31 27
  let at' := fun (k : HKind) (reads : Bool) (f : Nat → State) =>
    match s.hOne h k reads va n with
    | .error e => s.accExc (accPriv h) e
    | .ok pa => f pa
  if opF3 w ≠ 2 ∧ opF3 w ≠ 3 then s.illegal raw
  else if f5 = 2 then
    (if opRs2 w ≠ 0 then s.illegal raw
     else at' .load true (fun pa => (s.reserve s.curHart pa).fin len (hset (opRd w) (sxTo (8 * n) (rdNat s.mem pa n)))))
  else if f5 = 3 then
    at' .store false (fun pa =>
      let ok := tfind s.rsv s.curHart == some (pa / 64)
      ((if ok then s.writePas [(pa, n)] b else s).noReserve s.curHart).fin len (hset (opRd w) (wofb (!ok))))
  else
    match amoFn f5 n 0 0 with
    | none => s.illegal raw
    | some _ =>
      at' .store true (fun pa =>
        let a := rdNat s.mem pa n
        (s.writePas [(pa, n)] ((amoFn f5 n a b).getD a)).fin len (hset (opRd w) (sxTo (8 * n) a)))

/-! ## Fences and cache blocks -/

/-- The field of the envcfg registers that lets a level operate on cache blocks: the exception where one forbids it. -/
def denyCbo (h : Hart) (hi lo : Nat) : Deny :=
  let off := fun (n : Nat) => fld (hcsr h n) hi lo == 0
  match h.priv with
  | .m => none
  | .hs => denyIf (off 0x30A) 2
  | .u => denyIf (off 0x30A || off 0x10A) 2
  | .vs => denyFirst [denyIf (off 0x30A) 2, denyIf (off 0x60A) 22]
  | .vu => denyFirst [denyIf (off 0x30A) 2, denyIf (off 0x60A || off 0x10A) 22]

/-- CBO.INVAL, CLEAN, FLUSH and ZERO: memory is coherent, so only ZERO changes it; the others need an address that may be read or written. -/
def State.rvCbo (s : State) (len : Nat) (raw w : Word) : State :=
  let h := s.hart s.curHart
  let p := accPriv h
  let va := maskPtr h p (hx h (opRs1 w))
  let k := fld w 31 20
  if opRd w ≠ 0 ∨ !(k == 0 || k == 1 || k == 2 || k == 4) then s.illegal raw
  else
    match (if k = 0 then denyCbo h 5 4 else if k = 4 then denyCbo h 7 7 else denyCbo h 6 6) with
    | some c => s.deny raw c
    | none =>
      let kind := if k ≠ 4 ∧ (hTrans s h p va .load false).toOption.isSome = true then HKind.load else HKind.store
      match s.hPiece1 h p kind false false va with
      | .error e => s.accExc p (if e.1 = 5 then 7 else e.1, e.2)
      | .ok pa => (if k = 4 then s.wrWs (pa / 64 * 64) (List.replicate 8 0) else s).fin len id

/-! ## SYSTEM -/

/-- A virtual-instruction exception at the levels of a guest, illegal at U. -/
def denyUser (h : Hart) : Deny := match h.priv with | .u => some 2 | .vu => some 22 | _ => none
/-- A bit of mstatus forbids the instruction at HS, one of hstatus at VS. -/
def denyTrap (h : Hart) (m v : Nat) : Deny :=
  match h.priv with | .hs => denyIf (bitOf h.mst m) 2 | .vs => denyIf (bitOf h.hst v) 22 | _ => denyUser h
/-- Instructions of the hypervisor. -/
def denyHyp (h : Hart) (tvm : Bool) : Deny :=
  match h.priv with | .m => none | .hs => denyIf (tvm && bitOf h.mst 20) 2 | .u => some 2 | _ => some 22

/-- An instruction that only orders, unless it is denied. -/
def State.orders (s : State) (len : Nat) (raw : Word) (d : Deny) : State :=
  match d with | some c => s.deny raw c | none => s.fin len id

/-- HLV, HLVX and HSV: an access at the guest's level that hstatus.SPVP names. -/
def State.rvGuestAcc (s : State) (len : Nat) (raw w : Word) : State :=
  let h := s.hart s.curHart
  let p := if bitOf h.hst 8 then Priv.vs else Priv.vu
  let va := maskPtr h p (hx h (opRs1 w))
  let n := 2 ^ (fld w 27 26)
  let r2 := (opRs2 w).toNat
  let hx' := r2 == 3
  let store := bitOf w 25
  let denied := match h.priv with | .m => none | .hs => none | .u => denyIf (!bitOf h.hst 9) 2 | _ => some 22
  if (if store then opRd w != 0 else !(r2 == 0 || (r2 == 1 && n != 8) || (r2 == 3 && (n == 2 || n == 4)))) then s.illegal raw
  else
    match denied with
    | some c => s.deny raw c
    | none =>
      if store then
        (match s.hStoreAt h p va n (hx h (opRs2 w)).toNat with
         | .error e => s.accExc p e
         | .ok s => s.fin len id)
      else
        (match s.hLoadAt h p hx' (if hx' then (hx h (opRs1 w)).toNat else va) n with
         | .error e => s.accExc p e
         | .ok v => s.fin len (hset (opRd w) (if r2 = 0 then sxTo (8 * n) v else BitVec.ofNat 64 v)))

/-- SYSTEM with funct3 0: the breakpoint, the returns, the waits, the fences of address translation. -/
def State.rvPriv (s : State) (len : Nat) (raw w : Word) : State :=
  let h := s.hart s.curHart
  let back := fun (d : Deny) (f : Hart → Hart) => match d with | some c => s.deny raw c | none => s.updHart s.curHart (fun h => f (countInst h))
  let bare := opRs1 w == 0 && opRd w == 0
  if opRd w ≠ 0 then s.illegal raw
  else
    match opF7 w, (opRs2 w).toNat, bare with
    | 0x00, 1, true => s.hartExc s.curHart 3 h.pc 0
    | 0x08, 2, true => back (denyTrap h 22 22) hartSret
    | 0x18, 2, true => back (if h.priv = .m then none else some 2) hartMret
    | 0x08, 5, true => if h.priv = .vu then s.deny raw (if bitOf h.mst 21 then 2 else 22) else s.fin len id
    | 0x00, 13, true => s.fin len id
    | 0x00, 29, true => s.fin len id
    | 0x0C, 0, true => s.orders len raw (denyUser h)
    | 0x0C, 1, true => s.orders len raw (denyUser h)
    | 0x09, _, _ => s.orders len raw (denyTrap h 20 20)
    | 0x0B, _, _ => s.orders len raw (denyTrap h 20 20)
    | 0x11, _, _ => s.orders len raw (denyHyp h false)
    | 0x13, _, _ => s.orders len raw (denyHyp h false)
    | 0x31, _, _ => s.orders len raw (denyHyp h true)
    | 0x33, _, _ => s.orders len raw (denyHyp h true)
    | _, _, _ => s.illegal raw

/-- SYSTEM with funct3 4: the accesses to a guest's memory, and Zimop, which writes 0. -/
def State.rvSys4 (s : State) (len : Nat) (raw w : Word) : State :=
  if bitOf w 31 ∧ fld w 29 28 = 0 ∧ (bitOf w 25 = true ∨ fld w 25 22 = 7) then s.fin len (hset (opRd w) 0)
  else if fld w 31 28 = 6 then s.rvGuestAcc len raw w
  else s.illegal raw

/-! ## A word -/

/-- An instruction that is no environment call: `w` its 32-bit word, `raw` its bits in memory, `len` its bytes. -/
def State.rvWord (s : State) (len : Nat) (raw w : Word) : State :=
  let h := s.hart s.curHart
  let a := hx h (opRs1 w)
  let b := hx h (opRs2 w)
  let next := h.pc + BitVec.ofNat 64 len
  let x := s.finX len raw w
  match fld w 6 0 with
  | 0x37 => x (some (immU w))
  | 0x17 => x (some (h.pc + immU w))
  | 0x6F => s.jump (h.pc + immJ w) (hset (opRd w) next)
  | 0x67 => if opF3 w = 0 then s.jump ((a + immI w) &&& ~~~1) (hset (opRd w) next) else s.illegal raw
  | 0x63 =>
    (match brTest (opF3 w) a b with
     | some t => s.jump (if t then h.pc + immB w else next) id
     | none => s.illegal raw)
  | 0x03 => s.rvLoad len raw w
  | 0x23 => s.rvStore len raw w
  | 0x13 => x (opImm w a)
  | 0x1B => x (opImm32 w a)
  | 0x33 => x (opReg (opF7 w) (opF3 w) a b)
  | 0x3B => x (opReg32 (opF7 w) (opF3 w) (opRs2 w).toNat a b)
  | 0x0F => (match opF3 w with | 0 => s.fin len id | 1 => s.fin len id | 2 => s.rvCbo len raw w | _ => s.illegal raw)
  | 0x2F => s.rvAmo len raw w
  | 0x07 => s.rvFpMem len raw w false
  | 0x27 => s.rvFpMem len raw w true
  | 0x43 => s.finOr len raw (fun h => if unitOn h 13 then fusedOp w h else none)
  | 0x47 => s.finOr len raw (fun h => if unitOn h 13 then fusedOp w h else none)
  | 0x4B => s.finOr len raw (fun h => if unitOn h 13 then fusedOp w h else none)
  | 0x4F => s.finOr len raw (fun h => if unitOn h 13 then fusedOp w h else none)
  | 0x53 => s.finOr len raw (fun h => if unitOn h 13 then fpOp w h else none)
  | 0x57 => { s with freeC := s.freeC + 2 }.finOr len raw (vecOp s.freeC w)
  | 0x73 => (match opF3 w with | 0 => s.rvPriv len raw w | 4 => s.rvSys4 len raw w | _ => s.rvCsr w)
  | _ => s.illegal raw

end Sys2Proof.Machine
end

