-- ==== Sys2Proof/Machine/Mover.lean ====
section
/-! DEFINITION. One step of each mover (log 1): the arbiter of a tile, a hart with the fetch of its word, an event of the table, and the
end of an fc. -/

namespace Sys2Proof.Machine

/-! ## Tiles -/

/-- The instruction a tile's arbiter fires now (R18-R20): its slot and the instruction its word decodes to. -/
def State.tilePick (s : State) (rid key : Nat) : Option (Nat × Instr) :=
  match s.region? rid with
  | none => none
  | some r =>
    if tileLive r key then
      match arbiter r key with
      | none => none
      | some n => (match decodeSlot (tget (r.ct key).slots 0 n) with | .ok i => some (n, i) | .error _ => none)
    else none

/-- The place of a PE instruction about to run. -/
def State.at' (s : State) (rid key slot : Nat) : State := { s with curRid := rid, curKey := key, curSlot := slot }

/-- A slot that fired waits no more (R29). -/
def State.afterSlot (s : State) (rid key slot : Nat) : State :=
  if ((s.region rid).ct key).fired then s.endWait rid key slot else s

/-- What a step answers, mapped. -/
def onNext (f : State → State) (o : Res) : Res := match o with | .next s => .next (f s) | .fault e => .fault e | .refused e => .refused e

/-- One tile: its arbiter's choice runs. Once the commits of the fc have begun no PE fires (R21). -/
def State.tileStep (s : State) (rid key : Nat) : Res :=
  if s.ending then .next s
  else
    match s.tilePick rid key with
    | none => .next s
    | some (n, i) => onNext (fun s => s.afterSlot rid key n) (exec i (s.at' rid key n))

/-- The state a step leaves, or the state itself where it stops. -/
def nextOr (s : State) (o : Res) : State := match o with | .next t => t | _ => s

/-- THE FIRINGS OF THE FC END (R20, R21): every tile that has not fired and can fires; from here to the end of the fc none does. -/
def State.commits (s : State) : State :=
  if s.ending then s
  else
    let places := (s.regions.map (fun r => r.2.keys.map (fun k => (r.1, k)))).flatten
    { places.foldl (fun s x => nextOr s (s.tileStep x.1 x.2)) s with ending := true }

/-! ## Harts -/

/-- The instruction an environment call of the hypervisor stands for (R431, R458): by a7 and a6. -/
def callOf (h : Hart) : Option Instr :=
  if hx h 17 = eidPart then
    (match (hx h 16).toNat with
     | 0 => some .partSet
     | 1 => some .partGet
     | 2 => some .partSeal
     | 3 => some .partReset
     | 4 => some .linkGet
     | _ => none)
  else if hx h 17 = eidAtt then
    (match (hx h 16).toNat with
     | 0 => some .attReport
     | 1 => some .attExtend
     | _ => none)
  else none

/-- ECALL (log 10): the hypervisor's calls; an unknown function of theirs is denied or not supported (R429, R458), any other of SBI does not
exist here; from M, from a user level and, outside these calls, from VS it is the environment call exception of that level. -/
def State.ecall (s : State) : Res :=
  let h := s.hart s.curHart
  let ours := hx h 17 == eidPart || hx h 17 == eidAtt
  match h.priv, callOf h with
  | .m, _ => .next (s.hartExc s.curHart 11 0 0)
  | _, some i => exec i s
  | .hs, none => .next (s.sbiRet (if ours && (decide (192 ≤ s.curHart) || !s.dev.hcob.getLsbD s.curHart) then sbiDenied else sbiNotSupported) 0)
  | .vs, none => .next (if ours then s.sbiRet sbiDenied 0 else s.hartExc s.curHart 10 0 0)
  | _, none => .next (s.hartExc s.curHart 8 0 0)

/-- An instruction that is no row of the table (R318). -/
def State.riscv (s : State) (len : Nat) (raw w : Word) : Res := if w = 0x73 then s.ecall else after (s.rvWord len raw w)

/-- The regions an Xcarnar instruction of the current hart acts on: by its RID, its RCB, or the entry it names (R329, R334, R337). -/
def State.crnRids (s : State) (f7 : Nat) (x : Xr) : List Nat :=
  let h := s.hart s.curHart
  let a := hx h x.rs1
  let b := hx h x.rs2
  let ofRcb := match s.trOf { hart := s.curHart, vs := isVirt h.priv } a.toNat with
    | some pa => if isDram pa then [fld (s.rdW pa) 63 52] else []
    | none => []
  match f7 with
  | 0 => ofRcb
  | 2 => fld b 11 0 :: ofRcb
  | 3 => [fld a 11 0, fld b 11 0]
  | 8 => ofRcb
  | 12 => [fld a 63 52]
  | 13 => [fld a 63 52]
  | 16 => (match tfind s.wft a.toNat with | some e => [e.rid] | none => [])
  | 17 => (match tfind s.wft a.toNat with | some e => [e.rid] | none => [])
  | _ => [fld a 11 0]

/-- An instruction of the current hart; an operation on a region in the order of R326: one that comes after an operation of a later hart
in the same fc waits for the next. -/
def State.runInsn (s : State) (i : Instr) : Res :=
  match crnCode i with
  | none => exec i s
  | some (f7, x) =>
    let rids := s.crnRids f7 x
    if rids.any (s.crnLate s.curHart) then .next s
    else exec i (rids.foldl (fun s r => s.crnMark r s.curHart) s)

/-- The instruction a hart fetched runs on it: its bits and its length. -/
def State.runWord (s : State) (len bits : Nat) : Res :=
  let raw := BitVec.ofNat 64 bits
  if len = 2 then
    match expandC bits with
    | some w => s.riscv 2 raw (BitVec.ofNat 64 w)
    | none => .next (s.illegal raw)
  else
    match decodeHart (BitVec.ofNat 32 bits) with
    | .ok i => s.runInsn i
    | .error .illegal => .next (s.illegal raw)
    | .error _ => s.riscv 4 raw raw

/-- One instruction of a hart that runs, or a standard interrupt before it. -/
def State.hartStep (s : State) (n : Nat) : Res :=
  let h := s.hart n
  if s.dev.power ≠ .on ∨ Config.harts ≤ n ∨ h.stopped = true then .next s
  else
    match ({ s with curHart := n } : State).stdInt n with
    | (s, true) => .next s
    | (s, false) =>
      match s.fetch h with
      | .error e => .next (s.accExc h.priv e)
      | .ok (bits, len) => s.runWord len bits

/-! ## Events -/

/-- Rows that are neither a slot's nor a hart's word. -/
def isEvent (i : Instr) : Bool := (encode i).isNone

/-- Events of the management side and of power, which happen in every power state (R447, R459). -/
def isMgmt (i : Instr) : Bool :=
  match i with
  | .power48vOn => true
  | .powerEnable _ => true
  | .powerStandby _ => true
  | .power48vOff => true
  | .resetN => true
  | .mgmtReadDescriptor _ => true
  | .mgmtVfReset _ _ => true
  | .mgmtDeviceReset _ => true
  | .mgmtSetHypervisor _ _ => true
  | .pldmSensorRead _ => true
  | .pldmFruRead _ => true
  | .pldmBase _ => true
  | .pldmPowerCap _ => true
  | .pldmFirmwareUpdate _ => true
  | _ => false

/-- Events of the links, which train while the main side comes up (R459 step 3). -/
def isTrain (i : Instr) : Bool :=
  match i with
  | .linkTrain _ _ _ => true
  | .linkLoss _ => true
  | _ => false

/-- An event happens, while the side of the device it belongs to has power. -/
def State.eventStep (s : State) (e : Instr) : Res :=
  if isEvent e && (isMgmt e || s.dev.power == .on || (s.dev.rise && isTrain e)) then exec e s else .next s

/-! ## Any mover -/

/-- ONE STEP OF A MOVER. All but a tile begin the commits of the fc (R21). -/
def State.move (s : State) (m : Mover) : Res :=
  match m with
  | .tile rid key => s.tileStep rid key
  | .hart h => s.commits.hartStep h
  | .event e => s.commits.eventStep e
  | .tick => .next s.commits.tick

/-! ## Placing a word for the host -/

/-- A region of one page whose CT 0 holds a word in slot 0 and runs. -/
def probeRegion (w : Word) : Region :=
  { rid := 1, st := rRunning, res := true, w := 1, h := 1, tiles := [(0, { act := { ct := { slots := [(0, w)] } } })] }

/-- Place a word of the table where the next step runs it: eight bytes in a slot of a tile, fewer at hart 0's pc. -/
def State.place' (s : State) (nbits w : Nat) : State :=
  if nbits = 64 then { s with agenda := [.tile 1 0], ending := false, regions := tset s.regions 1 (probeRegion (BitVec.ofNat 64 w)) }
  else { s with agenda := [.hart 0], mem := wrNat s.mem (s.hart 0).pc.toNat 4 w }

end Sys2Proof.Machine
end

