-- ==== Sys2Proof/Machine/Step.lean ====
section
/-! DEFINITION. One step of the machine: the first mover of the agenda moves; with none left the fc ends (log 1). -/

namespace Sys2Proof.Machine

def step (s : State) : Host.Outcome State Fault Refusal :=
  match s.agenda with
  | [] => s.move .tick
  | m :: rest => { s with agenda := rest }.move m

/-- The state in which the next step runs the word of a table row (log 13). -/
def State.withFetchWord (s : State) (nbits w : Nat) : State := s.place' nbits w

end Sys2Proof.Machine
end

