-- ==== Sys2Proof/Safety.lean ====
section
/-! DEFINITION. The vocabulary of the claims: what it means that a PE instruction fires and what its firing leaves, the result of each
instruction written from its table of the spec, and the memory invariant of a safe run. -/

namespace Sys2Proof.Machine

/-! ## A firing (R18-R24, R145) -/

/-- The instruction of the current slot fires now (R18-R20): its region is there, the tile is live, the slot triggered and ready. -/
def Fires (s : State) (op : Nat) (t : Ti) (r : Region) : Prop :=
  tfind s.regions s.curRid = some r ∧ canFire s.here op t r = true

/-- The operands of the current slot. -/
def State.opnds (s : State) (op : Nat) (t : Ti) (r : Region) : Opnds := opndsOf r s.curKey op t

/-- Neither operand is poisoned. -/
def CleanAB (s : State) (op : Nat) (t : Ti) (r : Region) : Prop :=
  (s.opnds op t r).a.pois = false ∧ (s.opnds op t r).b.pois = false

/-- The state after a firing whose writes gave region r'. -/
def State.fired (s : State) (pops : List Nat) (r' : Region) : State := s.setRegion s.curRid (afterFire s.here pops r')

/-- A single-cycle firing retires: the value to its destination with a mark and a colour, the predicate update, the pops. -/
def State.retiredM (s : State) (op : Nat) (t : Ti) (r : Region) (v : Val) (mark : BitVec 2) (col : BitVec 10) (cond : Bool) : State :=
  s.fired (popsOf op t) ((deliverS s.fc r s.curKey op t v mark col).updCt s.curKey (fun c => predUpd c t cond))

/-- A single-cycle firing retires with the mark of its OM field and the colour of its source (R33, R114). -/
def State.retired (s : State) (op : Nat) (t : Ti) (r : Region) (v : Val) (cond : Bool) : State :=
  s.retiredM op t r v t.om (colourOf r s.curKey op t) cond

/-- A long operation starts (R22). -/
def State.started (s : State) (op : Nat) (t : Ti) (r : Region) (o : PendOp) : State :=
  s.fired (popsOf op t) (startOp s.here op t o r)

/-- A firing is cancelled by a trap: the record, the request to freeze, nothing popped, nothing written (R24, R396, R397). -/
def State.trapped (s : State) (r : Region) (e : TrapInfo) : State :=
  s.setRegion s.curRid ((r.raise { e with key := s.curKey, slot := s.curSlot, src := 0, tiw := slotWord r s.here }).updCt s.curKey
    (fun c => { c with fired := true, halted := true }))

/-! ## Integer results (R62, R63, R150-R153), from the tables of the spec over integers -/

/-- Signed minimum and all ones. -/
def intMin64 : Word := BitVec.ofNat 64 (2 ^ 63)
def ones64 : Word := BitVec.ofNat 64 (2 ^ 64 - 1)

/-- Single-cycle integer instructions: opcode, fields, result. -/
def aluOf (i : Instr) : Option (Nat × Ti × (Word → Word → Word)) :=
  match i with
  | .add t => some (0x02, t, fun a b => BitVec.ofNat 64 (a.toNat + b.toNat))
  | .sub t => some (0x03, t, fun a b => BitVec.ofInt 64 (a.toInt - b.toInt))
  | .addw t => some (0x04, t, fun a b => BitVec.ofInt 64 (((a.toNat : Int) + b.toNat).bmod (2 ^ 32)))
  | .subw t => some (0x05, t, fun a b => BitVec.ofInt 64 (((a.toNat : Int) - b.toNat).bmod (2 ^ 32)))
  | .and t => some (0x0D, t, fun a b => a &&& b)
  | .or t => some (0x0E, t, fun a b => a ||| b)
  | .xor t => some (0x0F, t, fun a b => a ^^^ b)
  | .andn t => some (0x10, t, fun a b => a &&& ~~~b)
  | .shl t => some (0x11, t, fun a b => BitVec.ofNat 64 (a.toNat * 2 ^ (b.toNat % 64)))
  | .shr t => some (0x12, t, fun a b => BitVec.ofNat 64 (a.toNat / 2 ^ (b.toNat % 64)))
  | .sar t => some (0x13, t, fun a b => BitVec.ofInt 64 (a.toInt / 2 ^ (b.toNat % 64)))
  | .rol t => some (0x14, t, fun a b => (a <<< (b.toNat % 64)) ||| (a >>> (64 - b.toNat % 64)))
  | .clz t => some (0x15, t, fun a _ => BitVec.ofNat 64 ((List.range 64).countP (fun k => decide (a.toNat < 2 ^ k))))
  | .ctz t => some (0x16, t, fun a _ => BitVec.ofNat 64 ((List.range 64).countP (fun k => a.toNat % 2 ^ (k + 1) == 0)))
  | .popc t => some (0x17, t, fun a _ => BitVec.ofNat 64 ((List.range 64).countP (fun k => a.getLsbD k)))
  | .min t => some (0x18, t, fun a b => if a.toInt < b.toInt then a else b)
  | .max t => some (0x19, t, fun a b => if a.toInt < b.toInt then b else a)
  | .minu t => some (0x1A, t, fun a b => BitVec.ofNat 64 (Nat.min a.toNat b.toNat))
  | .maxu t => some (0x1B, t, fun a b => BitVec.ofNat 64 (Nat.max a.toNat b.toNat))
  | .bext t => some (0x1C, t, fun a b => BitVec.ofNat 64 (a.toNat / 2 ^ (b.toNat % 64) % 2 ^ fieldLen b))
  | .sext t => some (0x28, t, fun a b => BitVec.ofInt 64 ((a.toNat : Int).bmod (2 ^ extLen b)))
  | .zext t => some (0x29, t, fun a b => BitVec.ofNat 64 (a.toNat % 2 ^ extLen b))
  | _ => none

/-- Compares and tests (R153): opcode, fields, test. -/
def cmpOf (i : Instr) : Option (Nat × Ti × (Word → Word → Prop)) :=
  match i with
  | .cmpeq t => some (0x20, t, fun a b => a = b)
  | .cmpne t => some (0x21, t, fun a b => a ≠ b)
  | .cmplt t => some (0x22, t, fun a b => a.toInt < b.toInt)
  | .cmpltu t => some (0x23, t, fun a b => a.toNat < b.toNat)
  | .cmple t => some (0x24, t, fun a b => a.toInt ≤ b.toInt)
  | .cmpleu t => some (0x25, t, fun a b => a.toNat ≤ b.toNat)
  | .tstb t => some (0x26, t, fun a b => a.getLsbD (b.toNat % 64) = true)
  | .tstand t => some (0x27, t, fun a b => a &&& b ≠ 0)
  | _ => none

/-- Long integer instructions (R63, R146, R150): opcode, fields, latency, result. -/
def longOf (i : Instr) : Option (Nat × Ti × Nat × (Word → Word → Word)) :=
  match i with
  | .mul t => some (0x06, t, 3, fun a b => BitVec.ofNat 64 (a.toNat * b.toNat))
  | .mulh t => some (0x07, t, 3, fun a b => BitVec.ofInt 64 (a.toInt * b.toInt / 2 ^ 64))
  | .mulhu t => some (0x08, t, 3, fun a b => BitVec.ofNat 64 (a.toNat * b.toNat / 2 ^ 64))
  | .div t => some (0x09, t, 18, fun a b =>
      if b = 0 then ones64 else if a = intMin64 ∧ b = ones64 then intMin64 else BitVec.ofInt 64 (a.toInt.tdiv b.toInt))
  | .divu t => some (0x0A, t, 18, fun a b => if b = 0 then ones64 else BitVec.ofNat 64 (a.toNat / b.toNat))
  | .rem t => some (0x0B, t, 18, fun a b =>
      if b = 0 then a else if a = intMin64 ∧ b = ones64 then 0 else BitVec.ofInt 64 (a.toInt.tmod b.toInt))
  | .remu t => some (0x0C, t, 18, fun a b => if b = 0 then a else BitVec.ofNat 64 (a.toNat % b.toNat))
  | _ => none

/-- Instructions that give a value whatever their operands' poison (R147, R150, R152, R156, R157, R159, R162, R169, R228, R246):
opcode, fields, value and cond. -/
def valueOf (i : Instr) (s : State) (r : Region) : Option (Nat × Ti × Val × Bool) :=
  let c := r.ct s.curKey
  match i with
  | .nop t => some (0x00, t, {}, false)
  | .mov t => some (0x01, t, (s.opnds 0x01 t r).a, (s.opnds 0x01 t r).a.bits != 0)
  | .sel t =>
    let v := if predOf c (t.imm.toNat % 16) then (s.opnds 0x1E t r).a else (s.opnds 0x1E t r).b
    some (0x1E, t, v, v.bits != 0)
  | .drop t => some (0x31, t, {}, false)
  | .mark t =>
    let m := (aHead r s.curKey 0x32 t).mark
    some (0x32, t, { bits := BitVec.ofNat 64 m.toNat }, m != 0)
  | .join t =>
    let o := s.opnds 0x34 t r
    some (0x34, t, { bits := o.a.bits, pois := o.a.pois || o.b.pois }, o.a.bits == o.b.bits)
  | .cntrd t =>
    let k := (kGet c (t.imm.toNat % 4)).val
    some (0x37, t, { bits := BitVec.ofNat 64 k.toNat }, k != 0)
  | .colr t =>
    let k := colourOf r s.curKey 0x3B t
    some (0x3B, t, { bits := BitVec.ofNat 64 k.toNat }, k != 0)
  | .prd t => some (0x3C, t, { bits := predWord c }, predWord c != 0)
  | .hwait t => some (0xD4, t, {}, true)
  | .hstat t =>
    let h := hselState r s.curKey (t.imm.toNat % 32)
    some (0xD8, t, { bits := BitVec.ofNat 64 h.toNat }, h != 0)
  | .rdcyc t =>
    let v := if t.imm.getLsbD 0 then (s.part r.part).slice else r.rcyc
    some (0xF4, t, { bits := v }, v != 0)
  | _ => none

/-! ## Counters (R26, R27, R160) -/

/-- An increment of counter m wraps it. -/
def kWraps (c : Ct) (m : Nat) : Bool := (kGet c m).run && decide ((kGet c m).val.toNat + 1 = kLim (tget c.kcfg 0 m))

/-- Counter m after an increment: it stands while ARMED; on a wrap V is 0, and RUN ends where the counter stops at its end. -/
def kNext (c : Ct) (m : Nat) : Ctr :=
  if (kGet c m).run = false then kGet c m
  else if kWraps c m then { val := 0, run := !bitOf (tget c.kcfg 0 m) 24 } else { val := (kGet c m).val + 1, run := true }

/-- An increment of counter n reaches counter m: m is n, or m chains from a lower counter that the increment reaches and wraps. -/
def kHit (fuel : Nat) (c : Ct) (n m : Nat) : Bool :=
  match fuel with
  | 0 => m == n
  | f + 1 =>
    let src := fld (tget c.kcfg 0 m) 29 28
    m == n || (fld (tget c.kcfg 0 m) 31 30 == 1 && decide (src < m) && kWraps c src && kHit f c n src)

/-- The finish pulses that an increment of counter n sends to input ci of tile k2: one for each route word of the output that a counter wrapped by it
names. -/
def kPulses (p : Plane) (c : Ct) (n k2 ci : Nat) : Nat :=
  (([0, 1, 2, 3].filter (fun m => kHit 4 c n m && kWraps c m && bitOf (tget c.kcfg 0 m) 23)).map (fun m =>
    (tget p.croute [] (fld (tget c.kcfg 0 m) 22 21)).countP (fun w => keyOf (fld w 63 54) (fld w 53 50) == k2 && fld w 49 48 == ci))).sum

/-! ## Scalar floating point (R173-R180) -/

/-- Rounding float instructions: opcode, fields, latency, whether they read the old destination (R176). -/
def floatOf (i : Instr) : Option (Nat × Ti × Nat × Bool) :=
  match i with
  | .faddD t => some (0x40, t, 4, false)
  | .fsubD t => some (0x41, t, 4, false)
  | .fmulD t => some (0x42, t, 4, false)
  | .ffmaD t => some (0x43, t, 4, true)
  | .fdivD t => some (0x46, t, 24, false)
  | .fsqrtD t => some (0x47, t, 30, false)
  | .faddS t => some (0x48, t, 4, false)
  | .fsubS t => some (0x49, t, 4, false)
  | .fmulS t => some (0x4A, t, 4, false)
  | .ffmaS t => some (0x4B, t, 4, true)
  | .fdivS t => some (0x4E, t, 12, false)
  | .fsqrtS t => some (0x4F, t, 14, false)
  | .fcvt t => some (0x54, t, 4, false)
  | .fcvti t => some (0x55, t, 4, false)
  | .icvtf t => some (0x56, t, 4, false)
  | .fexp2S t => some (0x57, t, 6, false)
  | .flog2S t => some (0x58, t, 6, false)
  | .frcpS t => some (0x59, t, 6, false)
  | .frsqS t => some (0x5A, t, 6, false)
  | _ => none

/-- What a rounding float instruction rounds: format, mode, saturation, whether it is a narrowing conversion, and the exact value (R61, R177, R179).
FCVTI and a conversion to E8M0 do not round to a float and stand apart. -/
def floatExact (op : Nat) (t : Ti) (c : Ct) (a b d : Word) : Option (Nat × Nat × Bool × Bool × RVal) :=
  let x := fun (f : Nat) (w : Word) => fdec f (w.toNat % 2 ^ fmtW f)
  let m := if t.imm.getLsbD 7 then t.imm.toNat / 16 % 8 else fld c.mode 63 61
  let cv := if t.sb.getLsbD 3 then t.sb.toNat % 8 else fld c.mode 63 61
  let hi := t.imm.toNat / 16
  let lo := t.imm.toNat % 16
  match op with
  | 0x40 => some (0, m, false, false, addVals m (x 0 a) (x 0 b))
  | 0x41 => some (0, m, false, false, addVals m (x 0 a) (x 0 b).neg)
  | 0x42 => some (0, m, false, false, mulVals (x 0 a) (x 0 b))
  | 0x43 => some (0, m, false, false, addVals m (mulVals (x 0 a) (x 0 b)) (x 0 d))
  | 0x46 => some (0, m, false, false, divVals (x 0 a) (x 0 b))
  | 0x47 => some (0, m, false, false, sqrtVal (x 0 a))
  | 0x48 => some (1, m, false, false, addVals m (x 1 a) (x 1 b))
  | 0x49 => some (1, m, false, false, addVals m (x 1 a) (x 1 b).neg)
  | 0x4A => some (1, m, false, false, mulVals (x 1 a) (x 1 b))
  | 0x4B => some (1, m, false, false, addVals m (mulVals (x 1 a) (x 1 b)) (x 1 d))
  | 0x4E => some (1, m, false, false, divVals (x 1 a) (x 1 b))
  | 0x4F => some (1, m, false, false, sqrtVal (x 1 a))
  | 0x54 =>
    if hi ≤ 8 then some (hi, cv, t.sb.getLsbD 4, decide (fmtW hi < fmtW lo ∨ (fmtW hi = fmtW lo ∧ hi ≠ lo)), edec lo (a.toNat % 2 ^ fmtW lo)) else none
  | 0x56 =>
    let i := itVal hi a
    some (lo, cv, t.sb.getLsbD 4, true, .fin (decide (i < 0)) (.dyad i.natAbs 0))
  | 0x57 => some (1, 0, false, false, exp2Val (x 1 a))
  | 0x58 => some (1, 0, false, false, log2Val (x 1 a))
  | 0x59 => some (1, 0, false, false, rcpVal (x 1 a))
  | 0x5A => some (1, 0, false, false, rsqVal (x 1 a))
  | _ => none

/-- Single-cycle float instructions (R178-R180): opcode, fields, the format of the operands, result and cond. -/
def floatAluOf (i : Instr) : Option (Nat × Ti × Nat × (Nat → Nat → Nat × Bool)) :=
  let nz := fun (n : Nat) => (n, n != 0)
  let tst := fun (b : Bool) => (if b then 1 else 0, b)
  match i with
  | .fminD t => some (0x44, t, 0, fun a b => nz (fMin 0 a b))
  | .fmaxD t => some (0x45, t, 0, fun a b => nz (fMax 0 a b))
  | .fminS t => some (0x4C, t, 1, fun a b => nz (fMin 1 a b))
  | .fmaxS t => some (0x4D, t, 1, fun a b => nz (fMax 1 a b))
  | .fcmpeq t => some (0x50, t, t.imm.toNat % 2, fun a b => tst (fEq (t.imm.toNat % 2) a b))
  | .fcmplt t => some (0x51, t, t.imm.toNat % 2, fun a b => tst (fLt (t.imm.toNat % 2) a b))
  | .fcmple t => some (0x52, t, t.imm.toNat % 2, fun a b => tst (fLe (t.imm.toNat % 2) a b))
  | .fcmpun t => some (0x53, t, t.imm.toNat % 2, fun a b => tst (fUn (t.imm.toNat % 2) a b))
  | .fclass t => some (0x5B, t, t.imm.toNat % 16, fun a _ => (2 ^ fClass (t.imm.toNat % 16) a, true))
  | _ => none

/-! ## Vectors (R181-R193) -/

/-- Long vector instructions: opcode, fields, latency (R183). -/
def vecLongOf (i : Instr) : Option (Nat × Ti × Nat) :=
  match i with
  | .vadd t => some (0x60, t, 4)
  | .vsub t => some (0x61, t, 4)
  | .vmul t => some (0x62, t, 4)
  | .vfma t => some (0x63, t, 4)
  | .vmin t => some (0x64, t, 4)
  | .vmax t => some (0x65, t, 4)
  | .vabs t => some (0x66, t, 4)
  | .vneg t => some (0x67, t, 4)
  | .vexp2 t => some (0x68, t, 8)
  | .vrcp t => some (0x69, t, 8)
  | .vrsq t => some (0x6A, t, 8)
  | .vlog2 t => some (0x6B, t, 8)
  | .vcvt t => some (0x6C, t, 4)
  | .vredsum t => some (0x6D, t, 6)
  | .vredmax t => some (0x6E, t, 6)
  | .vredmin t => some (0x6F, t, 6)
  | .vlrec t => some (0x80, t, laneCount (fmtOf t) + 4)
  | .vscan t => some (0x81, t, laneCount (fmtOf t) + 4)
  | _ => none

/-- Single-cycle vector instructions: opcode, fields. -/
def vecOf (i : Instr) : Option (Nat × Ti) :=
  match i with
  | .vand t => some (0x70, t)
  | .vor t => some (0x71, t)
  | .vxor t => some (0x72, t)
  | .vshl t => some (0x73, t)
  | .vshr t => some (0x74, t)
  | .vsar t => some (0x75, t)
  | .vcmpeq t => some (0x76, t)
  | .vcmplt t => some (0x77, t)
  | .vcmple t => some (0x78, t)
  | .vsel t => some (0x79, t)
  | .vbcast t => some (0x7A, t)
  | .vextr t => some (0x7B, t)
  | .vins t => some (0x7C, t)
  | .vshuf t => some (0x7D, t)
  | .vpack t => some (0x7E, t)
  | .vunpk t => some (0x7F, t)
  | .vmov t => some (0x82, t)
  | _ => none

/-- The exact lane of an integer format (R185), and the exact value that a float lane rounds (R185, R186). -/
def laneInt (op : Nat) (x y z : Int) : Int :=
  match op with
  | 0x60 => x + y | 0x61 => x - y | 0x62 => x * y | 0x63 => x * y + z | 0x64 => min x y | 0x65 => max x y | 0x66 => x.natAbs | _ => -x
def laneVal (op m : Nat) (x y z : RVal) : RVal :=
  match op with
  | 0x60 => addVals m x y | 0x61 => addVals m x y.neg | 0x62 => mulVals x y | 0x63 => addVals m (mulVals x y) z
  | 0x68 => exp2Val x | 0x69 => rcpVal x | 0x6A => rsqVal x | _ => log2Val x

/-- One active lane of OPs 0x60-0x6B with the SR state after it (R58, R62, R185, R186; log 29). -/
def laneOut (op : Nat) (t : Ti) (m : Nat) (sr : BitVec 32) (a b d : Nat) : Nat × BitVec 32 :=
  let f := fmtOf t
  if 9 ≤ f then
    (intLane f (satOf t) (laneInt op (idec f a) (idec f b) (idec f d)), if op ≤ 0x63 ∧ m = 5 then srStep sr else sr)
  else if op = 0x64 then (fMin f a b, sr)
  else if op = 0x65 then (fMax f a b, sr)
  else if op = 0x66 then (if (fdec f a).isNan then fmtNaN f else a % fmtSign f, sr)
  else if op = 0x67 then (if (fdec f a).isNan then fmtNaN f else (a + fmtSign f) % (2 * fmtSign f), sr)
  else rnd f (if 0x68 ≤ op then 0 else m) (satOf t) false sr (laneVal op m (fdec f a) (fdec f b) (fdec f d))

/-- One lane of a single-cycle vector instruction that writes lanes, with its poison (R182, R191-R193). -/
def vecLane (op : Nat) (t : Ti) (x : VIn) (i : Nat) : Nat × Bool :=
  let f := fmtOf t
  let n := laneCount f
  let w := fmtW f
  let of := fun (v : VVal) (k : Nat) => (lane f v.bits k, lanePois f v k)
  let a := lane f x.a.bits i
  let b := lane f x.b.bits i
  let j := x.j.bits.toNat % 128 % n
  if op = 0x79 then (if x.mask.getLsbD i then of x.a i else of x.b i)
  else if op = 0x7C then (if i = j then of x.a 0 else of x.d i)
  else if x.mask.getLsbD i = false then (if t.dst.toNat ≤ 7 then of x.d i else (0, false))
  else if op = 0x70 then (a &&& b, false)
  else if op = 0x71 then (a ||| b, false)
  else if op = 0x72 then (a ^^^ b, false)
  else if op = 0x73 then (a * 2 ^ (b % w) % 2 ^ w, false)
  else if op = 0x74 then (a / 2 ^ (b % w), false)
  else if op = 0x75 then (if 2 ^ (w - 1) ≤ a then a / 2 ^ (b % w) + (2 ^ w - 2 ^ (w - b % w)) else a / 2 ^ (b % w), false)
  else if op = 0x7A then of x.a j
  else if op = 0x7D then of x.a (b % 128 % n)
  else if op = 0x7E then (if i < n / 2 then of x.a i else of x.b (i - n / 2))
  else if op = 0x7F then (if i < n / 2 then of x.a (i + n / 2) else (0, false))
  else of x.a i

/-! ## Memory (R217, R220-R227, R233-R238) -/

/-- Address of the +IMM8 form, and of the indexed form (R108, R217, R222). -/
def eaPlus (t : Ti) (o : Opnds) : Word := BitVec.ofInt 64 (o.a.bits.toInt + 8 * t.imm.toInt)
def eaIndex (t : Ti) (o : Opnds) : Word := BitVec.ofNat 64 (o.a.bits.toNat + o.b.bits.toNat * 2 ^ (t.imm.toNat % 4))

/-- Memory instructions: opcode, fields, whether they consume b, and what they ask of the home. -/
def memOf (i : Instr) : Option (Nat × Ti × Bool × (Opnds → MemReq)) :=
  let at8 := fun (t : Ti) (rights : List Nat) (op : Opnds → MOp) (o : Opnds) => ({ ea := eaPlus t o, rights := rights, op := op o } : MemReq)
  let atom := fun (t : Ti) (f : Rmw) => at8 t [bR, bW, bA] (fun o => .rmw f 8 true o.b {})
  match i with
  | .ld t => some (0xC0, t, false, fun o => { ea := eaPlus t o, rights := [bR], frame := true, op := .read 8 })
  | .st t => some (0xC1, t, false, fun o => { ea := eaPlus t o, rights := [bW], frame := true, wr := true, op := .write 8 o.b })
  | .ldw t => some (0xC2, t, false, fun o =>
      { ea := o.a.bits, n := 2 ^ (t.imm.toNat % 4), rights := [bR], frame := true, op := .read (2 ^ (t.imm.toNat % 4)) })
  | .stw t => some (0xC3, t, false, fun o =>
      { ea := o.a.bits, n := 2 ^ (t.imm.toNat % 4), rights := [bW], frame := true, wr := true, op := .write (2 ^ (t.imm.toNat % 4)) o.b })
  | .ldp t => some (0xC4, t, false, at8 t [bR, bP] (fun _ => .ldp))
  | .stp t => some (0xC5, t, false, fun o => { ea := eaPlus t o, rights := [bW, bP], op := .stp o.b, rel := true })
  | .clrp t => some (0xC6, t, false, at8 t [bW, bP] (fun _ => .clrp))
  | .ldne t => some (0xC7, t, true, at8 t [bR, bP] (fun o => .ldne o.b.bits))
  | .atadd t => some (0xC8, t, true, atom t .add)
  | .atmin t => some (0xC9, t, true, atom t .min)
  | .atmax t => some (0xCA, t, true, atom t .max)
  | .atand t => some (0xCB, t, true, atom t .and)
  | .ator t => some (0xCC, t, true, atom t .or)
  | .atxor t => some (0xCD, t, true, atom t .xor)
  | .atxchg t => some (0xCE, t, false, atom t .xchg)
  | .atcas t => some (0xCF, t, true, at8 t [bR, bW, bA] (fun o => .rmw .cas 8 true o.b o.d))
  | .redadd t => some (0xD0, t, true, at8 t [bW, bA] (fun o => .rmw .add 8 false o.b {}))
  | .redfadd t => some (0xD1, t, true, fun o =>
      { ea := o.a.bits, n := if t.imm.getLsbD 0 then 4 else 8, rights := [bW, bA], op := .rmw .fadd (if t.imm.getLsbD 0 then 4 else 8) false o.b {} })
  | .gath t => some (0xD2, t, true, fun o =>
      { ea := eaIndex t o, n := 2 ^ (t.imm.toNat % 4), rights := [bR], frame := true, op := .read (2 ^ (t.imm.toNat % 4)) })
  | .scat t => some (0xD3, t, true, fun o =>
      { ea := eaIndex t o, n := 2 ^ (t.imm.toNat % 4), rights := [bW], frame := true, wr := true, op := .write (2 ^ (t.imm.toNat % 4)) o.d })
  | .wreg t => some (0xDA, t, false, fun o => { ea := o.a.bits, rights := [bR], op := .read 8 })
  | .whold t => some (0xDB, t, false, fun o => { ea := o.a.bits, rights := [bR], op := .read 8 })
  | .wdrop t => some (0xDC, t, false, fun o => { ea := o.a.bits, rights := [bR], op := .read 8 })
  | .barr t => some (0xDD, t, false, fun o => { ea := o.a.bits, rights := [bR, bW, bA], op := .barr (t.imm.getLsbD 0), rel := true })
  | .mlock t => some (0xDE, t, true, at8 t [bR, bW, bA] (fun o => .mlock (BitVec.ofNat 32 o.b.bits.toNat)))
  | .munlk t => some (0xDF, t, false, at8 t [bR, bW, bA] (fun _ => .munlk))
  | _ => none

/-- What a memory instruction that passes its checks starts (R217): its operation and one access on its way home. -/
def State.issued (s : State) (op : Nat) (t : Ti) (r : Region) (q : MemReq) (p : Place) : State :=
  let o := s.opnds op t r
  s.fired (popsOf op t)
    (startMem s.here op t { a := o.a, b := o.b, c := o.d, ph := 4, col := colourOf r s.curKey op t } [accessOf s.curKey r.seq 0 q p] r)

/-- The result r and the cond of a memory instruction from what its access answers (R217, R220-R227, R235-R241). -/
def memValue (rid : Nat) (o : PendOp) (a : Val) : Option (Val × Bool) :=
  let n := 2 ^ (o.ti.imm.toNat % 4)
  let x : Nat := a.bits.toNat % 2 ^ (8 * n)
  match o.code with
  | 0xC0 | 0xC4 | 0xC7 | 0xC8 | 0xC9 | 0xCA | 0xCB | 0xCC | 0xCD | 0xCE => some (a, a.bits != 0)
  | 0xC2 | 0xD2 =>
    let w : Word := if o.ti.imm.getLsbD 2 then BitVec.ofInt 64 (Int.bmod x (2 ^ (8 * n))) else BitVec.ofNat 64 x
    some ({ a with bits := w }, w != 0)
  | 0xCF => some (a, a.bits == o.b.bits)
  | 0xDD => some (a, decide (fld a.bits 15 0 ≠ 0) && !a.pois && fld a.bits 31 16 + 1 == fld a.bits 15 0)
  | 0xDF => some (a, bitOf a.bits 63 && fld a.bits 43 32 == rid && !a.pois)
  | 0xEB => some (a, a.bits != 0)
  | 0xEC => some (a, true)
  | 0xED => some (a, o.cond)
  | 0xC1 | 0xC3 | 0xC5 | 0xC6 | 0xD0 | 0xD1 | 0xD3 | 0xDE => some ({}, false)
  | _ => none

/-! ## Events -/

/-- An operation of the active plane of its tile, and of no other, is due and may complete (R22, R59, R146, R401). -/
def Completes (s : State) (rid key id : Nat) (r : Region) (o : PendOp) : Prop :=
  tfind s.regions rid = some r ∧ tfind (r.ct key).ops id = some o ∧ tfind (r.tile key).ins.ct.ops id = none ∧ opsRun r = true ∧
    opDue s.fc o = true ∧ (o.due = none ∨ slotFirst s.fc r key o = true)

/-- After a look at an operation: the wait of its slot ends if the operation is no more (R29). -/
def State.ended (s : State) (rid key id slot : Nat) : State :=
  (if ((s.region rid).op? key id).isNone then s.endWait rid key slot else s).wake

/-- What a completion leaves: its region, with the wait of its slot ended (R29). -/
def State.finished (s : State) (rid key : Nat) (o : PendOp) (r : Region) : State := ((s.setRegion rid r).endWait rid key o.slot).wake

/-- A region is there under its id. -/
def HasRegion (s : State) (rid : Nat) (r : Region) : Prop := tfind s.regions rid = some r

/-- The unit of a memory tile of a region runs in a mode (R271, R401, R410). -/
def UnitRuns (s : State) (rid key mode : Nat) (r : Region) : Prop :=
  tfind s.regions rid = some r ∧ unitLive r key = true ∧ planeMode (r.pl key) = mode

/-- An access of a region. -/
def HasAccess (s : State) (rid acc : Nat) (r : Region) (a : Access) : Prop := tfind s.regions rid = some r ∧ tfind r.flight acc = some a

/-! ## Hart instructions (R317, R318, R327) -/

/-- The current hart may run the Xcarnar instruction of a funct7 at its level, and no checkpoint holds it back. -/
def CrnMay (s : State) (f7 : Nat) : Prop :=
  isUser (s.hart s.curHart).priv = false ∧ (s.curHart < 192 ∨ f7 = 14 ∨ f7 = 16) ∧
    ((s.hart s.curHart).priv = .vs → (s.hart s.curHart).policy.getLsbD f7 = true) ∧ (s.ckptOn = true → f7 ≠ 0 ∧ f7 ≠ 2 ∧ f7 ≠ 8)

/-- Who issues it, and its two operands. -/
def State.issuer (s : State) : Issuer := { hart := s.curHart, vs := (s.hart s.curHart).priv == .vs }
def State.opA (s : State) (x : Xr) : Word := hx (s.hart s.curHart) x.rs1
def State.opB (s : State) (x : Xr) : Word := hx (s.hart s.curHart) x.rs2

/-- The region operand names a region this issuer may act on. -/
def CrnOn (s : State) (a : Word) (r : Region) : Prop := s.ridOp s.issuer a false = .ok r

/-- A block operand can be reached: its pieces. -/
def Reach (s : State) (a : Word) (n : Nat) (wr : Bool) (ps : List (Nat × Nat)) : Prop := s.hBlock a.toNat n wr = .ok ps

/-- Xcarnar instructions: funct7 and registers. -/
def crnRow (i : Instr) : Option (Nat × Xr) :=
  match i with
  | .crnFload x => some (0, x) | .crnFkill x => some (1, x) | .crnFshadow x => some (2, x) | .crnFswap x => some (3, x)
  | .crnFrun x => some (4, x) | .crnFhalt x => some (5, x) | .crnFmark x => some (6, x) | .crnFscan x => some (7, x)
  | .crnFrest x => some (8, x) | .crnFmove x => some (9, x) | .crnFpatch x => some (10, x) | .crnFinval x => some (11, x)
  | .crnFtok x => some (12, x) | .crnFinject x => some (13, x) | .crnFstat x => some (14, x) | .crnFpar x => some (15, x)
  | .crnWftrd x => some (16, x) | .crnWftclr x => some (17, x)
  | _ => none

/-- The bytes of the bitmaps that a write event of a page sets a bit in: the partition's dirty bitmap (R391) and, with a plan, both tracking bitmaps
(R450). -/
def trackBytes (s : State) (pa : Nat) : List Nat :=
  match s.ownerOf pa with
  | none => []
  | some p =>
    let n := pa / 2 ^ 16 % 2 ^ 26
    let tb := fun k => fld (s.ckpt.plan.getD k 0) 41 23 * 2 ^ 23
    (partDirty (s.part p) + n / 8) :: (if s.ckpt.has then [tb 7 + n / 8, tb 8 + n / 8] else [])

/-! ## KHR requests -/

/-- Requests of a session by their event, their type and, for a checkpoint request, its subcommand (R438, R440, R454). -/
def khrReq (i : Instr) : Option (Nat × Khr × Option Word) :=
  match i with
  | .khrClose k => some (0x02, k, none)
  | .khrLaunch k => some (0x10, k, none)
  | .khrReplay k => some (0x11, k, none)
  | .khrCopyin k => some (0x20, k, none)
  | .khrCopyout k => some (0x21, k, none)
  | .khrEvsub k => some (0x30, k, none)
  | .khrSrvreg k => some (0x40, k, none)
  | .khrPcfg k => some (0x50, k, none)
  | .khrVfreset k => some (0x51, k, none)
  | .ckptConfig k => some (0x60, k, some 1)
  | .ckptQuiesce k => some (0x60, k, some 2)
  | .ckptWrite k => some (0x60, k, some 3)
  | .ckptResume k => some (0x60, k, some 4)
  | .ckptStatus k => some (0x60, k, some 5)
  | .ckptRestore k => some (0x60, k, some 6)
  | _ => none

/-! ## The invariant of a safe run -/

/-- The DRAM list is in its canonical form. -/
def MemInv (s : State) : Prop := Mem.wf s.mem = true

/-- Two states differ at most in the region of the current slot. -/
def OnlyCur (s s' : State) : Prop := s' = { s with regions := s'.regions } ∧ ∀ rid, rid ≠ s.curRid → tfind s'.regions rid = tfind s.regions rid

end Sys2Proof.Machine
end

