-- ==== Sys2Proof/Certificates/Slice0/Obligations.lean ====
section
/-! DEFINITION. The claims about the machine, in the order of the opcode table's families: the PE instructions, the events, the harts, decoding,
reset, the step and the frames. -/

section
open Sys2Proof Sys2Proof.Machine

/-- R62, R63, R146, R150-R152: a single-cycle integer instruction writes the result of its table row, and cond is r ≠ 0; a multiply or a divide
starts a long operation that holds its result and completes at the end of fc t + lat - 1. -/
def Obligations.IntegerResults : Prop :=
  (∀ (i : Instr) (op : Nat) (t : Ti) (f : Word → Word → Word), aluOf i = some (op, t, f) →
   ∀ (s : State) (r : Region), Fires s op t r → CleanAB s op t r →
     let v := f (s.opnds op t r).a.bits (s.opnds op t r).b.bits
     exec i s = .next (s.retired op t r { bits := v } (v != 0))) ∧
  (∀ (i : Instr) (op : Nat) (t : Ti) (lat : Nat) (f : Word → Word → Word), longOf i = some (op, t, lat, f) →
   ∀ (s : State) (r : Region), Fires s op t r → CleanAB s op t r →
     let v := f (s.opnds op t r).a.bits (s.opnds op t r).b.bits
     exec i s = .next (s.started op t r
       { res := { bits := v }, cond := v != 0, due := some (s.fc + lat - 1), col := colourOf r s.curKey op t }))

/-- R153: a compare or test writes 1 and has cond 1 when its test holds, and 0 otherwise; it consumes a and b. -/
def Obligations.CompareResult : Prop :=
  ∀ (i : Instr) (op : Nat) (t : Ti) (f : Word → Word → Prop), cmpOf i = some (op, t, f) →
  ∀ (s : State) (r : Region), Fires s op t r →
    (CleanAB s op t r → f (s.opnds op t r).a.bits (s.opnds op t r).b.bits → exec i s = .next (s.retired op t r { bits := 1 } true)) ∧
    (CleanAB s op t r → ¬ f (s.opnds op t r).a.bits (s.opnds op t r).b.bits → exec i s = .next (s.retired op t r { bits := 0 } false)) ∧
    ((s.opnds op t r).a.pois = true ∨ (s.opnds op t r).b.pois = true → exec i s = .next (s.trapped r { code := 0x21 }))

/-- R150, R151: BINS and MAC read the old value of their destination register; the field of BINS is cut at bit 63. -/
def Obligations.DestinationReaders : Prop :=
  (∀ (t : Ti) (s : State) (r : Region), Fires s 0x1D t r → CleanAB s 0x1D t r → (s.opnds 0x1D t r).d.pois = false →
    ∃ v : Word, exec (.bins t) s = .next (s.retired 0x1D t r { bits := v } (v != 0)) ∧
      ∀ i : Nat, i < 64 → v.getLsbD i =
        (let o := s.opnds 0x1D t r
         let pos := o.b.bits.toNat % 64
         if pos ≤ i ∧ i < pos + fieldLen o.b.bits then o.a.bits.getLsbD (i - pos) else o.d.bits.getLsbD i)) ∧
  (∀ (t : Ti) (s : State) (r : Region), Fires s 0x1F t r → CleanAB s 0x1F t r → (s.opnds 0x1F t r).d.pois = false →
    let o := s.opnds 0x1F t r
    let v : Word := BitVec.ofNat 64 (o.d.bits.toNat + o.a.bits.toNat * o.b.bits.toNat)
    exec (.mac t) s = .next (s.started 0x1F t r
      { res := { bits := v }, cond := v != 0, due := some (s.fc + 2), col := colourOf r s.curKey 0x1F t }))

/-- R147, R150, R152, R156, R157, R159, R162, R169, R228, R246: the instructions that give a value whatever the poison of their
operands. -/
def Obligations.ValueResult : Prop :=
  ∀ (i : Instr) (s : State) (r : Region) (op : Nat) (t : Ti) (v : Val) (cond : Bool), valueOf i s r = some (op, t, v, cond) →
    Fires s op t r → exec i s = .next (s.retired op t r v cond)

/-- R24, R147, R172, R176, R244: an instruction that consumes its operands and meets a poisoned one raises POISON_USE and is cancelled; TRAP and BRK
raise SW_TRAP and BREAK with their code, and their firings are cancelled. -/
def Obligations.TrapsTaken : Prop :=
  ((∀ (i : Instr) (op : Nat) (t : Ti), (∃ f : Word → Word → Word, aluOf i = some (op, t, f)) ∨ (∃ f : Word → Word → Prop, cmpOf i = some (op, t, f)) ∨
       (∃ (l : Nat) (f : Word → Word → Word), longOf i = some (op, t, l, f)) ∨ (∃ (n : Nat) (f : Nat → Nat → Nat × Bool), floatAluOf i = some (op, t, n, f)) →
     ∀ (s : State) (r : Region), Fires s op t r → ((s.opnds op t r).a.pois || (s.opnds op t r).b.pois) = true →
       exec i s = .next (s.trapped r { code := 0x21 })) ∧
   (∀ (i : Instr) (t : Ti) (op : Nat), (i = .bins t ∧ op = 0x1D) ∨ (i = .mac t ∧ op = 0x1F) →
     ∀ (s : State) (r : Region), Fires s op t r → ((s.opnds op t r).a.pois || (s.opnds op t r).b.pois || (s.opnds op t r).d.pois) = true →
       exec i s = .next (s.trapped r { code := 0x21 })) ∧
   (∀ (i : Instr) (op : Nat) (t : Ti) (lat : Nat) (d : Bool), floatOf i = some (op, t, lat, d) →
     ∀ (s : State) (r : Region), Fires s op t r →
       ((s.opnds op t r).a.pois || (s.opnds op t r).b.pois || (d && (s.opnds op t r).d.pois)) = true →
       exec i s = .next (s.trapped r { code := 0x21 }))) ∧
  ((∀ (t : Ti) (s : State) (r : Region), Fires s 0x3F t r →
     exec (.trap t) s = .next (s.trapped r { code := 0x40, elem := t.imm.toNat, va := (s.opnds 0x3F t r).a.bits.toNat })) ∧
   (∀ (t : Ti) (s : State) (r : Region), Fires s 0xF1 t r →
     exec (.brk t) s = .next (s.trapped r { code := 0x41, elem := t.imm.toNat })))

/-- R155, R158, R166, R170, R171: FWD keeps the mark of its token or gives its own, EMITC gives C, SENDC takes the colour from b; PWR writes the
predicates of its mask that no operation is to update; DONE counts up to the image's number, and its cond is 0, by the model's reading (log 50). -/
def Obligations.TokenResults : Prop :=
  ((∀ (t : Ti) (s : State) (r : Region), Fires s 0x30 t r →
     let a := (s.opnds 0x30 t r).a
     (t.imm.getLsbD 0 = true →
       exec (.fwd t) s = .next (s.retiredM 0x30 t r a (aHead r s.curKey 0x30 t).mark (colourOf r s.curKey 0x30 t) (a.bits != 0))) ∧
     (t.imm.getLsbD 0 = false → t.om ≠ mkC ∨ a.bits.toNat % 256 < 0xF0 → exec (.fwd t) s = .next (s.retired 0x30 t r a (a.bits != 0))) ∧
     (t.imm.getLsbD 0 = false → t.om = mkC → 0xF0 ≤ a.bits.toNat % 256 →
       exec (.fwd t) s = .next (s.trapped r { code := 0x16, aux := a.bits.toNat }))) ∧
   (∀ (t : Ti) (s : State) (r : Region), Fires s 0x33 t r →
     let a := (s.opnds 0x33 t r).a
     (a.bits.toNat % 256 < 0xF0 → exec (.emitc t) s = .next (s.retiredM 0x33 t r a mkC (colourOf r s.curKey 0x33 t) (a.bits != 0))) ∧
     (0xF0 ≤ a.bits.toNat % 256 → exec (.emitc t) s = .next (s.trapped r { code := 0x16, aux := a.bits.toNat }))) ∧
   (∀ (t : Ti) (s : State) (r : Region), Fires s 0x39 t r →
     let o := s.opnds 0x39 t r
     (o.b.pois = false → exec (.sendc t) s = .next (s.retiredM 0x39 t r o.a t.om (BitVec.ofNat 10 o.b.bits.toNat) (o.a.bits != 0))) ∧
     (o.b.pois = true → exec (.sendc t) s = .next (s.trapped r { code := 0x21 })))) ∧
  ((∀ (t : Ti) (s : State) (r : Region), Fires s 0x3D t r → CleanAB s 0x3D t r →
     ∃ p : BitVec 12, exec (.pwr t) s = .next (s.fired (popsOf 0x3D t) (r.updCt s.curKey (fun c => { c with p := p }))) ∧
       ∀ i : Nat, i < 12 → p.getLsbD i =
         (if (s.opnds 0x3D t r).b.bits.getLsbD i && !(r.ct s.curKey).pp.getLsbD i then (s.opnds 0x3D t r).a.bits.getLsbD i
          else (r.ct s.curKey).p.getLsbD i)) ∧
   (∀ (t : Ti) (s : State) (r : Region), Fires s 0x3D t r → (s.opnds 0x3D t r).a.pois = true ∨ (s.opnds 0x3D t r).b.pois = true →
     exec (.pwr t) s = .next (s.trapped r { code := 0x21 })) ∧
   (∀ (t : Ti) (s : State) (r : Region), Fires s 0x3E t r →
     exec (.done t) s = .next (s.fired (popsOf 0x3E t)
       ({ r with doneC := if r.doneN = 0 then r.doneC else if r.doneC < r.doneN then r.doneC + 1 else r.doneN }.updCt s.curKey
         (fun c => predUpd c t false)))))

/-- R26, R27, R160, R161, R164, R167: CNTSET writes its counter, modulo the limit, running or armed; CNTINC makes one increment, which a wrap carries to
the counters that chain from it, with the finish pulses of those it wraps, and its cond tells a wrap; SPAWN takes the granted colour, makes it LIVE with its
source's colour as parent at the end of the fc, writes it to g13 and sends its token in it; CRET sends its token in the parent colour and the colour starts
CLEARING. -/
def Obligations.CountersAndColours : Prop :=
  ((∀ (t : Ti) (s : State) (r : Region), Fires s 0x35 t r → (s.opnds 0x35 t r).a.pois = false →
     let c := r.ct s.curKey
     let n := t.imm.toNat % 4
     let v : BitVec 32 := BitVec.ofNat 32 ((s.opnds 0x35 t r).a.bits.toNat % kLim (tget c.kcfg 0 n))
     let put := fun (k : Ctr) => s.fired (popsOf 0x35 t) (r.updCt s.curKey (fun c => predUpd { c with k := tset c.k n k } t (k.val != 0)))
     (t.imm.toNat / 4 = 0 → (kGet c n).run = true → exec (.cntset t) s = .next (put { val := v, run := true })) ∧
     (t.imm.toNat / 4 = 0 → (kGet c n).run = false → exec (.cntset t) s = .next (put { val := 0, run := false })) ∧
     (t.imm.toNat / 4 = 1 → exec (.cntset t) s = .next (put { val := v, run := true })) ∧
     (t.imm.toNat / 4 = 2 → exec (.cntset t) s = .next (put { val := 0, run := false }))) ∧
   (∀ (t : Ti) (s : State) (r : Region), Fires s 0x35 t r → (s.opnds 0x35 t r).a.pois = true → exec (.cntset t) s = .next (s.trapped r { code := 0x21 })) ∧
   (∀ (t : Ti) (s : State) (r : Region), Fires s 0x36 t r →
     let c := r.ct s.curKey
     let n := t.imm.toNat % 4
     ∃ r' : Region,
       exec (.cntinc t) s = .next (s.fired [] (r'.updCt s.curKey (fun c => predUpd c t (decide ((kGet (r.ct s.curKey) n).val.toNat + 1 = kLim (tget (r.ct s.curKey).kcfg 0 n)))))) ∧
       ((kGet c n).val.toNat + 1 ≠ kLim (tget c.kcfg 0 n) →
         r' = r.updCt s.curKey (fun c => { c with k := tset c.k n { val := (kGet c n).val + 1, run := true } })) ∧
       ((kGet c n).val.toNat + 1 = kLim (tget c.kcfg 0 n) →
         (∀ m < 4, kGet (r'.ct s.curKey) m = (if kHit 4 c n m then kNext c m else kGet c m)) ∧
         ∀ k2 ci : Nat, tget (r'.ct k2).ciNet 0 ci = tget (r.ct k2).ciNet 0 ci + kPulses (r.pl s.curKey) c n k2 ci))) ∧
  ((∀ (t : Ti) (s : State) (r : Region) (c : Nat), Fires s 0x38 t r → tfind r.grants (s.curKey * 16 + s.curSlot) = some c →
     let a := (s.opnds 0x38 t r).a
     let r1 := { r with pool := r.pool.erase c, colEnd := r.colEnd ++ [(c, ({ st := .live, par := colourOf r s.curKey 0x38 t } : Colour))] }
     exec (.spawn t) s = .next (s.fired (popsOf 0x38 t)
       ((deliverS s.fc (r1.updCt s.curKey (fun ct => setG ct 13 { bits := BitVec.ofNat 64 c })) s.curKey 0x38 t a t.om (BitVec.ofNat 10 c)).updCt
         s.curKey (fun ct => predUpd ct t (a.bits != 0))))) ∧
   (∀ (t : Ti) (s : State) (r : Region), Fires s 0x3A t r →
     let a := (s.opnds 0x3A t r).a
     let c := (colourOf r s.curKey 0x3A t).toNat
     let col := tget r.cols {} c
     (c ≠ 0 → col.st = .live → exec (.cret t) s = .next (s.fired (popsOf 0x3A t)
       ((deliverS s.fc { r with colEnd := r.colEnd ++ [(c, ({ st := .clearing, par := col.par } : Colour))] } s.curKey 0x3A t a t.om col.par).updCt
         s.curKey (fun ct => predUpd ct t (a.bits != 0))))) ∧
     (c = 0 ∨ col.st ≠ .live → exec (.cret t) s = .next (s.retiredM 0x3A t r a t.om 0 (a.bits != 0)))))

/-- R53-R61, R176-R180: a rounding float instruction latches its operands and completes at its unit's latency with its exact value rounded in its
format and mode; FCVTI rounds to an integer and saturates, FCVT to E8M0 rounds to a power of two; the single-cycle ones act on the low bits of their
operands, in their format. -/
def Obligations.FloatResults : Prop :=
  (∀ (i : Instr) (op : Nat) (t : Ti) (lat : Nat) (d : Bool), floatOf i = some (op, t, lat, d) →
   ∀ (s : State) (r : Region), Fires s op t r → CleanAB s op t r → (d = true → (s.opnds op t r).d.pois = false) →
     exec i s = .next (s.started op t r
       { a := (s.opnds op t r).a, b := (s.opnds op t r).b, c := (s.opnds op t r).d, ph := 1, due := some (s.fc + lat - 1),
         col := colourOf r s.curKey op t })) ∧
  (∀ (s : State) (rid key id : Nat) (r : Region) (o : PendOp), Completes s rid key id r o → o.ph = 1 →
     let c := r.ct key
     let fin := fun (v : Word) (sr : BitVec 32) => Host.Outcome.next (s.finished rid key o
       (completeS s.fc (r.updCt key (fun c => { c with sr := sr })) key id o { bits := v } (v != 0)))
     let hi := o.ti.imm.toNat / 16
     let lo := o.ti.imm.toNat % 16
     let m := if o.ti.sb.getLsbD 3 then o.ti.sb.toNat % 8 else fld c.mode 63 61
     let x := edec lo (o.a.bits.toNat % 2 ^ fmtW lo)
     (∀ (f m : Nat) (sat conv : Bool) (x : RVal), floatExact o.code o.ti c o.a.bits o.b.bits o.c.bits = some (f, m, sat, conv, x) →
       exec (.longOpComplete rid key id) s = fin (BitVec.ofNat 64 (rnd f m sat conv c.sr x).1) (rnd f m sat conv c.sr x).2) ∧
     (o.code = 0x55 → exec (.longOpComplete rid key id) s =
       fin (BitVec.ofInt 64 (fToInt (itOf hi).1 (itOf hi).2 m c.sr x).1) (fToInt (itOf hi).1 (itOf hi).2 m c.sr x).2) ∧
     (o.code = 0x54 → hi = 14 → lo ≤ 8 → exec (.longOpComplete rid key id) s = fin (BitVec.ofNat 64 (toE8M0 m c.sr x).1) (toE8M0 m c.sr x).2) ∧
     (o.code = 0x54 → hi = 14 → lo = 14 → exec (.longOpComplete rid key id) s =
       fin (BitVec.ofNat 64 (o.a.bits.toNat % 256)) (if m = 5 then srStep c.sr else c.sr))) ∧
  (∀ (i : Instr) (op : Nat) (t : Ti) (n : Nat) (f : Nat → Nat → Nat × Bool), floatAluOf i = some (op, t, n, f) →
   ∀ (s : State) (r : Region), Fires s op t r → CleanAB s op t r →
     let o := s.opnds op t r
     let v := f (o.a.bits.toNat % 2 ^ fmtW n) (o.b.bits.toNat % 2 ^ fmtW n)
     exec i s = .next (s.retired op t r { bits := BitVec.ofNat 64 v.1 } v.2))

/-- R59, R69, R182-R193: a long vector instruction latches what it reads and completes at its latency; a single-cycle one delivers its lanes at once; a
poisoned lane that is consumed traps; and what each lane of each of them is, masked or not, with its poison, its cond and the SR state it leaves. That an
integer lane takes an SR step, and a conversion to or from E8M0 of an integer, are the model's (logs 29, 55). -/
def Obligations.VectorResults : Prop :=
  ((∀ (i : Instr) (op : Nat) (t : Ti) (lat : Nat), vecLongOf i = some (op, t, lat) →
     ∀ (s : State) (r : Region), Fires s op t r →
       let x := vinOf r s.curKey op t
       (vecPoison op t x = false → exec i s = .next (s.started op t r
         { va := x.a, vb := x.b, vd := x.d, mask := x.mask, a := x.j, ph := 2, due := some (s.fc + lat - 1), col := colourOf r s.curKey op t })) ∧
       (vecPoison op t x = true → exec i s = .next (s.trapped r { code := 0x21 }))) ∧
   (∀ (i : Instr) (op : Nat) (t : Ti), vecOf i = some (op, t) →
     ∀ (s : State) (r : Region), Fires s op t r →
       let x := vinOf r s.curKey op t
       let v := vecResult op t (r.ct s.curKey) x
       (vecPoison op t x = false → exec i s = .next (s.fired (popsOf op t)
         ((deliverV s.fc r s.curKey op t v.1 (colourOf r s.curKey op t)).updCt s.curKey (fun c => predUpd c t v.2.1)))) ∧
       (vecPoison op t x = true → exec i s = .next (s.trapped r { code := 0x21 })))) ∧
  (∀ (s : State) (rid key id : Nat) (r : Region) (o : PendOp), Completes s rid key id r o → o.ph = 2 → 0x60 ≤ o.code → o.code ≤ 0x82 →
     let v := vecResult o.code o.ti (r.ct key) { a := o.va, b := o.vb, d := o.vd, mask := o.mask, j := o.a }
     exec (.longOpComplete rid key id) s =
       .next (s.finished rid key o (completeV s.fc (r.updCt key (fun c => { c with sr := v.2.2 })) key id o v.1 v.2.1))) ∧
  (∀ (op : Nat) (t : Ti) (c : Ct) (x : VIn), 0x70 ≤ op → op ≤ 0x7F ∨ op = 0x82 → fmtOf t ≤ 14 →
     let f := fmtOf t
     let n := laneCount f
     let v := vecResult op t c x
     let j := x.j.bits.toNat % 128 % n
     v.2.1 = (v.1.bits != 0) ∧ v.2.2 = c.sr ∧
     (op < 0x76 ∨ 0x78 < op → op ≠ 0x7B →
       (∀ i < n, lane f v.1.bits i = (vecLane op t x i).1) ∧ v.1.bits.toNat < 2 ^ (n * fmtW f) ∧
       ∀ k < 8, v.1.pois.getLsbD k = (List.range n).any (fun i => (vecLane op t x i).2 && (laneWords f i).contains k)) ∧
     (0x76 ≤ op → op ≤ 0x78 → v.1.pois = 0 ∧ ∀ i < 512, v.1.bits.getLsbD i =
       (decide (i < n) && x.mask.getLsbD i &&
         (let a := lane f x.a.bits i
          let b := lane f x.b.bits i
          if 9 ≤ f ∧ f ≤ 13 then
           (if op = 0x76 then decide (idec f a = idec f b) else if op = 0x77 then decide (idec f a < idec f b) else decide (idec f a ≤ idec f b))
          else (if op = 0x76 then fEq f a b else if op = 0x77 then fLt f a b else fLe f a b)))) ∧
     (op = 0x7B → v.1.bits.toNat = lane f x.a.bits j ∧ v.1.pois = (if lanePois f x.a j then 1 else 0))) ∧
  (∀ (op : Nat) (t : Ti) (c : Ct) (x : VIn), fmtOf t ≤ 14 →
     let f := fmtOf t
     let n := laneCount f
     let w := fmtW f
     let m := if t.imm.toNat / 16 % 4 = 0 then fld c.mode 63 61 else if t.imm.toNat / 16 % 4 = 1 then 0 else if t.imm.toNat / 16 % 4 = 2 then 1 else 5
     let v := vecResult op t c x
     let old := fun (i : Nat) => if t.dst.toNat ≤ 7 then lane f x.d.bits i else 0
     (0x60 ≤ op → op ≤ 0x6B → f ≤ 13 → ∃ sr : Nat → BitVec 32, sr 0 = c.sr ∧ sr n = v.2.2 ∧ ∀ i < n,
       (x.mask.getLsbD i = true →
         let y := laneOut op t m (sr i) (lane f x.a.bits i) (lane f x.b.bits i) (lane f x.d.bits i)
         lane f v.1.bits i = y.1 % 2 ^ w ∧ sr (i + 1) = y.2) ∧
       (x.mask.getLsbD i = false → lane f v.1.bits i = old i ∧ sr (i + 1) = sr i)) ∧
     (op = 0x6C → t.sb.toNat ≤ 14 → ∃ sr : Nat → BitVec 32, sr 0 = c.sr ∧ sr (Nat.min (laneCount t.sb.toNat) n) = v.2.2 ∧
       (∀ i < Nat.min (laneCount t.sb.toNat) n,
         (x.mask.getLsbD i = true →
           let y := cvtElem f t.sb.toNat m (satOf t) (sr i) (lane t.sb.toNat x.a.bits i)
           lane f v.1.bits i = y.1 % 2 ^ w ∧ sr (i + 1) = y.2) ∧
         (x.mask.getLsbD i = false → lane f v.1.bits i = old i ∧ sr (i + 1) = sr i)) ∧
       ∀ i < n, Nat.min (laneCount t.sb.toNat) n ≤ i → lane f v.1.bits i = 0) ∧
     (0x6D ≤ op → op ≤ 0x6F → f ≤ 13 →
       let ls := (List.range n).map (fun i => if x.mask.getLsbD i then lane f x.a.bits i else redId op f)
       (∀ i < n, 0 < i → lane f v.1.bits i = 0) ∧
       (9 ≤ f → op = 0x6D → lane f v.1.bits 0 =
         intLane f (satOf t) (((List.range n).filter (fun i => x.mask.getLsbD i)).map (fun i => idec f (lane f x.a.bits i))).sum) ∧
       (9 ≤ f → op = 0x6E → lane f v.1.bits 0 ∈ redId op f :: ls ∧ ∀ y ∈ ls, idec f y ≤ idec f (lane f v.1.bits 0)) ∧
       (9 ≤ f → op = 0x6F → lane f v.1.bits 0 ∈ redId op f :: ls ∧ ∀ y ∈ ls, idec f (lane f v.1.bits 0) ≤ idec f y) ∧
       (f ≤ 8 → op = 0x6D → ∃ y : Nat × BitVec 32,
         y = redTree 7 (fun a b s => rnd f m false false s (addVals m (fdec f a) (fdec f b))) ls c.sr ∧ lane f v.1.bits 0 = y.1 % 2 ^ w ∧ v.2.2 = y.2) ∧
       (f ≤ 8 → op = 0x6E → lane f v.1.bits 0 = (redTree 7 (fun a b s => (fMax f a b, s)) ls c.sr).1 % 2 ^ w) ∧
       (f ≤ 8 → op = 0x6F → lane f v.1.bits 0 = (redTree 7 (fun a b s => (fMin f a b, s)) ls c.sr).1 % 2 ^ w)) ∧
     (op = 0x80 ∨ op = 0x81 → f ≤ 13 → ∃ (y : Nat → Nat) (sr : Nat → BitVec 32),
       y 0 = (if op = 0x80 then lane f x.d.bits (n - 1) else lane f x.b.bits (n - 1)) ∧ sr 0 = c.sr ∧ sr n = v.2.2 ∧ ∀ i < n,
         (y (i + 1), sr (i + 1)) =
           (if op = 0x80 then laneOut 0x63 t m (sr i) (lane f x.a.bits i) (y i) (lane f x.b.bits i)
            else laneOut 0x60 t m (sr i) (y i) (lane f x.a.bits i) 0) ∧
         lane f v.1.bits i = y (i + 1) % 2 ^ w))

/-- R75, R217, R220-R227, R233-R238: a memory instruction whose address passes the checks issues its one access to the home; one whose address fails
them traps; a poisoned address, or a poisoned b that it consumes, raises POISON_USE and issues nothing. -/
def Obligations.MemoryIssues : Prop :=
  (∀ (i : Instr) (op : Nat) (t : Ti) (cb : Bool) (f : Opnds → MemReq), memOf i = some (op, t, cb, f) →
   ∀ (s : State) (r : Region), Fires s op t r → (s.opnds op t r).a.pois = false → (cb = true → (s.opnds op t r).b.pois = false) →
     let q := f (s.opnds op t r)
     (∀ p : Place, locate r s.curKey (sealOf s r.part) q.ea q.n q.rights q.frame q.wr = .ok p → exec i s = .next (s.issued op t r q p)) ∧
     (∀ e : TrapInfo, locate r s.curKey (sealOf s r.part) q.ea q.n q.rights q.frame q.wr = .error e → exec i s = .next (s.trapped r e))) ∧
  (∀ (i : Instr) (op : Nat) (t : Ti) (cb : Bool) (f : Opnds → MemReq), memOf i = some (op, t, cb, f) →
   ∀ (s : State) (r : Region), Fires s op t r → ((s.opnds op t r).a.pois || (cb && (s.opnds op t r).b.pois)) = true →
     exec i s = .next (s.trapped r { code := 0x21, va := (f (s.opnds op t r)).ea.toNat }))

/-- R73-R75, R79: the checks of an address in their order, for a global address: alignment, seal, partition and rights, bounds. -/
def Obligations.CapabilityChecks : Prop :=
  ∀ (r : Region) (key sl : Nat) (ea : Word) (n : Nat) (rights : List Nat) (frame wr : Bool), fld ea 63 62 = 1 →
    let x := fld ea 61 54
    let e := capEntry r x
    let va := capBase e + fld ea 53 0
    let no := fun (c : Nat) => (Except.error { code := c, va := va, aux := n, capx := some x } : Except TrapInfo Place)
    (ea.toNat % n ≠ 0 → locate r key sl ea n rights frame wr = .error { code := 0x15, va := ea.toNat, aux := n }) ∧
    (ea.toNat % n = 0 → capSeal e = 0 ∨ capSeal e ≠ sl → locate r key sl ea n rights frame wr = no 0x12) ∧
    (ea.toNat % n = 0 → capSeal e ≠ 0 → capSeal e = sl →
      (capRemote e = false ∧ capPart e ≠ r.part) ∨ (∃ b, b ∈ rights ∧ capRight e b = false) → locate r key sl ea n rights frame wr = no 0x11) ∧
    (ea.toNat % n = 0 → capSeal e ≠ 0 → capSeal e = sl → (capRemote e = true ∨ capPart e = r.part) → (∀ b, b ∈ rights → capRight e b = true) →
      (capLen e < fld ea 53 0 + n → locate r key sl ea n rights frame wr = no 0x10) ∧
      (fld ea 53 0 + n ≤ capLen e → locate r key sl ea n rights frame wr = .ok (.glob x va (capRemote e))))

/-- R194: VLD issues eight reads of the 64 bytes in ascending address order; VST one write for each word that an active lane covers. -/
def Obligations.VectorMemory : Prop :=
  (∀ (t : Ti) (s : State) (r : Region) (p sp : Nat), Fires s 0x83 t r →
    let a := vIndex r s.curKey t.sa
    let x := vinOf r s.curKey 0x83 t
    (a.pois = false → vlocate r s.curKey a.bits false = .ok (p, sp) →
      exec (.vld t) s = .next (s.fired [] (startMem s.here 0x83 t { a := a, vd := x.d, mask := x.mask, ph := 4, col := colourOf r s.curKey 0x83 t }
        ((List.range 8).map (fun k => { own := .pe s.curKey r.seq k, op := .read 8, sp := sp, addr := p + 8 * k, seq := r.seq, ea := a.bits })) r))) ∧
    (∀ e : TrapInfo, a.pois = false → vlocate r s.curKey a.bits false = .error e → exec (.vld t) s = .next (s.trapped r e)) ∧
    (a.pois = true → exec (.vld t) s = .next (s.trapped r { code := 0x21, va := a.bits.toNat }))) ∧
  (∀ (t : Ti) (s : State) (r : Region) (p sp : Nat), Fires s 0x84 t r →
    let a := vIndex r s.curKey t.sa
    let x := vinOf r s.curKey 0x84 t
    (a.pois = false → vlocate r s.curKey a.bits true = .ok (p, sp) →
      exec (.vst t) s = .next (s.fired (popsOf 0x84 t) (startMem s.here 0x84 t { a := a, ph := 4 }
        (((List.range 8).filter (fun k => vstBytes t x.mask k != 0)).map (fun k =>
          { own := .pe s.curKey r.seq k, sp := sp, addr := p + 8 * k, seq := r.seq, ea := a.bits,
            op := .writeMask (vstBytes t x.mask k) { bits := vword x.b.bits k, pois := x.b.pois.getLsbD k } })) r))) ∧
    (∀ e : TrapInfo, a.pois = false → vlocate r s.curKey a.bits true = .error e → exec (.vst t) s = .next (s.trapped r e)) ∧
    (a.pois = true → exec (.vst t) s = .next (s.trapped r { code := 0x21, va := a.bits.toNat })))

/-- R240, R282: a queue instruction issues one operation to the queue controller when its address is a global one and a multiple of 64; an
expert-queue instruction sends its request to the tile and queue of its address; otherwise they trap. -/
def Obligations.QueueIssues : Prop :=
  (∀ (i : Instr) (op : Nat) (t : Ti) (rel : Bool) (f : Opnds → MOp),
     (i = .qenq t ∧ op = 0xEB ∧ rel = true ∧ f = (fun o => .qenq o.b)) ∨ (i = .qdeq t ∧ op = 0xEC ∧ rel = false ∧ f = (fun _ => .qdeq)) ∨
       (i = .qsteal t ∧ op = 0xED ∧ rel = false ∧ f = (fun _ => .qsteal)) →
   ∀ (s : State) (r : Region), Fires s op t r →
     let o := s.opnds op t r
     let ea := o.a.bits
     (o.a.pois = true → exec i s = .next (s.trapped r { code := 0x21, va := ea.toNat })) ∧
     (o.a.pois = false → fld ea 63 62 ≠ 1 → exec i s = .next (s.trapped r { code := 0x14, va := ea.toNat, aux := 64 })) ∧
     (o.a.pois = false → fld ea 63 62 = 1 → ea.toNat % 64 ≠ 0 → exec i s = .next (s.trapped r { code := 0x15, va := ea.toNat, aux := 64 })) ∧
     (o.a.pois = false → fld ea 63 62 = 1 → ea.toNat % 64 = 0 →
       exec i s = .next (s.fired (popsOf op t) (startMem s.here op t { a := o.a, b := o.b, ph := 4, col := colourOf r s.curKey op t }
         [accessOf s.curKey r.seq 0 { ea := ea, op := f o, rel := rel }
           (.glob (fld ea 61 54) (capBase (capEntry r (fld ea 61 54)) + fld ea 53 0) false)] r)))) ∧
  (∀ (i : Instr) (op : Nat) (t : Ti) (cb : Bool), (i = .eqpush t ∧ op = 0xE0 ∧ cb = true) ∨ (i = .eqflush t ∧ op = 0xE1 ∧ cb = false) ∨
       (i = .eqstat t ∧ op = 0xE2 ∧ cb = false) ∨ (i = .eqpri t ∧ op = 0xE3 ∧ cb = true) →
   ∀ (s : State) (r : Region), Fires s op t r → (s.opnds op t r).a.pois = false → (cb = true → (s.opnds op t r).b.pois = false) →
     let o := s.opnds op t r
     let a := o.a.bits
     let q := a.toNat % 2 ^ 19 / 8
     let key := mtAddrKey a.toNat
     (fld a 63 62 ≠ 0 ∨ fld a 61 32 ≠ 0 → exec i s = .next (s.trapped r { code := 0x14, va := a.toNat, aux := 8 })) ∧
     (fld a 63 62 = 0 → fld a 61 32 = 0 → a.toNat % 8 ≠ 0 → exec i s = .next (s.trapped r { code := 0x15, va := a.toNat, aux := 8 })) ∧
     (fld a 63 62 = 0 → fld a 61 32 = 0 → a.toNat % 8 = 0 → r.w * r.h ≤ fld a 31 22 ∨ planeMode (r.pl key) ≠ 7 ∨ exqN (r.pl key) ≤ q →
       exec i s = .next (s.trapped r { code := 0x13, va := a.toNat, aux := 8 })) ∧
     (fld a 63 62 = 0 → fld a 61 32 = 0 → a.toNat % 8 = 0 → fld a 31 22 < r.w * r.h → planeMode (r.pl key) = 7 → q < exqN (r.pl key) →
       exec i s = .next (s.fired (popsOf op t) (startMem s.here op t
         { a := o.a, b := o.b, c := tget (r.ct s.curKey).g {} (t.imm.toNat % 16), ph := 9, col := colourOf r s.curKey op t }
         [{ own := .pe s.curKey r.seq 0, op := .read 8, sp := 3, addr := (key * 16 + q) * 8, seq := r.seq, ea := a }] r))))

/-- R203, R206, R209, R212-R216, R302: the multiplies and the accumulator instructions claim their handles and start at their latency; ACCZ clears its
accumulator at once; the stop form of MMAS takes its end token and starts nothing; an engine instruction starts when its engine is bound and what it
reads may be read. -/
def Obligations.TensorAndEngineStarts : Prop :=
  ((∀ (t : Ti) (s : State) (r : Region) (op : Nat) (i : Instr), (i = .mma t ∧ op = 0xA0) ∨ (i = .mmax t ∧ op = 0xA2) → Fires s op t r →
     let d := tdOf r s.curKey t
     let a := hselWords r s.curKey t.sa.toNat (tileWords (tdA d) (tdK d))
     let b := hselWords r s.curKey t.sb.toNat (tileWords (tdB d) (tdK d))
     let n := 16 * (tdK d / 32) / 8
     let sa := if op = 0xA2 then hselWords r s.curKey (fld d 51 47) n else []
     let sb := if op = 0xA2 then hselWords r s.curKey (fld d 46 42) n else []
     let bad := (a ++ b ++ sa ++ sb).any (fun w => w.pois) || (!t.imm.getLsbD 3 && accAnyPois (r.ct s.curKey) (tdFp64 d) (t.dst.toNat % 4))
     (bad = false → exec i s = .next (s.fired [] (startOp s.here op t
       { snap := a, snab := b, accL := accLatch (r.ct s.curKey) (t.dst.toNat % 4), va := vofWords sa, vb := vofWords sb, due := some (s.fc + (if tdA d ≤ 1 then 16 else 8) - 1), ph := 3, cond := true }
       (claimAll r (hreqsOf r s.curKey op t))))) ∧
     (bad = true → exec i s = .next (s.trapped r { code := 0x21 }))) ∧
   (∀ (t : Ti) (s : State) (r : Region), Fires s 0xA1 t r → tdMeta r s.curKey t = some .stop →
     exec (.mmas t) s = .next (s.fired [] ((r.popIn s.curKey (fld (tdOf r s.curKey t) 41 39)).updCt s.curKey (fun c => predUpd c t false)))) ∧
   (∀ (t : Ti) (s : State) (r : Region) (m : Meta) (n : Nat) (l : Bool), Fires s 0xA1 t r → tdMeta r s.curKey t = some m →
     (m = .group l ∧ n = tdTm (tdOf r s.curKey t)) ∨ (m = .short n ∧ l = false) →
     let d := tdOf r s.curKey t
     let a := hselWords r s.curKey t.sa.toNat (mmaWords 0xA1 d).1
     let b := hselWords r s.curKey t.sb.toNat (mmaWords 0xA1 d).2
     let toks := (r.chan s.curKey (fld d 41 39)).buf.take n
     let bad := (a ++ b).any (fun w => w.pois) || toks.any (fun k => k.pois.getLsbD 0)
       || (!t.imm.getLsbD 3 && accAnyPois (r.ct s.curKey) (tdFp64 d) (t.dst.toNat % 4))
     (bad = false → exec (.mmas t) s = .next (s.fired [] ((List.range n).foldl (fun r _ => r.popIn s.curKey (fld d 41 39)) (startOp s.here 0xA1 t
       { snap := a, snab := b, accL := accLatch (r.ct s.curKey) (t.dst.toNat % 4), vd := { bits := BitVec.ofNat 512 (wordsNat (toks.map tokVal)) },
         due := some (s.fc + (if tdA d ≤ 1 then 16 else 8) - 1), ph := 3, cond := l } (claimAll r (hreqsOf r s.curKey 0xA1 t)))))) ∧
     (bad = true → exec (.mmas t) s = .next (s.trapped r { code := 0x21 }))) ∧
   (∀ (t : Ti) (s : State) (r : Region), Fires s 0xA3 t r →
     exec (.accz t) s = .next (s.fired [] (r.updCt s.curKey (fun c => predUpd (accZero c false (t.dst.toNat % 4)) t true)))) ∧
   (∀ (t : Ti) (s : State) (r : Region), Fires s 0xA4 t r →
     let w := fmtW (fld (tdOf r s.curKey t) 38 35)
     exec (.accrd t) s = .next (s.fired [] (startOp s.here 0xA4 t
       { accL := accLatch (r.ct s.curKey) (t.dst.toNat % 4), due := some (s.fc + Nat.max 4 ((256 * w / 8 + 63) / 64) - 1), ph := 3, cond := true } r))) ∧
   (∀ (t : Ti) (s : State) (r : Region) (i : Instr) (op lat : Nat),
     (i = .accwr t ∧ op = 0xA5 ∧ lat = if tdFp64 (tdOf r s.curKey t) then 32 else 16) ∨ (i = .accscl t ∧ op = 0xA6 ∧ lat = 4) ∨
       (i = .accadd t ∧ op = 0xA7 ∧ lat = if tdFp64 (tdOf r s.curKey t) then 32 else 16) → Fires s op t r →
     let d := tdOf r s.curKey t
     let ws := hselWords r s.curKey t.sa.toNat (accSrcWords op d)
     let bad := ws.any (fun w => w.pois) || accAnyPois (r.ct s.curKey) (tdFp64 d) (t.dst.toNat % 4)
     (op = 0xA5 ∨ bad = false → exec i s = .next (s.fired [] (startOp s.here op t
       { snap := ws, accL := accLatch (r.ct s.curKey) (t.dst.toNat % 4), due := some (s.fc + lat - 1), ph := 3, cond := true } (claimAll r (hreqsOf r s.curKey op t))))) ∧
     (op ≠ 0xA5 → bad = true → exec i s = .next (s.trapped r { code := 0x21 })))) ∧
  ((∀ (i : Instr) (op : Nat) (t : Ti) (n : Nat), (i = .nlbin t ∧ op = 0xE4 ∧ n = 8) ∨ (i = .nlmove t ∧ op = 0xE6 ∧ n = 8) ∨ (i = .nlclr t ∧ op = 0xE8 ∧ n = 64) →
     ∀ (s : State) (r : Region), Fires s op t r → (s.opnds op t r).a.pois = false → (op = 0xE8 ∨ (s.opnds op t r).b.pois = false) →
       let o := s.opnds op t r
       let e := t.imm.toNat % 64
       (nleCount r ≤ e → exec i s = .next (s.trapped r { code := 0x13, aux := e, unit := e })) ∧
       (e < nleCount r → ((op = 0xE4 ∧ fld o.b.bits 16 0 = 0) ∨ ∃ p : Place, locate r s.curKey (sealOf s r.part) o.a.bits n [bR] false false = .ok p) →
         exec i s = .next (s.started op t r { a := o.a, b := o.b, ph := 10, col := colourOf r s.curKey op t })) ∧
       (e < nleCount r → op ≠ 0xE4 ∨ fld o.b.bits 16 0 ≠ 0 → ∀ x : TrapInfo,
         locate r s.curKey (sealOf s r.part) o.a.bits n [bR] false false = .error x → exec i s = .next (s.trapped r { x with unit := e }))) ∧
   (∀ (i : Instr) (op : Nat) (t : Ti), (i = .nlsweep t ∧ op = 0xE5) ∨ (i = .nlstat t ∧ op = 0xE7) →
     ∀ (s : State) (r : Region), Fires s op t r →
       let e := t.imm.toNat % 64
       (nleCount r ≤ e → exec i s = .next (s.trapped r { code := 0x13, aux := e, unit := e })) ∧
       (e < nleCount r → exec i s = .next (s.fired [] (startOp s.here op t { ph := 10, col := colourOf r s.curKey op t } r)))))

/-- R98, R228-R230, R242, R245, R266, R269, R433: HREL, HFIN and FENCE start, or trap on a handle in the wrong state; a scope wider than the policy allows
is demoted under policy 1 and traps under the strict one; a system call, a copy and a copy's status start; CFGSW emits a SWAP token. -/
def Obligations.HandlesFencesServices : Prop :=
  ((∀ (t : Ti) (s : State) (r : Region) (i : Instr) (op : Nat), (i = .hrel t ∧ op = 0xD5) ∨ (i = .hfin t ∧ op = 0xD7) → Fires s op t r →
     let pol := partFpol (s.part r.part)
     let sc := t.imm.toNat / 32
     let sel := t.imm.toNat % 32
     let st := hselState r s.curKey sel
     let may := if op = 0xD7 then st = hFilling else st = hFull ∨ st = hDraining
     (sc < 3 ∨ pol = 0 → may → exec i s = .next (s.fired [] (startOp s.here op t { ph := 5, cond := true } r))) ∧
     (3 ≤ sc → pol = 1 → may → exec i s = .next (s.fired [] (startOp s.here op t { ph := 5, cond := true } { r with sdem := true }))) ∧
     (3 ≤ sc → 2 ≤ pol → exec i s = .next (s.trapped r { code := 0x48, aux := sc })) ∧
     (sc < 3 ∨ pol ≤ 1 → ¬ may → exec i s = .next (s.trapped r { code := 0x2A, aux := st.toNat * 32 + sel }))) ∧
   (∀ (t : Ti) (s : State) (r : Region), Fires s 0xD9 t r →
     let pol := partFpol (s.part r.part)
     let sc := t.imm.toNat / 4 % 8
     (sc < 3 ∨ pol = 0 → exec (.fence t) s = .next (s.fired [] (startOp s.here 0xD9 t { ph := 5, cond := true } r))) ∧
     (3 ≤ sc → pol = 1 → exec (.fence t) s = .next (s.fired [] (startOp s.here 0xD9 t { ph := 5, cond := true } { r with sdem := true }))) ∧
     (3 ≤ sc → 2 ≤ pol → exec (.fence t) s = .next (s.trapped r { code := 0x48, aux := sc }))) ∧
   (∀ (t : Ti) (s : State) (r : Region), Fires s 0xD6 t r →
     exec (.hclm t) s = .next (s.fired [] ((claimAll r (hreqsOf r s.curKey 0xD6 t)).updCt s.curKey (fun c => predUpd c t true))))) ∧
  ((∀ (t : Ti) (s : State) (r : Region), Fires s 0xF0 t r → CleanAB s 0xF0 t r →
     let o := s.opnds 0xF0 t r
     let ea := o.a.bits
     let p : PendOp := { a := o.a, b := o.b, ph := 5, col := colourOf r s.curKey 0xF0 t }
     let reach : PendOp := { p with ph := 6, res := { bits := BitVec.ofInt 64 (-17) }, cond := true }
     (fld ea 63 62 = 3 → exec (.sysc t) s = .next (s.trapped r { code := 0x14, va := ea.toNat, aux := 64 })) ∧
     (fld ea 63 62 = 0 ∨ fld ea 63 62 = 2 → exec (.sysc t) s = .next (s.started 0xF0 t r reach)) ∧
     (fld ea 63 62 = 1 → ea.toNat % 64 ≠ 0 → exec (.sysc t) s = .next (s.trapped r { code := 0x15, va := ea.toNat, aux := 64 })) ∧
     (fld ea 63 62 = 1 → ea.toNat % 64 = 0 → capRemote (capEntry r (fld ea 61 54)) = true → exec (.sysc t) s = .next (s.started 0xF0 t r reach)) ∧
     (∀ q : Place, fld ea 63 62 = 1 → ea.toNat % 64 = 0 → capRemote (capEntry r (fld ea 61 54)) = false →
       capCheck r (sealOf s r.part) (fld ea 61 54) (fld ea 53 0) 64 [bR] = .ok q → exec (.sysc t) s = .next (s.started 0xF0 t r p))) ∧
   (∀ (t : Ti) (s : State) (r : Region), Fires s 0xF3 t r →
     exec (.cfgsw t) s = .next (s.fired [] ((r.emit s.fc s.curKey (outsOf 0xF3 t)
       { pay := 0xF1, mark := mkC, col := colourOf r s.curKey 0xF3 t }).updCt s.curKey (fun c => predUpd c t false)))) ∧
   (∀ (t : Ti) (s : State) (r : Region), Fires s 0xE9 t r → (s.opnds 0xE9 t r).a.pois = false → (t.sb = 15 ∨ (s.opnds 0xE9 t r).b.pois = false) →
     let o := s.opnds 0xE9 t r
     let a := o.a.bits
     let no := fun (c : Nat) => Host.Outcome.next (s.trapped r { code := c, va := a.toNat, aux := 64 })
     let word := locate r s.curKey (sealOf s r.part) o.b.bits 8 [bR, bW, bA] false true
     (fld a 63 62 ≠ 0 ∨ fld a 61 32 ≠ 0 → exec (.scopy t) s = no 0x14) ∧
     (fld a 63 62 = 0 → fld a 61 32 = 0 → a.toNat % 64 ≠ 0 → exec (.scopy t) s = no 0x15) ∧
     (fld a 63 62 = 0 → fld a 61 32 = 0 → a.toNat % 64 = 0 → mtOk r a.toNat 64 = false → exec (.scopy t) s = no 0x13) ∧
     (fld a 63 62 = 0 → fld a 61 32 = 0 → a.toNat % 64 = 0 → mtOk r a.toNat 64 = true → (t.sb = 15 ∨ ∃ q : Place, word = .ok q) →
       exec (.scopy t) s = .next (s.started 0xE9 t r { a := o.a, b := o.b, ph := 7, col := colourOf r s.curKey 0xE9 t })) ∧
     (fld a 63 62 = 0 → fld a 61 32 = 0 → a.toNat % 64 = 0 → mtOk r a.toNat 64 = true → ∀ e : TrapInfo, t.sb ≠ 15 → word = .error e →
       exec (.scopy t) s = .next (s.trapped r e))) ∧
   (∀ (t : Ti) (s : State) (r : Region), Fires s 0xEA t r → (s.opnds 0xEA t r).a.pois = false →
     exec (.scstat t) s = .next (s.started 0xEA t r { a := (s.opnds 0xEA t r).a, ph := 8, due := some (s.fc + 3), col := colourOf r s.curKey 0xEA t })))

/-- R14, R27, R35, R126, R129, R136, R168 and the model's choices (logs 31, 32, 50): a token on the way enters its buffer when its delay is over and a place is free; a Welt token
enters its reserved place; a credit adds one, and its withdrawal takes what was given (log 31); a pulse enters the pending count below 15; a cleared colour joins the tail of the pool, and
its operand presence bits are clear at every FRAME MT, all in this one event (log 50). -/
def Obligations.Arrivals : Prop :=
  ((∀ (s : State) (rid key inp n : Nat) (r : Region) (tok : Token) (rest : List (Nat × Token)), HasRegion s rid r →
     (r.chan key inp).wire = (n, tok) :: rest → n ≤ s.fc → (r.chan key inp).buf.length + (r.chan key inp).popped < chanCap (r.tile key) inp →
     (r.tile key).mark = false ∨ tokIsPmark tok = false →
     exec (.tokenArrival rid key inp) s = .next ((s.setRegion rid (r.updIn key inp (fun c =>
       { c with wire := rest, buf := c.buf ++ [tok], came := c.came + 1 }))).fedIn rid key inp)) ∧
   (∀ (s : State) (rid key inp : Nat) (r : Region) (tok : Token), HasRegion s rid r →
     (weltOf (r.tile key).act (16 + inp)).isSome = true ∨ (weltOf (r.tile key).ins (16 + inp)).isSome = true → tokHw tok = false → (r.chan key inp).buf.length + (r.chan key inp).popped < chanCap (r.tile key) inp →
     ((r.chan key inp).wire = [] →
       ∃ r' : Region, exec (.weltTokenArrival rid key inp tok) s = .next ((s.setRegion rid r').fedIn rid key inp) ∧
         (r'.chan key inp).buf = (r.chan key inp).buf ++ [tok] ∧ (r'.chan key inp).wire = [] ∧
         ∀ g : Nat × Nat × Nat, tfind (r.tile key).given inp = some g → tfind (r'.tile key).given inp = some (g.1, g.2.1, g.2.2 - 1)) ∧
     ((r.chan key inp).wire ≠ [] →
       ∃ r' : Region, exec (.weltTokenArrival rid key inp tok) s = .next (s.setRegion rid r') ∧
         (r'.chan key inp).wire = (r.chan key inp).wire ++ [(s.fc, tok)] ∧ (r'.chan key inp).buf = (r.chan key inp).buf ∧
         ∀ g : Nat × Nat × Nat, tfind (r.tile key).given inp = some g → tfind (r'.tile key).given inp = some (g.1, g.2.1, g.2.2 - 1))) ∧
   (∀ (s : State) (rid key out : Nat) (r : Region) (w : Word), HasRegion s rid r → weltOf (r.pl key) (out % 32) = some w →
     (out < 32 → exec (.weltCredit rid key out) s = .next ((s.setRegion rid
       ((r.updPl key (fun p => { p with credit := tset p.credit out (tget p.credit 0 out + 1) })).drainOut s.fc key)).fedOut rid key out)) ∧
     (32 ≤ out → exec (.weltCredit rid key out) s = .next (s.setRegion rid
       ((r.updPl key (fun p => { p with credit := tset p.credit (out % 32) 0 })).drainOut s.fc key)))) ∧
   (∀ (s : State) (rid key ci : Nat) (r : Region), HasRegion s rid r → (r.tile key).swBusy = none → tget (r.ct key).ciNet 0 ci ≠ 0 →
     tget (r.ct key).ci 0 ci < 15 →
     exec (.controlPulse rid key ci) s = .next (s.setRegion rid (r.updCt key (fun c =>
       { c with ciNet := tset c.ciNet ci (tget c.ciNet 0 ci - 1), ci := tset c.ci ci (tget c.ci 0 ci + 1) }))))) ∧
  (∀ (s : State) (rid c : Nat) (r : Region), HasRegion s rid r → (tget r.cols {} c).st = .clearing →
     ∃ r' : Region, exec (.colourClearDone rid c) s = .next (s.setRegion rid r').wake ∧
       r'.pool = r.pool ++ [c] ∧ tfind r'.cols c = none ∧
       ∀ (key k : Nat) (tl : Tile), (key, tl) ∈ r.tiles → ∀ p ∈ [tl.act, tl.ins], planeMode p = 3 → k < frameS p →
         mtAddr key ((c * frameS p + k) * 8) / 8 ∉ r'.pres)

/-- R34, R275, R400, R465: a D or L token enters the frame of its colour and sets its presence bit, or traps where the frame lies outside the MT (the
fields of its record but for the colour are log 34's); a firing in emission sends its next operand, D but for the last, L; with no firing in emission the start of an fc chooses the complete frame of least colour, else the
lowest input with an E or C token, which then passes. -/
def Obligations.FrameUnit : Prop :=
  (∀ (s : State) (rid key inp : Nat) (r : Region) (tok : Token), UnitRuns s rid key 3 r → r.head key inp = some tok →
    let p := r.pl key
    let c := tok.col.toNat
    let a := frameAddr p key c inp
    inp < frameN p → tok.mark = mkD ∨ tok.mark = mkL → (c * frameS p + frameS p) * 8 ≤ mtLimit r →
    ((r.popIn key inp).pres.contains (a / 8) = false ∨ (tget (r.popIn key inp).cols {} c).st = .clearing) →
    ∃ r' : Region, exec (.frameStore rid key inp) s = .next (s.setRegion rid r').wake ∧
      r'.mtRead a 8 = tokVal tok ∧ r'.pres.contains (a / 8) = true) ∧
  (∀ (s : State) (rid key inp : Nat) (r : Region) (tok : Token), UnitRuns s rid key 3 r → r.head key inp = some tok →
    let p := r.pl key
    let c := tok.col.toNat
    inp < frameN p → tok.mark = mkD ∨ tok.mark = mkL → mtLimit r < (c * frameS p + frameS p) * 8 →
    ∃ r' : Region, exec (.frameStore rid key inp) s = .next (s.setRegion rid r').wake ∧
      r'.recs = r.recs ++ [recOf r { code := 0x13, key := key, src := 3, elem := c, va := 2 ^ 63 + c * 2 ^ 32 + inp, aux := 8 }]) ∧
  (∀ (s : State) (rid key c k : Nat) (r : Region), UnitRuns s rid key 3 r → r.usedU key uEmit = false → r.outSpace key 0 = true →
    (r.pl key).u.frBusy = some (c, k) → k < frameN (r.pl key) →
    let m := if k + 1 = frameN (r.pl key) then mkL else mkD
    exec (.frameFiring rid key) s = .next (s.setRegion rid
      (((r.emit s.fc key [0] (tokS (r.mtRead (frameAddr (r.pl key) key c k) 8) m (BitVec.ofNat 10 c))).useU key uEmit).updU key
        (fun u => { u with frBusy := some (c, k + 1) })))) ∧
  (∀ (r : Region) (key : Nat), (r.pl key).u.frBusy = none →
    let q := (frameChoose key r).pl key
    (∀ c : Nat, frameReady r key = some c → q.u.frBusy = some (c, 0)) ∧
    (∀ (j : Nat) (tok : Token), frameReady r key = none → j < frameN (r.pl key) → r.head key j = some tok → tok.mark = mkE ∨ tok.mark = mkC →
      (∀ (i : Nat) (x : Token), i < j → r.head key i = some x → x.mark ≠ mkE ∧ x.mark ≠ mkC) → q.u.frBusy = none ∧ q.u.frFwd = some j)) ∧
  (∀ (s : State) (rid key j : Nat) (r : Region) (tok : Token), UnitRuns s rid key 3 r → r.usedU key uEmit = false → r.outSpace key 0 = true →
    (r.pl key).u.frFwd = some j → r.head key j = some tok → tok.mark = mkE ∨ tok.mark = mkC →
    exec (.frameForward rid key) s = .next (s.setRegion rid
      ((((r.popIn key j).emit s.fc key [0] tok).useU key uEmit).updU key (fun u => { u with frFwd := none }))))

/-- R405-R407, R409-R414: a SWAP that passes on exchanges the planes of its tile, and the tokens queued at the tile stay at its inputs; one that passes
nothing on is taken off, in a region with a shadow part under the same conditions, and changes the parity of its input; a marker at the head of an input stops its tile; late markers stop the tiles that have none; a marker at a marked tile ends its
input's log; a tile whose operations stand gives its markers; a complete cut freezes the region with FRZ 10, or parks it for the slicer with RES 0; a drain of 2,048 fc becomes a freeze. -/
def Obligations.DrainSteps : Prop :=
  ((∀ (s : State) (rid key inp : Nat) (r : Region), HasRegion s rid r → waveLive r key = true → swapHead r key inp = true →
     swapPasses r key inp = true → tileQuiet r key = true → engineAtRest r key = true →
     let s1 := s.endTileWaits rid key
     ∃ r' : Region, exec (.swapTake rid key inp) s = .next (s1.setRegion rid r') ∧
       let a := (((s1.region rid).popIn key inp).tile key).act
       let b := (((s1.region rid).popIn key inp).tile key).ins
       let z := r'.tile key
       z.act.ct = { b.ct with untx := a.ct.untx } ∧ z.act.routes = b.routes ∧ z.act.mode = b.mode ∧
       z.ins.ct = { a.ct with untx := [], hold := [], firedN := none } ∧ z.ins.routes = a.routes ∧ z.ins.mode = a.mode ∧
       z.swS = !(r.tile key).swS ∧ z.swBusy = some s.fc ∧
       (∀ i : Nat, (tget b.inp {} i).buf = [] → (tget z.act.inp {} i).buf = (tget a.inp {} i).buf)) ∧
   (∀ (s : State) (rid key inp : Nat) (r : Region), HasRegion s rid r → waveLive r key = true → swapHead r key inp = true →
     swapPasses r key inp = false → (r.shp = true → tileQuiet r key = true ∧ engineAtRest r key = true) →
     ∃ r' : Region, exec (.swapDiscard rid key inp) s = .next (s.setRegion rid r') ∧
       (r'.chan key inp).buf = (r.chan key inp).buf.drop 1 ∧ (r'.tile key).swS = (r.tile key).swS ∧
       (r'.tile key).swW = (if r.shp then nset (r.tile key).swW inp (!(r.tile key).swW.contains inp) else (r.tile key).swW))) ∧
  ((∀ (s : State) (rid key : Nat) (r : Region), HasRegion s rid r → r.drain.isSome = true → waveLive r key = true → unitDone r key = true →
     (r.pl key).inp.any (fun c => match c.2.front with | some t => tokIsPmark t | none => false) = true →
     ∃ r' : Region, exec (.markerTake rid key) s = .next (s.setRegion rid r') ∧ (r'.tile key).mark = true ∧
       ∀ (i : Nat) (x : Token), x ∈ (r'.chan key i).buf → tokIsPmark x = false) ∧
   (∀ (s : State) (rid key n : Nat) (r : Region), HasRegion s rid r → r.drain = some n → 256 ≤ n → key ∈ r.keys → waveLive r key = true →
     unitDone r key = true → ∃ r' : Region, exec (.pmarkLateInject rid) s = .next (s.setRegion rid r') ∧ (r'.tile key).mark = true) ∧
   (∀ (s : State) (rid key inp n : Nat) (r : Region) (tok : Token) (rest : List (Nat × Token)), HasRegion s rid r →
     (r.chan key inp).wire = (n, tok) :: rest → tokIsPmark tok = true → (r.tile key).mark = true → n ≤ s.fc →
     ∃ r' : Region, exec (.pmarkLogEnd rid key inp) s = .next (s.setRegion rid r') ∧ (r'.chan key inp).wire = rest ∧
       inp ∈ (r'.tile key).logEnd) ∧
   (∀ (s : State) (rid key : Nat) (r : Region), HasRegion s rid r → r.drain.isSome = true → (r.tile key).mark = true → (r.tile key).markEm = false →
     (r.ct key).ops = [] → enginesCut r key = true → (∀ a ∈ r.flight, ownerTile r a.2 ≠ key) →
     exec (.markerEmit rid key) s = .next (s.setRegion rid
       (let r1 := r.updPl key (fun p => { p with outq := (planeOuts r (r.pl key) key).foldl (fun l o => putMark o l) p.outq })
        (r1.setTile key { r1.tile key with markEm := true }).drainOut s.fc key))) ∧
   (∀ (s : State) (rid : Nat) (r : Region), HasRegion s rid r → r.drain.isSome = true → r.frzReq = none → cutDone r = true → r.drainSl = false →
     ∃ t : State, exec (.markDrainComplete rid) s = .next t ∧ (t.region rid).st = rFrozen ∧ (t.region rid).frz = 2 ∧
       (t.region rid).settled = true ∧ (t.region rid).drain = none ∧ ∀ k : Nat, ((t.region rid).tile k).mark = false) ∧
   (∀ (s : State) (rid : Nat) (r : Region), HasRegion s rid r → r.drain.isSome = true → r.frzReq = none → cutDone r = true → r.drainSl = true →
     ∃ t : State, exec (.markDrainComplete rid) s = .next t ∧ (t.region rid).st = r.st ∧ (t.region rid).res = false ∧ (t.region rid).parked = true ∧
       (t.region rid).settled = true ∧ (t.region rid).cut = true ∧ (t.region rid).drain = none) ∧
   (∀ (s : State) (rid n : Nat) (r : Region), HasRegion s rid r → r.drain = some n → 2048 ≤ n → r.drainSl = false →
     ∃ t : State, exec (.drainTimeout rid) s = .next t ∧ (t.region rid).st = rFrozen ∧ (t.region rid).frz = r.frzReq.getD 0 ∧ (t.region rid).drain = none))

/-- R24, R396, R401, R402: a region that a trap asked to freeze stops, FROZEN with the trap's FRZ code, FIDL set when it was IDLE; a frozen region with
nothing on its way settles; a trap asks a running or idle region to freeze with FRZ 01, writes its record, and leaves the region's memory and registers. -/
def Obligations.FreezeSteps : Prop :=
  ((∀ (s : State) (rid : Nat) (r : Region) (f : BitVec 2), HasRegion s rid r → r.frzReq = some f → r.st = rRunning ∨ r.st = rIdle →
     ∃ t : State, exec (.freezeStop rid) s = .next t ∧ (t.region rid).st = rFrozen ∧ (t.region rid).frz = f ∧
       (t.region rid).fidl = (r.st == rIdle) ∧ (t.region rid).frzReq = none ∧ (t.region rid).settled = false) ∧
   (∀ (s : State) (rid : Nat) (r : Region), HasRegion s rid r → r.st = rFrozen → r.settled = false → settleReady r = true → r.strms = [] → r.copies = [] →
     (∀ a ∈ r.flight, a.2.st ≠ .travel) → (s.part r.part).mig = none →
     exec (.regionSettled rid) s = .next (s.setRegion rid { r with settled := true }))) ∧
  (∀ (s : State) (r : Region) (e : TrapInfo),
     let t := (s.trapped r e).region s.curRid
     t.recs = r.recs ++ [recOf r { e with key := s.curKey, slot := s.curSlot, src := 0, tiw := slotWord r s.here }] ∧
     (r.st = rRunning ∨ r.st = rIdle → t.frzReq = some (r.frzReq.getD 1)) ∧
     t.mt = r.mt ∧ t.pres = r.pres ∧ t.pois = r.pois ∧ t.st = r.st ∧
     (∀ k : Nat, (t.ct k).g = (r.ct k).g ∧ (t.ct k).v = (r.ct k).v ∧ (t.ct k).acc = (r.ct k).acc ∧ (t.ct k).p = (r.ct k).p ∧
       (t.pl k).inp = (r.pl k).inp ∧ (t.pl k).outq = (r.pl k).outq))

/-- R38-R40, R325, R403: the return from a freeze goes to IDLE when the region froze while IDLE, and to RUNNING otherwise; a complete run makes the
region IDLE and counts it, and a drain in progress ends (log 50); a queued replay starts at once, with the counts at 0. -/
def Obligations.RunSteps : Prop :=
  (∀ r : Region, (r.fidl = true → r.resume.st = rIdle) ∧ (r.fidl = false → r.resume.st = rRunning) ∧ r.resume.fidl = false ∧ r.resume.frz = 0 ∧
     r.resume.mt = r.mt ∧ r.resume.tiles = r.tiles) ∧
  ((∀ (s : State) (rid : Nat) (r : Region), HasRegion s rid r → runDone r = true →
     (r.rpq = false → ∃ t : State, exec (.runComplete rid) s = .next t ∧ (t.region rid).st = rIdle ∧ (t.region rid).runs = r.runs + 1 ∧
       (t.region rid).drain = none) ∧
     (r.rpq = true → s.ckptOn = false → ∃ t : State, exec (.runComplete rid) s = .next t ∧ (t.region rid).st = rRunning ∧
       (t.region rid).runs = r.runs + 1 ∧ (t.region rid).rpq = false ∧ (t.region rid).doneC = 0 ∧ (t.region rid).rcyc = 0)) ∧
   (∀ (s : State) (rid : Nat) (r : Region), HasRegion s rid r → r.st = rIdle → r.rpq = true → s.ckptOn = false →
     ∃ t : State, exec (.replayStart rid) s = .next t ∧ (t.region rid).st = rRunning ∧ (t.region rid).rpq = false ∧
       (t.region rid).doneC = 0 ∧ (t.region rid).rcyc = 0))

/-- R249, R252, R253, R255, R257, R262, R263, R378, R433: a stream starts when its checks pass, and traps when they fail; a handle stream's next box claims
its handles; a completion word and a tap are one atomic event each; a read stream whose next element lies in an MT issues its read at the walk's address;
a page outside the extents is walked and its leaf installed; a box all of whose elements are done is complete. -/
def Obligations.StreamSteps : Prop :=
  ((∀ (s : State) (rid c : Nat) (r : Region), HasRegion s rid r → canStart r c = true →
     (∀ dem : Bool, startCheck r (sealOf s r.part) (partFpol (s.part r.part)) (r.strm c).desc = .ok dem →
       exec (.streamStart rid c) s = .next (s.setRegion rid
         (startDesc c 0 0 (strmAddr r c 0) ((if dem then { r with sdem := true } else r).setStrm c (fun z => { z with st := 1 }))))) ∧
     (∀ e : TrapInfo, startCheck r (sealOf s r.part) (partFpol (s.part r.part)) (r.strm c).desc = .error e →
       exec (.streamStart rid c) s = .next (s.setRegion rid ((strmTrap r c e).setStrm c (fun z => { z with halt := 1 }))))) ∧
   (∀ (s : State) (rid c : Nat) (r : Region), HasRegion s rid r → boxOpen r c = true → portTaken r c = false →
     let z := r.strm c
     let h := dEndp z.desc % 8
     dPerm z.desc = false → mcTiles r z.tile z.desc = [z.tile] → portMay r z.tile h (!dWrite z.desc) = true →
     exec (.boxStart rid c) s = .next (s.setRegion rid
       ((r.updHnd z.tile h (fun x => { x with nxt := some (if dWrite z.desc then hDraining else hFilling) })).setStrm c
         (fun y => { y with box := some z.done.length })))) ∧
   (∀ (s : State) (rid c : Nat) (r : Region), HasRegion s rid r → strmLive r c = true →
     let z := r.strm c
     let ad : Nat × Nat × Nat := if fld (dAux z.desc) 63 62 = 1 then (1, (globVa r (dAux z.desc)).1, (globVa r (dAux z.desc)).2) else (0, (dAux z.desc).toNat, 0)
     z.st = 1 → z.copy = false → z.compl = 0 → dAuxk z.desc = 1 → dChan z.desc = true → z.done.length = dBoxes z.desc → z.taps = 0 → dEos z.desc = false →
     r.flight = [] →
     exec (.streamCompletionWord rid c) s = .next (s.setRegion rid
       ((issue { own := strmOwner c 0 2, op := .rmw .add 8 false { bits := 1 } {}, sp := ad.1, addr := ad.2.1, capx := ad.2.2, seq := r.seq } r).1.setStrm c
         (fun y => { y with compl := 1 })))) ∧
   (∀ (s : State) (rid c : Nat) (r : Region), HasRegion s rid r → strmLive r c = true →
     let z := r.strm c
     let ad : Nat × Nat × Nat := if fld (dAux z.desc) 63 62 = 1 then (1, (globVa r (dAux z.desc)).1, (globVa r (dAux z.desc)).2) else (0, (dAux z.desc).toNat, 0)
     z.copy = false → z.taps ≠ 0 → r.flight = [] →
     exec (.tapArrival rid c) s = .next (s.setRegion rid
       (issue { own := strmOwner c 0 3, op := .barr false, sp := ad.1, addr := ad.2.1, capx := ad.2.2, seq := r.seq } r).1)) ∧
   (∀ (s : State) (rid c : Nat) (r : Region) (tok : Token) (rest : List Token), HasRegion s rid r → strmLive r c = true →
     (r.strm c).copy = false → dWrite (r.strm c).desc = true → dChan (r.strm c).desc = true → (r.strm c).held = tok :: rest → tokHw tok = true →
     exec (.writeStreamTake rid c) s = .next (s.setRegion rid
       ((r.setStrm c (fun z => { z with held := rest, tokIx := 0, stop := z.stop || tokIsPmark tok })).drainOut s.fc (r.strm c).tile))) ∧
   (∀ (s : State) (rid c : Nat) (r : Region), HasRegion s rid r → strmLive r c = true →
     let z := r.strm c
     z.copy = false → dWrite z.desc = true → dChan z.desc = true → z.held = [] →
     exec (.writeStreamTake rid c) s = .next (s.setRegion rid (r.drainOut s.fc z.tile)) ∧
     (∀ (o : Nat) (tok : Token), c < copyBase → (r.pl z.tile).outq = [{ op := 0, outs := [o], tok := some tok }] → outDests (r.pl z.tile) o = [] →
       weltOf (r.pl z.tile) o = none → r.drainOf (r.pl z.tile) z.tile o = some c → tokIsSwap tok = false →
       ((r.drainOut s.fc z.tile).strm c).held = [tok] ∧ ((r.drainOut s.fc z.tile).pl z.tile).outq = []))) ∧
  ((∀ (s : State) (rid c : Nat) (r : Region), HasRegion s rid r → c < copyBase → strmLive r c = true →
     let z := r.strm c
     let a := strmAddr r c z.next
     z.st = 1 → z.copy = false → dWrite z.desc = false → dChan z.desc = true → dExp z.desc = false → dEos z.desc = false → z.pmark = false →
     z.stop = false → z.halt ≠ 4 → swapWaits r z.tile = false → z.next < dN z.desc → readRoom r z = true → r.flight = [] → a.1 = 0 →
     exec (.streamElement rid c) s = .next (s.setRegion rid
       ((issue { own := .strm c z.next 0, op := .read (dEsz z.desc), sp := 0, addr := a.2.1, capx := a.2.2, seq := r.seq } r).1.setStrm c
         (fun y => { y with next := z.next + 1 }))).wake) ∧
   (∀ (s : State) (rid c : Nat) (r : Region) (va x n : Nat) (l : Leaf), HasRegion s rid r → strmLive r c = true → (r.strm c).st = 1 →
     (wantAddr r c).find? (fun a => a.1 == 1 && !capRemote (capEntry r a.2.2) && (extFind (r.strm c) a.2.1).isNone) = some (1, va, x) →
     pageFrozen (s.part r.part) va = false → pagePaused r va = false → s.walk r.part va = .ok (l, n) →
     exec (.extentRefill rid c) s = .next (s.addExt rid c (extentOf s r.part va l))) ∧
   (∀ (s : State) (rid c b : Nat) (r : Region), HasRegion s rid r → c < copyBase → hasStrm r c = true → (r.strm c).copy = false →
     (r.strm c).done.contains b = false → b < dBoxes (r.strm c).desc → (r.strm c).st ≠ 0 → boxDone r c b = true → dChan (r.strm c).desc = true →
     exec (.boxComplete rid c b) s = .next (s.setRegion rid (strmFinish c (r.setStrm c (fun z => { z with done := nset z.done b true }))))))

/-- R267, R269: a copy whose block is valid and whose checks pass starts under the next id, which is the result of its SCOPY; a block that is not valid
gives KV_EINVAL; a copy all of whose boxes are complete ends with status 10. -/
def Obligations.CopySteps : Prop :=
  (∀ (s : State) (rid key id : Nat) (r : Region) (o : PendOp), HasRegion s rid r → tfind (r.ct key).ops id = some o → opsRun r = true → o.code = 0xE9 → o.ph ≠ phClaim →
    earlierDone r key id = true →
    let ws := r.mtWords (o.a.bits.toNat % 2 ^ 32) 8
    let d := ws.map (fun v => v.bits)
    ws.any (fun v => v.pois) = false →
    (cpBlockValid r d = false → exec (.copyStart rid key id) s = .next (s.setRegion rid (completeS s.fc r key id o { bits := BitVec.ofInt 64 (-1) } false))) ∧
    (∀ dem : Bool, cpBlockValid r d = true → cpCheck r (sealOf s r.part) (partFpol (s.part r.part)) d = .ok dem → dChan d = true →
      ∃ r1 : Region,
        (let s1 := s.setRegion rid (completeS s.fc r1 key id o { bits := BitVec.ofNat 64 r.cpyid } true)
         exec (.copyStart rid key id) s =
           .next (if (tfind r.copies (copyBase + r.seq)).isNone then
             onRegion (s1.copyExtents rid (copyBase + r.seq)) rid (copyDescs (copyBase + r.seq)) else s1)) ∧
        r1.cpyid = (r.cpyid + 1) % 2 ^ 16 ∧ r1.tiles = r.tiles ∧
        ∃ z : Strm, tfind r1.copies (copyBase + r.seq) = some z ∧ z.desc = d ∧ z.cid = r.cpyid ∧ z.st = 1 ∧ z.copy = true)) ∧
  (∀ (s : State) (rid c : Nat) (r : Region), HasRegion s rid r → hasStrm r c = true → strmLive r c = true → (r.strm c).copy = true →
    (r.strm c).done.length = dBoxes (r.strm c).desc → (r.strm c).compl = 2 → dChan (r.strm c).desc = true →
    exec (.copyComplete rid c) s = .next (s.setRegion rid (cpEnd c 2 0 r)))

/-- R273, R274, R276-R278: the steps of the FIFO, LINE, GATH, SUU and COMP units: a FIFO takes and gives an entry; a LINE stores a token, and in a column
that has all its rows emits them; a gather and a scatter are taken, issued and answered, a scatter behind the gathers of its element that are not issued; an SUU
takes, issues and merges updates; a COMP takes a row and emits its record. The layout of a FIFO's entries is log 19's, the colour of a COMP record's tokens is
free (log 20), and what a request's ordinal counts is log 55's. -/
def Obligations.UnitSteps : Prop :=
  (∀ (s : State) (rid key : Nat) (r : Region) (t : Token), UnitRuns s rid key 1 r → r.head key (fifoChan (r.pl key)) = some t →
    fifoCount (r.pl key) + (if r.usedU key uGive then 1 else 0) < fifoCap (r.pl key) → r.usedU key uTake = false →
    exec (.fifoTake rid key) s = .next (s.setRegion rid
      (((mtWriteWords (r.popIn key (fifoChan (r.pl key))) (fifoAt (r.pl key) key (r.pl key).u.rtail) (entryWords (fifoVec (r.pl key)) t)).updU key
        (fun u => { u with rtail := u.rtail + 1 })).useU key uTake))) ∧
  (∀ (s : State) (rid key : Nat) (r : Region), UnitRuns s rid key 1 r → (if r.usedU key uTake then 1 else 0) < fifoCount (r.pl key) →
    r.usedU key uGive = false →
    r.outSpace key (fifoChan (r.pl key)) = true →
    let ws := (r.mtWords (fifoAt (r.pl key) key (r.pl key).u.rhead) (fifoEntry (r.pl key) / 8)).map (fun v => v.bits)
    exec (.fifoGive rid key) s = .next (s.setRegion rid
      (((r.emit s.fc key [fifoChan (r.pl key)] (entryTok (fifoVec (r.pl key)) ws)).updU key (fun u => { u with rhead := u.rhead + 1 })).useU key uGive))) ∧
  (∀ (s : State) (rid key : Nat) (r : Region) (t : Token), UnitRuns s rid key 2 r → r.head key 0 = some t → t.mark = mkD ∨ t.mark = mkL →
    (r.pl key).u.rows + 1 < lineNl (r.pl key) →
    exec (.lineToken rid key) s = .next (s.setRegion rid
      (((r.popIn key 0).mtWrite (lineAt (r.pl key) key (r.pl key).u.rows (r.pl key).u.col) 8 (tokVal t)).updU key (fun u =>
        if (r.pl key).u.col + 1 = lineWd (r.pl key) then { u with rows := (r.pl key).u.rows + 1, col := 0 } else { u with col := (r.pl key).u.col + 1 })))) ∧
  (∀ (s : State) (rid key : Nat) (r : Region) (t : Token), UnitRuns s rid key 2 r → r.head key 0 = some t → t.mark = mkD ∨ t.mark = mkL →
    lineNl (r.pl key) ≤ (r.pl key).u.rows + 1 → (∀ o < lineNl (r.pl key), r.outSpace key o = true) →
    let p := r.pl key
    let r1 := (r.popIn key 0).mtWrite (lineAt p key p.u.rows p.u.col) 8 (tokVal t)
    let r2 := (List.range (lineNl p)).foldl (fun r k =>
      r.emit s.fc key [k] (tokS (r.mtRead (lineAt p key (p.u.rows + 1 - lineNl p + k) p.u.col) 8) t.mark t.col)) r1
    exec (.lineToken rid key) s = .next (s.setRegion rid (r2.updU key (fun u =>
      if p.u.col + 1 = lineWd p then { u with rows := p.u.rows + 1, col := 0 } else { u with col := p.u.col + 1 })))) ∧
  (∀ (s : State) (rid key : Nat) (r : Region) (t : Token), UnitRuns s rid key 4 r → r.head key 0 = some t → t.mark = mkD ∨ t.mark = mkL →
    (r.pl key).u.greqs = [] → (r.pl key).u.first = 1 → (tokVal t).pois = false →
    let sl := sealOf s r.part
    ∀ a : Nat × Nat × Nat, tblAddr r sl ((r.pl key).mode.getD 1 0) (tblEsz (r.pl key)) (tokVal t).bits [bR] = .ok a →
      ∃ r' : Region, exec (.gathMtGather rid key) s = .next (s.setRegion rid r') ∧
        (r'.pl key).u.greqs = [{ kind := 0, idx := (tokVal t).bits, tok := t, loc := a, ord := (r.pl key).u.reqOrd }] ∧ (r'.chan key 0).buf = (r.chan key 0).buf.drop 1) ∧
  (∀ (s : State) (rid key : Nat) (r : Region) (t w : Token) (a : Nat × Nat × Nat), UnitRuns s rid key 4 r → r.head key 1 = some t → r.head key 2 = some w →
    t.mark = mkD ∨ t.mark = mkL → (r.pl key).u.first = 2 → scatCan r key = true → (tokVal t).pois = false →
    tblAddr r (sealOf s r.part) ((r.pl key).mode.getD 1 0) (tblEsz (r.pl key)) (tokVal t).bits [bW] = .ok a → reqDue r key 1 = none →
    (∀ x ∈ (r.pl key).u.greqs, x.ord < (r.pl key).u.reqOrd) →
    let waits := (r.pl key).u.greqs.any (fun x => x.kind == 0 && x.acc == 0 && x.loc.1 == a.1 && x.loc.2.1 / 8 == a.2.1 / 8)
    ∃ r' : Region, exec (.gathMtScatter rid key) s = .next (s.setRegion rid r') ∧
      (r'.pl key).u.greqs = (r.pl key).u.greqs ++ [{ kind := 1, idx := (tokVal t).bits, tok := t, loc := a, val := tokVal w, acc := if waits then 0 else r.seq, ord := (r.pl key).u.reqOrd }] ∧
      (waits = true → r'.flight = r.flight) ∧
      (waits = false → tfind r'.flight r.seq = some { own := .unit key (r.pl key).u.reqOrd, op := .write (tblEsz (r.pl key)) (tokVal w), sp := a.1, addr := a.2.1, capx := a.2.2, seq := r.seq })) ∧
  (∀ (s : State) (rid key : Nat) (r : Region) (q : GReq), UnitRuns s rid key 4 r → reqDue r key 0 = some q →
    (∀ (x : GReq) (rest : List GReq), (r.pl key).u.greqs.filter (fun x => x.kind == 0 || x.kind == 2) = x :: rest →
      x.kind = 0 ∧ accIs r x.acc ≠ some .done ∧ ∀ c : Nat, accIs r x.acc ≠ some (.failed c)) →
    let a : Access := { own := .unit key q.ord, op := .read (tblEsz (r.pl key)), sp := q.loc.1, addr := q.loc.2.1, capx := q.loc.2.2, seq := r.seq }
    exec (.gathMtGather rid key) s = .next (s.setRegion rid ((issue a r).1.updU key (fun u =>
      { u with greqs := u.greqs.map (fun x => if x.ord = q.ord then { x with acc := (issue a r).2 } else x) })))) ∧
  (∀ (s : State) (rid key : Nat) (r : Region) (q : GReq) (rest : List GReq), UnitRuns s rid key 4 r → r.outSpace key 0 = true →
    (r.pl key).u.greqs = q :: rest → q.kind = 0 → accIs r q.acc = some .done →
    let n := tblEsz (r.pl key)
    let v := accAns r q.acc
    let x : Word := if bitOf ((r.pl key).mode.getD 0 0) 57 then sxTo (8 * n) v.bits.toNat else BitVec.ofNat 64 (v.bits.toNat % 2 ^ (8 * n))
    let r1 := r.emit s.fc key [0] (tokS { v with bits := x } q.tok.mark q.tok.col)
    exec (.gathMtGather rid key) s = .next (s.setRegion rid
      ({ r1 with flight := tdel r1.flight q.acc }.updU key (fun u => { u with greqs := u.greqs.filter (fun x => x.ord != q.ord) })))) ∧
  (∀ (s : State) (rid key : Nat) (r : Region) (q : GReq) (rest : List GReq), UnitRuns s rid key 4 r → r.outSpace key 1 = true →
    (r.pl key).u.greqs = q :: rest → q.kind = 1 → accIs r q.acc = some .done →
    let r1 := r.emit s.fc key [1] (tokS { bits := q.idx } mkD q.tok.col)
    exec (.gathMtOrderingToken rid key) s = .next (s.setRegion rid
      ({ r1 with flight := tdel r1.flight q.acc }.updU key (fun u => { u with greqs := u.greqs.filter (fun x => x.ord != q.ord) })))) ∧
  (∀ (s : State) (rid key : Nat) (r : Region) (t w : Token) (a : Nat × Nat × Nat), UnitRuns s rid key 5 r → r.head key 0 = some t → r.head key 1 = some w →
    t.mark = mkD ∨ t.mark = mkL → (r.pl key).u.sreqs = [] → (tokVal t).pois = false →
    tblAddr ((r.popIn key 0).popIn key 1) (sealOf s r.part) ((r.pl key).mode.getD 1 0) (tblEsz (r.pl key)) (tokVal t).bits [bW, bA] = .ok a →
    ∃ r' : Region, exec (.suuUpdate rid key 0) s = .next (s.setRegion rid r') ∧
      (r'.pl key).u.sreqs = [{ addr := a.2.1, vals := [tokVal w], ord := (r.pl key).u.reqOrd }]) ∧
  (∀ (s : State) (rid key k : Nat) (r : Region) (q : SUpd), UnitRuns s rid key 5 r → (r.pl key).u.sreqs[k]? = some q → q.acc = 0 → q.ends = none →
    (suuOrdered (r.pl key) = true → ∀ x ∈ (r.pl key).u.sreqs.take k, x.ends.isSome = true ∨ x.acc ≠ 0) →
    let b := (r.pl key).mode.getD 1 0
    let g := decide (fld b 63 62 = 1)
    let a : Access := { own := .unit key q.ord, op := suuEvent (r.pl key) q, sp := if g then 1 else 0, addr := q.addr, capx := if g then fld b 61 54 else 0, seq := r.seq }
    exec (.suuUpdate rid key (2 * k + 1)) s = .next (s.setRegion rid ((issue a r).1.updU key (fun u =>
      { u with sreqs := u.sreqs.map (fun x => if x.ord = q.ord then { x with acc := (issue a r).2 } else x) })))) ∧
  (∀ (s : State) (rid key : Nat) (r : Region) (x q : SUpd), UnitRuns s rid key 5 r → (r.pl key).u.sreqs = [x, q] → x.acc = 0 → q.acc = 0 →
    x.ends = none → q.ends = none → x.addr = q.addr → x.ord ≠ q.ord →
    exec (.suuUpdate rid key 4) s = .next (s.setRegion rid (r.updU key (fun u => { u with sreqs := [{ x with vals := x.vals ++ q.vals }] })))) ∧
  (∀ (p : Plane) (q : SUpd) (v w : Val), q.vals = [v, w] →
    (suuOp p = 2 → suuEvent p q = .fsum (tblEsz p) [v, w]) ∧
    (suuOp p ≠ 2 → suuEvent p q = .rmw (redFn (suuOp p)) (tblEsz p) false
      { bits := rmwVal (redFn (suuOp p)) (tblEsz p) (lowBytes (tblEsz p) v.bits) w.bits, pois := v.pois || w.pois } {})) ∧
  (∀ (s : State) (rid key : Nat) (r : Region) (t : Token), HasRegion s rid r → unitLive r key = true → planeMode (r.pl key) = 6 → r.head key 8 = some t →
    t.mark = mkD ∨ t.mark = mkL → (r.pl key).u.rows ≠ 4 * compEsz (r.pl key) →
    ∃ r' : Region, exec (.compTileRecord rid key) s = .next ({ s with freeC := s.freeC + 1 }.setRegion rid r') ∧
      (r'.pl key).u.rows = (r.pl key).u.rows + 1 ∧ (r'.chan key 8).buf = (r.chan key 8).buf.drop 1) ∧
  (∀ (s : State) (rid key : Nat) (r : Region), UnitRuns s rid key 6 r → (r.pl key).u.rows = 4 * compEsz (r.pl key) →
    r.usedU key uTake = false → r.usedU key uEmit = false → r.outSpace key 8 = true →
    let v := compToken r key (r.pl key).u.outIx
    ∃ col : BitVec 10, exec (.compTileRecord rid key) s = .next ({ s with freeC := s.freeC + 1 }.setRegion rid
      (((r.emit s.fc key [8] (tokV v.1 (if v.2 then mkL else mkD) col)).useU key uEmit).updU key (fun u =>
        if v.2 then { u with rows := 0, outIx := 0 } else { u with outIx := u.outIx + 1 }))))

/-- R273, R418: a token stored as a channel entry comes back as it was. -/
def Obligations.EntryRoundTrip : Prop :=
  (∀ t : Token, entryTok true (entryWords true t) = t) ∧
  (∀ t : Token, t.pay.toNat < 2 ^ 64 → t.pois.toNat < 2 → entryTok false (entryWords false t) = t)

/-- R283, R285-R287, R291, R295, R296: the steps of an expert queue; the combine tile records a pair, sends an id that has all its slots, and passes an end
token. -/
def Obligations.ExpertQueueSteps : Prop :=
  ((∀ (s : State) (rid acc k id : Nat) (r : Region) (a : Access) (o : PendOp) (ix : Nat), HasAccess s rid acc r a → a.own = .pe k id ix → r.op? k id = some o →
     let key := a.addr / 8 / 16
     let q := a.addr / 8 % 16
     o.code = 0xE0 → a.sp = 3 → unitLive r key = true →
     (a.st = .travel → mustPrecede s r acc a false = true → exec (.exqPushAccept rid acc) s =
       .next (s.setRegion rid { r with flight := tset r.flight acc { a with st := .waiting, pa := s.fc } })) ∧
     (a.st = .waiting → pushNext s.fc acc a r = true → r.usedU key uPush = false → exqStored (r.tile key) < 2048 → (r.pl key).u.ring = [] →
      ∃ r' : Region, exec (.exqPushAccept rid acc) s = .next (s.setRegion rid r') ∧ tfind r'.flight acc = some { a with st := .done } ∧
       (r'.pl key).u.ents = (r.pl key).u.ents ++ [{ q := q, stamp := (r.pl key).u.lclk, ord := (r.pl key).u.qord, fc := s.fc, w0 := o.b, w1 := o.c }])) ∧
   (∀ (s : State) (rid key q : Nat) (r : Region), UnitRuns s rid key 7 r → r.cnt ≠ rRunning → q < exqN (r.pl key) → exqAged (r.pl key) s.fc q = true →
     (exqSt (r.pl key) q).x = none →
     ∃ r' : Region, exec (.queueAged rid key q) s = .next (s.setRegion rid r') ∧ (exqSt (r'.pl key) q).x = some (r.pl key).u.lclk) ∧
   (∀ (fc key q : Nat) (r : Region),
     let r0 := ageAll fc key r
     let r' := exqChoose fc key r
     (r0.pl key).u.batch = none → r0.usedU key uEmit = false → exqPick (r0.pl key) fc = some q →
     (exqSt (r'.pl key) q).x = none ∧ (r'.pl key).u.batch = some (q, 0, exqDue (r0.pl key) q)) ∧
   (∀ (s : State) (rid key : Nat) (r : Region), UnitRuns s rid key 7 r → r.cnt ≠ rRunning →
     exec (.exqChoose rid key) s = .next (s.setRegion rid (exqChoose s.fc key r))) ∧
   (∀ (s : State) (rid key q n : Nat) (r : Region) (e : QEnt) (rest : List QEnt), UnitRuns s rid key 7 r → (r.pl key).u.batch = some (q, n, false) →
     (r.pl key).u.ents.filter (fun e => e.chosen) = e :: rest → r.usedU key uEmit = false → r.outSpace key (exqOut (r.pl key) q) = true →
     let col : BitVec 10 := BitVec.ofNat 10 (e.w0.bits.toNat % 2 ^ 10)
     let tok := if n % 2 = 1 then tokS e.w1 (if rest = [] then mkL else mkD) col else tokS e.w0 mkD col
     let r1 := (r.emit s.fc key [exqOut (r.pl key) q] tok).useU key uEmit
     let r2 := if n % 2 = 1 then r1.setQ key q (fun z => { z with flush := z.flush.map (fun f =>
       if f.fc = s.fc ∧ e.ord < f.mark then { f with n := f.n - 1 } else f) }) else r1
     exec (.exqBatchToken rid key) s = .next (s.setRegion rid (r2.updU key (fun u =>
         { u with ents := if n % 2 = 1 then u.ents.filter (fun z => z.ord != e.ord) else u.ents,
                  batch := if n % 2 = 1 ∧ rest = [] then none else some (q, n + 1, false) })))) ∧
   (∀ (s : State) (rid key q n : Nat) (r : Region) (f : Flush) (rest : List Flush), UnitRuns s rid key 7 r → (r.pl key).u.batch = some (q, n, true) →
     (exqSt (r.pl key) q).flush = f :: rest → r.usedU key uEmit = false → r.outSpace key (exqOut (r.pl key) q) = true →
     exec (.exqFlushToken rid key) s = .next (s.setRegion rid
       (answerOp ((((r.emit s.fc key [exqOut (r.pl key) q] { mark := mkE, col := f.col }).useU key uEmit).setQ key q (fun z => { z with flush := rest })).updU key
         (fun u => { u with batch := none })) f.tile f.op { bits := BitVec.ofNat 64 f.n } (f.n != 0)))) ∧
   (∀ (s : State) (rid key : Nat) (r : Region) (e : QEnt) (rest : List QEnt), UnitRuns s rid key 7 r → (r.pl key).u.ring = e :: rest → r.flight = [] →
     exqStored (r.tile key) < 2048 →
     exec (.exqRingRefill rid key) s = .next (s.setRegion rid (issueAll (ringAccs r key refillTag (r.pl key).u.rhead.toNat [.read 8, .read 8, .read 8, .read 8]) r)))) ∧
  ((∀ (s : State) (rid key : Nat) (r : Region) (a b : Token), UnitRuns s rid key 8 r → r.head key 0 = some a → r.head key 8 = some b →
     a.mark = mkD ∨ a.mark = mkL → b.mark = mkD ∨ b.mark = mkL → (tokVal a).pois = false → b.pois = 0 → excBad (r.pl key).u (tokVal a) = false →
     let h := excHdr (tokVal a).bits
     exec (.excPair rid key) s = .next (s.setRegion rid (((r.popIn key 0).popIn key 8).updU key (fun u =>
       { u with win := tset u.win h.1 (tget u.win [] h.1 ++ [(h.2.1, tokVal a, tokVVal b)]) })))) ∧
   (∀ (s : State) (rid key : Nat) (r : Region), UnitRuns s rid key 8 r →
     let w := (r.pl key).u.wbase.toNat % 2 ^ 24
     let got := tget (r.pl key).u.win [] w
     excComplete (r.pl key).u w = true → r.usedU key uEmit = false → r.outSpace key 0 = true → r.outSpace key 8 = true →
     (got.any excPois = true → ∃ r' : Region, exec (.excEmit rid key) s = .next (s.setRegion rid r') ∧ (r'.pl key).u.wbase = (r.pl key).u.wbase ∧
       tget (r'.pl key).u.win [] w = got.filter (fun x => !excPois x)) ∧
     (got.any excPois = false → ∃ (r' : Region) (col : BitVec 10), exec (.excEmit rid key) s = .next (s.setRegion rid r') ∧
       (∀ g ∈ got, got.find? (fun g => g.1 == 0) = some g → col = BitVec.ofNat 10 (g.2.1.bits.toNat % 2 ^ 10)) ∧
       r' = (((r.emit s.fc key [0] (tokS { bits := BitVec.ofNat 64 w } mkD col)).emit s.fc key [8] (tokV { bits := excRow got } mkD col)).updU key
         (fun u => { u with win := tdel u.win w, wbase := BitVec.ofNat 64 ((w + 1) % 2 ^ 24) })).useU key uEmit)) ∧
   (∀ (s : State) (rid key : Nat) (r : Region) (a b : Token), UnitRuns s rid key 8 r → r.head key 0 = some a → r.head key 8 = some b →
     a.mark = mkE → b.mark = mkE → (r.pl key).u.win = [] → r.outSpace key 0 = true → r.outSpace key 8 = true →
     exec (.excEnd rid key) s = .next (s.setRegion rid ((((r.popIn key 0).popIn key 8).emit s.fc key [0] a).emit s.fc key [8] b))))

/-- R300-R303, R305, R308, R309: an idle engine takes the operation that arrived first: a sweep of an engine that is not configured answers
KV_EINVAL, one of a configured engine starts its tokens, NLCLR reads its block, and once the reads have returned configures the engine; a token of
a sweep enters its destination; a status request is taken behind the operations before it. -/
def Obligations.EngineSteps : Prop :=
  (∀ (s : State) (rid e key id : Nat) (r : Region) (o : PendOp) (rest : List (Nat × Nat)), HasRegion s rid r → nlLive r = true →
    (nleOf r e).busy = none → (nleOf r e).queue = (key, id) :: rest → r.op? key id = some o →
    let n := nleOf r e
    (o.code = 0xE5 → n.st = 0 →
      ∃ r' : Region, exec (.nleTakeOp rid e) s = .next ({ s with freeC := s.freeC + 1 }.setRegion rid r') ∧ (nleOf r' e).busy = none ∧
        r'.op? key id = some { o with ph := 6, res := { bits := BitVec.ofInt 64 (-1) }, cond := true }) ∧
    (o.code = 0xE5 → n.st = 1 ∨ n.st = 2 → o.a.bits = 0 →
      ∃ r' : Region, exec (.nleTakeOp rid e) s = .next ({ s with freeC := s.freeC + 1 }.setRegion rid r') ∧ (nleOf r' e).busy = some (key, id) ∧
        ∀ d < nlNd n.cfg,
          let ts := (nlSweepTokens n.cfg (if n.st = 2 then n.parts else []) (o.ti.imm.getLsbD 7) (o.ti.imm.getLsbD 6)).1
          ((nleOf r' e).sweep.getD d []).map (fun x => x.2) =
            ((lenum ts).filter (fun x => x.1 % nlNd n.cfg == d)).map (fun x => x.2) ++ [{ mark := mkE }]) ∧
    (o.code = 0xE8 → fld o.a.bits 63 62 = 0 → nlRange r key (sealOf s r.part) o.a.bits 1 64 0 = none →
      ∃ r' : Region, exec (.nleTakeOp rid e) s = .next ({ s with freeC := s.freeC + 1 }.setRegion rid r') ∧ (nleOf r' e).busy = some (key, id) ∧
        r'.op? key id = some { o with ph := 11, accs := (List.range 8).map (fun k => r.seq + k) } ∧
        ∀ k < 8, tfind r'.flight (r.seq + k) =
          some { own := .pe key id k, op := .read 8, sp := 0, addr := o.a.bits.toNat + 8 * k, seq := id, ea := o.a.bits })) ∧
  (∀ (s : State) (rid e key id : Nat) (r : Region) (o : PendOp), HasRegion s rid r → nlLive r = true →
    (nleOf r e).busy = some (key, id) → r.op? key id = some o →
    let vs := (opAccs r o).map (fun a => a.ans)
    let blk := vs.map (fun v => v.bits)
    o.code = 0xE8 → o.ph = 11 → accsDone r o = true → vs.any (fun v => v.pois) = false → nlBad r e blk = false →
    ∃ r' : Region, exec (.nleTakeOp rid e) s = .next ({ s with freeC := s.freeC + 1 }.setRegion rid r') ∧
      (nleOf r' e).st = 1 ∧ (nleOf r' e).cfg = blk ∧ (nleOf r' e).parts = [] ∧ (nleOf r' e).busy = none ∧
      r'.op? key id = some { o with ph := 6, res := {}, cond := false }) ∧
  (∀ (s : State) (rid e d j : Nat) (r : Region) (t : Token) (rest : List (Nat × Token)), HasRegion s rid r → nlLive r = true →
    (nleOf r e).sweep.getD d [] = (j, t) :: rest → (nleOf r e).sent.contains d = false → nlQueued (nleOf r e) j = true →
    let w := nlDst (nleOf r e).cfg d
    0 < r.inSpace (dstPlace w).1 (dstPlace w).2 →
    exec (.nlePairToken rid e d) s = .next (s.setRegion rid
      ((r.updIn (dstPlace w).1 (dstPlace w).2 (fun c => { c with wire := c.wire ++ [(s.fc + 1 + fld w 43 38, t)] })).setNle e (fun n =>
        { n with sweep := lset n.sweep d rest, gone := lset n.gone d (n.gone.getD d 0 + 1), sent := d :: n.sent })))) ∧
  (∀ (s : State) (rid e key id : Nat) (r : Region) (o : PendOp), HasRegion s rid r → nlLive r = true → findOp r id = some (key, o) → opEng o = e →
    o.code = 0xE7 → o.ph = 10 → (∀ p ∈ (r.ct key).ops, p.1 < id → nlIsOp e p.2 = true → nlSent r key p.1 = true) →
    exec (.nlstatArrive rid e id) s = .next (s.setRegion rid (r.setOp key id { o with ph := 12, due := some (s.fc + 3) })))

/-- R82, R91, R220, R223-R227, R235-R238, R260: what a home does with one operation on an aligned word, by the operation. -/
def Obligations.HomeOperations : Prop :=
  ∀ (rid o : Nat) (old : Val) (pr : Bool),
    (homeOp (.read 8) rid 0 old pr = .done old none none) ∧
    (∀ n : Nat, homeOp (.read n) rid o old pr = .done { old with bits := BitVec.ofNat 64 (old.bits.toNat / 2 ^ (8 * o) % 2 ^ (8 * n)) } none none) ∧
    (∀ v : Val, homeOp (.write 8 v) rid 0 old pr = .done {} (some v) none) ∧
    (∀ (n : Nat) (v : Val), 1 ≤ n → n < 8 → o + n ≤ 8 → ∃ w : Val, homeOp (.write n v) rid o old pr = .done {} (some w) none ∧
      (w.pois = (v.pois || old.pois)) ∧
      (∀ i < 8, i < o ∨ o + n ≤ i → w.bits.toNat / 2 ^ (8 * i) % 256 = old.bits.toNat / 2 ^ (8 * i) % 256) ∧
      (∀ i < n, w.bits.toNat / 2 ^ (8 * (o + i)) % 256 = v.bits.toNat / 2 ^ (8 * i) % 256)) ∧
    (∀ (f : Rmw) (ret : Bool) (b c : Val), f ≠ .xchg → old.pois = true → homeOp (.rmw f 8 ret b c) rid 0 old pr = .fail 0x21) ∧
    (∀ (f : Rmw) (ret : Bool) (b c : Val) (g : Word → Word → Word), old.pois = false →
      (f, g) ∈ [(Rmw.add, fun (x y : Word) => BitVec.ofNat 64 (x.toNat + y.toNat)), (Rmw.and, fun x y => x &&& y), (Rmw.or, fun x y => x ||| y),
        (Rmw.xor, fun x y => x ^^^ y), (Rmw.min, fun x y => if x.toInt ≤ y.toInt then x else y), (Rmw.max, fun x y => if y.toInt ≤ x.toInt then x else y)] →
      homeOp (.rmw f 8 ret b c) rid 0 old pr =
        .done (if ret then { bits := old.bits } else {}) (some { bits := g old.bits b.bits, pois := b.pois }) none) ∧
    (∀ (ret : Bool) (b c : Val), homeOp (.rmw .xchg 8 ret b c) rid 0 old pr = .done old (some b) none) ∧
    (∀ (ret : Bool) (b c : Val), old.pois = false →
      (old.bits = b.bits → homeOp (.rmw .cas 8 ret b c) rid 0 old pr = .done old (some c) none) ∧
      (old.bits ≠ b.bits → homeOp (.rmw .cas 8 ret b c) rid 0 old pr = .done old none none)) ∧
    (homeOp .ldp rid 0 old pr = if pr then .done old none none else .defer) ∧
    (∀ v : Val, homeOp (.stp v) rid 0 old pr = if pr then .fail 0x20 else .done {} (some v) (some true)) ∧
    (homeOp .clrp rid 0 old pr = .done {} none (some false)) ∧
    (∀ v : Word, homeOp (.ldne v) rid 0 old pr = if old.pois = true ∨ old.bits ≠ v then .done old none none else .defer) ∧
    (∀ tag : BitVec 32, homeOp (.mlock tag) rid 0 old pr =
      if old.pois = true ∨ old.bits.getLsbD 63 = true then .defer else .done {} (some { bits := BitVec.ofNat 64 (2 ^ 63 + rid * 2 ^ 32 + tag.toNat) }) none) ∧
    (old.pois = false → old.bits.getLsbD 63 = true → old.bits.toNat / 2 ^ 32 % 2 ^ 12 = rid → homeOp .munlk rid 0 old pr = .done old (some {}) none) ∧
    (old.bits.toNat / 2 ^ 32 % 2 ^ 12 ≠ rid → homeOp .munlk rid 0 old pr = .done old none none) ∧
    (∀ w : Bool, old.pois = false →
      let tot := old.bits.toNat % 2 ^ 16
      let cnt := old.bits.toNat / 2 ^ 16 % 2 ^ 16
      let gen := old.bits.toNat / 2 ^ 32
      (cnt + 1 = tot → homeOp (.barr w) rid 0 old pr = .done old (some { bits := BitVec.ofNat 64 ((gen + 1) % 2 ^ 32 * 2 ^ 32 + tot) }) none) ∧
      (cnt + 1 < tot → homeOp (.barr w) rid 0 old pr =
        if w then .arrive (some { bits := BitVec.ofNat 64 (gen * 2 ^ 32 + (cnt + 1) * 2 ^ 16 + tot) }) (.barrWait old)
        else .done old (some { bits := BitVec.ofNat 64 (gen * 2 ^ 32 + (cnt + 1) * 2 ^ 16 + tot) }) none) ∧
      (tot ≤ cnt → homeOp (.barr w) rid 0 old pr = .done old none none))

/-- R71, R82, R83, R89, R224, R379, R240, R396: an access that reaches its home performs as one event and releases what waited for it, fails, or is deferred;
a deferred place that frees admits a waiting access; the queue controller checks a queue operation's capability and descriptor and performs it on the item
where its own address lies. -/
def Obligations.HomeSteps : Prop :=
  (∀ (s : State) (rid acc : Nat) (r : Region) (a : Access), HasAccess s rid acc r a → a.st = .travel → a.sp ≠ 1 → a.sp ≠ 3 → a.home = none →
    r.st ≠ rNone → r.st ≠ rDying → r.st ≠ rOut → isQueueOp a.op = false →
    mustPrecede s r acc a a.rel = true → mustPrecede s r acc a (isRelease s rid a) = true →
    let l := Loc.mt rid (a.addr / 8 * 8)
    let h := homeOp a.op (a.remote.getD rid) (a.addr % 8) (s.locVal l) (s.locPres l)
    (∀ (ans : Val) (new : Option Val) (pres : Option Bool), h = .done ans new pres →
      exec (.homeAccess rid acc) s =
        .next (State.release (1 + (s.deferredAt l).length) (setAcc (s.apply l new pres) rid acc (fun a => { a with st := .done, ans := ans })) l).wake) ∧
    (∀ c : Nat, h = .fail c → exec (.homeAccess rid acc) s =
      .next (s.setRegion rid { r with flight := tset r.flight acc { a with st := .failed c } }).wake) ∧
    (h = .defer → (s.storeCount l).1 < (s.storeCount l).2 → exec (.homeAccess rid acc) s =
      .next ({ s.setRegion rid { r with flight := tset r.flight acc { a with st := .deferred s.dord } } with dord := s.dord + 1 } : State).wake) ∧
    (h = .defer → (s.storeCount l).2 ≤ (s.storeCount l).1 → exec (.homeAccess rid acc) s =
      .next (s.setRegion rid { r with flight := tset r.flight acc { a with st := .waiting } }).wake)) ∧
  (∀ (s : State) (rid acc : Nat) (r : Region) (a : Access) (s1 : State) (t : TrapInfo), HasAccess s rid acc r a → a.st = .travel → a.sp = 1 → a.home = none →
    r.st ≠ rNone → r.st ≠ rDying → r.st ≠ rOut → isQueueOp a.op = false → mustPrecede s r acc a a.rel = true →
    capRemote (capEntry r a.capx) = false → pageFrozen (s.part r.part) a.addr = false → pagePaused r a.addr = false →
    s.xlate r.part (clusterOf r (ownerTile r a)) a.addr 0 a.op = (s1, .error t) →
    exec (.homeAccess rid acc) s = .next (s1.stall rid acc a t).wake) ∧
  (∀ (s : State) (rid acc : Nat) (r : Region) (a : Access) (s1 : State) (pa : Nat) (ans : Val) (new : Option Val) (pres : Option Bool),
    HasAccess s rid acc r a → a.st = .travel → a.sp = 1 → a.home = none →
    r.st ≠ rNone → r.st ≠ rDying → r.st ≠ rOut → isQueueOp a.op = false → mustPrecede s r acc a a.rel = true →
    capRemote (capEntry r a.capx) = false → pageFrozen (s.part r.part) a.addr = false → pagePaused r a.addr = false →
    s.xlate r.part (clusterOf r (ownerTile r a)) a.addr 0 a.op = (s1, .ok (.dram pa)) →
    mustPrecede s1 r acc { a with pa := pa } (isRelease s1 rid { a with pa := pa }) = true →
    let s2 := setAcc s1 rid acc (fun _ => { a with pa := pa })
    let l := Loc.dram (pa / 8 * 8)
    homeOp a.op (a.remote.getD rid) (pa % 8) (s2.locVal l) (s2.locPres l) = .done ans new pres →
    exec (.homeAccess rid acc) s =
      .next (State.release (1 + (s2.deferredAt l).length) (setAcc (s2.apply l new pres) rid acc (fun a => { a with st := .done, ans := ans })) l).wake) ∧
  (∀ (s : State) (rid acc : Nat) (r : Region) (a : Access), HasAccess s rid acc r a → a.st = .waiting → a.sp ≠ 3 →
    let l := accLoc rid a
    (s.storeCount l).1 < (s.storeCount l).2 →
    let s1 : State := { s.setRegion rid { r with flight := tset r.flight acc { a with st := .deferred s.dord } } with dord := s.dord + 1 }
    exec (.deferralAdmit rid acc) s = .next (State.release (1 + (s1.deferredAt l).length) s1 l).wake) ∧
  (∀ (s : State) (rid acc : Nat) (r : Region) (a : Access), HasAccess s rid acc r a → a.st = .travel → a.remote = none →
    a.sp = 1 → r.st ≠ rNone → r.st ≠ rDying → r.st ≠ rOut → isQueueOp a.op = true → mustPrecede s r acc a a.rel = true →
    let e := capEntry r a.capx
    let chk := queueCap (sealOf s r.part) r.part (queueRight a.op) e
    let failed := fun (s : State) (c : Nat) => Host.Outcome.next (setAcc s rid acc (fun a => { a with st := .failed c }))
    (∀ c : Nat, chk = some c → exec (.queueControllerOp rid acc) s = failed s c) ∧
    (chk = none → capLen e < a.addr - capBase e + 64 → exec (.queueControllerOp rid acc) s = failed s 0x10) ∧
    (∀ (s1 : State) (pa : Nat), chk = none → a.addr - capBase e + 64 ≤ capLen e → pageFrozen (s.part r.part) a.addr = false → pagePaused r a.addr = false →
      s.xlate r.part (clusterOf r (ownerTile r a)) a.addr 0 a.op = (s1, .ok (.dram pa)) →
      let s2 := setAcc s1 rid acc (fun a => { a with pa := pa })
      let e2 := capEntry (s2.region rid) a.capx
      let bad := queueBad s2 e2 (a.addr - capBase e2) pa
      (bad = true → exec (.queueControllerOp rid acc) s = .next (setAcc s2 rid acc (fun a => { a with st := .failed 0x10 })).wake) ∧
      (bad = false → s2.queueNext pa a.op = none → exec (.queueControllerOp rid acc) s = .next (s2.deferAcc rid acc (.dram pa) a.op)) ∧
      (∀ (h t : Word) (i : Nat), bad = false → s2.queueNext pa a.op = some (false, h, t, i) →
        exec (.queueControllerOp rid acc) s = .next (doneQueue s2 rid acc {} false).wake) ∧
      (∀ (h t : Word) (i item : Nat) (s3 : State), bad = false → s2.queueNext pa a.op = some (true, h, t, i) →
        (let va := a.addr + 64 + 8 * i
         (va / 2 ^ 16 = a.addr / 2 ^ 16 ∧ s3 = s2 ∧ item = pa + 64 + 8 * i) ∨
          (va / 2 ^ 16 ≠ a.addr / 2 ^ 16 ∧ pageFrozen (s2.part (s2.region rid).part) va = false ∧ pagePaused (s2.region rid) va = false ∧
            s2.xlate (s2.region rid).part (clusterOf (s2.region rid) (ownerTile (s2.region rid) { a with pa := pa })) va 0 a.op = (s3, .ok (.dram item)))) →
        let m := s3.queueMove pa item a.op h t
        exec (.queueControllerOp rid acc) s = .next (doneQueue m.1 rid acc m.2 true).wake)))

/-- R49, R89, R220, R391: a store that a home performs changes the bytes of its width from its address and no other byte of any memory, but for the bits
of the page in the bitmaps that track writes of DRAM. -/
def Obligations.HomeStoreFrame : Prop :=
  (∀ (s : State) (rid acc n : Nat) (v : Val) (r : Region) (a : Access), HasAccess s rid acc r a → a.st = .travel → a.sp ≠ 1 → a.sp ≠ 3 → a.home = none →
    r.st ≠ rNone → r.st ≠ rDying → r.st ≠ rOut → a.op = .write n v → 1 ≤ n → a.addr % 8 + n ≤ 8 → mustPrecede s r acc a a.rel = true →
    s.deferredAll = [] →
    ∃ s' : State, exec (.homeAccess rid acc) s = .next s' ∧ s'.mem = s.mem ∧
      (∀ rid' : Nat, rid' ≠ rid → tfind s'.regions rid' = tfind s.regions rid') ∧
      (∀ x : Nat, x < a.addr ∨ a.addr + n ≤ x → rdByte (s'.region rid).mt x = rdByte r.mt x) ∧
      (∀ i < n, (rdByte (s'.region rid).mt (a.addr + i)).toNat = v.bits.toNat / 2 ^ (8 * i) % 256) ∧
      (s'.region rid).tiles = r.tiles ∧ (s'.region rid).pres = r.pres ∧
      (∀ w : Nat, w ≠ a.addr / 8 → (w ∈ (s'.region rid).pois ↔ w ∈ r.pois))) ∧
  (∀ (s s1 : State) (rid acc n pa : Nat) (v : Val) (r : Region) (a : Access), HasAccess s rid acc r a → a.st = .travel → a.sp = 1 → a.home = none →
    r.st ≠ rNone → r.st ≠ rDying → r.st ≠ rOut → a.op = .write n v → 1 ≤ n → pa % 8 + n ≤ 8 → mustPrecede s r acc a a.rel = true →
    capRemote (capEntry r a.capx) = false → pageFrozen (s.part r.part) a.addr = false → pagePaused r a.addr = false →
    s.xlate r.part (clusterOf r (ownerTile r a)) a.addr 0 a.op = (s1, .ok (.dram pa)) → 
    mustPrecede s1 r acc { a with pa := pa } a.rel = true → s1.deferredAll = [] →
    ∃ s' : State, exec (.homeAccess rid acc) s = .next s' ∧
      (∀ x : Nat, x < pa ∨ pa + n ≤ x → x ∉ trackBytes s pa → rdByte s'.mem x = rdByte s.mem x) ∧
      (∀ i < n, pa + i ∉ trackBytes s pa → (rdByte s'.mem (pa + i)).toNat = v.bits.toNat / 2 ^ (8 * i) % 256) ∧
      (∀ rid' : Nat, rid' ≠ rid → tfind s'.regions rid' = tfind s.regions rid') ∧
      (s'.region rid).mt = r.mt ∧ (s'.region rid).tiles = r.tiles ∧ (s'.region rid).pres = r.pres ∧ (s'.region rid).pois = r.pois)

/-- R22, R29, R146, R194, R206, R217, R220-R227, R235-R241, R398: an operation that is due completes: its result goes where its instruction says, and its slot
waits no more; a memory operation one of whose accesses failed traps instead; a vector load gives the words of memory, its masked-off lanes as they were or 0. -/
def Obligations.LongOpCompletes : Prop :=
  (∀ (s : State) (rid key id : Nat) (r : Region) (o : PendOp), Completes s rid key id r o → o.code ∉ [0xDA, 0xDB, 0xDC, 0xF0] →
    (o.ph = 0 → exec (.longOpComplete rid key id) s = .next (s.finished rid key o (completeS s.fc r key id o o.res o.cond))) ∧
    (∀ (n : Nat) (a : Access) (v : Val) (c : Bool), o.ph = 4 → o.accs = [n] → tfind r.flight n = some a → a.st = .done → memValue r.rid o a.ans = some (v, c) →
      exec (.longOpComplete rid key id) s = .next (s.finished rid key o (completeS s.fc r key id o v c))) ∧
    (∀ (c : Nat) (a : Access), o.ph = 4 → (∀ x ∈ opAccs r o, x.st = .done ∨ ∃ k : Nat, x.st = .failed k) → accsFail r o = some (c, a) →
      (0x10 ≤ c ∧ c ≤ 0x12 → exec (.longOpComplete rid key id) s =
        .next (s.finished rid key o (failOp s.fc r key id o { code := c, va := a.addr, aux := 64, capx := some a.capx }))) ∧
      (c < 0x10 ∨ 0x12 < c → exec (.longOpComplete rid key id) s = .next (s.finished rid key o (failOp s.fc r key id o { code := c, va := a.ea.toNat })))) ∧
    (o.ph = 4 → o.code = 0x83 → (∀ x ∈ opAccs r o, x.st = .done) →
      let f := fmtOf o.ti
      let ws := (opAccs r o).map (fun a => a.ans)
      ∃ v : VVal, exec (.longOpComplete rid key id) s = .next (s.finished rid key o (completeV s.fc r key id o v (v.bits != 0))) ∧
        (mskOf o.ti = false → ∀ k < fmtWords f, ∀ x : Val, ws[k]? = some x → vword v.bits k = x.bits ∧ v.pois.getLsbD k = x.pois) ∧
        (mskOf o.ti = true → f ≤ 14 → ∀ i < laneCount f, lane f v.bits i =
          (if o.mask.getLsbD i then lane f (vofWords ws).bits i else if o.ti.dst.toNat ≤ 7 then lane f o.vd.bits i else 0))) ∧
    (o.ph = 4 → o.code = 0x84 → (∀ x ∈ opAccs r o, x.st = .done) →
      exec (.longOpComplete rid key id) s = .next (s.finished rid key o (completeV s.fc r key id o {} false)))) ∧
  (∀ (s : State) (rid key id : Nat) (r : Region) (o : PendOp), Completes s rid key id r o → o.ph = 3 → slotFirst s.fc r key o = true →
    exec (.tensorComplete rid key id) s = .next (s.setRegion rid (completeTensor s.fc r key id o)).wake)

/-- R29, R362, R367, R368, R369, R386, R391, R396, R399, R400: a slot held back by one cause as long as its kind asks registers its wait; an overflow
under TRAP is recorded; a cycle that stands is confirmed on the member of highest PRIO number, ties to the highest region, with its record and the members'
entries (log 35), and one that has broken is dropped; the counts of pages that contexts leave, or stay on for 4,096 fc, are added to the heat; at the end of
an epoch the counters halve. Log 35: the record's element index and the words of the entries. -/
def Obligations.WaitSteps : Prop :=
  (∀ (s : State) (rid key slot n : Nat) (c : Cause) (obj : Word) (r : Region), HasRegion s rid r → tfind (r.ct key).hold slot = some (c.kind, c.tag, n) →
    causeAt s r key slot = some c → c.obj = some obj → c.due ≤ n →
    s.entries.any (fun e => slotEntry rid key slot e && e.kind == c.kind && e.obj == obj) = false →
    (∀ s1 : State, s.register rid key slot c.kind obj false = (s1, 1) → exec (.waitRegister rid key slot) s = .next s1) ∧
    (∀ s1 : State, s.register rid key slot c.kind obj false = (s1, 0) →
      (hasUntracked (r.ct key) slot = true → exec (.waitRegister rid key slot) s = .next s1) ∧
      (hasUntracked (r.ct key) slot = false → exec (.waitRegister rid key slot) s = .next (setHold rid key slot (c.kind, c.tag, 0) s1))) ∧
    (∀ s1 : State, s.register rid key slot c.kind obj false = (s1, 2) → exec (.waitRegister rid key slot) s =
      .next (setHold rid key slot (holdOver, 0, 0)
        (onRegion s1 rid (fun r => r.raise { code := 0x29, src := 4, key := key, elem := c.kind, aux := obj.toNat }))))) ∧
  (∀ (s : State) (cyc : Nat) (c : Cycle) (es : List Wfe), s.cycles[cyc]? = some c → c.due ≤ (s.part c.part).slice.toNat →
    (c.ents.filterMap (fun i => s.entries.find? (fun e => e.id == i))) = es →
    (es.length ≠ c.ents.length ∨ es.all (fun e => e.rpt) = true → exec (.cycleConfirm cyc) s = .next { s with cycles := s.cycles.eraseIdx cyc }) ∧
    (es.length = c.ents.length → (∃ e ∈ es, ∃ x ∈ es.zip (es.drop 1 ++ es.take 1), e = x.1 ∧ (x.1.hv = false ∨ x.1.hrid ≠ x.2.rid)) →
      exec (.cycleConfirm cyc) s = .next { s with cycles := s.cycles.eraseIdx cyc }) ∧
    (∀ v ∈ es.take 16, es.length = c.ents.length → es.all (fun e => e.rpt) = false →
      (∀ x ∈ es.zip (es.drop 1 ++ es.take 1), x.1.hv = true ∧ x.1.hrid = x.2.rid) →
      (∀ w ∈ es.take 16, w ≠ v → effPrio (s.region w.rid) < effPrio (s.region v.rid) ∨ (effPrio (s.region w.rid) = effPrio (s.region v.rid) ∧ w.rid < v.rid)) →
      let m := (es.take 16).length
      exec (.cycleConfirm cyc) s =
        .next (({ s with cycles := s.cycles.eraseIdx cyc }.mapEntries (fun e => if c.ents.contains e.id then { e with rpt := true } else e)).raiseOn v.rid
          { code := 0x28, key := keyOf v.page v.pos, elem := m + (if c.trunc then 32 else 0), aux := v.obj.toNat, nmem := (m + 1) / 2,
            more := memberWords ((es.take 16).map (fun (e : Wfe) => { e with rpt := true })) }))) ∧
  (∀ (s : State) (rid c x p n : Nat) (r : Region), HasRegion s rid r → p < 2 ^ 26 → partData (s.part r.part) (p * 2 ^ 16) = true →
    let z := r.strm c
    (r.heatP = [(x * 2 ^ 26 + p, n)] ∧ z.hstay < 4096) ∨
      (r.heatP = [] ∧ hasStrm r c = true ∧ 4096 ≤ z.hstay ∧ z.hpg = x * 2 ^ 26 + p + 1 ∧ z.hcnt = n ∧ n ≠ 0) →
    let a := heatAddr (s.part r.part) (p * 2 ^ 16)
    ∃ s' : State, exec (.heatAccount rid c) s = .next s' ∧
      s'.mem = (({ s with mem := wrNat s.mem a 4 (Nat.min (2 ^ 32 - 1) (rdNat s.mem a 4 + n)) } : State).track a).mem ∧
      (s'.region rid).heatP = [] ∧ (4096 ≤ z.hstay → ((s'.region rid).strm c).hcnt = 0 ∧ ((s'.region rid).strm c).hstay = 0)) ∧
  (∀ (s : State) (part : Nat), partValid (s.part part) = true → (s.part part).epoch < (s.part part).slice.toNat / 2 ^ 20 →
    bitOf (partWord (s.part part) 0) 52 = false →
    exec (.heatEpochEnd part) s = .next ((s.halveHeat part).updPart part (fun p => { p with epoch := p.epoch + 1 })).wake)

/-- R354, R356-R358, R413, R414, R471: a budget near its end, or a partner that is needed, starts the drain; a cut that takes 2,048 fc is broken off; the
switch exchanges the members; a stage with nothing to do yields; a member that is killed leaves its group. -/
def Obligations.SliceSteps : Prop :=
  (∀ (s : State) (rid q : Nat) (r : Region), HasRegion s rid r → r.partner = some q → sliceable r = true →
    (mayTake (s.region q) = true → (s.urgent r (s.region q) = true ∨ effCyc r ≤ r.spent + 2048) →
      exec (.budgetExpiry rid) s = .next (s.setRegion rid (drainStart s.fc true r))) ∧
    (mayTake (s.region q) = false → effCyc r ≤ r.spent → exec (.budgetExpiry rid) s = .next (s.setRegion rid { r with spent := 0 })) ∧
    (yields r = true →
      (mayTake (s.region q) = true → exec (.stageYield rid) s = .next (s.setRegion rid (drainStart s.fc true r))) ∧
      (mayTake (s.region q) = false → exec (.stageYield rid) s = .next (s.setRegion rid { r with spent := 0 })))) ∧
  (∀ (s : State) (rid n : Nat) (r : Region), HasRegion s rid r → r.drain = some n → 2048 ≤ n → r.drainSl = true →
    ∃ r' : Region, exec (.sliceCutTimeout rid) s = .next ((s.setRegion rid r').sync rid) ∧ r'.parked = true ∧ r'.res = false ∧ r'.settled = false ∧
      r'.cut = false ∧ r'.st = r.st ∧ r'.frz = r.frz) ∧
  (∀ (s : State) (rid q : Nat) (r p : Region), HasRegion s rid r → HasRegion s q p → q ≠ rid → r.partner = some q → r.active = true → stoppedFor r = true →
    mayTake p = true → p.active = false →
    ∃ s' : State, exec (.sliceSwitch rid) s = .next s' ∧ (s'.region rid).active = false ∧ (s'.region rid).res = false ∧ (s'.region rid).parked = true ∧
      (s'.region q).active = true ∧ (s'.region q).res = true ∧ (s'.region q).parked = false ∧ (s'.region q).spent = 0) ∧
  (∀ (s : State) (rid q : Nat) (r p : Region), HasRegion s rid r → HasRegion s q p → q ≠ rid → r.partner = some q → r.st = rDying ∨ r.st = rOut →
    r.active = false ∨ p.settled = true →
    ∃ s' : State, exec (.groupEnd rid) s = .next s' ∧ (s'.region rid).partner = none ∧ (s'.region q).partner = none ∧
      (r.active = true → (s'.region q).active = true ∧ (s'.region q).res = true))

/-- R330, R332, R333, R338: a load whose image is good places its region and ends with status 0, one whose image is bad ends with KV_EREJECT; the same
for a load into the Insole planes. -/
def Obligations.LoadSteps : Prop :=
  (∀ (s : State) (rid : Nat) (r : Region) (l : LongOp), HasRegion s rid r → r.lop = some l → l.f7 = 0 → s.ckptOn = false →
    let lim := if bitOf (partWord (s.part r.part) 0) 35 then Config.mtHalf else Config.mtBytes
    (∀ b : Bad, checkImage (s.imgWord { hart := l.hart, vs := l.vs } r.image) lim = .error b → l.addr = 0 →
      exec (.loadComplete rid) s = .next (s.lopFail rid kvEreject).wake) ∧
    (∀ (m : Img) (r2 : Region), checkImage (s.imgWord { hart := l.hart, vs := l.vs } r.image) lim = .ok m → l.vs = false →
      framesFit (buildRegion m (fld r.eff3 39 30) r) lim = true → s.place (buildRegion m (fld r.eff3 39 30) r) = .ok r2 → l.start = false →
      exec (.loadComplete rid) s = .next ((s.install { r2 with busy := true }).lopEnd rid 0).wake)) ∧
  (∀ (s : State) (rid h : Nat) (r host : Region) (l : LongOp), HasRegion s rid r → r.lop = some l → l.f7 = 2 → s.ckptOn = false →
    (∀ b : Bad, checkImage (s.imgWord { hart := l.hart, vs := l.vs } r.image) Config.mtHalf = .error b → l.addr = 0 →
      exec (.shadowLoadComplete rid) s = .next (s.lopFail rid kvEreject).wake) ∧
    (∀ m : Img, checkImage (s.imgWord { hart := l.hart, vs := l.vs } r.image) Config.mtHalf = .ok m → r.host = some h → s.region? h = some host →
      m.w = host.w → m.h = host.h → l.vs = false →
      let r1 := buildRegion m (fld r.eff3 39 30) r
      r1.shp = false → s.weltBusy r1 = false → s.weltOk r1 = true → s.shadowFits r1 host = true →
      exec (.shadowLoadComplete rid) s = .next ((s.install
        { s.rebind { r1 with origin := host.origin, res := false, active := false, parked := true, settled := true } with busy := true }).lopEnd rid 0).wake))

/-- R331, R348, R351, R353, R423-R425: scan-out saves a region that stands still and leaves it OUT; a restore places it again, and one that fails for its
configuration or its place leaves it OUT; a move gives it the origin asked for, and an idle region whose cost would more than halve is moved; a killed region
is gone. Log 21: what an image does not hold. Log 54: the region of a failed restore. -/
def Obligations.SaveSteps : Prop :=
  (∀ (s : State) (rid : Nat) (r : Region) (l : LongOp), HasRegion s rid r → r.lop = some l → l.f7 = 7 → scanReady r = true →
    let s0 := s.withdraw rid (fun _ => true)
    recalled (s0.region rid) = false →
    let s1 := s0.scanPrepare rid
    exec (.scanOutComplete rid) s =
      .next ((((((s1.putWords { hart := l.hart, vs := l.vs } l.addr (s1.rsiWords (s1.region rid))).endWaits rid).weltLeave rid).emptied rid).lopEnd rid 0).wake)) ∧
  (∀ (s : State) (rid : Nat) (r : Region) (l : LongOp), HasRegion s rid r → r.lop = some l → l.f7 = 8 → s.ckptOn = false → l.vs = false → l.start = false →
    let rd := s.imgWord { hart := l.hart, vs := l.vs } l.addr
    let r1 := s.rsiRegion { hart := l.hart, vs := l.vs } rd r
    exec (.restoreComplete rid) s = .next (
      if rsiOk rd = false ∨ fld (rd 8) 63 52 ≠ rid ∨ fld (rd 8) 51 46 ≠ r.part ∨ rsiPair rd ≠ bitOf (partWord (s.part r.part) 0) 35 then s.lopFail rid kvEinval
      else match configCheck r1 with
        | some b => (if l.b = 0 then s else s.wrWs l.b.toNat (badWords b)).restFail rid kvEreject
        | none =>
          if framesFit r1 (mtLimit r1) = false then s.lopFail rid kvEinval
          else match s.place r1 with
            | .error e => if e = kvEnospc ∧ l.hart = 208 ∧ s.couldFit r1 = true then s else s.restFail rid e
            | .ok r2 =>
              let s1 := (s.install { r2 with cmplt := r2.cmplt ++ l.cw, busy := true, rest := false, lop := r.lop }).rejoinRecs rid
              let s2 := ((onRegion s1 rid (fun x => { x with strms := r2.strms })).standUp rid rd).lopEnd rid 0
              (onRegion s2 rid (fun x => { x with cwEnd := x.cwEnd.map (fun y => (y.1, x.seq)) })).sync rid).wake) ∧
  (∀ (s : State) (rid : Nat) (r : Region) (l : LongOp), HasRegion s rid r → r.lop = some l → l.f7 = 9 → l.hart ≠ 209 → r.settled = true → s.moveSet rid = [rid] →
    l.b.toNat ≠ 1023 →
    let s1 := s.withdraw rid (fun _ => true)
    recalled (s1.region rid) = false →
    exec (.moveComplete rid) s = .next (if s1.movesFit [(rid, l.b.toNat)] then (s1.moveTo rid l.b.toNat (fld l.a 7 0)).lopEnd rid 0
      else (s1.moveTo rid r.origin (fld l.a 7 0)).lopEnd rid kvEnospc).wake) ∧
  (∀ (s : State) (rid : Nat) (r : Region), HasRegion s rid r → r.st = rDying → r.partner = none → r.flight = [] →
    exec (.scrubComplete rid) s = .next (s.removeRegion rid).wake ∧ tfind (s.removeRegion rid).regions rid = none) ∧
  (∀ (s : State) (rid o : Nat) (r : Region), HasRegion s rid r → r.st = rIdle → s.movable rid = true → s.moveBest r = some o →
    2 * placeCost r o < placeCost r r.origin →
    exec (.autoMove rid) s = .next (s.autoMove rid o).wake)

/-- R344-R347, R352: a write of TAIL; the head of highest priority is taken, with its status or its operation; compaction orders the moves of its
plan. -/
def Obligations.LaunchSteps : Prop :=
  (∀ (s : State) (part q : Nat) (tail : Word), q < 16 → partValid (s.part part) = true → lqValid (s.part part) q = true →
    exec (.launchTailWrite part q tail) s = .next ((((s.wrW (lqBase (s.part part) q + 8) tail).lqCheck part q).lqNote part).wake)) ∧
  (∀ (s : State) (part q : Nat) (e : List Word), s.ckptOn = false → s.rst.any (fun x => x.pid == part) = false →
    let s1 := s.lqLook part
    (∀ st : Int, s1.lqPick part = some (q, e, some st) → exec (.launchTake part) s = .next ((((s1.leFail e st).advance part q).lqNote part).wake)) ∧
    (∀ (s2 : State) (st : Int), s1.lqPick part = some (q, e, none) → s1.leIssue part e = (s2, st) → 0 ≤ st →
      exec (.launchTake part) s = .next (((s2.advance part q).lqNote part).wake)) ∧
    (∀ (s2 : State) (st : Int), s1.lqPick part = some (q, e, none) → s1.leIssue part e = (s2, st) → st < 0 →
      exec (.launchTake part) s = .next ((((s2.leFail e st).advance part q).lqNote part).wake))) ∧
  (∀ (s : State) (part n : Nat) (r : Region) (l : List (Nat × Nat)), s.rst.any (fun x => x.pid == part) = false →
    let s1 := s.lqNote part
    s1.compHead part = some r → r.w * r.h ≤ s1.freePages part → s1.bestPlan r = some (l, n) →
    exec (.compaction part) s = .next (l.foldl (fun s x => s.autoMove x.1 x.2) s1).wake)

/-- R341-R343: a record whose ring has room is written behind those before it and counted; one without room sets OVF; a pending record interrupts a hart
that takes it, at the vector of its fault domain where the base asks for it. -/
def Obligations.FaultDelivery : Prop :=
  (∀ (s : State) (h : Nat) (vs : Bool) (x : Rec) (rest : List Rec),
    let f := s.fctx h vs
    f.queue = x :: rest → x.more = [] → x.w.length = 8 →
    (fEn f = true → (f.prod - f.cons).toNat + 1 ≤ fSize f → isDram (fBase f) = true → isDram (fBase f + 64 + fSize f * 64) = true →
      exec (.faultRecordDeliver h vs) s =
        .next (((s.wrWs (fBase f + 64 + f.prod.toNat % fSize f * 64) x.w).wrW (fBase f) (f.prod + 1)).updF h vs
          (fun f' => { f' with prod := f.prod + 1, queue := rest, vecs := tset f.vecs (vecSlot f.prod.toNat) x.fvec })).recDrain.wake) ∧
    (fSize f < (f.prod - f.cons).toNat + 1 →
      exec (.faultRecordDeliver h vs) s = .next (s.updF h vs (fun f => { f with ovf := true })).wake)) ∧
  (∀ (s : State) (h : Nat),
    let x := s.hart h
    x.stopped = false →
    (fPend x.fh = true → intTaken x .hs 17 = true →
      exec (.faultInterrupt h) s = .next (s.updHart h (hartEnter .hs true 17 0 0
        (if x.fh.tvec.toNat % 4 = 1 then some (x.fh.tvec / 4 * 4 + BitVec.ofNat 64 (4 * s.fvecOf x.fh)) else none)))) ∧
    (fPend x.fh = false → fPend x.fv = true → x.hideleg.getLsbD 17 = true → intTaken x .vs 17 = true →
      exec (.faultInterrupt h) s = .next (s.updHart h (hartEnter .vs true 17 0 0
        (if x.fv.tvec.toNat % 4 = 1 then some (x.fv.tvec / 4 * 4 + BitVec.ofNat 64 (4 * s.fvecOf x.fv)) else none)))) ∧
    (x.fh.foc = true → intTaken x .hs 16 = true →
      exec (.focInterrupt h) s = .next (s.updHart h (hartEnter .hs true 16 0 0 none))))

/-- R404, R470: a soft error poisons the word it strikes, or is a machine check; a hart's access to a poisoned word takes an access fault, and its store
of the whole word cleans it. -/
def Obligations.SoftErrors : Prop :=
  (∀ (s : State) (pa : Nat), isDram pa = true →
    exec (.softError (.dram pa)) s = .next { s with dpois := nset s.dpois (pa / 8) true }) ∧
  (∀ (s : State) (rid a : Nat) (r : Region), HasRegion s rid r →
    let t := r.tile (mtAddrKey a)
    let r1 : Region := { r with pois := nset r.pois (a / 8) true }
    exec (.softError (.mt rid a)) s = .next (s.setRegion rid (hitUnit a r1)) ∧
    (planeMode t.act ≠ 7 → planeMode t.ins ≠ 7 → planeMode t.act ≠ 8 → planeMode t.ins ≠ 8 → hitUnit a r1 = r1) ∧
    (∀ e : QEnt, planeMode t.act = 7 → a % 2 ^ 19 < 0x8000 → t.act.u.ents[a % 2 ^ 19 / 16]? = some e →
      ((hitUnit a r1).tile (mtAddrKey a)).act.u.ents[a % 2 ^ 19 / 16]? =
        some (if a % 16 < 8 then { e with w0 := { e.w0 with pois := true } } else { e with w1 := { e.w1 with pois := true } }))) ∧
  (∀ (s : State) (rid key n : Nat) (r : Region), HasRegion s rid r → n < 14 →
    ∃ r' : Region, exec (.softError (.greg rid key n)) s = .next (s.setRegion rid r') ∧ (tget (r'.ct key).g {} n).pois = true ∧
      (tget (r'.ct key).g {} n).bits = (tget (r.ct key).g {} n).bits ∧ (∀ k, k ≠ n → tget (r'.ct key).g {} k = tget (r.ct key).g {} k)) ∧
  (∀ (s : State) (rid cls : Nat) (r : Region), HasRegion s rid r → r.st ≠ rNone → cls < 3 →
    exec (.softError (.ctl rid cls)) s = .next (s.setRegion rid { (r.raise { code := 0x7F, src := 4, aux := cls }) with mcheck := true })) ∧
  (∀ (s : State) (h pa : Nat) (va : Word), isDram pa = true → (s.rd8 pa).pois = true →
    let x := s.hart h
    (hTrans s x (accPriv x) va.toNat .load false = .ok pa → exec (.poisonedHartAccess h (.load va)) s = .next (s.hartExc h 5 va 0).wake) ∧
    (hTrans s x x.priv va.toNat .fetch false = .ok pa → exec (.poisonedHartAccess h (.fetch va)) s = .next (s.hartExc h 1 va 0).wake) ∧
    (hTrans s x (accPriv x) va.toNat .store false = .ok pa →
      exec (.poisonedHartAccess h (.amo va)) s = .next (s.hartExc h 7 va 0).wake ∧
      (∀ data : Word, pa % 8 = 0 → exec (.poisonedHartAccess h (.store va 8 data)) s =
        .next ((s.wrW pa data).updHart h (fun x => { x with pc := x.pc + 4 })).wake)))

/-- R318, R343. Log 10 (the model's choice, PRESUMED from the RISC-V privileged architecture): what taking a trap at a level saves and where it goes, and that the return from the trap
gives the hart back its pc, its level and its interrupt enable. -/
def Obligations.HartTraps : Prop :=
  (∀ (h : Hart) (intr : Bool) (code : Nat) (tval gpa : Word) (entry : Option Word), code < 64 →
    let t := hartEnter .hs intr code tval gpa entry h
    t.priv = .hs ∧ t.hs.epc = h.pc ∧ t.hs.cause = BitVec.ofNat 64 (code + if intr then 2 ^ 63 else 0) ∧ t.hs.tval = tval ∧ t.hs.pie = h.hs.ie ∧
    t.hs.ie = false ∧ t.spv = isVirt h.priv ∧ t.htval = gpa ∧ t.x = h.x ∧ t.ms = h.ms ∧ t.vs = h.vs ∧
    t.pc = entry.getD (h.hs.tvec / 4 * 4 + if intr = true ∧ h.hs.tvec.toNat % 4 = 1 then BitVec.ofNat 64 (4 * code) else 0)) ∧
  (∀ (h : Hart) (intr : Bool) (code : Nat) (tval gpa : Word) (entry : Option Word), h.priv ≠ .m →
    let t := hartSret (hartEnter .hs intr code tval gpa entry h)
    t.pc = h.pc ∧ t.priv = h.priv ∧ t.hs.ie = h.hs.ie ∧ t.x = h.x ∧ t.vs = h.vs ∧ t.ms = h.ms) ∧
  (∀ (h : Hart) (intr : Bool) (code : Nat) (tval gpa : Word) (entry : Option Word),
    let t := hartMret (hartEnter .m intr code tval gpa entry h)
    t.pc = h.pc ∧ t.priv = h.priv ∧ t.ms.ie = h.ms.ie ∧ t.x = h.x ∧ t.vs = h.vs ∧ t.hs = h.hs) ∧
  (∀ (h : Hart) (intr : Bool) (code : Nat) (tval gpa : Word) (entry : Option Word), isVirt h.priv = true →
    let t := hartSret (hartEnter .vs intr code tval gpa entry h)
    t.pc = h.pc ∧ t.priv = h.priv ∧ t.vs.ie = h.vs.ie ∧ t.x = h.x ∧ t.hs = h.hs ∧ t.ms = h.ms)

/-- R339: a CSR instruction at a level that may run it gives rd the old value, writes the new one (RS and RC with x0 write nothing), and steps the pc;
at user level it is illegal, and at VS a CSR from 6C0 on is a virtual-instruction exception. -/
def Obligations.CsrSteps : Prop :=
  ∀ (s : State) (i : Instr) (c : CsrOp), i = .csrWrite c ∨ i = .crnfrecWrite c ∨ i = .hcrnpmapWrite c →
    let h := s.hart s.curHart
    let n := c.csr.toNat
    let src := if c.f3.getLsbD 2 then c.rs1.zeroExtend 64 else hx h c.rs1
    (isUser h.priv = true → exec i s = .next (s.hartExc s.curHart 2 (csrInsn c) 0)) ∧
    (h.priv = .vs → 0x6C0 ≤ n → exec i s = .next (s.hartExc s.curHart 22 (csrInsn c) 0)) ∧
    (isUser h.priv = false → (h.priv = .vs → n < 0x6C0) →
      (c.f3.toNat % 4 = 1 → exec i s = .next ((s.csrStore n src).retire c.rd (s.csrRead n))) ∧
      (c.f3.toNat % 4 = 2 → c.rs1 ≠ 0 → exec i s = .next ((s.csrStore n (s.csrRead n ||| src)).retire c.rd (s.csrRead n))) ∧
      (c.f3.toNat % 4 = 3 → c.rs1 ≠ 0 → exec i s = .next ((s.csrStore n (s.csrRead n &&& ~~~src)).retire c.rd (s.csrRead n))) ∧
      (c.f3.toNat % 4 = 2 ∨ c.f3.toNat % 4 = 3 → c.rs1 = 0 → exec i s = .next (s.retire c.rd (s.csrRead n))))

/-- R317, R318, R327: at user level an Xcarnar instruction is illegal; a service core has only FSTAT and WFTRD; at VS without its policy bit it is a
virtual-instruction exception. -/
def Obligations.CrnPrivilege : Prop :=
  ∀ (s : State) (i : Instr) (f7 : Nat) (x : Xr), crnRow i = some (f7, x) →
    (isUser (s.hart s.curHart).priv = true → exec i s = .next (s.hartExc s.curHart 2 (crnInsn f7 x) 0)) ∧
    (isUser (s.hart s.curHart).priv = false → 192 ≤ s.curHart → f7 ≠ 14 → f7 ≠ 16 → exec i s = .next (s.hartExc s.curHart 2 (crnInsn f7 x) 0)) ∧
    ((s.hart s.curHart).priv = .vs → s.curHart < 192 → (s.hart s.curHart).policy.getLsbD f7 = false →
      exec i s = .next (s.hartExc s.curHart 22 (crnInsn f7 x) 0)) ∧
    (isUser (s.hart s.curHart).priv = false → (s.curHart < 192 ∨ f7 = 14 ∨ f7 = 16) → (s.hart s.curHart).priv ≠ .vs → s.ckptOn = true →
      f7 = 0 ∨ f7 = 2 ∨ f7 = 8 → exec i s = .next s)

/-- R325, R329, R331, R335-R337, R401: run, halt, mark, kill, replay, status and the wait-for table, with their status in rd. -/
def Obligations.CrnControls : Prop :=
  ∀ (s : State) (x : Xr) (r : Region),
    let a := s.opA x
    let b := s.opB x
    (CrnMay s 4 → CrnOn s a r → s.region r.rid = r → r.mcheck = false → s.recWaits r.rid = false →
      (∀ f : State → State, s.withAncestors s.issuer r f = f s) → ∀ s1 : State, s.rechain s.issuer r.rid = some s1 →
      (r.st = rReady → exec (.crnFrun x) s = .next ((s1.startRun r.rid).retire x.rd 0).wake) ∧
      (r.st = rFrozen → exec (.crnFrun x) s = .next ((s1.resumeRegion r.rid).retire x.rd 0).wake)) ∧
    (CrnMay s 5 → CrnOn s a r → s.region r.rid = r →
      (r.st = rRunning → exec (.crnFhalt x) s = .next ((s.freezeNow r.rid (r.frzReq.getD 0)).retire x.rd 0).wake) ∧
      (r.st = rFrozen → exec (.crnFhalt x) s = .next (s.retire x.rd 0).wake)) ∧
    (CrnMay s 6 → CrnOn s a r → s.region r.rid = r → r.st = rRunning → r.parked = false → r.drain = none → s.longFull s.issuer = false →
      exec (.crnFmark x) s = .next ((onRegion (s.lopStart s.issuer r.rid 6 0 0 false 0) r.rid (drainStart s.fc false)).retire x.rd 0).wake) ∧
    (CrnMay s 1 → s.ridOp s.issuer a true = .ok r → r.st ≠ rDying → exec (.crnFkill x) s = .next ((s.kill r.rid).retire x.rd 0).wake) ∧
    (CrnMay s 15 → CrnOn s a r → s.region r.rid = r → b = 0 →
      (r.st = rIdle → exec (.crnFpar x) s = .next (((onRegion s r.rid (fun r => { r with cmplt := [] })).startReplay r.rid).retire x.rd 0).wake) ∧
      (r.st = rRunning ∨ r.st = rFrozen → r.rpq = false →
        exec (.crnFpar x) s = .next ((s.updSync r.rid (fun r => { r with rpq := true, cmpltQ := [] })).retire x.rd 1).wake)) ∧
    (CrnMay s 14 → a.toNat < 4096 → s.region? a.toNat = some r → s.foreign s.issuer r.part = false → b.toNat ≤ 7 →
      (b ≠ 4 → exec (.crnFstat x) s = .next (s.retire x.rd (fstatWord (fstatShown r) b.toNat)).wake) ∧
      (b = 4 → exec (.crnFstat x) s = .next ((s.updSync r.rid (fun r => { r with sdem := false })).retire x.rd (fstatWord (fstatShown r) 4)).wake)) ∧
    (∀ (e : Wfe) (pa : Nat), CrnMay s 16 → a.toNat < Config.wftEntries → b.toNat % 32 = 0 → tfind s.wft a.toNat = some e → s.foreign s.issuer e.part = false →
      Reach s b 32 true [(pa, 32)] → exec (.crnWftrd x) s = .next ((s.wrWs pa (wfeWords e)).retire x.rd 1).wake) ∧
    (∀ e : Wfe, CrnMay s 17 → a.toNat < Config.wftEntries → tfind s.wft a.toNat = some e → s.foreign s.issuer e.part = false →
      (s.region e.rid).busy = false → exec (.crnWftclr x) s = .next (((onRegion (s.dropEntry e.id) e.rid (fun r => r.updCt (keyOf e.page e.pos)
        (fun c => { c with hold := tdel c.hold e.slot }))).retire x.rd 0)).wake)

/-- R329, R332, R333, R338, R351, R408, R423-R425: loads, Insole loads, exchanges, scan-out, restore and move, as they are issued. -/
def Obligations.CrnPlacements : Prop :=
  ∀ (s : State) (x : Xr) (r q : Region),
    let a := s.opA x
    let b := s.opB x
    (∀ s1 : State, CrnMay s 0 → a.toNat % 128 = 0 → b.toNat < 2 → (∀ f : State → State, s.loadBlocks s.issuer a.toNat f = f s) →
      s.loadIssue s.issuer a.toNat (b.getLsbD 0) = .ok s1 → exec (.crnFload x) s = .next (s1.retire x.rd 0).wake) ∧
    (∀ s1 : State, CrnMay s 2 → a.toNat % 128 = 0 → CrnOn s b r → (∀ f : State → State, s.loadBlocks s.issuer a.toNat f = f s) →
      s.shadowIssue s.issuer a.toNat r = .ok s1 → exec (.crnFshadow x) s = .next (s1.retire x.rd 0).wake) ∧
    (CrnMay s 3 → CrnOn s a r → CrnOn s b q → r.st = rFrozen → r.mcheck = false → r.settled = true →
      (q.rid = r.rid → r.shp = true →
        exec (.crnFswap x) s = .next ((onRegion s r.rid (fun r => swapOwn r)).retire x.rd 0).wake) ∧
      (q.rid ≠ r.rid → q.st = rShadow → q.host = some r.rid → exec (.crnFswap x) s = .next
        (((s.updSync r.rid (fun r => { r with st := rShadow, shState := rFrozen, host := some q.rid, res := false, active := false, parked := true })).updSync q.rid
          (fun q => { q with st := if q.shState = 0 then rReady else q.shState, shState := 0, host := none, res := true, active := true, parked := false })).retire
            x.rd 0).wake)) ∧
    (∀ ps : List (Nat × Nat), CrnMay s 7 → CrnOn s a r → r.st ∈ [rReady, rFrozen, rIdle, rShadow] → r.mcheck = false → b.toNat % 4096 = 0 →
      s.longFull s.issuer = false → Reach s b (8 * (s.rsiWords r).length) true ps →
      exec (.crnFscan x) s = .next ((s.lopStart s.issuer r.rid 7 a b false b.toNat).retire x.rd 0).wake) ∧
    (∀ (s1 : State) (p2 p3 : List (Nat × Nat)) (pa : Nat), CrnMay s 8 → a.toNat % 128 = 0 → b.toNat % 4096 = 0 →
      (∀ f : State → State, s.withChain 16 s.issuer a.toNat true f = f s) → Reach s b 512 false p2 →
      (s.imgWord s.issuer b.toNat 16).toNat < 2 ^ 40 → Reach s b (s.imgWord s.issuer b.toNat 16).toNat false p3 →
      s.trOf s.issuer (a.toNat + 56) = some pa → s.rdW pa = 0 → s.restIssue s.issuer a.toNat b.toNat false = .ok s1 →
      exec (.crnFrest x) s = .next (s1.retire x.rd 0).wake) ∧
    (CrnMay s 9 → CrnOn s a r → r.st ∈ [rReady, rRunning, rFrozen, rIdle] → b.toNat % 1024 < 768 ∨ b.toNat % 1024 = 1023 → s.longFull s.issuer = false →
      (∀ q ∈ s.moveSet r.rid, (s.region q).busy = false ∧ (s.region q).st ≠ rDying) →
      ∃ was : Word, exec (.crnFmove x) s = .next ((((s.moveSet r.rid).foldl (fun s q => s.moveStop q) s).lopStart s.issuer r.rid 9 was
        (BitVec.ofNat 64 (b.toNat % 1024)) false 0).retire x.rd 0).wake)

/-- R334, R383, R384: tokens of a row are read and injected; extents are patched and invalidated. -/
def Obligations.CrnTokensExtents : Prop :=
  ∀ (s : State) (x : Xr) (r : Region),
    let a := s.opA x
    let b := s.opB x
    (∀ key ch pa : Nat, fld a 51 22 = 0 → fld a 15 13 = 0 → fld a 7 2 = 0 → b.toNat % 8 = 0 → CrnOn s (BitVec.ofNat 64 (fld a 63 52)) r → r.st = rFrozen →
      rowTile r s.curHart (fld a 21 16) = some key → chOf key (fld a 12 8) = some ch →
      (∀ t : Token, CrnMay s 12 → Reach s b 96 true [(pa, 96)] → (r.chan key ch).buf[a.toNat % 4]? = some t → ch < 8 →
        exec (.crnFtok x) s = .next ((s.wrWs pa ([BitVec.ofNat 64 (t.mark.toNat + t.col.toNat * 4 + t.pois.toNat % 2 * 2 ^ 12), 0, vword t.pay 0, 0, 0, 0, 0, 0, 0, 0, 0, 0])).retire
          x.rd (BitVec.ofNat 64 (r.chan key ch).buf.length)).wake) ∧
      (∀ (w0 w2 : Word), CrnMay s 13 → Reach s b 96 false [(pa, 96)] → s.rdWs pa 12 = [w0, 0, w2, 0, 0, 0, 0, 0, 0, 0, 0, 0] → ch < 8 → fld w0 63 13 = 0 →
        let t : Token := { pay := w2.zeroExtend 512, pois := BitVec.ofNat 8 (fld w0 12 12), mark := BitVec.ofNat 2 (fld w0 1 0), col := BitVec.ofNat 10 (fld w0 11 2) }
        (tokHw t = true → exec (.crnFinject x) s = .next (s.retire x.rd (kv kvEperm)).wake) ∧
        (tokHw t = false → (r.chan key ch).buf.length < Config.scalarCap → exec (.crnFinject x) s =
          .next (((onRegion s r.rid (fun r => r.updIn key ch (fun c => { c with buf := c.buf ++ [t] }))).fedIn r.rid key ch).retire x.rd 0).wake))) ∧
    (∀ (vpn n : Nat) (ps : List (Nat × Nat)), CrnOn s a r → r.st ∈ [rReady, rRunning, rFrozen, rIdle] → b.toNat % 32 = 0 → Reach s b 32 false ps →
      (CrnMay s 10 → rangeBlock (s.pieceWords ps) false = some (vpn, n) →
        exec (.crnFpatch x) s = .next ((s.patchPages r.rid (s.validPages r vpn n s.issuer.vs)).retire x.rd
          (BitVec.ofNat 64 (s.validPages r vpn n s.issuer.vs).length)).wake) ∧
      (CrnMay s 11 → rangeBlock (s.pieceWords ps) true = some (vpn, n) → (s.part r.part).mig = none →
        bitOf ((s.pieceWords ps).getD 1 0) 62 = false → bitOf ((s.pieceWords ps).getD 1 0) 63 = false →
        let s0 := s.invalPages r.rid vpn n
        peerLeft (s0.region r.rid) vpn n = false →
        let s1 := onRegion s0 r.rid (fun r => { r with pause := none })
        exec (.crnFinval x) s = .next ((s1.patchPages r.rid (s1.validPages r vpn n s.issuer.vs)).retire x.rd 0).wake))

/-- R385, R387, R388, R389: the engine takes the oldest request; a good request starts its move with the leaf it found and the target it was given, a
malformed one gets KV_EINVAL; an automatic move of a page that is no longer one of its own does nothing; the drained page is copied; the copy goes to its
target and the leaf is replaced. Log 22: a request goes before the automatic moves still to come. -/
def Obligations.MigrationSteps : Prop :=
  (∀ (s s1 : State) (part : Nat) (ws : List Word), s.ringTake part 26 4 = (s1, some ws) →
    exec (.migrationRequest part) s = .next (s1.updPart part (fun p =>
      { p with migq := p.migq.filter (fun q => q.length == 4) ++ [ws] ++ p.migq.filter (fun q => q.length != 4) })).wake) ∧
  (∀ (s : State) (part : Nat) (q : List Word) (rest : List (List Word)), s.ckptOn = false → (s.part part).mig = none → (s.part part).migq = q :: rest →
    let s1 := s.updPart part (fun p => { p with migq := rest })
    let cw := (q.getD 3 0).toNat
    let vpn := fld (q.getD 0 0) 56 16
    let kind := fld (q.getD 1 0) 63 60
    (migBad q = true → cw % 8 = 0 → exec (.migrationStart part) s = .next (s1.migStatus cw kvEinval).wake) ∧
    (∀ m : Miss, migBad q = false → s1.walk part (vpn * 2 ^ 16) = .error m → exec (.migrationStart part) s = .next (s1.migStatus cw kvEnoent).wake) ∧
    (∀ (w : Word) (lv a t : Nat) (s2 : State), migBad q = false → s1.walk part (vpn * 2 ^ 16) = .ok ((w, lv), a) →
      (lv = 4 → 2 ≤ kind) → (2 ≤ kind → fld (q.getD 2 0) 41 0 % (if lv = 4 then 2 ^ 21 else 2 ^ 16) = 0) → leafPeer w = false →
      q.length = 4 ∨ lv ≠ 4 → s1.migTarget part q (if lv = 4 then 2 ^ 21 else 2 ^ 16) = (s2, .ok t) →
      let m : Mig := { kind := kind, vpn := if lv = 4 then vpn / 32 * 32 else vpn, cw := cw, dev := fld (q.getD 2 0) 63 45, l0 := w, leaf := a, big := lv == 4, tgt := t }
      exec (.migrationStart part) s =
        .next ((s2.updPart part (fun p => { p with mig := some m })).migWithdraw part (leafPpn w * 2 ^ 16) (if lv = 4 then 2 ^ 21 else 2 ^ 16)).wake) ∧
    (∀ (w : Word) (lv a : Nat), migBad q = false → q.length ≠ 4 → s1.walk part (vpn * 2 ^ 16) = .ok ((w, lv), a) → kind < 2 → lv ≠ 4 → leafPeer w = true →
      exec (.migrationStart part) s = .next s1.wake)) ∧
  (∀ (s : State) (part : Nat) (m : Mig), (s.part part).mig = some m →
    (m.step = 1 → s.migDrained part m = true → exec (.migrationDrained part) s = .next (s.updPart part (fun p => { p with mig := some { m with step := 3 } }))) ∧
    (m.step = 3 → m.tags = [] → leafPeer m.l0 = false → m.kind ≠ 3 →
      exec (.migrationCopyDone part) s = .next ((s.migCopy m).migRepoint part m).wake) ∧
    (m.step = 3 → m.tags = [] → leafPeer m.l0 = true → exec (.migrationCopyDone part) s = .next (s.migBegin part m 4).wake) ∧
    (m.step = 4 → m.tags = [] → leafPeer m.l0 = true → m.kind ≠ 3 → exec (.migrationCopyDone part) s =
      .next (((List.range (migSize m / 8)).foldl (fun s' k => let w := s.migWord m k; s'.migPut m k w.1 w.2) s).migRepoint part m).wake) ∧
    (m.step = 6 → m.tags = [] → exec (.migrationCopyDone part) s = .next (s.migRepoint part m).wake)) ∧
  (∀ (s : State) (part : Nat) (m : Mig), (s.rd8 m.leaf).bits ≠ m.l0 ∨ (s.rd8 m.leaf).pois = true →
    s.migRepoint part m = (s.migGiveBack part m).migEnd part m kvEstate)

/-- R395, R428, R466, R467: a packet of another device is no request; a request with a tag already answered gets the same answer and no second event; a new one is checked and tried at its home;
an answer completes its access, and a check that failed at the peer is recorded; a link trains, is lost, or has no route, and requests sent over it go
again. Log 49: a refused descriptor is answered without a record, an element has a tag of its own, and other failure codes are ignored. -/
def Obligations.LinkSteps : Prop :=
  (∀ (s : State) (link : Nat) (q : PeerReq), q.dst ≠ s.dev.devId.toNat → exec (.peerRequest link q) s = .next (s.wake.portAnswers).wake) ∧
  (∀ (s : State) (link : Nat) (q : PeerReq) (t : PeerAns), q.dst = s.dev.devId.toNat → s.tagDone q = some t →
    exec (.peerRequest link q) s =
      .next (({ s with out := s.out ++ [.peerAns link q.src.toNat s.dev.devId.toNat q.part q.tag t] } : State).wake.portAnswers).wake) ∧
  (∀ (s : State) (link : Nat) (q : PeerReq), q.dst = s.dev.devId.toNat → s.tagDone q = none → s.tagPend q = none →
    (tget s.links {} link).trained = true → (tget s.links {} link).up = true →
    let tell := fun (t : PeerAns) => ({ s with out := s.out ++ [.peerAns link q.src.toNat s.dev.devId.toNat q.part q.tag t] } : State)
    (q.back = true → exec (.peerRequest link q) s = .next ((tell .back).wake.portAnswers).wake) ∧
    (∀ d : List Word, q.back = false → q.desc = some d →
      fld (BitVec.ofNat 64 (q.cap.getD 0).toNat) 22 15 ≠ q.part ∨ partValid (s.part q.part) = false →
      exec (.peerRequest link q) s = .next ((tell (.fail 0x11)).wake.portAnswers).wake)) ∧
  (∀ (s : State) (link : Nat) (q : PeerReq) (r : Region), HasRegion s Config.regionIds r → q.dst = s.dev.devId.toNat → s.tagDone q = none → s.tagPend q = none →
    (tget s.links {} link).trained = true → (tget s.links {} link).up = true → q.back = false → q.desc = none → q.ctx = none →
    let a : Access := { own := .peer link q.tag, op := q.op, sp := 1, addr := q.addr, capx := 256, remote := some q.rid }
    let s1 : State := s.setRegion Config.regionIds { r with flight := tset r.flight r.seq a, seq := r.seq + 1 }
    let s2 : State := { s1 with links := tupd s1.links {} link (fun l => { l with pend := tset l.pend r.seq q }) }
    exec (.peerRequest link q) s = .next (((s2.portTry r.seq q).portAnswers).wake.portAnswers).wake) ∧
  (∀ (s : State) (link tag rid acc : Nat) (a : Access), (tget s.links {} link).trained = true → (tget s.links {} link).up = true →
    s.accOfTag tag = some (rid, acc, a) → (s.region rid).st ≠ rDying →
    let s1 := onRegion s rid (fun r => { r with ptags := r.ptags.filter (fun t => t.2 != tag) })
    (∀ (v : Val) (moved : Bool), remDesc a.own = none → isQueueOp a.op = false →
      exec (.peerAck link tag (.ok v moved)) s = .next (setAcc s1 rid acc (fun a => { a with st := .done, ans := v, via := none, back := false })).wake) ∧
    (∀ c : Nat, c = 0x11 ∨ c = 0x18 ∨ c = 0x19 →
      exec (.peerAck link tag (.fail c)) s = .next (onRegion (s1.stall rid acc a { code := 0x61, aux := c }) rid (peerStall a)).wake) ∧
    (∀ c : Nat, c = 0x10 ∨ c = 0x20 ∨ c = 0x21 → exec (.peerAck link tag (.fail c)) s =
      .next (setAcc s1 rid acc (fun a => { a with st := .failed c, via := none, back := false })).wake) ∧
    (∀ c : Nat, c ∉ [0x10, 0x11, 0x18, 0x19, 0x20, 0x21] → exec (.peerAck link tag (.fail c)) s = .next s)) ∧
  (∀ (s : State) (link : Nat) (far : BitVec 19), link < Config.links →
    (∀ sw : Bool, s.ckpt.wait = [] → exec (.linkTrain link sw far) s = .next { s with links := tupd s.links {} link (fun l =>
      { l with trained := true, up := true, switched := sw, far := if sw then 0 else far.toNat, noRoute := [] }) }) ∧
    ((tfind s.links link).isSome = true → exec (.linkLoss link) s =
      .next (({ s with links := tupd s.links {} link (fun l => { l with trained := false, up := false }) } : State).resend link none).ckptSend) ∧
    ((tget s.links {} link).trained = true → (tget s.links {} link).switched = true → exec (.noRouteFlit link far) s =
      .next (({ s with links := tupd s.links {} link (fun l => { l with noRoute := nset l.noRoute far.toNat true }) } : State).resend link (some far.toNat)).ckptSend))

/-- R242, R386, R430, R441, R442, R444, R446: a service core takes the call a SYSC asks for, where the partition has a place and no earlier call on its id
waits: its number, and the arguments of its block. Log 14: the ids and handles, which come from a counter. Log 18: the order of the checks, and the calls of
one look. -/
def Obligations.SystemCalls : Prop :=
  ∀ (s s1 : State) (rid tile op n : Nat) (a : List Word), (s.sysNote (s.region rid).part).sysTry rid tile op = (s1, .call n a) →
    let r := s1.region rid
    let p := s1.part r.part
    p.calls.length < (s1.arrival rid tile op).sysq → s1.sysBehind rid tile op n a = false →
    let arg := fun k => (a.getD k 0).toNat
    let va := fun k => ptrVa r (a.getD k 0)
    (n = 2 → exec (.fread rid tile op) s = .next (s1.fileCall r tile op 2 a []).wake) ∧
    (n = 4 → exec (.fclose rid tile op) s = .next (s1.fileCall r tile op 4 a []).wake) ∧
    (n = 5 → exec (.fsize rid tile op) s = .next (s1.fileCall r tile op 5 a []).wake) ∧
    (∀ (s2 : State) (ps : List (Nat × Nat)), s2.poisPieces ps = false →
      (n = 1 → s1.svcHeld r (a.getD 0 0) (arg 1) = false → s1.svcMap r.part (clusterOf r tile) (va 0) (arg 1) (.read 8) = (s2, .ok (some ps)) →
        exec (.fopen rid tile op) s = .next (s2.fileReq r tile op 1 a (s2.readPieces ps)).wake) ∧
      (n = 3 → s1.svcHeld r (a.getD 1 0) (arg 2) = false → s1.svcMap r.part (clusterOf r tile) (va 1) (arg 2) (.read 8) = (s2, .ok (some ps)) →
        exec (.fwrite rid tile op) s = .next (s2.fileCall r tile op 3 a (s2.readPieces ps)).wake) ∧
      (n = 0x10 → s1.svcHeld r (a.getD 0 0) 18 = false → s1.svcMap r.part (clusterOf r tile) (va 0) 18 (.read 8) = (s2, .ok (some ps)) →
        let o := s2.sysOpen r.part { rid := rid, key := tile, op := op, num := 0x10, args := a, data := s2.readPieces ps }
        exec (.sconnect rid tile op) s = .next ({ o.1 with out := o.1.out ++ [Out.syn r.part o.2 (s2.readPieces ps)] } : State).wake)) ∧
    (∀ (s2 : State) (ps : List (Nat × Nat)), n = 0x20 → s1.svcHeld r (a.getD 0 0) (arg 1) = false →
      s1.svcMap r.part (clusterOf r tile) (va 0) (arg 1) (.write 8 {}) = (s2, .ok (some ps)) →
      exec (.mzero rid tile op) s = .next ((s2.writePieces ps (List.replicate (arg 1) 0)).sysAnswer rid tile op 0).wake) ∧
    (∀ (s2 : State) (pa k : Nat) (ps : List (Nat × Nat)), n = 0x21 → s1.svcHeld r (a.getD 0 0) 1 = false →
      s1.svcMap r.part (clusterOf r tile) (va 0) 1 (.read 1) = (s2, .ok (some ((pa, k) :: ps))) →
      exec (.mheat rid tile op) s = .next (s2.sysAnswer rid tile op (BitVec.ofNat 64 (rdNat s2.mem (heatAddr (s2.part r.part) pa) 4))).wake) ∧
    (n = 0x11 →
      let s2 := ({ s1 with fresh := s1.fresh + 1 } : State).updPart r.part (fun p => { p with lists := tset p.lists s1.fresh (arg 0, arg 1) })
      exec (.slisten rid tile op) s = .next (({ s2 with out := s2.out ++ [Out.listen r.part s1.fresh (arg 0) (arg 1)] } : State).sysAnswer rid tile op
        (BitVec.ofNat 64 s1.fresh)).wake) ∧
    (n = 0x12 → (tfind p.lists (arg 0)).isSome = true → exec (.saccept rid tile op) s =
      .next (s1.sysOpen r.part { rid := rid, key := tile, op := op, num := 0x12, args := a, lst := arg 0 }).1.wake) ∧
    (∀ c : Conn, n = 0x13 → tfind p.conns (arg 0) = some c → c.st = 3 ∨ c.finTx = true →
      exec (.sclose rid tile op) s = .next ((s1.updPart r.part (fun p => { p with conns := tdel p.conns (arg 0) })).sysAnswer rid tile op 0).wake)

/-- R442, R444-R446: a file server that does not answer gives KV_EIO; a peer that accepts opens the connection, one that refuses answers
KV_ECONNREFUSED; bytes go out and come in with their counts; a FIN and a reset take their states, or are owed while the block cannot be reached (log 18). -/
def Obligations.ConnectionSteps : Prop :=
  (∀ (s : State) (part n : Nat) (c : Call), tfind (s.part part).calls n = some c →
    (c.num ≤ 5 → c.lst = 0 → exec (.fileServerTimeout part n) s = .next (s.fileClose part n c (kv kvEio))) ∧
    (c.num = 0x10 → exec (.tcpPeerConnect part n true) s = .next (s.sysClose part n c (kv kvEconnrefused)).wake) ∧
    (c.num = 0x10 ∨ c.num = 0x12 → exec (.tcpPeerConnect part n false) s = .next (s.connOpen part n c).wake)) ∧
  (∀ (s : State) (part i : Nat) (c : Conn), tfind (s.part part).conns i = some c → s.notes = [] → c.owed = 0 → c.bad = false →
    (c.st ≠ 3 → (s.connMap part c.blk (connSize c)).isSome = true →
      let w := s.connRd part c 0x80
      let tail := fld w 62 0
      let head := fld (s.connRd part c 0xC0) 62 0
      (connBad c tail head = true → exec (.connTxSend part i) s = .next (s.connReset part i c kvEinval true).wake) ∧
      (connBad c tail head = false → ∃ s' : State, exec (.connTxSend part i) s = .next s'.wake ∧
        tfind (s'.part part).conns i = some { c with txtail := tail, txhead := tail, rxhead := head, finTx := c.finTx || bitOf w 63 })) ∧
    (∀ bytes : List Byte, c.st = 1 → (s.connMap part c.blk (connSize c)).isSome = true →
      let head := fld (s.connRd part c 0xC0) 62 0
      connBad c c.txtail head = false → ∃ s' : State, exec (.connRxDeliver part i bytes) s = .next s'.wake ∧
        tfind (s'.part part).conns i =
          some { c with rxtail := c.rxtail + Nat.min (2 ^ c.rxl - (c.rxtail - head)) bytes.length, rxhead := head }) ∧
    ((s.connMap part c.blk (connSize c)).isSome = true →
      (c.st = 1 → exec (.connPeerFin part i) s = .next (((s.connWr part c 0 2).connWr part c 0x100 (BitVec.ofNat 64 (2 ^ 63 + c.rxtail))).updPart part
        (fun p => { p with conns := tset p.conns i { c with st := 2, owed := 0 } })).wake) ∧
      (c.st ≠ 3 → exec (.connReset part i true) s = .next (s.connReset part i c kvEconnreset false).wake)) ∧
    ((s.connMap part c.blk (connSize c)).isNone = true →
      (c.st = 1 → exec (.connPeerFin part i) s = .next (s.connOwe part i 1 c)) ∧
      (c.st ≠ 3 → exec (.connReset part i true) s = .next (s.connOwe part i 2 c))))

/-- R427-R431, R434, R435, R456, R458: an SBI call from HS on a hypervisor Cobbler does its operation and returns in a0 and a1; from VS or another hart it is
denied, from user level it is an environment call. A reset is ordered, is carried out at the end of an fc, and the call that ordered it returns when it is
over; the call waits meanwhile, and a second reset of the partition ends with the first. -/
def Obligations.SbiCalls : Prop :=
  ∀ s : State, s.ckptOn = false →
    let h := s.hart s.curHart
    let a0 := hx h 10
    let a1 := hx h 11
    let a2 := hx h 12
    (∀ i : Instr, i ∈ [Instr.partSet, .partGet, .partSeal, .partReset, .linkGet, .attReport, .attExtend] →
      (isUser h.priv = true → exec i s = .next (s.hartExc s.curHart 8 0 0)) ∧
      (isUser h.priv = false → h.priv = .vs ∨ 192 ≤ s.curHart ∨ s.dev.hcob.getLsbD s.curHart = false → exec i s = .next (s.sbiRet (-4) 0))) ∧
    (isUser h.priv = false → h.priv ≠ .vs → s.curHart < 192 → s.dev.hcob.getLsbD s.curHart = true →
      (s.rst = none → s.mgrQ = [] → tfind s.mgrDone s.curHart = none →
       (a0.toNat % 512 = 0 → dramRange a0.toNat 512 = true → isDram a0.toNat = true → a1.toNat < 64 → a2 = 0 →
        (∀ e : Int, s.commitCheck a1.toNat (s.rdWs a0.toNat 64) = some e → exec .partSet s = .next (s.sbiRet e 0).wake) ∧
        (s.commitCheck a1.toNat (s.rdWs a0.toNat 64) = none → exec .partSet s = .next ((s.commit a1.toNat (s.rdWs a0.toNat 64)).sbiRet 0 0).wake) ∧
        exec .partGet s = .next ((s.wrWs a0.toNat (descOf (s.part a1.toNat))).sbiRet 0 0).wake) ∧
       (a0 = 0 → a1.toNat < 64 → partValid (s.part a1.toNat) = true →
        (a2 = 0 → exec .partSeal s = .next ((s.sealNext a1.toNat).sbiRet 0 (BitVec.ofNat 64 (sealOf (s.sealNext a1.toNat) a1.toNat))).wake) ∧
        (a2.toNat < 2 → exec .partReset s = .next { s with rst := some { pid := a1.toNat, scrub := a2.getLsbD 0, who := [.hart s.curHart] } })) ∧
       (a0 = 0 → a1.toNat < Config.links → a2 = 0 →
        ∃ w : Word, exec .linkGet s = .next (s.sbiRet 0 w).wake ∧ w.getLsbD 0 = (tget s.links {} a1.toNat).up ∧
          w.getLsbD 1 = (tget s.links {} a1.toNat).switched ∧ w.getLsbD 2 = (tget s.links {} a1.toNat).trained)) ∧
      (∀ r : Rst, s.rst = some r → tfind s.mgrDone s.curHart = none →
        (MgrSrc.hart s.curHart ∈ r.who → exec .partReset s = .next s) ∧
        (MgrSrc.hart s.curHart ∉ r.who → (∀ q ∈ s.mgrQ, q.src ≠ .hart s.curHart) → a0 = 0 → a1.toNat = r.pid → r.pid < 64 → a2.toNat < 2 →
          partValid (s.part r.pid) = true → exec .partReset s = .next { s with rst := some { r with who := r.who ++ [.hart s.curHart] } })) ∧
      (∀ v : List Word, tfind s.mgrDone s.curHart = some (3, a1.toNat, 0, v) →
        exec .partReset s = .next (({ s with mgrDone := tdel s.mgrDone s.curHart } : State).sbiRet 0 (v.getD 0 0)).wake) ∧
      (∀ r : Rst, s.rst = some r → s.mgrQ = [] → r.who = [.hart s.curHart] → (∀ c ∈ (s.part r.pid).conns, c.2.st = 3 ∨ s.connHeld r.pid c.2 = false) →
        let t := s.vfReset r.pid r.scrub []
        t.mgrQ = [] → s.mgrTick = { t with rst := none, mgrDone := tset t.mgrDone s.curHart (3, r.pid, 0, [0]) }) ∧
      (a0.toNat % 64 = 0 → isDram a0.toNat = true → dramRange a0.toNat 5376 = true → isDram a1.toNat = true → dramRange a1.toNat 64 = true →
        let body := reportBody s.dev (s.rdBs a1.toNat 64)
        ∃ sig : List Byte, sig.length = 4627 ∧
          exec .attReport s = .next ((s.wrBs a0.toNat (body ++ sig ++ List.replicate 109 0)).sbiRet 0 0).wake) ∧
      (a0 = 6 ∨ a0 = 7 → isDram a1.toNat = true → dramRange a1.toNat 64 = true →
        exec .attExtend s = .next ((s.extend a0.toNat (s.rdBs a1.toNat 64)).sbiRet 0 0).wake))

/-- R3, R430, R447, R448, R456, R457, R459, R460: the management controller's requests, the clock under the power cap, and the power states; what a device
reset leaves, the rise of the main side, and its end. Log 27 and 7: the formats of the answers, their success code 0 and the words read are the model's, the
words free. Log 26: the parts of a rise. -/
def Obligations.ManagementPower : Prop :=
  ∀ s : State,
    let tell := fun (s : State) (b : List Word) => ({ s with out := s.out ++ [.mgmt b] } : State)
    (s.dev.power ≠ .off →
      (∀ part < 64, exec (.mgmtReadDescriptor part) s = .next (tell s (descOf (s.part part)))) ∧
      (∀ (ep : BitVec 128) (cobs : BitVec 192),
        exec (.mgmtSetHypervisor ep cobs) s = .next (tell { s with dev := { s.dev with hepN := some ep, hcobN := some cobs } } [0])) ∧
      (∀ n : Nat, ∃ w : Word,
        exec (.pldmSensorRead n) s = .next (tell { s with freeC := s.freeC + 1 } [BitVec.ofNat 64 n, w]) ∧
        exec (.pldmFruRead n) s = .next (tell { s with freeC := s.freeC + 1 } [BitVec.ofNat 64 n, w]) ∧
        exec (.pldmBase n) s = .next (tell { s with freeC := s.freeC + 1 } [BitVec.ofNat 64 n, w])) ∧
      (∀ watts : Nat, 1200 ≤ watts → watts ≤ 3300 → exec (.pldmPowerCap watts) s = .next (tell { s with dev := { s.dev with cap := watts } } [0])) ∧
      (∀ watts : Nat, watts < 1200 ∨ 3300 < watts → ∃ t : State, exec (.pldmPowerCap watts) s = .next t ∧ t.dev = s.dev) ∧
      (∀ fw : FwImage, exec (.pldmFirmwareUpdate fw) s =
        .next (tell { s with dev := { s.dev with staged := s.dev.staged.filter (fun f => f.main != fw.main) ++ [fw] } } [0, if s.dev.fwFault then 1 else 0])) ∧
      (∀ d : Option (BitVec 19), exec (.mgmtDeviceReset d) s =
        .next (tell ({ s with dev := { s.dev with devIdN := d.getD s.dev.devIdN } } : State).deviceReset [0]).wake) ∧
      exec .resetN s = .next s.deviceReset.wake) ∧
    (let t := s.deviceReset
     t.dev.power = .standby ∧ t.dev.hcob = s.dev.hcobN.getD s.dev.hcob ∧ t.dev.hep = s.dev.hepN.getD s.dev.hep ∧ t.regions = [] ∧ t.parts = [] ∧ t.harts = [] ∧
      t.wft = [] ∧ t.sess = [] ∧ t.links = [] ∧ t.ckpt = {} ∧ t.rst = none ∧ t.mgrQ = [] ∧
      (s.dev.staged = [] → t.dev.fwFault = false ∧ (t.dev.rise = true ↔ s.dev.power = .on ∨ s.dev.rise = true) ∧ (t.dev.rise = true → t.dev.devId = s.dev.devIdN)) ∧
      (∀ f : FwImage, s.dev.staged = [f] →
        (fwOk s.dev f = true → t.dev.staged = [] ∧ t.dev.fwFault = false ∧ (if f.main then t.dev.floorF = f.svn else t.dev.floorM = f.svn) ∧
          (∀ x ∈ s.sess, ∃ w : Word, Out.khr 0x31 x.1 0 0 [0, w] ∈ t.out)) ∧
        (fwOk s.dev f = false → t.dev.staged = [f] ∧ t.dev.fwFault = true ∧ t.dev.rise = false ∧ t.dev.floorF = s.dev.floorF ∧ t.dev.floorM = s.dev.floorM ∧
          Out.mgmt [5, 1] ∈ t.out))) ∧
    (s.dev.power = .on → s.rst = none → ∀ (part : Nat) (scrub : Bool), part < 64 → partValid (s.part part) = true →
      (s.ckptOn = false → s.mgrQ = [] → exec (.mgmtVfReset part scrub) s = .next { s with rst := some { pid := part, scrub := scrub, who := [.port] } }) ∧
      (s.ckptOn = true → exec (.mgmtVfReset part scrub) s =
        .next { s with mgrQ := s.mgrQ ++ [{ src := .port, fid := 3, pid := part, a2 := if scrub then 1 else 0, desc := [] }] })) ∧
    (s.dev.power = .on → ∀ watts : Nat,
      exec (.clockThrottle watts) s =
        .next { s with dev := { s.dev with mhz := if s.dev.cap < watts then Nat.max 600 (s.dev.mhz - 50) else Nat.min 1050 (s.dev.mhz + 50) } }) ∧
    (s.dev.power = .off → exec .power48vOn s =
      .next ((({ s with dev := { s.dev with v48 := true, power := .standby, mr := [] } } : State).measure 0).measure 1)) ∧
    (s.dev.power = .standby → s.dev.rise = false →
      exec (.powerEnable true) s = .next s.riseUp ∧ exec (.powerEnable false) s = .next (tell s.riseUp [0]) ∧
      (s.dev.fwFault = false → s.riseUp.dev.rise = true ∧ s.riseUp.dev.devId = s.dev.devIdN) ∧ (s.dev.fwFault = true → s.riseUp.dev.rise = false)) ∧
    (s.dev.rise = true → s.dev.power ≠ .on → s.tick.dev.power = .on ∧ s.tick.dev.rise = false ∧ s.tick.links = s.links) ∧
    (s.dev.power = .on ∨ s.dev.rise = true → ∃ t : State, exec (.powerStandby true) s = .next t ∧ t.dev.power = .standby ∧ t.regions = [] ∧ t.parts = [] ∧ t.harts = [] ∧ t.wft = []) ∧
    (∃ t : State, exec .power48vOff s = .next t ∧ t.dev.power = .off ∧ t.dev.v48 = false ∧ t.regions = [] ∧ t.parts = [] ∧ t.harts = [])

/-- R434, R436-R440, R442, R450, R452-R454: the next request of a session is performed and answered, with those that waited behind it; an old one gets its old
answer and no second effect; one within 64 is held; a datagram is what its bytes say; OPEN makes a session; a file server's answer reaches its call; an Echo
is answered; what a request does, by its type, and that it completes. Logs 14, 25 and 27: the ids of sessions, the octets the RFCs leave open, and the
formats of the answers. -/
def Obligations.KhrSteps : Prop :=
  ((∀ (s : State) (i : Instr) (typ sid : Nat) (k : Khr) (sub : Option Word) (x : Sess), khrReq i = some (typ, k, sub) →
     k.frame = [] → (∀ n, sub = some n → k.body.head? = some n) → s.sessOf k = some (sid, x) →
     (k.seq.toNat = x.last + 1 → exec i s = .next (State.khrHeld 64 (s.khrNext typ sid k) sid).wake) ∧
     (∀ (st : Int) (body : List Word) (n : Nat), k.seq.toNat ≤ x.last → x.cache.find? (fun c => c.1 == k.seq.toNat) = some (n, st, body) →
       exec i s = .next ({ s with out := s.out ++ [.khr typ sid k.seq.toNat st body] } : State).wake) ∧
     (x.last + 1 < k.seq.toNat → k.seq.toNat ≤ x.last + 64 → x.held.any (fun h => h.2.seq == k.seq) = false →
       exec i s = .next ({ s with sess := tset s.sess sid { x with held := x.held ++ [(typ, k)] } } : State).wake)) ∧
   (∀ (s : State) (i : Instr) (typ : Nat) (k : Khr) (sub : Option Word), khrReq i = some (typ, k, sub) → k.frame ≠ [] →
     (khrParse k.frame = none → exec i s = .next s.wake) ∧
     (∀ m : KhrMsg, khrParse k.frame = some m → m.rsp = false → m.typ = 0x01 → exec i s = .next (s.khrOpen m.req).wake) ∧
     (∀ m : KhrMsg, khrParse k.frame = some m → m.rsp = false → m.typ ≠ 0x01 → exec i s = .next (s.khrEnter m.typ m.req).wake) ∧
     (∀ m : KhrMsg, khrParse k.frame = some m → m.rsp = true → m.typ ≠ 0x41 → exec i s = .next s.wake)) ∧
   (∀ (f : List Byte) (m : KhrMsg), khrParse f = some m → f.length ≤ 9216 ∧ be16 f 12 = 0x86DD ∧ f.getD 20 0 = 17 ∧ be16 f 56 = 29440 ∧ m.data = (f.drop 94).take
     (be16 f 18 - 40) ∧ m.data.length ≤ 8192 ∧ m.typ = (f.getD 68 0).toNat ∧ m.req.src = addrOf f 22 ∧ m.req.dst = addrOf f 38) ∧
   (∀ (s : State) (k : Khr) (ep : Nat), k.frame = [] → k.odd = false → s.rst.any (fun r => r.pid == ep) = false →
     s.endpoint k.dst = some ep → k.sess = 0 → s.ckptOn = false → k.body = [] →
     (s.sess.filter (fun x => x.2.ep == ep)).length < 64 →
     exec (.khrOpen k) s = .next ({ s with fresh := s.fresh + 1, sess := tset s.sess s.fresh { ep := ep, src := k.src, port := k.port },
                                           out := s.out ++ [.khr 0x01 s.fresh k.seq.toNat 0 []] } : State).wake) ∧
   (∀ (s : State) (k : Khr) (call sid : Nat) (status : Word) (data : List Byte) (x : Sess) (c : Call), k.frame = [] → s.sessOf k = some (sid, x) →
     tfind (s.part x.ep).calls call = some c → (s.part x.ep).server = some sid → c.lst = 0 →
     exec (.khrFileResponse k call status data) s = .next (s.fileAnswer x.ep call status data).wake) ∧
   (∀ (s : State) (port : Nat) (f : List Byte), port < 2 → f.length ≤ 9216 → 54 + be16 f 18 ≤ f.length → 8 ≤ be16 f 18 → be16 f 12 = 0x86DD →
     (f.getD 14 0).toNat / 16 = 6 → f.getD 20 0 = 58 → ipSum 58 ((f.drop 22).take 16) ((f.drop 38).take 16) ((f.drop 54).take (be16 f 18)) = 65535 →
     f.getD 54 0 = 128 → f.getD 55 0 = 0 → (s.endpoint (addrOf f 38)).isSome = true →
     ∃ g : List Byte, exec (.icmpv6Frame port f) s = .next { s with freeC := s.freeC + 1, out := s.out ++ [.icmp port g] } ∧
       (g.drop 22).take 16 = (f.drop 38).take 16 ∧ (g.drop 38).take 16 = (f.drop 22).take 16 ∧ g.getD 54 0 = 129 ∧ g.drop 58 = ((f.drop 54).take (be16 f 18)).drop 4)) ∧
  (∀ (s : State) (ep sid seq : Nat),
     (s.ckptOn = false → s.rst.any (fun r => r.pid == ep) = true → ∀ (typ : Nat) (body : List Word), typ ≠ 0x02 →
       s.khrDo typ ep sid seq body = (s, some (kvEbusy, []))) ∧
     (s.rst.any (fun r => r.pid == ep) = false →
     (s.ckptOn = false → ∀ (typ : Nat) (body : List Word), typ ∉ [0x02, 0x10, 0x11, 0x20, 0x21, 0x30, 0x40, 0x50, 0x51, 0x60] →
       s.khrDo typ ep sid seq body = (s, some (kvEinval, []))) ∧
     (∀ (a : Word) (ws : List Word), s.ckptOn = false → ws.length ≤ 1023 → s.khrAddr ep a.toNat (8 * ws.length) = none →
       s.khrDo 0x20 ep sid seq (a :: ws) = (s.wrWs a.toNat ws, some (0, []))) ∧
     (∀ a n : Word, n.toNat ≤ 8192 → s.khrAddr ep a.toNat n.toNat = none →
       (s.anyPois a.toNat n.toNat = true → s.khrDo 0x21 ep sid seq [a, n] = (s, some (kvEio, []))) ∧
       (s.anyPois a.toNat n.toNat = false → s.khrDo 0x21 ep sid seq [a, n] = (s, some (0, bytesWords n.toNat (s.rdBs a.toNat n.toNat))))) ∧
     (∀ a : Word, s.ckptOn = false → s.khrAddr ep a.toNat 8 = none → (tget s.sess {} sid).subs.contains a.toNat = false → (tget s.sess {} sid).subs.length < 256 →
       s.khrDo 0x30 ep sid seq [a] =
         ({ s with sess := tset s.sess sid { tget s.sess {} sid with subs := (tget s.sess {} sid).subs ++ [a.toNat] } }, some (0, []))) ∧
     (ep < 64 → s.ckptOn = false → s.khrDo 0x40 ep sid seq [] = (s.updPart ep (fun p => { p with server := some sid }), some (0, []))) ∧
     (s.ckptOn = true → ∀ (typ : Nat) (body : List Word), typ ≠ 0x60 → typ ≠ 0x21 → typ ≠ 0x02 → s.khrDo typ ep sid seq body = (s, some (kvEbusy, []))) ∧
     (∀ body : List Word, ep ≠ 64 → s.khrDo 0x60 ep sid seq body = (s, some (kvEperm, []))) ∧
     (ep = 64 → s.ckpt.st = 1 ∨ s.ckpt.st = 3 → s.ckpt.busy = none → s.ckpt.held = [] → s.ckpt.wd = [] →
       s.khrDo 0x60 64 sid seq [4] = ({ s with ckpt := { s.ckpt with st := 0, held := [], wd := [] }, harts := tmap s.harts (fun _ h => { h with stopped := false }) }, some (0, []))) ∧
     (ep = 64 → ∃ w1 w2 : Word, s.khrDo 0x60 64 sid seq [5] = (s, some (0, [BitVec.ofNat 64 (s.ckpt.st * 2 ^ 62), w1, w2]))))) ∧
  (∀ (s : State) (k : Khr) (sid : Nat) (x : Sess), s.sessOf k = some (sid, x) → k.frame = [] → k.odd = false → k.seq.toNat = x.last + 1 →
     let s0 : State := { s with sess := tset s.sess sid { x with last := k.seq.toNat } }
     let fin := fun (typ : Nat) (t : State) (st : Int) (body : List Word) => Host.Outcome.next (State.khrHeld 64 (t.khrAnswer typ sid k.seq.toNat st body) sid).wake
     let wait := fun (t : State) => Host.Outcome.next (State.khrHeld 64 t sid).wake
     let p := s.part x.ep
     let w := fun (n : Nat) => k.body.getD n 0
     let hv := x.ep = 64
     (∀ t : State, (∀ y : Sess, tfind t.sess sid = some y → y.held = []) → State.khrHeld 64 t sid = t) ∧
     (exec (.khrClose k) s = .next ({ s0.khrClose sid with out := s.out ++ [.khr 0x02 sid k.seq.toNat 0 []] } : State).wake ∧
       tfind (s0.khrClose sid).sess sid = none) ∧
     (s.rst.any (fun r => r.pid == x.ep) = false →
       (s.ckptOn = false →
         (x.ep ≠ 64 → k.body.length = 9 → (w 0).toNat < 16 → lqValid p (w 0).toNat = true → s.lqOk (lqBase p (w 0).toNat) = true →
           let b := lqBase p (w 0).toNat
           (s.lqN b ≤ s.lqCount b → exec (.khrLaunch k) s = fin 0x10 s0 kvEnospc []) ∧
           (s.lqCount b < s.lqN b → exec (.khrLaunch k) s =
             fin 0x10 ((s0.wrWs (b + 64 + (s.rdW (b + 8)).toNat % s.lqN b * 64) (k.body.drop 1)).wrW (b + 8) (s.rdW (b + 8) + 1)) 0 [])) ∧
         (∀ r : Region, k.body.length = 2 → s.ridOp {} (w 0) false = .ok r → hv ∨ r.part = x.ep →
           let s1 := s0.crnMark r.rid 208
           (w 1 = 0 → r = s.region r.rid →
             (r.st = rIdle → r.rpq = false →
               exec (.khrReplay k) s = fin 0x11 ((onRegion s1 r.rid (fun r => { r with cmplt := [] })).startReplay r.rid) 0 []) ∧
             (r.st = rRunning ∨ r.st = rFrozen → r.rpq = false →
               exec (.khrReplay k) s = fin 0x11 (s1.updSync r.rid (fun r => { r with rpq := true, cmpltQ := [] })) 1 []) ∧
             (r.st = rRunning ∨ r.st = rFrozen ∨ r.st = rIdle → r.rpq = true → exec (.khrReplay k) s = fin 0x11 s1 kvReplayBusy [])) ∧
           (w 1 ≠ 0 → (w 1).toNat % 4096 = 0 → s.khrAddr x.ep (w 1).toNat 4096 = none →
             let o := s1.parOp r.rid (some (s1.patchWords [((w 1).toNat, 4096)])) []
             exec (.khrReplay k) s = fin 0x11 o.1 o.2 [])) ∧
         (s.rst = none → s.mgrQ = [] →
           (hv → (w 1).toNat < 64 →
             (w 0 = 0 → w 2 = 0 → k.body.length = 67 →
               (∀ e : Int, s0.commitCheck (w 1).toNat (k.body.drop 3) = some e → e ≠ 0 → exec (.khrPcfg k) s = fin 0x50 s0 e []) ∧
               (s0.commitCheck (w 1).toNat (k.body.drop 3) = none → exec (.khrPcfg k) s = fin 0x50 (s0.commit (w 1).toNat (k.body.drop 3)) 0 [0])) ∧
             (w 0 = 1 → w 2 = 0 → k.body.length = 3 → exec (.khrPcfg k) s = fin 0x50 s0 0 (descOf (s.part (w 1).toNat))) ∧
             (w 0 = 2 → w 2 = 0 → k.body.length = 3 → partValid (s.part (w 1).toNat) = true → exec (.khrPcfg k) s =
               fin 0x50 (s0.sealNext (w 1).toNat) 0 [BitVec.ofNat 64 (sealOf (s0.sealNext (w 1).toNat) (w 1).toNat)]) ∧
             (w 0 = 3 → (w 2).toNat < 2 → k.body.length = 3 → partValid (s.part (w 1).toNat) = true → exec (.khrPcfg k) s =
               wait { s0 with rst := some { pid := (w 1).toNat, scrub := (w 2).getLsbD 0, who := [.khr sid k.seq.toNat 0x50] } })) ∧
           (k.body.length = 2 → hv ∨ x.ep = (w 0).toNat → (w 0).toNat < 64 → (w 1).toNat < 2 → partValid (s.part (w 0).toNat) = true →
             exec (.khrVfreset k) s =
               wait { s0 with rst := some { pid := (w 0).toNat, scrub := (w 1).getLsbD 0, who := [.khr sid k.seq.toNat 0x51] } }))) ∧
       (hv →
         (∀ ps : List Word, k.body = 1 :: ps → ps.length = 64 → s.planBad ps = false → s.ckpt.st = 0 → s.ckpt.busy = none →
           let l := (ckPlaces s.ckSections (ckPages ps).length).getD 4 (0, 0)
           (8 * (l.1 + l.2) ≤ ckLen ps → ∃ t : State, exec (.ckptConfig k) s = wait t ∧ t.ckpt.new = ps ∧ t.ckpt.plan = s.ckpt.plan ∧ t.ckpt.step = 10 ∧
             t.ckpt.busy = some (sid, k.seq.toNat) ∧ t.ckpt.wait.length = 2 * (ckLen ps / 2 ^ 16) ∧ t.mem = s.mem) ∧
           (ckLen ps < 8 * (l.1 + l.2) → exec (.ckptConfig k) s = fin 0x60 s0 kvEnospc [])) ∧
         (∀ e : Word, k.body = [2, e] → s.ckpt.has = true → s.ckpt.st = 0 → s.ckpt.busy = none → e.toNat = (s.ckpt.last.map (· + 1)).getD 0 →
           let s1 : State := { s0 with ckpt := { s.ckpt with busy := some (sid, k.seq.toNat), step := 1, cur := e.toNat, held := [], wd := [] } }
           exec (.ckptQuiesce k) s = wait s1.quiesceOn ∧
           (x.held = [] → s.regions = [] → s.rst = none → s.parts.all (fun p => p.2.calls.isEmpty && p.2.mig.isNone) = true → ∃ t : State, exec (.ckptQuiesce k) s = .next t ∧
             t.ckpt.st = 1 ∧ t.ckpt.busy = none ∧ t.out = s.out ++ [.khr 0x60 sid k.seq.toNat 0 []] ∧ ∀ h < 208, (t.hart h).stopped = true)) ∧
         (∀ e : Word, k.body = [3, e] → s.ckpt.st = 1 → s.ckpt.busy = none → e.toNat = (s.ckpt.last.map (· + 1)).getD 0 →
           let s1 : State := { s0 with ckpt := { s.ckpt with busy := some (sid, k.seq.toNat), st := 2, cur := e.toNat, bad := false } }
           exec (.ckptWrite k) s =
             wait ((s1.wrW (ckSlot s.ckpt.plan e.toNat 5) 0).ckTell 20 (ckSlot s.ckpt.plan e.toNat 3) [(0, 0)])) ∧
         (∀ e : Word, s.ckpt.has = true →
           (k.body = [6, e, 0] →
             let rd := fun (o : Nat) => s0.rdW (ckSlot s.ckpt.plan e.toNat 5 + o)
             (s0.slotOk rd e.toNat = false → exec (.ckptRestore k) s = fin 0x60 s0 kvEinval []) ∧
             (s0.slotOk rd e.toNat = true → exec (.ckptRestore k) s = fin 0x60
               (({ s0 with ckpt := { s.ckpt with busy := none, step := 0, wait := [], bad := false } } : State).ckLoad rd e.toNat) 0 [])) ∧
           (k.body = [6, e, 1] → exec (.ckptRestore k) s =
             wait (({ s0 with ckpt := { s.ckpt with busy := some (sid, k.seq.toNat), cur := e.toNat, bad := false, got := [] } } : State).ckTell 30
               (ckSlot s.ckpt.plan e.toNat 3) ((List.range 512).map (fun n => (n, (0 : Word))))))))))

/-- R329, R459: what the machine holds right after reset. The values the spec does not give are the model's: logs 1 to 6, 8, 9, 10 and 26. -/
def Obligations.ResetState : Prop :=
  let s := State.reset
  s.regions = [] ∧ s.parts = [] ∧ s.wft = [] ∧ s.cycles = [] ∧ s.links = [] ∧ s.sess = [] ∧ s.ckpt = {} ∧ s.dpois = [] ∧ s.mem = [] ∧ s.out = [] ∧
  s.dev.power = .on ∧ s.dev.mhz = 1050 ∧ s.dev.cap = 3300 ∧ s.dev.hcob = 1 ∧ s.dev.hep = 0 ∧
  (∀ k : Nat, partValid (s.part k) = false) ∧ (∀ pa : Nat, s.rd8 pa = {}) ∧ (∀ pa : Nat, s.presAt pa = false) ∧
  (∀ h : Nat, (s.hart h).priv = .m ∧ (s.hart h).pc = 0 ∧ (s.hart h).stopped = false ∧ ∀ n : BitVec 5, hx (s.hart h) n = 0)

/-- R49, R81, R91: the canonical form of DRAM holds at reset. -/
def Obligations.MemCanonReset : Prop := MemInv State.reset

/-- The list that holds DRAM keeps its canonical form in every step. -/
def Obligations.MemCanonStep : Prop := ∀ s s' : State, MemInv s → step s = .next s' → MemInv s'

/-- R104-R112, R116, R327, R329, R339: the words of the spec's own worked encodings (R153, R171, R185, R210, R241, R244, R245, R282, R302 and the
program chapters) and words of the harts decode to the instructions they stand for; an invalid slot, an OP without an instruction, a field out of its
rule, a funct3 other than 0, a funct7 past 0x11 and an unlisted CSR number are refused by name. -/
def Obligations.DecodeWords : Prop :=
  decodeSlot 0x80040011604E1500 = .ok (.cmplt { cc := { en := 1, ch := 0, mt := 0 }, sa := 24, sb := 2, dst := 14, puo := 1, pui := 5 }) ∧
  decodeSlot 0xF35000310C002A81 = .ok (.vmul { la := { en := 1, val := 1, p := 9 }, lb := { en := 1, val := 0, p := 10 }, sa := 3, puo := 2, pui := 10, imm := 129 }) ∧
  decodeSlot 0x800480408121000C = .ok (.vscan { cc := { en := 1, ch := 1, mt := 0 }, sb := 9, dst := 1, imm := 12 }) ∧
  decodeSlot 0x80060050E1201239 = .ok (.mmas { cc := { en := 1, ch := 4, mt := 0 }, sa := 24, sb := 9, puo := 1, pui := 2, imm := 57 }) ∧
  decodeSlot 0xE108006385082100 = .ok (.ldne { la := { en := 1, val := 1, p := 0 }, lb := { en := 1, val := 0, p := 1 }, sa := 1, sb := 8, dst := 8, puo := 2, pui := 1 }) ∧
  decodeSlot 0xE310006CBDEE220D = .ok (.fence { la := { en := 1, val := 1, p := 1 }, lb := { en := 1, val := 0, p := 2 }, sa := 15, sb := 15, dst := 14, puo := 2, pui := 2, imm := 13 }) ∧
  decodeSlot 0x8000007004470003 = .ok (.eqpush { sa := 1, sb := 2, dst := 7, imm := 3 }) ∧
  decodeSlot 0x80000072BDEE0080 = .ok (.nlsweep { sa := 15, sb := 15, dst := 14, imm := 128 }) ∧
  decodeSlot 0x80000078BDEE0005 = .ok (.brk { sa := 15, sb := 15, dst := 14, imm := 5 }) ∧
  decodeSlot 0xE3100079BDF02200 = .ok (.cfgsw { la := { en := 1, val := 1, p := 1 }, lb := { en := 1, val := 0, p := 2 }, sa := 15, sb := 15, dst := 16, puo := 2, pui := 2 }) ∧
  decodeSlot 0x000000000FFE0000 = .error .invalidSlot ∧
  decodeSlot (0x8000000000000000 + 0x2A * 2 ^ 31) = .error .badOp ∧
  decodeSlot 0x8000000004470003 = .error .badEnc ∧
  decodeHart 0b00000000110001011000010100001011 = .ok (.crnFload { rd := 10, rs1 := 11, rs2 := 12 }) ∧
  decodeHart 0b00100010000000110000001010001011 = .ok (.crnWftclr { rd := 5, rs1 := 6, rs2 := 0 }) ∧
  decodeHart 0b01011100000100110001001011110011 = .ok (.csrWrite { f3 := 1, rd := 5, rs1 := 6, csr := 0x5C1 }) ∧
  decodeHart 0b01011100010000001111000001110011 = .ok (.crnfrecWrite { f3 := 7, rd := 0, rs1 := 1, csr := 0x5C4 }) ∧
  decodeHart 0b01101100000000111010010001110011 = .ok (.hcrnpmapWrite { f3 := 2, rd := 8, rs1 := 7, csr := 0x6C0 }) ∧
  decodeHart 0b00000000110001011001010100001011 = .error .illegal ∧
  decodeHart 0b00100100110001011000010100001011 = .error .illegal ∧
  decodeHart 0b01011100011000110001001011110011 = .error .illegal ∧
  decodeHart 0x00000013 = .error .notInTable

/-- R104-R116, R327, R339: encoding a well-formed instruction and decoding its word gives the instruction back, every operand at every value. -/
def Obligations.RoundTrip : Prop := ∀ (i : Instr) (e : Enc), i.wf = true → encode i = some e → decodeEnc e = .ok i

/-- R104, R137, R327: a word that decodes has one meaning: the instruction is well formed, and encoding it gives the word back bit for bit. -/
def Obligations.WordsHaveOneMeaning : Prop := ∀ (i : Instr) (e : Enc), decodeEnc e = .ok i → i.wf = true ∧ encode i = some e

/-- R18-R21, R317, R318, R326, R327, R343: a step runs the instruction its mover finds: a tile's arbiter choice, the instruction at a hart's pc, an
event; with nobody left the fc ends. A hart first takes a standard interrupt that is due, or the exception of its fetch; an Xcarnar instruction is
marked on its regions for the order of R326; a call, a return and a 16-bit instruction run as RISC-V has them. The model's choices in it are logs 1 (how a step
is cut), 2 (who acts first in an fc) and 10 (the base architecture of a hart). -/
def Obligations.StepRuns : Prop :=
  (∀ (s : State) (rid key n : Nat) (rest : List Mover) (r : Region) (i : Instr), s.agenda = .tile rid key :: rest → s.ending = false → s.region? rid = some r →
    tileLive r key = true → arbiter r key = some n → decodeSlot (tget (r.ct key).slots 0 n) = .ok i →
    step s = onNext (fun t => t.afterSlot rid key n) (exec i { s with agenda := rest, curRid := rid, curKey := key, curSlot := n })) ∧
  (∀ (s s2 : State) (h : Nat) (rest : List Mover), s.agenda = .hart h :: rest →
    let s1 := ({ s with agenda := rest } : State).commits
    s1.dev.power = .on → h < 208 → (s1.hart h).stopped = false →
    (({ s1 with curHart := h } : State).stdInt h = (s2, true) → step s = .next s2) ∧
    (({ s1 with curHart := h } : State).stdInt h = (s2, false) →
      (∀ e : HExc, s2.fetch (s1.hart h) = .error e → step s = .next (s2.accExc (s1.hart h).priv e)) ∧
      (∀ bits : Nat, s2.fetch (s1.hart h) = .ok (bits, 4) →
        let w : BitVec 32 := BitVec.ofNat 32 bits
        (∀ i : Instr, decodeHart w = .ok i → crnCode i = none → step s = exec i s2) ∧
        (∀ (i : Instr) (f7 : Nat) (x : Xr), decodeHart w = .ok i → crnCode i = some (f7, x) →
          (∀ rid ∈ s2.crnRids f7 x, s2.crnLate h rid = false) →
          step s = exec i ((s2.crnRids f7 x).foldl (fun s rid => s.crnMark rid h) s2)) ∧
        (decodeHart w = .error .illegal → step s = .next (s2.illegal (BitVec.ofNat 64 bits))) ∧
        (bits = 0x10200073 → denyTrap (s2.hart h) 22 22 = none → step s = .next (s2.updHart h (fun x => hartSret (countInst x))).wake) ∧
        (bits = 0x30200073 → (s2.hart h).priv = .m → step s = .next (s2.updHart h (fun x => hartMret (countInst x))).wake) ∧
        (∀ i : Instr, bits = 0x73 → (s2.hart h).priv ≠ .m → callOf (s2.hart h) = some i → step s = exec i s2)) ∧
      (∀ bits w : Nat, s2.fetch (s1.hart h) = .ok (bits, 2) → expandC bits = some w →
        step s = s2.riscv 2 (BitVec.ofNat 64 bits) (BitVec.ofNat 64 w)))) ∧
  (∀ (s : State) (e : Instr) (rest : List Mover), s.agenda = .event e :: rest →
    let s1 := ({ s with agenda := rest } : State).commits
    isEvent e = true → isMgmt e = true ∨ s1.dev.power = .on ∨ (s1.dev.rise = true ∧ isTrain e = true) → step s = exec e s1) ∧
  (∀ s : State, s.agenda = [] → step s = .next s.commits.tick) ∧
  (∀ s : State, s.ending = true → s.commits = s) ∧
  (∀ s : State, s.tick.fc = s.fc + 1 ∧ s.tick.ending = false)

/-- R18-R20, R24: a PE instruction acts on the region of its slot and on nothing else of the machine, whether it fires, traps or is not ready; one whose
slot is not ready has no effect. -/
def Obligations.FirePlace : Prop :=
  ∀ (i : Instr) (op : Nat) (t : Ti) (s : State), peCode i = some (op, t) →
    (∃ s' : State, exec i s = .next s' ∧ OnlyCur s s') ∧
    (∀ r : Region, tfind s.regions s.curRid = some r → canFire s.here op t r = false → exec i s = .next (s.setRegion s.curRid r))

/-- R20-R24, R145: what a firing leaves unchanged: registers other than its destination, predicates other than the one it updates, counters but for the
counter instructions, accumulators but for ACCZ, the mode and the slots of its tile, the registers of every other tile, and every word of the MTs. -/
def Obligations.FireFrame : Prop :=
  ∀ (i : Instr) (op : Nat) (t : Ti) (s s' : State) (r : Region), peCode i = some (op, t) → Fires s op t r → exec i s = .next s' →
    let c := r.ct s.curKey
    let r' := s'.region s.curRid
    let c' := r'.ct s.curKey
    (∀ n, n < 14 → n ∉ gWrites op t → tget c'.g {} n = tget c.g {} n) ∧
    (∀ n, n ∉ vWrites op t → tget c'.v {} n = tget c.v {} n) ∧
    (op ≠ 0x3D → ∀ n, n < 12 → n ≠ t.pui.toNat ∨ t.puo = 0 → c'.p.getLsbD n = c.p.getLsbD n) ∧
    (op ≠ 0x35 → op ≠ 0x36 → c'.k = c.k) ∧
    (op ≠ 0xA3 → c'.acc = c.acc) ∧
    c'.mode = c.mode ∧ c'.slots = c.slots ∧
    r'.mt = r.mt ∧ r'.pres = r.pres ∧ r'.pois = r.pois ∧ r'.caps = r.caps ∧ r'.st = r.st ∧
    (∀ key, key ≠ s.curKey → (r'.ct key).g = (r.ct key).g ∧ (r'.ct key).v = (r.ct key).v ∧ (r'.ct key).p = (r.ct key).p ∧
      (r'.ct key).k = (r.ct key).k ∧ (r'.ct key).acc = (r.ct key).acc ∧ (r'.ct key).sr = (r.ct key).sr)

/-- R229, R230, R233, R234, R242, R243, R269, R283, R287-R289, R311: how the operations of phases 5 to 12 complete: a fence and a handle operation behind
the earlier accesses, a system call with its status, SCSTAT with the copy's word, the queue instructions at their tile, the wait declarations with their
object, NLSTAT with the word taken at the end of the fc. -/
def Obligations.SyncCompletes : Prop :=
  (∀ (s : State) (rid key id : Nat) (r : Region) (o : PendOp), Completes s rid key id r o →
    let fin := fun (v : Word) (c : Bool) => Host.Outcome.next (s.finished rid key o (completeS s.fc r key id o { bits := v } c))
    let sel := o.ti.imm.toNat % 32
    let n := o.a.bits.toNat % 2 ^ 16
    let age := (r.cpyid + 2 ^ 16 - n - 1) % 2 ^ 16
    (o.ph = 5 → o.code = 0xD9 → earlierDone r key id = true → exec (.longOpComplete rid key id) s =
      .next (s.finished rid key o ((dropOp r key id o).updCt key (fun c => predUpd c o.ti true)))) ∧
    (o.ph = 5 → o.code = 0xD5 ∨ o.code = 0xD7 ∨ o.code = 0xD9 → earlierDone r key id = false →
      exec (.longOpComplete rid key id) s = .next ((s.setRegion rid r).ended rid key id o.slot)) ∧
    (∀ k h : Nat, o.ph = 5 → earlierDone r key id = true → hselOf r key sel = some (k, h) →
      (o.code = 0xD7 → (r.hnd k h).st = hFilling → exec (.longOpComplete rid key id) s = .next (s.finished rid key o
        ((dropOp (r.updHnd k h (fun x => { x with st := hFull, moved := true })) key id o).updCt key (fun c => predUpd c o.ti true)))) ∧
      (o.code = 0xD5 → (r.hnd k h).st = hFull ∨ (r.hnd k h).st = hDraining → exec (.longOpComplete rid key id) s =
        .next (s.finished rid key o ((dropOp (freeHnd s.fc r k h) key id o).updCt key (fun c => predUpd c o.ti true)))) ∧
      ((o.code = 0xD7 ∧ (r.hnd k h).st ≠ hFilling) ∨ (o.code = 0xD5 ∧ (r.hnd k h).st ≠ hFull ∧ (r.hnd k h).st ≠ hDraining) →
        exec (.longOpComplete rid key id) s =
          .next (s.finished rid key o (failOp s.fc r key id o { code := 0x2A, aux := (r.hnd k h).st.toNat * 32 + sel })))) ∧
    (o.ph = 6 → o.code ∉ [0xDA, 0xDB, 0xDC] → o.code ≠ 0xF0 ∨ r.st ≠ rFrozen →
      exec (.longOpComplete rid key id) s = .next (s.finished rid key o (completeS s.fc r key id o o.res o.cond))) ∧
    (o.ph = 8 → o.code = 0xEA →
      (64 ≤ age → exec (.longOpComplete rid key id) s = fin 0 false) ∧
      (∀ (x : Nat) (z : Strm), age < 64 → r.copies.find? (fun c => c.2.cid == n) = some (x, z) →
        let w : Word := BitVec.ofNat 64 (2 ^ 62 + dBoxes z.desc * 2 ^ 16 + z.done.length)
        exec (.longOpComplete rid key id) s = fin w (fld w 63 62 == 2)) ∧
      (∀ (w : Word) (b : Nat), age < 64 → r.copies.find? (fun c => c.2.cid == n) = none → tfind r.cstat n = some (w, b) →
        exec (.longOpComplete rid key id) s = fin w (fld w 63 62 == 2)))) ∧
  (∀ (s : State) (rid key id n : Nat) (r : Region) (o : PendOp) (a : Access), Completes s rid key id r o → o.ph = 9 → o.accs = [n] →
    tfind r.flight n = some a →
    let tk := a.addr / 8 / 16
    let q := a.addr / 8 % 16
    let p := r.pl tk
    (o.code = 0xE0 → a.st = .done → unitOpen r tk id = false → exec (.longOpComplete rid key id) s = .next (s.finished rid key o
      (completeS s.fc { r with flight := r.flight.filter (fun b => b.2.own != Owner.unit tk id) } key id o o.res true))) ∧
    (a.st = .travel → unitLive r tk = true → mustPrecede s r n a false = true →
      (o.code = 0xE1 → exec (.longOpComplete rid key id) s = .next ((s.setRegion rid ((doneAcc r n a).setQ tk q (fun z =>
        { z with flush := z.flush ++ [{ mark := p.u.qord, tile := key, op := id, col := o.col, n := ((p.u.ents ++ p.u.ring).filter (fun e => e.q == q)).length, fc := s.fc }] }))).ended rid key id o.slot)) ∧
      (o.code = 0xE2 → exec (.longOpComplete rid key id) s = .next (s.finished rid key o
        (completeS s.fc r key id o { bits := exqStatus p s.fc q } (fld (exqStatus p s.fc q) 59 24 != 0)))) ∧
      (o.code = 0xE3 → exec (.longOpComplete rid key id) s = .next (s.finished rid key o
        (completeS s.fc (r.setQ tk q (fun z => { z with cls := BitVec.ofNat 2 (fld o.b.bits 1 0) })) key id o
          { bits := BitVec.ofNat 64 (exqSt p q).cls.toNat } ((exqSt p q).cls != 0)))))) ∧
  (∀ (s : State) (rid key id n : Nat) (r : Region) (o : PendOp) (a : Access) (obj : Word), Completes s rid key id r o → o.accs = [n] →
    tfind r.flight n = some a → a.st = .done → s.objOf r a = some obj →
    let kind := o.ti.imm.toNat % 16
    let fin := fun (s1 : State) (v : Word) => Host.Outcome.next
      ((onRegion s1 rid (fun r => completeS s1.fc r key id o { bits := v } (v != 0))).ended rid key id o.slot)
    let mine := fun (e : Wfe) => e.exp && e.rid == rid && e.page == keyPage key && e.pos == keyPos key && e.slot == o.slot
    (o.code = 0xDA → s.entries.any (fun e => mine e && e.obj == obj) = true → exec (.longOpComplete rid key id) s = fin s 1) ∧
    (o.code = 0xDA → s.entries.any (fun e => mine e && e.obj == obj) = false → ∀ (s1 : State) (v : Nat), s.register rid key o.slot kind obj true = (s1, v) →
      (v ≠ 2 → exec (.longOpComplete rid key id) s = fin s1 (BitVec.ofNat 64 v)) ∧
      (v = 2 → exec (.longOpComplete rid key id) s =
        .next ((onRegion s1 rid (fun r => failOp s1.fc r key id o { code := 0x29, elem := kind, aux := obj.toNat })).ended rid key id o.slot))) ∧
    (o.code = 0xDB → exec (.longOpComplete rid key id) s = fin (s.declare rid kind obj) 1) ∧
    (o.code = 0xDC → o.ti.imm.getLsbD 4 = true → exec (.longOpComplete rid key id) s = fin (s.undeclare rid kind obj) 1) ∧
    (o.code = 0xDC → o.ti.imm.getLsbD 4 = false → exec (.longOpComplete rid key id) s =
      fin ((s.dropEntries (fun e => mine e && e.kind == kind && e.obj == obj)).endUntracked rid key o.slot (some (kind, obj))) 1)) ∧
  (∀ (s s2 : State) (rid key id : Nat) (r : Region) (o : PendOp), Completes s rid key id r o → o.code = 0xF0 → o.ph = 5 →
    (∀ i : Int, (s.sysNote r.part).sysTry rid key id = (s2, .stat i) → exec (.longOpComplete rid key id) s =
      .next ((s2.sysAnswer rid key id (BitVec.ofInt 64 i)).ended rid key id o.slot)) ∧
    (∀ x : TrapInfo, (s.sysNote r.part).sysTry rid key id = (s2, .stall x) → exec (.longOpComplete rid key id) s =
      .next ((s2.sysStall rid key id x).ended rid key id o.slot))) ∧
  (∀ (r : Region) (key id : Nat) (o : PendOp),
    ((r.tiles.map (fun t => ((t.2.act.ct.ops ++ t.2.ins.ct.ops).filter (fun x => x.2.ph == 12)).map (fun x => (t.1, x.1, x.2)))).flatten = [(key, id, o)]) →
    (nlSample r).op? key id = some { o with ph := 6, res := { bits := nlStatus r (opEng o) }, cond := fld (nlStatus r (opEng o)) 39 23 != 0 })

end
end

