-- ==== Sys2Proof/Laws/Maps.lean ====
section
/-! SUPPORT. What reading a list with keys gives after each change of it, and that byte memory keeps its canonical form. -/

namespace Sys2Proof.Machine

/-! ## Lists with keys -/

theorem tget_tset {α : Type} (t : Tab α) (d v : α) (k j : Nat) :
    tget (tset t k v) d j = if j = k then v else tget t d j := by
  induction t with
  | nil => simp [tset, tget, eq_comm]
  | cons c r ih =>
    obtain ⟨a, w⟩ := c
    by_cases h1 : a = k
    · subst h1
      by_cases h : j = a
      · simp [tset, tget, h]
      · simp [tset, tget, h, Ne.symm h]
    · by_cases h2 : k < a
      · simp only [tset, h1, h2, if_true, if_false, tget]
        by_cases h : j = k
        · simp [h]
        · simp [h, Ne.symm h]
      · simp only [tset, h1, h2, if_false, tget, ih]
        by_cases h : a = j
        · have : ¬ j = k := by omega
          simp [h, this]
        · simp [h]

theorem tfind_tset {α : Type} (t : Tab α) (v : α) (k j : Nat) :
    tfind (tset t k v) j = if j = k then some v else tfind t j := by
  induction t with
  | nil => simp [tset, tfind, eq_comm]
  | cons c r ih =>
    obtain ⟨a, w⟩ := c
    by_cases h1 : a = k
    · subst h1
      by_cases h : j = a
      · simp [tset, tfind, h]
      · simp [tset, tfind, h, Ne.symm h]
    · by_cases h2 : k < a
      · simp only [tset, h1, h2, if_true, if_false, tfind]
        by_cases h : j = k
        · simp [h]
        · simp [h, Ne.symm h]
      · simp only [tset, h1, h2, if_false, tfind, ih]
        by_cases h : a = j
        · have : ¬ j = k := by omega
          simp [h, this]
        · simp [h]

@[simp] theorem tget_tset_same {α : Type} (t : Tab α) (d v : α) (k : Nat) : tget (tset t k v) d k = v := by simp [tget_tset]
theorem tget_tset_ne {α : Type} (t : Tab α) (d v : α) {k j : Nat} (h : j ≠ k) : tget (tset t k v) d j = tget t d j := by
  simp [tget_tset, h]
@[simp] theorem tfind_tset_same {α : Type} (t : Tab α) (v : α) (k : Nat) : tfind (tset t k v) k = some v := by simp [tfind_tset]
theorem tfind_tset_ne {α : Type} (t : Tab α) (v : α) {k j : Nat} (h : j ≠ k) : tfind (tset t k v) j = tfind t j := by
  simp [tfind_tset, h]

theorem tget_eq_tfind {α : Type} (t : Tab α) (d : α) (k : Nat) : tget t d k = (tfind t k).getD d := by
  induction t with
  | nil => rfl
  | cons c r ih => obtain ⟨a, w⟩ := c; simp only [tget, tfind]; split <;> simp [ih]

theorem tget_of_tfind {α : Type} {t : Tab α} {k : Nat} {v : α} (d : α) (h : tfind t k = some v) : tget t d k = v := by
  simp [tget_eq_tfind, h]

theorem tget_tupd {α : Type} (t : Tab α) (d : α) (k j : Nat) (f : α → α) :
    tget (tupd t d k f) d j = if j = k then f (tget t d k) else tget t d j := tget_tset ..

theorem tfind_tdel {α : Type} (t : Tab α) (k j : Nat) : tfind (tdel t k) j = if j = k then none else tfind t j := by
  induction t with
  | nil => simp [tdel, tfind]
  | cons c r ih =>
    obtain ⟨a, w⟩ := c
    by_cases h1 : a = k
    · have e : tdel ((a, w) :: r) k = tdel r k := by simp [tdel, h1]
      rw [e, ih]
      by_cases h : j = k
      · simp [h]
      · have : a ≠ j := by omega
        simp [tfind, h, this]
    · have e : tdel ((a, w) :: r) k = (a, w) :: tdel r k := by simp [tdel, h1]
      rw [e]
      by_cases h2 : a = j
      · subst h2; simp [tfind, h1]
      · simp [tfind, h2, ih]

theorem tget_tdel {α : Type} (t : Tab α) (d : α) (k j : Nat) : tget (tdel t k) d j = if j = k then d else tget t d j := by
  simp only [tget_eq_tfind, tfind_tdel]; split <;> simp

theorem tfind_tmap {α β : Type} (t : Tab α) (f : Nat → α → β) (k : Nat) : tfind (tmap t f) k = (tfind t k).map (f k) := by
  induction t with
  | nil => rfl
  | cons c r ih =>
    obtain ⟨a, w⟩ := c
    simp only [tmap] at ih
    simp only [tmap, List.map_cons, tfind, ih]
    by_cases h : a = k
    · subst h; simp
    · simp [h]

/-- Changing every listed value by a function that leaves one reading of it alone leaves that reading of the table alone. -/
theorem tget_tmap {α β γ : Type} (t : Tab α) (f : Nat → α → β) (k : Nat) (d : α) (e : β) (p : α → γ) (q : β → γ)
    (h : ∀ v, q (f k v) = p v) (hd : q e = p d) : q (tget (tmap t f) e k) = p (tget t d k) := by
  simp only [tget_eq_tfind, tfind_tmap]
  cases tfind t k <;> simp [h, hd]

/-! ## The canonical form of memory -/

/-- Keys rise and no listed byte is 0. -/
def Mem.Canon (m : List Host.Cell) : Prop := m.Pairwise (fun a b => a.1 < b.1) ∧ ∀ c ∈ m, c.2 ≠ 0

theorem Mem.wf_iff (m : List Host.Cell) : Mem.wf m = true ↔ Mem.Canon m := by
  induction m with
  | nil => simp [Mem.wf, Mem.Canon]
  | cons c r ih =>
    obtain ⟨a, b⟩ := c
    cases r with
    | nil => simp [Mem.wf, Mem.Canon]
    | cons c' r =>
      obtain ⟨a', b'⟩ := c'
      have ih' : Mem.wf ((a', b') :: r) = true ↔ Mem.Canon ((a', b') :: r) := ih
      simp only [Mem.wf, Bool.and_eq_true, decide_eq_true_eq, ih', Mem.Canon, List.pairwise_cons, List.mem_cons, forall_eq_or_imp]
      constructor
      · rintro ⟨⟨hb, ha⟩, ⟨h1, h2⟩, h3, h4⟩
        exact ⟨⟨⟨ha, fun c hc => Nat.lt_trans ha (h1 c hc)⟩, h1, h2⟩, hb, h3, h4⟩
      · rintro ⟨⟨⟨ha, -⟩, h1, h2⟩, hb, h3, h4⟩
        exact ⟨⟨hb, ha⟩, ⟨h1, h2⟩, h3, h4⟩

theorem Mem.wf_filter {m : List Host.Cell} (p : Host.Cell → Bool) (h : Mem.wf m = true) : Mem.wf (m.filter p) = true := by
  rw [Mem.wf_iff] at *
  exact ⟨h.1.filter _, fun c hc => h.2 c (List.mem_filter.1 hc).1⟩

theorem mem_tset {α : Type} {t : Tab α} {k : Nat} {v : α} {c : Nat × α} (h : c ∈ tset t k v) : c = (k, v) ∨ c ∈ t := by
  induction t with
  | nil => simp_all [tset]
  | cons x r ih =>
    obtain ⟨a, w⟩ := x
    simp only [tset] at h
    split at h
    · rcases List.mem_cons.1 h with h | h
      · exact .inl h
      · exact .inr (List.mem_cons_of_mem _ h)
    · split at h
      · rcases List.mem_cons.1 h with h | h
        · exact .inl h
        · exact .inr h
      · rcases List.mem_cons.1 h with h | h
        · exact .inr (h ▸ List.mem_cons_self)
        · exact (ih h).imp id (List.mem_cons_of_mem _)

/-- Setting a key keeps the keys rising. -/
theorem tset_rising {α : Type} {t : Tab α} (k : Nat) (v : α) (h : t.Pairwise (fun a b => a.1 < b.1)) :
    (tset t k v).Pairwise (fun a b => a.1 < b.1) := by
  induction t with
  | nil => simp [tset]
  | cons x r ih =>
    obtain ⟨a, w⟩ := x
    obtain ⟨h1, h2⟩ := List.pairwise_cons.1 h
    simp only [tset]
    split
    · rename_i e
      exact List.pairwise_cons.2 ⟨fun c hc => e ▸ h1 c hc, h2⟩
    · split
      · rename_i e
        refine List.pairwise_cons.2 ⟨fun c hc => ?_, h⟩
        rcases List.mem_cons.1 hc with hc | hc
        · simpa [hc] using e
        · exact Nat.lt_trans e (h1 c hc)
      · refine List.pairwise_cons.2 ⟨fun c hc => ?_, ih h2⟩
        rcases mem_tset hc with hc | hc
        · subst hc; simp only; omega
        · exact h1 c hc

theorem Mem.wf_tset {m : List Host.Cell} (a : Nat) {b : Byte} (hb : b ≠ 0) (h : Mem.wf m = true) : Mem.wf (tset m a b) = true := by
  rw [Mem.wf_iff] at *
  refine ⟨tset_rising a b h.1, fun c hc => ?_⟩
  rcases mem_tset hc with hc | hc
  · simpa [hc] using hb
  · exact h.2 c hc

theorem Mem.wf_tdel {m : List Host.Cell} (a : Nat) (h : Mem.wf m = true) : Mem.wf (tdel m a) = true := Mem.wf_filter _ h

theorem Mem.wf_wrByte {m : List Host.Cell} (a : Nat) (b : Byte) (h : Mem.wf m = true) : Mem.wf (wrByte m a b) = true := by
  unfold wrByte; split
  · exact Mem.wf_tdel a h
  · rename_i hb; exact Mem.wf_tset a hb h

theorem Mem.wf_wrNat {m : List Host.Cell} (a n v : Nat) (h : Mem.wf m = true) : Mem.wf (wrNat m a n v) = true := by
  induction n generalizing m a v with
  | zero => exact h
  | succ k ih => exact ih _ _ (Mem.wf_wrByte _ _ h)

theorem Mem.wf_wrBytes {m : List Host.Cell} (a : Nat) (bs : List Byte) (h : Mem.wf m = true) : Mem.wf (wrBytes m a bs) = true := by
  induction bs generalizing m a with
  | nil => exact h
  | cons b r ih => exact ih _ (Mem.wf_wrByte _ _ h)

/-! ## Reading after writing -/

theorem rdByte_wrByte (m : List Host.Cell) (a b : Nat) (v : Byte) : rdByte (wrByte m a v) b = if b = a then v else rdByte m b := by
  unfold rdByte wrByte
  by_cases hv : v = 0
  · simp only [hv, if_true, tget_tdel]
  · simp only [hv, if_false, tget_tset]

/-- A byte outside the bytes written reads as before. -/
theorem rdByte_wrNat_out (m : List Host.Cell) (a n v b : Nat) (h : b < a ∨ a + n ≤ b) : rdByte (wrNat m a n v) b = rdByte m b := by
  induction n generalizing m a v with
  | zero => rfl
  | succ k ih =>
    have hb : b ≠ a := by omega
    rw [wrNat, ih _ _ _ (by omega), rdByte_wrByte, if_neg hb]

/-- A byte of a number written. -/
theorem rdByte_wrNat_in (m : List Host.Cell) (a n v i : Nat) (h : i < n) :
    rdByte (wrNat m a n v) (a + i) = BitVec.ofNat 8 (v / 256 ^ i) := by
  induction n generalizing m a v i with
  | zero => omega
  | succ k ih =>
    cases i with
    | zero =>
      rw [wrNat, Nat.add_zero, rdByte_wrNat_out _ _ _ _ _ (by omega), rdByte_wrByte]
      simp
    | succ j =>
      have := ih (wrByte m a (BitVec.ofNat 8 v)) (a + 1) (v / 256) j (by omega)
      rw [wrNat, show a + (j + 1) = a + 1 + j by omega, this, Nat.div_div_eq_div_mul, Nat.pow_succ, Nat.mul_comm]

/-- A number read from where none of its bytes was written. -/
theorem rdNat_wrNat_out (m : List Host.Cell) (a n v b k : Nat) (h : b + k ≤ a ∨ a + n ≤ b) :
    rdNat (wrNat m a n v) b k = rdNat m b k := by
  induction k generalizing b with
  | zero => rfl
  | succ j ih => rw [rdNat, rdNat, rdByte_wrNat_out _ _ _ _ _ (by omega), ih _ (by omega)]

/-- The number written is the number read, in the bytes it has. -/
theorem rdNat_wrNat (m : List Host.Cell) (a n v : Nat) : rdNat (wrNat m a n v) a n = v % 256 ^ n := by
  induction n generalizing m a v with
  | zero => simp [rdNat, Nat.mod_one]
  | succ k ih =>
    have e : (256 : Nat) ^ (k + 1) = 256 * 256 ^ k := by rw [Nat.pow_succ, Nat.mul_comm]
    rw [rdNat, wrNat, ih, rdByte_wrNat_out _ _ _ _ _ (by omega), rdByte_wrByte, if_pos rfl, BitVec.toNat_ofNat, e, Nat.mod_mul]

end Sys2Proof.Machine
end

