-- ==== Sys2Proof/Laws/State.lean ====
section
/-! SUPPORT. What each update of the state leaves alone, field by field, and what it gives at the place it updates. -/

namespace Sys2Proof.Machine

/-! ## Updates of the state -/

@[simp] theorem setRegion_agenda (s : State) (rid : Nat) (r : Region) : (s.setRegion rid r).agenda = s.agenda := rfl
@[simp] theorem setRegion_curRid (s : State) (rid : Nat) (r : Region) : (s.setRegion rid r).curRid = s.curRid := rfl
@[simp] theorem setRegion_curKey (s : State) (rid : Nat) (r : Region) : (s.setRegion rid r).curKey = s.curKey := rfl
@[simp] theorem setRegion_curSlot (s : State) (rid : Nat) (r : Region) : (s.setRegion rid r).curSlot = s.curSlot := rfl
@[simp] theorem setRegion_curHart (s : State) (rid : Nat) (r : Region) : (s.setRegion rid r).curHart = s.curHart := rfl
@[simp] theorem setRegion_fc (s : State) (rid : Nat) (r : Region) : (s.setRegion rid r).fc = s.fc := rfl
@[simp] theorem setRegion_ending (s : State) (rid : Nat) (r : Region) : (s.setRegion rid r).ending = s.ending := rfl
@[simp] theorem setRegion_freeC (s : State) (rid : Nat) (r : Region) : (s.setRegion rid r).freeC = s.freeC := rfl
@[simp] theorem setRegion_fresh (s : State) (rid : Nat) (r : Region) : (s.setRegion rid r).fresh = s.fresh := rfl
@[simp] theorem setRegion_mem (s : State) (rid : Nat) (r : Region) : (s.setRegion rid r).mem = s.mem := rfl
@[simp] theorem setRegion_dpois (s : State) (rid : Nat) (r : Region) : (s.setRegion rid r).dpois = s.dpois := rfl
@[simp] theorem setRegion_dord (s : State) (rid : Nat) (r : Region) : (s.setRegion rid r).dord = s.dord := rfl
@[simp] theorem setRegion_parts (s : State) (rid : Nat) (r : Region) : (s.setRegion rid r).parts = s.parts := rfl
@[simp] theorem setRegion_wft (s : State) (rid : Nat) (r : Region) : (s.setRegion rid r).wft = s.wft := rfl
@[simp] theorem setRegion_cycles (s : State) (rid : Nat) (r : Region) : (s.setRegion rid r).cycles = s.cycles := rfl
@[simp] theorem setRegion_harts (s : State) (rid : Nat) (r : Region) : (s.setRegion rid r).harts = s.harts := rfl
@[simp] theorem setRegion_links (s : State) (rid : Nat) (r : Region) : (s.setRegion rid r).links = s.links := rfl
@[simp] theorem setRegion_sess (s : State) (rid : Nat) (r : Region) : (s.setRegion rid r).sess = s.sess := rfl
@[simp] theorem setRegion_ckpt (s : State) (rid : Nat) (r : Region) : (s.setRegion rid r).ckpt = s.ckpt := rfl
@[simp] theorem setRegion_dev (s : State) (rid : Nat) (r : Region) : (s.setRegion rid r).dev = s.dev := rfl
@[simp] theorem setRegion_out (s : State) (rid : Nat) (r : Region) : (s.setRegion rid r).out = s.out := rfl
@[simp] theorem setRegion_rsv (s : State) (rid : Nat) (r : Region) : (s.setRegion rid r).rsv = s.rsv := rfl
@[simp] theorem setRegion_txQ (s : State) (rid : Nat) (r : Region) : (s.setRegion rid r).txQ = s.txQ := rfl
@[simp] theorem setRegion_crnAt (s : State) (rid : Nat) (r : Region) : (s.setRegion rid r).crnAt = s.crnAt := rfl
@[simp] theorem setRegion_recQ (s : State) (rid : Nat) (r : Region) : (s.setRegion rid r).recQ = s.recQ := rfl
@[simp] theorem setRegion_ports (s : State) (rid : Nat) (r : Region) : (s.setRegion rid r).ports = s.ports := rfl
@[simp] theorem setRegion_rst (s : State) (rid : Nat) (r : Region) : (s.setRegion rid r).rst = s.rst := rfl
@[simp] theorem setRegion_mgrQ (s : State) (rid : Nat) (r : Region) : (s.setRegion rid r).mgrQ = s.mgrQ := rfl
@[simp] theorem setRegion_mgrDone (s : State) (rid : Nat) (r : Region) : (s.setRegion rid r).mgrDone = s.mgrDone := rfl
@[simp] theorem setRegion_notes (s : State) (rid : Nat) (r : Region) : (s.setRegion rid r).notes = s.notes := rfl

@[simp] theorem updPart_agenda (s : State) (p : Nat) (f : Part → Part) : (s.updPart p f).agenda = s.agenda := rfl
@[simp] theorem updPart_curRid (s : State) (p : Nat) (f : Part → Part) : (s.updPart p f).curRid = s.curRid := rfl
@[simp] theorem updPart_curKey (s : State) (p : Nat) (f : Part → Part) : (s.updPart p f).curKey = s.curKey := rfl
@[simp] theorem updPart_curSlot (s : State) (p : Nat) (f : Part → Part) : (s.updPart p f).curSlot = s.curSlot := rfl
@[simp] theorem updPart_curHart (s : State) (p : Nat) (f : Part → Part) : (s.updPart p f).curHart = s.curHart := rfl
@[simp] theorem updPart_fc (s : State) (p : Nat) (f : Part → Part) : (s.updPart p f).fc = s.fc := rfl
@[simp] theorem updPart_ending (s : State) (p : Nat) (f : Part → Part) : (s.updPart p f).ending = s.ending := rfl
@[simp] theorem updPart_freeC (s : State) (p : Nat) (f : Part → Part) : (s.updPart p f).freeC = s.freeC := rfl
@[simp] theorem updPart_fresh (s : State) (p : Nat) (f : Part → Part) : (s.updPart p f).fresh = s.fresh := rfl
@[simp] theorem updPart_mem (s : State) (p : Nat) (f : Part → Part) : (s.updPart p f).mem = s.mem := rfl
@[simp] theorem updPart_dpois (s : State) (p : Nat) (f : Part → Part) : (s.updPart p f).dpois = s.dpois := rfl
@[simp] theorem updPart_dord (s : State) (p : Nat) (f : Part → Part) : (s.updPart p f).dord = s.dord := rfl
@[simp] theorem updPart_regions (s : State) (p : Nat) (f : Part → Part) : (s.updPart p f).regions = s.regions := rfl
@[simp] theorem updPart_wft (s : State) (p : Nat) (f : Part → Part) : (s.updPart p f).wft = s.wft := rfl
@[simp] theorem updPart_cycles (s : State) (p : Nat) (f : Part → Part) : (s.updPart p f).cycles = s.cycles := rfl
@[simp] theorem updPart_harts (s : State) (p : Nat) (f : Part → Part) : (s.updPart p f).harts = s.harts := rfl
@[simp] theorem updPart_links (s : State) (p : Nat) (f : Part → Part) : (s.updPart p f).links = s.links := rfl
@[simp] theorem updPart_sess (s : State) (p : Nat) (f : Part → Part) : (s.updPart p f).sess = s.sess := rfl
@[simp] theorem updPart_ckpt (s : State) (p : Nat) (f : Part → Part) : (s.updPart p f).ckpt = s.ckpt := rfl
@[simp] theorem updPart_dev (s : State) (p : Nat) (f : Part → Part) : (s.updPart p f).dev = s.dev := rfl
@[simp] theorem updPart_out (s : State) (p : Nat) (f : Part → Part) : (s.updPart p f).out = s.out := rfl
@[simp] theorem updPart_rsv (s : State) (p : Nat) (f : Part → Part) : (s.updPart p f).rsv = s.rsv := rfl
@[simp] theorem updPart_txQ (s : State) (p : Nat) (f : Part → Part) : (s.updPart p f).txQ = s.txQ := rfl
@[simp] theorem updPart_crnAt (s : State) (p : Nat) (f : Part → Part) : (s.updPart p f).crnAt = s.crnAt := rfl
@[simp] theorem updPart_recQ (s : State) (p : Nat) (f : Part → Part) : (s.updPart p f).recQ = s.recQ := rfl
@[simp] theorem updPart_ports (s : State) (p : Nat) (f : Part → Part) : (s.updPart p f).ports = s.ports := rfl
@[simp] theorem updPart_rst (s : State) (p : Nat) (f : Part → Part) : (s.updPart p f).rst = s.rst := rfl
@[simp] theorem updPart_mgrQ (s : State) (p : Nat) (f : Part → Part) : (s.updPart p f).mgrQ = s.mgrQ := rfl
@[simp] theorem updPart_mgrDone (s : State) (p : Nat) (f : Part → Part) : (s.updPart p f).mgrDone = s.mgrDone := rfl
@[simp] theorem updPart_notes (s : State) (p : Nat) (f : Part → Part) : (s.updPart p f).notes = s.notes := rfl

@[simp] theorem updHart_agenda (s : State) (h : Nat) (f : Hart → Hart) : (s.updHart h f).agenda = s.agenda := rfl
@[simp] theorem updHart_curRid (s : State) (h : Nat) (f : Hart → Hart) : (s.updHart h f).curRid = s.curRid := rfl
@[simp] theorem updHart_curKey (s : State) (h : Nat) (f : Hart → Hart) : (s.updHart h f).curKey = s.curKey := rfl
@[simp] theorem updHart_curSlot (s : State) (h : Nat) (f : Hart → Hart) : (s.updHart h f).curSlot = s.curSlot := rfl
@[simp] theorem updHart_curHart (s : State) (h : Nat) (f : Hart → Hart) : (s.updHart h f).curHart = s.curHart := rfl
@[simp] theorem updHart_fc (s : State) (h : Nat) (f : Hart → Hart) : (s.updHart h f).fc = s.fc := rfl
@[simp] theorem updHart_ending (s : State) (h : Nat) (f : Hart → Hart) : (s.updHart h f).ending = s.ending := rfl
@[simp] theorem updHart_freeC (s : State) (h : Nat) (f : Hart → Hart) : (s.updHart h f).freeC = s.freeC := rfl
@[simp] theorem updHart_fresh (s : State) (h : Nat) (f : Hart → Hart) : (s.updHart h f).fresh = s.fresh := rfl
@[simp] theorem updHart_mem (s : State) (h : Nat) (f : Hart → Hart) : (s.updHart h f).mem = s.mem := rfl
@[simp] theorem updHart_dpois (s : State) (h : Nat) (f : Hart → Hart) : (s.updHart h f).dpois = s.dpois := rfl
@[simp] theorem updHart_dord (s : State) (h : Nat) (f : Hart → Hart) : (s.updHart h f).dord = s.dord := rfl
@[simp] theorem updHart_regions (s : State) (h : Nat) (f : Hart → Hart) : (s.updHart h f).regions = s.regions := rfl
@[simp] theorem updHart_parts (s : State) (h : Nat) (f : Hart → Hart) : (s.updHart h f).parts = s.parts := rfl
@[simp] theorem updHart_wft (s : State) (h : Nat) (f : Hart → Hart) : (s.updHart h f).wft = s.wft := rfl
@[simp] theorem updHart_cycles (s : State) (h : Nat) (f : Hart → Hart) : (s.updHart h f).cycles = s.cycles := rfl
@[simp] theorem updHart_links (s : State) (h : Nat) (f : Hart → Hart) : (s.updHart h f).links = s.links := rfl
@[simp] theorem updHart_sess (s : State) (h : Nat) (f : Hart → Hart) : (s.updHart h f).sess = s.sess := rfl
@[simp] theorem updHart_ckpt (s : State) (h : Nat) (f : Hart → Hart) : (s.updHart h f).ckpt = s.ckpt := rfl
@[simp] theorem updHart_dev (s : State) (h : Nat) (f : Hart → Hart) : (s.updHart h f).dev = s.dev := rfl
@[simp] theorem updHart_out (s : State) (h : Nat) (f : Hart → Hart) : (s.updHart h f).out = s.out := rfl
@[simp] theorem updHart_rsv (s : State) (h : Nat) (f : Hart → Hart) : (s.updHart h f).rsv = s.rsv := rfl
@[simp] theorem updHart_txQ (s : State) (h : Nat) (f : Hart → Hart) : (s.updHart h f).txQ = s.txQ := rfl
@[simp] theorem updHart_crnAt (s : State) (h : Nat) (f : Hart → Hart) : (s.updHart h f).crnAt = s.crnAt := rfl
@[simp] theorem updHart_recQ (s : State) (h : Nat) (f : Hart → Hart) : (s.updHart h f).recQ = s.recQ := rfl
@[simp] theorem updHart_ports (s : State) (h : Nat) (f : Hart → Hart) : (s.updHart h f).ports = s.ports := rfl
@[simp] theorem updHart_rst (s : State) (h : Nat) (f : Hart → Hart) : (s.updHart h f).rst = s.rst := rfl
@[simp] theorem updHart_mgrQ (s : State) (h : Nat) (f : Hart → Hart) : (s.updHart h f).mgrQ = s.mgrQ := rfl
@[simp] theorem updHart_mgrDone (s : State) (h : Nat) (f : Hart → Hart) : (s.updHart h f).mgrDone = s.mgrDone := rfl
@[simp] theorem updHart_notes (s : State) (h : Nat) (f : Hart → Hart) : (s.updHart h f).notes = s.notes := rfl

/-! ## Changing one region -/

@[simp] theorem onRegion_agenda (s : State) (rid : Nat) (f : Region → Region) : (onRegion s rid f).agenda = s.agenda := by
  unfold onRegion; split <;> rfl
@[simp] theorem onRegion_curRid (s : State) (rid : Nat) (f : Region → Region) : (onRegion s rid f).curRid = s.curRid := by
  unfold onRegion; split <;> rfl
@[simp] theorem onRegion_curKey (s : State) (rid : Nat) (f : Region → Region) : (onRegion s rid f).curKey = s.curKey := by
  unfold onRegion; split <;> rfl
@[simp] theorem onRegion_curSlot (s : State) (rid : Nat) (f : Region → Region) : (onRegion s rid f).curSlot = s.curSlot := by
  unfold onRegion; split <;> rfl
@[simp] theorem onRegion_curHart (s : State) (rid : Nat) (f : Region → Region) : (onRegion s rid f).curHart = s.curHart := by
  unfold onRegion; split <;> rfl
@[simp] theorem onRegion_fc (s : State) (rid : Nat) (f : Region → Region) : (onRegion s rid f).fc = s.fc := by
  unfold onRegion; split <;> rfl
@[simp] theorem onRegion_ending (s : State) (rid : Nat) (f : Region → Region) : (onRegion s rid f).ending = s.ending := by
  unfold onRegion; split <;> rfl
@[simp] theorem onRegion_freeC (s : State) (rid : Nat) (f : Region → Region) : (onRegion s rid f).freeC = s.freeC := by
  unfold onRegion; split <;> rfl
@[simp] theorem onRegion_fresh (s : State) (rid : Nat) (f : Region → Region) : (onRegion s rid f).fresh = s.fresh := by
  unfold onRegion; split <;> rfl
@[simp] theorem onRegion_mem (s : State) (rid : Nat) (f : Region → Region) : (onRegion s rid f).mem = s.mem := by
  unfold onRegion; split <;> rfl
@[simp] theorem onRegion_dpois (s : State) (rid : Nat) (f : Region → Region) : (onRegion s rid f).dpois = s.dpois := by
  unfold onRegion; split <;> rfl
@[simp] theorem onRegion_dord (s : State) (rid : Nat) (f : Region → Region) : (onRegion s rid f).dord = s.dord := by
  unfold onRegion; split <;> rfl
@[simp] theorem onRegion_parts (s : State) (rid : Nat) (f : Region → Region) : (onRegion s rid f).parts = s.parts := by
  unfold onRegion; split <;> rfl
@[simp] theorem onRegion_wft (s : State) (rid : Nat) (f : Region → Region) : (onRegion s rid f).wft = s.wft := by
  unfold onRegion; split <;> rfl
@[simp] theorem onRegion_cycles (s : State) (rid : Nat) (f : Region → Region) : (onRegion s rid f).cycles = s.cycles := by
  unfold onRegion; split <;> rfl
@[simp] theorem onRegion_harts (s : State) (rid : Nat) (f : Region → Region) : (onRegion s rid f).harts = s.harts := by
  unfold onRegion; split <;> rfl
@[simp] theorem onRegion_links (s : State) (rid : Nat) (f : Region → Region) : (onRegion s rid f).links = s.links := by
  unfold onRegion; split <;> rfl
@[simp] theorem onRegion_sess (s : State) (rid : Nat) (f : Region → Region) : (onRegion s rid f).sess = s.sess := by
  unfold onRegion; split <;> rfl
@[simp] theorem onRegion_ckpt (s : State) (rid : Nat) (f : Region → Region) : (onRegion s rid f).ckpt = s.ckpt := by
  unfold onRegion; split <;> rfl
@[simp] theorem onRegion_dev (s : State) (rid : Nat) (f : Region → Region) : (onRegion s rid f).dev = s.dev := by
  unfold onRegion; split <;> rfl
@[simp] theorem onRegion_out (s : State) (rid : Nat) (f : Region → Region) : (onRegion s rid f).out = s.out := by
  unfold onRegion; split <;> rfl
@[simp] theorem onRegion_rsv (s : State) (rid : Nat) (f : Region → Region) : (onRegion s rid f).rsv = s.rsv := by
  unfold onRegion; split <;> rfl
@[simp] theorem onRegion_txQ (s : State) (rid : Nat) (f : Region → Region) : (onRegion s rid f).txQ = s.txQ := by
  unfold onRegion; split <;> rfl
@[simp] theorem onRegion_crnAt (s : State) (rid : Nat) (f : Region → Region) : (onRegion s rid f).crnAt = s.crnAt := by
  unfold onRegion; split <;> rfl
@[simp] theorem onRegion_recQ (s : State) (rid : Nat) (f : Region → Region) : (onRegion s rid f).recQ = s.recQ := by
  unfold onRegion; split <;> rfl
@[simp] theorem onRegion_ports (s : State) (rid : Nat) (f : Region → Region) : (onRegion s rid f).ports = s.ports := by
  unfold onRegion; split <;> rfl
@[simp] theorem onRegion_rst (s : State) (rid : Nat) (f : Region → Region) : (onRegion s rid f).rst = s.rst := by
  unfold onRegion; split <;> rfl
@[simp] theorem onRegion_mgrQ (s : State) (rid : Nat) (f : Region → Region) : (onRegion s rid f).mgrQ = s.mgrQ := by
  unfold onRegion; split <;> rfl
@[simp] theorem onRegion_mgrDone (s : State) (rid : Nat) (f : Region → Region) : (onRegion s rid f).mgrDone = s.mgrDone := by
  unfold onRegion; split <;> rfl
@[simp] theorem onRegion_notes (s : State) (rid : Nat) (f : Region → Region) : (onRegion s rid f).notes = s.notes := by
  unfold onRegion; split <;> rfl

@[simp] theorem setRegion_regions (s : State) (rid : Nat) (r : Region) : (s.setRegion rid r).regions = tset s.regions rid r := rfl

theorem region_setRegion (s : State) (rid rid' : Nat) (r : Region) :
    (s.setRegion rid r).region rid' = if rid' = rid then r else s.region rid' := tget_tset ..

@[simp] theorem region_setRegion_same (s : State) (rid : Nat) (r : Region) : (s.setRegion rid r).region rid = r := by
  simp [region_setRegion]

theorem onRegion_of {s : State} {rid : Nat} {r : Region} (f : Region → Region) (h : tfind s.regions rid = some r) :
    onRegion s rid f = s.setRegion rid (f r) := by
  simp [onRegion, h]

theorem region_of_tfind {s : State} {rid : Nat} {r : Region} (h : tfind s.regions rid = some r) : s.region rid = r :=
  tget_of_tfind _ h

theorem region_onRegion_ne (s : State) {rid rid' : Nat} (f : Region → Region) (h : rid' ≠ rid) :
    (onRegion s rid f).region rid' = s.region rid' := by
  unfold onRegion
  split
  · simp [region_setRegion, h]
  · rfl

theorem region_onRegion {s : State} {rid : Nat} {r : Region} (f : Region → Region) (h : tfind s.regions rid = some r) :
    (onRegion s rid f).region rid = f r := by
  rw [onRegion_of f h, region_setRegion_same]

@[simp] theorem hart_updHart_same (s : State) (h : Nat) (f : Hart → Hart) : (s.updHart h f).hart h = f (s.hart h) :=
  (tget_tupd ..).trans (if_pos rfl)

theorem hart_updHart_ne (s : State) {h h' : Nat} (f : Hart → Hart) (ne : h' ≠ h) : (s.updHart h f).hart h' = s.hart h' :=
  (tget_tupd ..).trans (if_neg ne)

@[simp] theorem part_updPart_same (s : State) (p : Nat) (f : Part → Part) : (s.updPart p f).part p = f (s.part p) :=
  (tget_tupd ..).trans (if_pos rfl)

theorem part_updPart_ne (s : State) {p q : Nat} (f : Part → Part) (ne : q ≠ p) : (s.updPart p f).part q = s.part q :=
  (tget_tupd ..).trans (if_neg ne)

/-- A PE instruction answers a next state that differs in its region at most. -/
theorem pe_of {s : State} {r : Region} (f : At → Region → Region) (h : tfind s.regions s.curRid = some r) :
    pe s f = .next (s.setRegion s.curRid (f s.here r)) := by
  simp [pe, onRegion_of _ h]

/-! ## Updates of a region -/

@[simp] theorem setTile_rid (r : Region) (k : Nat) (t : Tile) : (r.setTile k t).rid = r.rid := rfl
@[simp] theorem setTile_rcb (r : Region) (k : Nat) (t : Tile) : (r.setTile k t).rcb = r.rcb := rfl
@[simp] theorem setTile_part (r : Region) (k : Nat) (t : Tile) : (r.setTile k t).part = r.part := rfl
@[simp] theorem setTile_st (r : Region) (k : Nat) (t : Tile) : (r.setTile k t).st = r.st := rfl
@[simp] theorem setTile_busy (r : Region) (k : Nat) (t : Tile) : (r.setTile k t).busy = r.busy := rfl
@[simp] theorem setTile_lastop (r : Region) (k : Nat) (t : Tile) : (r.setTile k t).lastop = r.lastop := rfl
@[simp] theorem setTile_lstat (r : Region) (k : Nat) (t : Tile) : (r.setTile k t).lstat = r.lstat := rfl
@[simp] theorem setTile_res (r : Region) (k : Nat) (t : Tile) : (r.setTile k t).res = r.res := rfl
@[simp] theorem setTile_frz (r : Region) (k : Nat) (t : Tile) : (r.setTile k t).frz = r.frz := rfl
@[simp] theorem setTile_sdem (r : Region) (k : Nat) (t : Tile) : (r.setTile k t).sdem = r.sdem := rfl
@[simp] theorem setTile_rpq (r : Region) (k : Nat) (t : Tile) : (r.setTile k t).rpq = r.rpq := rfl
@[simp] theorem setTile_fidl (r : Region) (k : Nat) (t : Tile) : (r.setTile k t).fidl = r.fidl := rfl
@[simp] theorem setTile_doneC (r : Region) (k : Nat) (t : Tile) : (r.setTile k t).doneC = r.doneC := rfl
@[simp] theorem setTile_origin (r : Region) (k : Nat) (t : Tile) : (r.setTile k t).origin = r.origin := rfl
@[simp] theorem setTile_eprio (r : Region) (k : Nat) (t : Tile) : (r.setTile k t).eprio = r.eprio := rfl
@[simp] theorem setTile_untrk (r : Region) (k : Nat) (t : Tile) : (r.setTile k t).untrk = r.untrk := rfl
@[simp] theorem setTile_runs (r : Region) (k : Nat) (t : Tile) : (r.setTile k t).runs = r.runs := rfl
@[simp] theorem setTile_eff3 (r : Region) (k : Nat) (t : Tile) : (r.setTile k t).eff3 = r.eff3 := rfl
@[simp] theorem setTile_eff4 (r : Region) (k : Nat) (t : Tile) : (r.setTile k t).eff4 = r.eff4 := rfl
@[simp] theorem setTile_eff5 (r : Region) (k : Nat) (t : Tile) : (r.setTile k t).eff5 = r.eff5 := rfl
@[simp] theorem setTile_chain (r : Region) (k : Nat) (t : Tile) : (r.setTile k t).chain = r.chain := rfl
@[simp] theorem setTile_onl (r : Region) (k : Nat) (t : Tile) : (r.setTile k t).onl = r.onl := rfl
@[simp] theorem setTile_w (r : Region) (k : Nat) (t : Tile) : (r.setTile k t).w = r.w := rfl
@[simp] theorem setTile_h (r : Region) (k : Nat) (t : Tile) : (r.setTile k t).h = r.h := rfl
@[simp] theorem setTile_doneN (r : Region) (k : Nat) (t : Tile) : (r.setTile k t).doneN = r.doneN := rfl
@[simp] theorem setTile_shp (r : Region) (k : Nat) (t : Tile) : (r.setTile k t).shp = r.shp := rfl
@[simp] theorem setTile_pair (r : Region) (k : Nat) (t : Tile) : (r.setTile k t).pair = r.pair := rfl
@[simp] theorem setTile_image (r : Region) (k : Nat) (t : Tile) : (r.setTile k t).image = r.image := rfl
@[simp] theorem setTile_caps (r : Region) (k : Nat) (t : Tile) : (r.setTile k t).caps = r.caps := rfl
@[simp] theorem setTile_mt (r : Region) (k : Nat) (t : Tile) : (r.setTile k t).mt = r.mt := rfl
@[simp] theorem setTile_pres (r : Region) (k : Nat) (t : Tile) : (r.setTile k t).pres = r.pres := rfl
@[simp] theorem setTile_pois (r : Region) (k : Nat) (t : Tile) : (r.setTile k t).pois = r.pois := rfl
@[simp] theorem setTile_par (r : Region) (k : Nat) (t : Tile) : (r.setTile k t).par = r.par := rfl
@[simp] theorem setTile_parPres (r : Region) (k : Nat) (t : Tile) : (r.setTile k t).parPres = r.parPres := rfl
@[simp] theorem setTile_parPois (r : Region) (k : Nat) (t : Tile) : (r.setTile k t).parPois = r.parPois := rfl
@[simp] theorem setTile_patch (r : Region) (k : Nat) (t : Tile) : (r.setTile k t).patch = r.patch := rfl
@[simp] theorem setTile_coln (r : Region) (k : Nat) (t : Tile) : (r.setTile k t).coln = r.coln := rfl
@[simp] theorem setTile_pool (r : Region) (k : Nat) (t : Tile) : (r.setTile k t).pool = r.pool := rfl
@[simp] theorem setTile_cols (r : Region) (k : Nat) (t : Tile) : (r.setTile k t).cols = r.cols := rfl
@[simp] theorem setTile_grants (r : Region) (k : Nat) (t : Tile) : (r.setTile k t).grants = r.grants := rfl
@[simp] theorem setTile_colEnd (r : Region) (k : Nat) (t : Tile) : (r.setTile k t).colEnd = r.colEnd := rfl
@[simp] theorem setTile_flight (r : Region) (k : Nat) (t : Tile) : (r.setTile k t).flight = r.flight := rfl
@[simp] theorem setTile_seq (r : Region) (k : Nat) (t : Tile) : (r.setTile k t).seq = r.seq := rfl
@[simp] theorem setTile_rcyc (r : Region) (k : Nat) (t : Tile) : (r.setTile k t).rcyc = r.rcyc := rfl
@[simp] theorem setTile_drain (r : Region) (k : Nat) (t : Tile) : (r.setTile k t).drain = r.drain := rfl
@[simp] theorem setTile_drainSl (r : Region) (k : Nat) (t : Tile) : (r.setTile k t).drainSl = r.drainSl := rfl
@[simp] theorem setTile_settled (r : Region) (k : Nat) (t : Tile) : (r.setTile k t).settled = r.settled := rfl
@[simp] theorem setTile_cut (r : Region) (k : Nat) (t : Tile) : (r.setTile k t).cut = r.cut := rfl
@[simp] theorem setTile_frzReq (r : Region) (k : Nat) (t : Tile) : (r.setTile k t).frzReq = r.frzReq := rfl
@[simp] theorem setTile_frzAge (r : Region) (k : Nat) (t : Tile) : (r.setTile k t).frzAge = r.frzAge := rfl
@[simp] theorem setTile_tx (r : Region) (k : Nat) (t : Tile) : (r.setTile k t).tx = r.tx := rfl
@[simp] theorem setTile_strms (r : Region) (k : Nat) (t : Tile) : (r.setTile k t).strms = r.strms := rfl
@[simp] theorem setTile_copies (r : Region) (k : Nat) (t : Tile) : (r.setTile k t).copies = r.copies := rfl
@[simp] theorem setTile_cpyid (r : Region) (k : Nat) (t : Tile) : (r.setTile k t).cpyid = r.cpyid := rfl
@[simp] theorem setTile_cstat (r : Region) (k : Nat) (t : Tile) : (r.setTile k t).cstat = r.cstat := rfl
@[simp] theorem setTile_nles (r : Region) (k : Nat) (t : Tile) : (r.setTile k t).nles = r.nles := rfl
@[simp] theorem setTile_recs (r : Region) (k : Nat) (t : Tile) : (r.setTile k t).recs = r.recs := rfl
@[simp] theorem setTile_lop (r : Region) (k : Nat) (t : Tile) : (r.setTile k t).lop = r.lop := rfl
@[simp] theorem setTile_partner (r : Region) (k : Nat) (t : Tile) : (r.setTile k t).partner = r.partner := rfl
@[simp] theorem setTile_active (r : Region) (k : Nat) (t : Tile) : (r.setTile k t).active = r.active := rfl
@[simp] theorem setTile_parked (r : Region) (k : Nat) (t : Tile) : (r.setTile k t).parked = r.parked := rfl
@[simp] theorem setTile_spent (r : Region) (k : Nat) (t : Tile) : (r.setTile k t).spent = r.spent := rfl
@[simp] theorem setTile_quiet (r : Region) (k : Nat) (t : Tile) : (r.setTile k t).quiet = r.quiet := rfl
@[simp] theorem setTile_cnt (r : Region) (k : Nat) (t : Tile) : (r.setTile k t).cnt = r.cnt := rfl
@[simp] theorem setTile_rest (r : Region) (k : Nat) (t : Tile) : (r.setTile k t).rest = r.rest := rfl
@[simp] theorem setTile_shState (r : Region) (k : Nat) (t : Tile) : (r.setTile k t).shState = r.shState := rfl
@[simp] theorem setTile_host (r : Region) (k : Nat) (t : Tile) : (r.setTile k t).host = r.host := rfl
@[simp] theorem setTile_cmplt (r : Region) (k : Nat) (t : Tile) : (r.setTile k t).cmplt = r.cmplt := rfl
@[simp] theorem setTile_cmpltQ (r : Region) (k : Nat) (t : Tile) : (r.setTile k t).cmpltQ = r.cmpltQ := rfl
@[simp] theorem setTile_mcheck (r : Region) (k : Nat) (t : Tile) : (r.setTile k t).mcheck = r.mcheck := rfl
@[simp] theorem setTile_rheat (r : Region) (k : Nat) (t : Tile) : (r.setTile k t).rheat = r.rheat := rfl
@[simp] theorem setTile_sysAns (r : Region) (k : Nat) (t : Tile) : (r.setTile k t).sysAns = r.sysAns := rfl
@[simp] theorem setTile_moving (r : Region) (k : Nat) (t : Tile) : (r.setTile k t).moving = r.moving := rfl
@[simp] theorem setTile_cwEnd (r : Region) (k : Nat) (t : Tile) : (r.setTile k t).cwEnd = r.cwEnd := rfl
@[simp] theorem setTile_heatP (r : Region) (k : Nat) (t : Tile) : (r.setTile k t).heatP = r.heatP := rfl
@[simp] theorem setTile_pause (r : Region) (k : Nat) (t : Tile) : (r.setTile k t).pause = r.pause := rfl
@[simp] theorem setTile_wctx (r : Region) (k : Nat) (t : Tile) : (r.setTile k t).wctx = r.wctx := rfl
@[simp] theorem setTile_ptags (r : Region) (k : Nat) (t : Tile) : (r.setTile k t).ptags = r.ptags := rfl

@[simp] theorem setPl_rid (r : Region) (k : Nat) (p : Plane) : (r.setPl k p).rid = r.rid := rfl
@[simp] theorem setPl_rcb (r : Region) (k : Nat) (p : Plane) : (r.setPl k p).rcb = r.rcb := rfl
@[simp] theorem setPl_part (r : Region) (k : Nat) (p : Plane) : (r.setPl k p).part = r.part := rfl
@[simp] theorem setPl_st (r : Region) (k : Nat) (p : Plane) : (r.setPl k p).st = r.st := rfl
@[simp] theorem setPl_busy (r : Region) (k : Nat) (p : Plane) : (r.setPl k p).busy = r.busy := rfl
@[simp] theorem setPl_lastop (r : Region) (k : Nat) (p : Plane) : (r.setPl k p).lastop = r.lastop := rfl
@[simp] theorem setPl_lstat (r : Region) (k : Nat) (p : Plane) : (r.setPl k p).lstat = r.lstat := rfl
@[simp] theorem setPl_res (r : Region) (k : Nat) (p : Plane) : (r.setPl k p).res = r.res := rfl
@[simp] theorem setPl_frz (r : Region) (k : Nat) (p : Plane) : (r.setPl k p).frz = r.frz := rfl
@[simp] theorem setPl_sdem (r : Region) (k : Nat) (p : Plane) : (r.setPl k p).sdem = r.sdem := rfl
@[simp] theorem setPl_rpq (r : Region) (k : Nat) (p : Plane) : (r.setPl k p).rpq = r.rpq := rfl
@[simp] theorem setPl_fidl (r : Region) (k : Nat) (p : Plane) : (r.setPl k p).fidl = r.fidl := rfl
@[simp] theorem setPl_doneC (r : Region) (k : Nat) (p : Plane) : (r.setPl k p).doneC = r.doneC := rfl
@[simp] theorem setPl_origin (r : Region) (k : Nat) (p : Plane) : (r.setPl k p).origin = r.origin := rfl
@[simp] theorem setPl_eprio (r : Region) (k : Nat) (p : Plane) : (r.setPl k p).eprio = r.eprio := rfl
@[simp] theorem setPl_untrk (r : Region) (k : Nat) (p : Plane) : (r.setPl k p).untrk = r.untrk := rfl
@[simp] theorem setPl_runs (r : Region) (k : Nat) (p : Plane) : (r.setPl k p).runs = r.runs := rfl
@[simp] theorem setPl_eff3 (r : Region) (k : Nat) (p : Plane) : (r.setPl k p).eff3 = r.eff3 := rfl
@[simp] theorem setPl_eff4 (r : Region) (k : Nat) (p : Plane) : (r.setPl k p).eff4 = r.eff4 := rfl
@[simp] theorem setPl_eff5 (r : Region) (k : Nat) (p : Plane) : (r.setPl k p).eff5 = r.eff5 := rfl
@[simp] theorem setPl_chain (r : Region) (k : Nat) (p : Plane) : (r.setPl k p).chain = r.chain := rfl
@[simp] theorem setPl_onl (r : Region) (k : Nat) (p : Plane) : (r.setPl k p).onl = r.onl := rfl
@[simp] theorem setPl_w (r : Region) (k : Nat) (p : Plane) : (r.setPl k p).w = r.w := rfl
@[simp] theorem setPl_h (r : Region) (k : Nat) (p : Plane) : (r.setPl k p).h = r.h := rfl
@[simp] theorem setPl_doneN (r : Region) (k : Nat) (p : Plane) : (r.setPl k p).doneN = r.doneN := rfl
@[simp] theorem setPl_shp (r : Region) (k : Nat) (p : Plane) : (r.setPl k p).shp = r.shp := rfl
@[simp] theorem setPl_pair (r : Region) (k : Nat) (p : Plane) : (r.setPl k p).pair = r.pair := rfl
@[simp] theorem setPl_image (r : Region) (k : Nat) (p : Plane) : (r.setPl k p).image = r.image := rfl
@[simp] theorem setPl_caps (r : Region) (k : Nat) (p : Plane) : (r.setPl k p).caps = r.caps := rfl
@[simp] theorem setPl_mt (r : Region) (k : Nat) (p : Plane) : (r.setPl k p).mt = r.mt := rfl
@[simp] theorem setPl_pres (r : Region) (k : Nat) (p : Plane) : (r.setPl k p).pres = r.pres := rfl
@[simp] theorem setPl_pois (r : Region) (k : Nat) (p : Plane) : (r.setPl k p).pois = r.pois := rfl
@[simp] theorem setPl_par (r : Region) (k : Nat) (p : Plane) : (r.setPl k p).par = r.par := rfl
@[simp] theorem setPl_parPres (r : Region) (k : Nat) (p : Plane) : (r.setPl k p).parPres = r.parPres := rfl
@[simp] theorem setPl_parPois (r : Region) (k : Nat) (p : Plane) : (r.setPl k p).parPois = r.parPois := rfl
@[simp] theorem setPl_patch (r : Region) (k : Nat) (p : Plane) : (r.setPl k p).patch = r.patch := rfl
@[simp] theorem setPl_coln (r : Region) (k : Nat) (p : Plane) : (r.setPl k p).coln = r.coln := rfl
@[simp] theorem setPl_pool (r : Region) (k : Nat) (p : Plane) : (r.setPl k p).pool = r.pool := rfl
@[simp] theorem setPl_cols (r : Region) (k : Nat) (p : Plane) : (r.setPl k p).cols = r.cols := rfl
@[simp] theorem setPl_grants (r : Region) (k : Nat) (p : Plane) : (r.setPl k p).grants = r.grants := rfl
@[simp] theorem setPl_colEnd (r : Region) (k : Nat) (p : Plane) : (r.setPl k p).colEnd = r.colEnd := rfl
@[simp] theorem setPl_flight (r : Region) (k : Nat) (p : Plane) : (r.setPl k p).flight = r.flight := rfl
@[simp] theorem setPl_seq (r : Region) (k : Nat) (p : Plane) : (r.setPl k p).seq = r.seq := rfl
@[simp] theorem setPl_rcyc (r : Region) (k : Nat) (p : Plane) : (r.setPl k p).rcyc = r.rcyc := rfl
@[simp] theorem setPl_drain (r : Region) (k : Nat) (p : Plane) : (r.setPl k p).drain = r.drain := rfl
@[simp] theorem setPl_drainSl (r : Region) (k : Nat) (p : Plane) : (r.setPl k p).drainSl = r.drainSl := rfl
@[simp] theorem setPl_settled (r : Region) (k : Nat) (p : Plane) : (r.setPl k p).settled = r.settled := rfl
@[simp] theorem setPl_cut (r : Region) (k : Nat) (p : Plane) : (r.setPl k p).cut = r.cut := rfl
@[simp] theorem setPl_frzReq (r : Region) (k : Nat) (p : Plane) : (r.setPl k p).frzReq = r.frzReq := rfl
@[simp] theorem setPl_frzAge (r : Region) (k : Nat) (p : Plane) : (r.setPl k p).frzAge = r.frzAge := rfl
@[simp] theorem setPl_tx (r : Region) (k : Nat) (p : Plane) : (r.setPl k p).tx = r.tx := rfl
@[simp] theorem setPl_strms (r : Region) (k : Nat) (p : Plane) : (r.setPl k p).strms = r.strms := rfl
@[simp] theorem setPl_copies (r : Region) (k : Nat) (p : Plane) : (r.setPl k p).copies = r.copies := rfl
@[simp] theorem setPl_cpyid (r : Region) (k : Nat) (p : Plane) : (r.setPl k p).cpyid = r.cpyid := rfl
@[simp] theorem setPl_cstat (r : Region) (k : Nat) (p : Plane) : (r.setPl k p).cstat = r.cstat := rfl
@[simp] theorem setPl_nles (r : Region) (k : Nat) (p : Plane) : (r.setPl k p).nles = r.nles := rfl
@[simp] theorem setPl_recs (r : Region) (k : Nat) (p : Plane) : (r.setPl k p).recs = r.recs := rfl
@[simp] theorem setPl_lop (r : Region) (k : Nat) (p : Plane) : (r.setPl k p).lop = r.lop := rfl
@[simp] theorem setPl_partner (r : Region) (k : Nat) (p : Plane) : (r.setPl k p).partner = r.partner := rfl
@[simp] theorem setPl_active (r : Region) (k : Nat) (p : Plane) : (r.setPl k p).active = r.active := rfl
@[simp] theorem setPl_parked (r : Region) (k : Nat) (p : Plane) : (r.setPl k p).parked = r.parked := rfl
@[simp] theorem setPl_spent (r : Region) (k : Nat) (p : Plane) : (r.setPl k p).spent = r.spent := rfl
@[simp] theorem setPl_quiet (r : Region) (k : Nat) (p : Plane) : (r.setPl k p).quiet = r.quiet := rfl
@[simp] theorem setPl_cnt (r : Region) (k : Nat) (p : Plane) : (r.setPl k p).cnt = r.cnt := rfl
@[simp] theorem setPl_rest (r : Region) (k : Nat) (p : Plane) : (r.setPl k p).rest = r.rest := rfl
@[simp] theorem setPl_shState (r : Region) (k : Nat) (p : Plane) : (r.setPl k p).shState = r.shState := rfl
@[simp] theorem setPl_host (r : Region) (k : Nat) (p : Plane) : (r.setPl k p).host = r.host := rfl
@[simp] theorem setPl_cmplt (r : Region) (k : Nat) (p : Plane) : (r.setPl k p).cmplt = r.cmplt := rfl
@[simp] theorem setPl_cmpltQ (r : Region) (k : Nat) (p : Plane) : (r.setPl k p).cmpltQ = r.cmpltQ := rfl
@[simp] theorem setPl_mcheck (r : Region) (k : Nat) (p : Plane) : (r.setPl k p).mcheck = r.mcheck := rfl
@[simp] theorem setPl_rheat (r : Region) (k : Nat) (p : Plane) : (r.setPl k p).rheat = r.rheat := rfl
@[simp] theorem setPl_sysAns (r : Region) (k : Nat) (p : Plane) : (r.setPl k p).sysAns = r.sysAns := rfl
@[simp] theorem setPl_moving (r : Region) (k : Nat) (p : Plane) : (r.setPl k p).moving = r.moving := rfl
@[simp] theorem setPl_cwEnd (r : Region) (k : Nat) (p : Plane) : (r.setPl k p).cwEnd = r.cwEnd := rfl
@[simp] theorem setPl_heatP (r : Region) (k : Nat) (p : Plane) : (r.setPl k p).heatP = r.heatP := rfl
@[simp] theorem setPl_pause (r : Region) (k : Nat) (p : Plane) : (r.setPl k p).pause = r.pause := rfl
@[simp] theorem setPl_wctx (r : Region) (k : Nat) (p : Plane) : (r.setPl k p).wctx = r.wctx := rfl
@[simp] theorem setPl_ptags (r : Region) (k : Nat) (p : Plane) : (r.setPl k p).ptags = r.ptags := rfl

@[simp] theorem updPl_rid (r : Region) (k : Nat) (f : Plane → Plane) : (r.updPl k f).rid = r.rid := rfl
@[simp] theorem updPl_rcb (r : Region) (k : Nat) (f : Plane → Plane) : (r.updPl k f).rcb = r.rcb := rfl
@[simp] theorem updPl_part (r : Region) (k : Nat) (f : Plane → Plane) : (r.updPl k f).part = r.part := rfl
@[simp] theorem updPl_st (r : Region) (k : Nat) (f : Plane → Plane) : (r.updPl k f).st = r.st := rfl
@[simp] theorem updPl_busy (r : Region) (k : Nat) (f : Plane → Plane) : (r.updPl k f).busy = r.busy := rfl
@[simp] theorem updPl_lastop (r : Region) (k : Nat) (f : Plane → Plane) : (r.updPl k f).lastop = r.lastop := rfl
@[simp] theorem updPl_lstat (r : Region) (k : Nat) (f : Plane → Plane) : (r.updPl k f).lstat = r.lstat := rfl
@[simp] theorem updPl_res (r : Region) (k : Nat) (f : Plane → Plane) : (r.updPl k f).res = r.res := rfl
@[simp] theorem updPl_frz (r : Region) (k : Nat) (f : Plane → Plane) : (r.updPl k f).frz = r.frz := rfl
@[simp] theorem updPl_sdem (r : Region) (k : Nat) (f : Plane → Plane) : (r.updPl k f).sdem = r.sdem := rfl
@[simp] theorem updPl_rpq (r : Region) (k : Nat) (f : Plane → Plane) : (r.updPl k f).rpq = r.rpq := rfl
@[simp] theorem updPl_fidl (r : Region) (k : Nat) (f : Plane → Plane) : (r.updPl k f).fidl = r.fidl := rfl
@[simp] theorem updPl_doneC (r : Region) (k : Nat) (f : Plane → Plane) : (r.updPl k f).doneC = r.doneC := rfl
@[simp] theorem updPl_origin (r : Region) (k : Nat) (f : Plane → Plane) : (r.updPl k f).origin = r.origin := rfl
@[simp] theorem updPl_eprio (r : Region) (k : Nat) (f : Plane → Plane) : (r.updPl k f).eprio = r.eprio := rfl
@[simp] theorem updPl_untrk (r : Region) (k : Nat) (f : Plane → Plane) : (r.updPl k f).untrk = r.untrk := rfl
@[simp] theorem updPl_runs (r : Region) (k : Nat) (f : Plane → Plane) : (r.updPl k f).runs = r.runs := rfl
@[simp] theorem updPl_eff3 (r : Region) (k : Nat) (f : Plane → Plane) : (r.updPl k f).eff3 = r.eff3 := rfl
@[simp] theorem updPl_eff4 (r : Region) (k : Nat) (f : Plane → Plane) : (r.updPl k f).eff4 = r.eff4 := rfl
@[simp] theorem updPl_eff5 (r : Region) (k : Nat) (f : Plane → Plane) : (r.updPl k f).eff5 = r.eff5 := rfl
@[simp] theorem updPl_chain (r : Region) (k : Nat) (f : Plane → Plane) : (r.updPl k f).chain = r.chain := rfl
@[simp] theorem updPl_onl (r : Region) (k : Nat) (f : Plane → Plane) : (r.updPl k f).onl = r.onl := rfl
@[simp] theorem updPl_w (r : Region) (k : Nat) (f : Plane → Plane) : (r.updPl k f).w = r.w := rfl
@[simp] theorem updPl_h (r : Region) (k : Nat) (f : Plane → Plane) : (r.updPl k f).h = r.h := rfl
@[simp] theorem updPl_doneN (r : Region) (k : Nat) (f : Plane → Plane) : (r.updPl k f).doneN = r.doneN := rfl
@[simp] theorem updPl_shp (r : Region) (k : Nat) (f : Plane → Plane) : (r.updPl k f).shp = r.shp := rfl
@[simp] theorem updPl_pair (r : Region) (k : Nat) (f : Plane → Plane) : (r.updPl k f).pair = r.pair := rfl
@[simp] theorem updPl_image (r : Region) (k : Nat) (f : Plane → Plane) : (r.updPl k f).image = r.image := rfl
@[simp] theorem updPl_caps (r : Region) (k : Nat) (f : Plane → Plane) : (r.updPl k f).caps = r.caps := rfl
@[simp] theorem updPl_mt (r : Region) (k : Nat) (f : Plane → Plane) : (r.updPl k f).mt = r.mt := rfl
@[simp] theorem updPl_pres (r : Region) (k : Nat) (f : Plane → Plane) : (r.updPl k f).pres = r.pres := rfl
@[simp] theorem updPl_pois (r : Region) (k : Nat) (f : Plane → Plane) : (r.updPl k f).pois = r.pois := rfl
@[simp] theorem updPl_par (r : Region) (k : Nat) (f : Plane → Plane) : (r.updPl k f).par = r.par := rfl
@[simp] theorem updPl_parPres (r : Region) (k : Nat) (f : Plane → Plane) : (r.updPl k f).parPres = r.parPres := rfl
@[simp] theorem updPl_parPois (r : Region) (k : Nat) (f : Plane → Plane) : (r.updPl k f).parPois = r.parPois := rfl
@[simp] theorem updPl_patch (r : Region) (k : Nat) (f : Plane → Plane) : (r.updPl k f).patch = r.patch := rfl
@[simp] theorem updPl_coln (r : Region) (k : Nat) (f : Plane → Plane) : (r.updPl k f).coln = r.coln := rfl
@[simp] theorem updPl_pool (r : Region) (k : Nat) (f : Plane → Plane) : (r.updPl k f).pool = r.pool := rfl
@[simp] theorem updPl_cols (r : Region) (k : Nat) (f : Plane → Plane) : (r.updPl k f).cols = r.cols := rfl
@[simp] theorem updPl_grants (r : Region) (k : Nat) (f : Plane → Plane) : (r.updPl k f).grants = r.grants := rfl
@[simp] theorem updPl_colEnd (r : Region) (k : Nat) (f : Plane → Plane) : (r.updPl k f).colEnd = r.colEnd := rfl
@[simp] theorem updPl_flight (r : Region) (k : Nat) (f : Plane → Plane) : (r.updPl k f).flight = r.flight := rfl
@[simp] theorem updPl_seq (r : Region) (k : Nat) (f : Plane → Plane) : (r.updPl k f).seq = r.seq := rfl
@[simp] theorem updPl_rcyc (r : Region) (k : Nat) (f : Plane → Plane) : (r.updPl k f).rcyc = r.rcyc := rfl
@[simp] theorem updPl_drain (r : Region) (k : Nat) (f : Plane → Plane) : (r.updPl k f).drain = r.drain := rfl
@[simp] theorem updPl_drainSl (r : Region) (k : Nat) (f : Plane → Plane) : (r.updPl k f).drainSl = r.drainSl := rfl
@[simp] theorem updPl_settled (r : Region) (k : Nat) (f : Plane → Plane) : (r.updPl k f).settled = r.settled := rfl
@[simp] theorem updPl_cut (r : Region) (k : Nat) (f : Plane → Plane) : (r.updPl k f).cut = r.cut := rfl
@[simp] theorem updPl_frzReq (r : Region) (k : Nat) (f : Plane → Plane) : (r.updPl k f).frzReq = r.frzReq := rfl
@[simp] theorem updPl_frzAge (r : Region) (k : Nat) (f : Plane → Plane) : (r.updPl k f).frzAge = r.frzAge := rfl
@[simp] theorem updPl_tx (r : Region) (k : Nat) (f : Plane → Plane) : (r.updPl k f).tx = r.tx := rfl
@[simp] theorem updPl_strms (r : Region) (k : Nat) (f : Plane → Plane) : (r.updPl k f).strms = r.strms := rfl
@[simp] theorem updPl_copies (r : Region) (k : Nat) (f : Plane → Plane) : (r.updPl k f).copies = r.copies := rfl
@[simp] theorem updPl_cpyid (r : Region) (k : Nat) (f : Plane → Plane) : (r.updPl k f).cpyid = r.cpyid := rfl
@[simp] theorem updPl_cstat (r : Region) (k : Nat) (f : Plane → Plane) : (r.updPl k f).cstat = r.cstat := rfl
@[simp] theorem updPl_nles (r : Region) (k : Nat) (f : Plane → Plane) : (r.updPl k f).nles = r.nles := rfl
@[simp] theorem updPl_recs (r : Region) (k : Nat) (f : Plane → Plane) : (r.updPl k f).recs = r.recs := rfl
@[simp] theorem updPl_lop (r : Region) (k : Nat) (f : Plane → Plane) : (r.updPl k f).lop = r.lop := rfl
@[simp] theorem updPl_partner (r : Region) (k : Nat) (f : Plane → Plane) : (r.updPl k f).partner = r.partner := rfl
@[simp] theorem updPl_active (r : Region) (k : Nat) (f : Plane → Plane) : (r.updPl k f).active = r.active := rfl
@[simp] theorem updPl_parked (r : Region) (k : Nat) (f : Plane → Plane) : (r.updPl k f).parked = r.parked := rfl
@[simp] theorem updPl_spent (r : Region) (k : Nat) (f : Plane → Plane) : (r.updPl k f).spent = r.spent := rfl
@[simp] theorem updPl_quiet (r : Region) (k : Nat) (f : Plane → Plane) : (r.updPl k f).quiet = r.quiet := rfl
@[simp] theorem updPl_cnt (r : Region) (k : Nat) (f : Plane → Plane) : (r.updPl k f).cnt = r.cnt := rfl
@[simp] theorem updPl_rest (r : Region) (k : Nat) (f : Plane → Plane) : (r.updPl k f).rest = r.rest := rfl
@[simp] theorem updPl_shState (r : Region) (k : Nat) (f : Plane → Plane) : (r.updPl k f).shState = r.shState := rfl
@[simp] theorem updPl_host (r : Region) (k : Nat) (f : Plane → Plane) : (r.updPl k f).host = r.host := rfl
@[simp] theorem updPl_cmplt (r : Region) (k : Nat) (f : Plane → Plane) : (r.updPl k f).cmplt = r.cmplt := rfl
@[simp] theorem updPl_cmpltQ (r : Region) (k : Nat) (f : Plane → Plane) : (r.updPl k f).cmpltQ = r.cmpltQ := rfl
@[simp] theorem updPl_mcheck (r : Region) (k : Nat) (f : Plane → Plane) : (r.updPl k f).mcheck = r.mcheck := rfl
@[simp] theorem updPl_rheat (r : Region) (k : Nat) (f : Plane → Plane) : (r.updPl k f).rheat = r.rheat := rfl
@[simp] theorem updPl_sysAns (r : Region) (k : Nat) (f : Plane → Plane) : (r.updPl k f).sysAns = r.sysAns := rfl
@[simp] theorem updPl_moving (r : Region) (k : Nat) (f : Plane → Plane) : (r.updPl k f).moving = r.moving := rfl
@[simp] theorem updPl_cwEnd (r : Region) (k : Nat) (f : Plane → Plane) : (r.updPl k f).cwEnd = r.cwEnd := rfl
@[simp] theorem updPl_heatP (r : Region) (k : Nat) (f : Plane → Plane) : (r.updPl k f).heatP = r.heatP := rfl
@[simp] theorem updPl_pause (r : Region) (k : Nat) (f : Plane → Plane) : (r.updPl k f).pause = r.pause := rfl
@[simp] theorem updPl_wctx (r : Region) (k : Nat) (f : Plane → Plane) : (r.updPl k f).wctx = r.wctx := rfl
@[simp] theorem updPl_ptags (r : Region) (k : Nat) (f : Plane → Plane) : (r.updPl k f).ptags = r.ptags := rfl

@[simp] theorem updCt_rid (r : Region) (k : Nat) (f : Ct → Ct) : (r.updCt k f).rid = r.rid := rfl
@[simp] theorem updCt_rcb (r : Region) (k : Nat) (f : Ct → Ct) : (r.updCt k f).rcb = r.rcb := rfl
@[simp] theorem updCt_part (r : Region) (k : Nat) (f : Ct → Ct) : (r.updCt k f).part = r.part := rfl
@[simp] theorem updCt_st (r : Region) (k : Nat) (f : Ct → Ct) : (r.updCt k f).st = r.st := rfl
@[simp] theorem updCt_busy (r : Region) (k : Nat) (f : Ct → Ct) : (r.updCt k f).busy = r.busy := rfl
@[simp] theorem updCt_lastop (r : Region) (k : Nat) (f : Ct → Ct) : (r.updCt k f).lastop = r.lastop := rfl
@[simp] theorem updCt_lstat (r : Region) (k : Nat) (f : Ct → Ct) : (r.updCt k f).lstat = r.lstat := rfl
@[simp] theorem updCt_res (r : Region) (k : Nat) (f : Ct → Ct) : (r.updCt k f).res = r.res := rfl
@[simp] theorem updCt_frz (r : Region) (k : Nat) (f : Ct → Ct) : (r.updCt k f).frz = r.frz := rfl
@[simp] theorem updCt_sdem (r : Region) (k : Nat) (f : Ct → Ct) : (r.updCt k f).sdem = r.sdem := rfl
@[simp] theorem updCt_rpq (r : Region) (k : Nat) (f : Ct → Ct) : (r.updCt k f).rpq = r.rpq := rfl
@[simp] theorem updCt_fidl (r : Region) (k : Nat) (f : Ct → Ct) : (r.updCt k f).fidl = r.fidl := rfl
@[simp] theorem updCt_doneC (r : Region) (k : Nat) (f : Ct → Ct) : (r.updCt k f).doneC = r.doneC := rfl
@[simp] theorem updCt_origin (r : Region) (k : Nat) (f : Ct → Ct) : (r.updCt k f).origin = r.origin := rfl
@[simp] theorem updCt_eprio (r : Region) (k : Nat) (f : Ct → Ct) : (r.updCt k f).eprio = r.eprio := rfl
@[simp] theorem updCt_untrk (r : Region) (k : Nat) (f : Ct → Ct) : (r.updCt k f).untrk = r.untrk := rfl
@[simp] theorem updCt_runs (r : Region) (k : Nat) (f : Ct → Ct) : (r.updCt k f).runs = r.runs := rfl
@[simp] theorem updCt_eff3 (r : Region) (k : Nat) (f : Ct → Ct) : (r.updCt k f).eff3 = r.eff3 := rfl
@[simp] theorem updCt_eff4 (r : Region) (k : Nat) (f : Ct → Ct) : (r.updCt k f).eff4 = r.eff4 := rfl
@[simp] theorem updCt_eff5 (r : Region) (k : Nat) (f : Ct → Ct) : (r.updCt k f).eff5 = r.eff5 := rfl
@[simp] theorem updCt_chain (r : Region) (k : Nat) (f : Ct → Ct) : (r.updCt k f).chain = r.chain := rfl
@[simp] theorem updCt_onl (r : Region) (k : Nat) (f : Ct → Ct) : (r.updCt k f).onl = r.onl := rfl
@[simp] theorem updCt_w (r : Region) (k : Nat) (f : Ct → Ct) : (r.updCt k f).w = r.w := rfl
@[simp] theorem updCt_h (r : Region) (k : Nat) (f : Ct → Ct) : (r.updCt k f).h = r.h := rfl
@[simp] theorem updCt_doneN (r : Region) (k : Nat) (f : Ct → Ct) : (r.updCt k f).doneN = r.doneN := rfl
@[simp] theorem updCt_shp (r : Region) (k : Nat) (f : Ct → Ct) : (r.updCt k f).shp = r.shp := rfl
@[simp] theorem updCt_pair (r : Region) (k : Nat) (f : Ct → Ct) : (r.updCt k f).pair = r.pair := rfl
@[simp] theorem updCt_image (r : Region) (k : Nat) (f : Ct → Ct) : (r.updCt k f).image = r.image := rfl
@[simp] theorem updCt_caps (r : Region) (k : Nat) (f : Ct → Ct) : (r.updCt k f).caps = r.caps := rfl
@[simp] theorem updCt_mt (r : Region) (k : Nat) (f : Ct → Ct) : (r.updCt k f).mt = r.mt := rfl
@[simp] theorem updCt_pres (r : Region) (k : Nat) (f : Ct → Ct) : (r.updCt k f).pres = r.pres := rfl
@[simp] theorem updCt_pois (r : Region) (k : Nat) (f : Ct → Ct) : (r.updCt k f).pois = r.pois := rfl
@[simp] theorem updCt_par (r : Region) (k : Nat) (f : Ct → Ct) : (r.updCt k f).par = r.par := rfl
@[simp] theorem updCt_parPres (r : Region) (k : Nat) (f : Ct → Ct) : (r.updCt k f).parPres = r.parPres := rfl
@[simp] theorem updCt_parPois (r : Region) (k : Nat) (f : Ct → Ct) : (r.updCt k f).parPois = r.parPois := rfl
@[simp] theorem updCt_patch (r : Region) (k : Nat) (f : Ct → Ct) : (r.updCt k f).patch = r.patch := rfl
@[simp] theorem updCt_coln (r : Region) (k : Nat) (f : Ct → Ct) : (r.updCt k f).coln = r.coln := rfl
@[simp] theorem updCt_pool (r : Region) (k : Nat) (f : Ct → Ct) : (r.updCt k f).pool = r.pool := rfl
@[simp] theorem updCt_cols (r : Region) (k : Nat) (f : Ct → Ct) : (r.updCt k f).cols = r.cols := rfl
@[simp] theorem updCt_grants (r : Region) (k : Nat) (f : Ct → Ct) : (r.updCt k f).grants = r.grants := rfl
@[simp] theorem updCt_colEnd (r : Region) (k : Nat) (f : Ct → Ct) : (r.updCt k f).colEnd = r.colEnd := rfl
@[simp] theorem updCt_flight (r : Region) (k : Nat) (f : Ct → Ct) : (r.updCt k f).flight = r.flight := rfl
@[simp] theorem updCt_seq (r : Region) (k : Nat) (f : Ct → Ct) : (r.updCt k f).seq = r.seq := rfl
@[simp] theorem updCt_rcyc (r : Region) (k : Nat) (f : Ct → Ct) : (r.updCt k f).rcyc = r.rcyc := rfl
@[simp] theorem updCt_drain (r : Region) (k : Nat) (f : Ct → Ct) : (r.updCt k f).drain = r.drain := rfl
@[simp] theorem updCt_drainSl (r : Region) (k : Nat) (f : Ct → Ct) : (r.updCt k f).drainSl = r.drainSl := rfl
@[simp] theorem updCt_settled (r : Region) (k : Nat) (f : Ct → Ct) : (r.updCt k f).settled = r.settled := rfl
@[simp] theorem updCt_cut (r : Region) (k : Nat) (f : Ct → Ct) : (r.updCt k f).cut = r.cut := rfl
@[simp] theorem updCt_frzReq (r : Region) (k : Nat) (f : Ct → Ct) : (r.updCt k f).frzReq = r.frzReq := rfl
@[simp] theorem updCt_frzAge (r : Region) (k : Nat) (f : Ct → Ct) : (r.updCt k f).frzAge = r.frzAge := rfl
@[simp] theorem updCt_tx (r : Region) (k : Nat) (f : Ct → Ct) : (r.updCt k f).tx = r.tx := rfl
@[simp] theorem updCt_strms (r : Region) (k : Nat) (f : Ct → Ct) : (r.updCt k f).strms = r.strms := rfl
@[simp] theorem updCt_copies (r : Region) (k : Nat) (f : Ct → Ct) : (r.updCt k f).copies = r.copies := rfl
@[simp] theorem updCt_cpyid (r : Region) (k : Nat) (f : Ct → Ct) : (r.updCt k f).cpyid = r.cpyid := rfl
@[simp] theorem updCt_cstat (r : Region) (k : Nat) (f : Ct → Ct) : (r.updCt k f).cstat = r.cstat := rfl
@[simp] theorem updCt_nles (r : Region) (k : Nat) (f : Ct → Ct) : (r.updCt k f).nles = r.nles := rfl
@[simp] theorem updCt_recs (r : Region) (k : Nat) (f : Ct → Ct) : (r.updCt k f).recs = r.recs := rfl
@[simp] theorem updCt_lop (r : Region) (k : Nat) (f : Ct → Ct) : (r.updCt k f).lop = r.lop := rfl
@[simp] theorem updCt_partner (r : Region) (k : Nat) (f : Ct → Ct) : (r.updCt k f).partner = r.partner := rfl
@[simp] theorem updCt_active (r : Region) (k : Nat) (f : Ct → Ct) : (r.updCt k f).active = r.active := rfl
@[simp] theorem updCt_parked (r : Region) (k : Nat) (f : Ct → Ct) : (r.updCt k f).parked = r.parked := rfl
@[simp] theorem updCt_spent (r : Region) (k : Nat) (f : Ct → Ct) : (r.updCt k f).spent = r.spent := rfl
@[simp] theorem updCt_quiet (r : Region) (k : Nat) (f : Ct → Ct) : (r.updCt k f).quiet = r.quiet := rfl
@[simp] theorem updCt_cnt (r : Region) (k : Nat) (f : Ct → Ct) : (r.updCt k f).cnt = r.cnt := rfl
@[simp] theorem updCt_rest (r : Region) (k : Nat) (f : Ct → Ct) : (r.updCt k f).rest = r.rest := rfl
@[simp] theorem updCt_shState (r : Region) (k : Nat) (f : Ct → Ct) : (r.updCt k f).shState = r.shState := rfl
@[simp] theorem updCt_host (r : Region) (k : Nat) (f : Ct → Ct) : (r.updCt k f).host = r.host := rfl
@[simp] theorem updCt_cmplt (r : Region) (k : Nat) (f : Ct → Ct) : (r.updCt k f).cmplt = r.cmplt := rfl
@[simp] theorem updCt_cmpltQ (r : Region) (k : Nat) (f : Ct → Ct) : (r.updCt k f).cmpltQ = r.cmpltQ := rfl
@[simp] theorem updCt_mcheck (r : Region) (k : Nat) (f : Ct → Ct) : (r.updCt k f).mcheck = r.mcheck := rfl
@[simp] theorem updCt_rheat (r : Region) (k : Nat) (f : Ct → Ct) : (r.updCt k f).rheat = r.rheat := rfl
@[simp] theorem updCt_sysAns (r : Region) (k : Nat) (f : Ct → Ct) : (r.updCt k f).sysAns = r.sysAns := rfl
@[simp] theorem updCt_moving (r : Region) (k : Nat) (f : Ct → Ct) : (r.updCt k f).moving = r.moving := rfl
@[simp] theorem updCt_cwEnd (r : Region) (k : Nat) (f : Ct → Ct) : (r.updCt k f).cwEnd = r.cwEnd := rfl
@[simp] theorem updCt_heatP (r : Region) (k : Nat) (f : Ct → Ct) : (r.updCt k f).heatP = r.heatP := rfl
@[simp] theorem updCt_pause (r : Region) (k : Nat) (f : Ct → Ct) : (r.updCt k f).pause = r.pause := rfl
@[simp] theorem updCt_wctx (r : Region) (k : Nat) (f : Ct → Ct) : (r.updCt k f).wctx = r.wctx := rfl
@[simp] theorem updCt_ptags (r : Region) (k : Nat) (f : Ct → Ct) : (r.updCt k f).ptags = r.ptags := rfl

@[simp] theorem updIn_rid (r : Region) (k i : Nat) (f : Chan → Chan) : (r.updIn k i f).rid = r.rid := rfl
@[simp] theorem updIn_rcb (r : Region) (k i : Nat) (f : Chan → Chan) : (r.updIn k i f).rcb = r.rcb := rfl
@[simp] theorem updIn_part (r : Region) (k i : Nat) (f : Chan → Chan) : (r.updIn k i f).part = r.part := rfl
@[simp] theorem updIn_st (r : Region) (k i : Nat) (f : Chan → Chan) : (r.updIn k i f).st = r.st := rfl
@[simp] theorem updIn_busy (r : Region) (k i : Nat) (f : Chan → Chan) : (r.updIn k i f).busy = r.busy := rfl
@[simp] theorem updIn_lastop (r : Region) (k i : Nat) (f : Chan → Chan) : (r.updIn k i f).lastop = r.lastop := rfl
@[simp] theorem updIn_lstat (r : Region) (k i : Nat) (f : Chan → Chan) : (r.updIn k i f).lstat = r.lstat := rfl
@[simp] theorem updIn_res (r : Region) (k i : Nat) (f : Chan → Chan) : (r.updIn k i f).res = r.res := rfl
@[simp] theorem updIn_frz (r : Region) (k i : Nat) (f : Chan → Chan) : (r.updIn k i f).frz = r.frz := rfl
@[simp] theorem updIn_sdem (r : Region) (k i : Nat) (f : Chan → Chan) : (r.updIn k i f).sdem = r.sdem := rfl
@[simp] theorem updIn_rpq (r : Region) (k i : Nat) (f : Chan → Chan) : (r.updIn k i f).rpq = r.rpq := rfl
@[simp] theorem updIn_fidl (r : Region) (k i : Nat) (f : Chan → Chan) : (r.updIn k i f).fidl = r.fidl := rfl
@[simp] theorem updIn_doneC (r : Region) (k i : Nat) (f : Chan → Chan) : (r.updIn k i f).doneC = r.doneC := rfl
@[simp] theorem updIn_origin (r : Region) (k i : Nat) (f : Chan → Chan) : (r.updIn k i f).origin = r.origin := rfl
@[simp] theorem updIn_eprio (r : Region) (k i : Nat) (f : Chan → Chan) : (r.updIn k i f).eprio = r.eprio := rfl
@[simp] theorem updIn_untrk (r : Region) (k i : Nat) (f : Chan → Chan) : (r.updIn k i f).untrk = r.untrk := rfl
@[simp] theorem updIn_runs (r : Region) (k i : Nat) (f : Chan → Chan) : (r.updIn k i f).runs = r.runs := rfl
@[simp] theorem updIn_eff3 (r : Region) (k i : Nat) (f : Chan → Chan) : (r.updIn k i f).eff3 = r.eff3 := rfl
@[simp] theorem updIn_eff4 (r : Region) (k i : Nat) (f : Chan → Chan) : (r.updIn k i f).eff4 = r.eff4 := rfl
@[simp] theorem updIn_eff5 (r : Region) (k i : Nat) (f : Chan → Chan) : (r.updIn k i f).eff5 = r.eff5 := rfl
@[simp] theorem updIn_chain (r : Region) (k i : Nat) (f : Chan → Chan) : (r.updIn k i f).chain = r.chain := rfl
@[simp] theorem updIn_onl (r : Region) (k i : Nat) (f : Chan → Chan) : (r.updIn k i f).onl = r.onl := rfl
@[simp] theorem updIn_w (r : Region) (k i : Nat) (f : Chan → Chan) : (r.updIn k i f).w = r.w := rfl
@[simp] theorem updIn_h (r : Region) (k i : Nat) (f : Chan → Chan) : (r.updIn k i f).h = r.h := rfl
@[simp] theorem updIn_doneN (r : Region) (k i : Nat) (f : Chan → Chan) : (r.updIn k i f).doneN = r.doneN := rfl
@[simp] theorem updIn_shp (r : Region) (k i : Nat) (f : Chan → Chan) : (r.updIn k i f).shp = r.shp := rfl
@[simp] theorem updIn_pair (r : Region) (k i : Nat) (f : Chan → Chan) : (r.updIn k i f).pair = r.pair := rfl
@[simp] theorem updIn_image (r : Region) (k i : Nat) (f : Chan → Chan) : (r.updIn k i f).image = r.image := rfl
@[simp] theorem updIn_caps (r : Region) (k i : Nat) (f : Chan → Chan) : (r.updIn k i f).caps = r.caps := rfl
@[simp] theorem updIn_mt (r : Region) (k i : Nat) (f : Chan → Chan) : (r.updIn k i f).mt = r.mt := rfl
@[simp] theorem updIn_pres (r : Region) (k i : Nat) (f : Chan → Chan) : (r.updIn k i f).pres = r.pres := rfl
@[simp] theorem updIn_pois (r : Region) (k i : Nat) (f : Chan → Chan) : (r.updIn k i f).pois = r.pois := rfl
@[simp] theorem updIn_par (r : Region) (k i : Nat) (f : Chan → Chan) : (r.updIn k i f).par = r.par := rfl
@[simp] theorem updIn_parPres (r : Region) (k i : Nat) (f : Chan → Chan) : (r.updIn k i f).parPres = r.parPres := rfl
@[simp] theorem updIn_parPois (r : Region) (k i : Nat) (f : Chan → Chan) : (r.updIn k i f).parPois = r.parPois := rfl
@[simp] theorem updIn_patch (r : Region) (k i : Nat) (f : Chan → Chan) : (r.updIn k i f).patch = r.patch := rfl
@[simp] theorem updIn_coln (r : Region) (k i : Nat) (f : Chan → Chan) : (r.updIn k i f).coln = r.coln := rfl
@[simp] theorem updIn_pool (r : Region) (k i : Nat) (f : Chan → Chan) : (r.updIn k i f).pool = r.pool := rfl
@[simp] theorem updIn_cols (r : Region) (k i : Nat) (f : Chan → Chan) : (r.updIn k i f).cols = r.cols := rfl
@[simp] theorem updIn_grants (r : Region) (k i : Nat) (f : Chan → Chan) : (r.updIn k i f).grants = r.grants := rfl
@[simp] theorem updIn_colEnd (r : Region) (k i : Nat) (f : Chan → Chan) : (r.updIn k i f).colEnd = r.colEnd := rfl
@[simp] theorem updIn_flight (r : Region) (k i : Nat) (f : Chan → Chan) : (r.updIn k i f).flight = r.flight := rfl
@[simp] theorem updIn_seq (r : Region) (k i : Nat) (f : Chan → Chan) : (r.updIn k i f).seq = r.seq := rfl
@[simp] theorem updIn_rcyc (r : Region) (k i : Nat) (f : Chan → Chan) : (r.updIn k i f).rcyc = r.rcyc := rfl
@[simp] theorem updIn_drain (r : Region) (k i : Nat) (f : Chan → Chan) : (r.updIn k i f).drain = r.drain := rfl
@[simp] theorem updIn_drainSl (r : Region) (k i : Nat) (f : Chan → Chan) : (r.updIn k i f).drainSl = r.drainSl := rfl
@[simp] theorem updIn_settled (r : Region) (k i : Nat) (f : Chan → Chan) : (r.updIn k i f).settled = r.settled := rfl
@[simp] theorem updIn_cut (r : Region) (k i : Nat) (f : Chan → Chan) : (r.updIn k i f).cut = r.cut := rfl
@[simp] theorem updIn_frzReq (r : Region) (k i : Nat) (f : Chan → Chan) : (r.updIn k i f).frzReq = r.frzReq := rfl
@[simp] theorem updIn_frzAge (r : Region) (k i : Nat) (f : Chan → Chan) : (r.updIn k i f).frzAge = r.frzAge := rfl
@[simp] theorem updIn_tx (r : Region) (k i : Nat) (f : Chan → Chan) : (r.updIn k i f).tx = r.tx := rfl
@[simp] theorem updIn_strms (r : Region) (k i : Nat) (f : Chan → Chan) : (r.updIn k i f).strms = r.strms := rfl
@[simp] theorem updIn_copies (r : Region) (k i : Nat) (f : Chan → Chan) : (r.updIn k i f).copies = r.copies := rfl
@[simp] theorem updIn_cpyid (r : Region) (k i : Nat) (f : Chan → Chan) : (r.updIn k i f).cpyid = r.cpyid := rfl
@[simp] theorem updIn_cstat (r : Region) (k i : Nat) (f : Chan → Chan) : (r.updIn k i f).cstat = r.cstat := rfl
@[simp] theorem updIn_nles (r : Region) (k i : Nat) (f : Chan → Chan) : (r.updIn k i f).nles = r.nles := rfl
@[simp] theorem updIn_recs (r : Region) (k i : Nat) (f : Chan → Chan) : (r.updIn k i f).recs = r.recs := rfl
@[simp] theorem updIn_lop (r : Region) (k i : Nat) (f : Chan → Chan) : (r.updIn k i f).lop = r.lop := rfl
@[simp] theorem updIn_partner (r : Region) (k i : Nat) (f : Chan → Chan) : (r.updIn k i f).partner = r.partner := rfl
@[simp] theorem updIn_active (r : Region) (k i : Nat) (f : Chan → Chan) : (r.updIn k i f).active = r.active := rfl
@[simp] theorem updIn_parked (r : Region) (k i : Nat) (f : Chan → Chan) : (r.updIn k i f).parked = r.parked := rfl
@[simp] theorem updIn_spent (r : Region) (k i : Nat) (f : Chan → Chan) : (r.updIn k i f).spent = r.spent := rfl
@[simp] theorem updIn_quiet (r : Region) (k i : Nat) (f : Chan → Chan) : (r.updIn k i f).quiet = r.quiet := rfl
@[simp] theorem updIn_cnt (r : Region) (k i : Nat) (f : Chan → Chan) : (r.updIn k i f).cnt = r.cnt := rfl
@[simp] theorem updIn_rest (r : Region) (k i : Nat) (f : Chan → Chan) : (r.updIn k i f).rest = r.rest := rfl
@[simp] theorem updIn_shState (r : Region) (k i : Nat) (f : Chan → Chan) : (r.updIn k i f).shState = r.shState := rfl
@[simp] theorem updIn_host (r : Region) (k i : Nat) (f : Chan → Chan) : (r.updIn k i f).host = r.host := rfl
@[simp] theorem updIn_cmplt (r : Region) (k i : Nat) (f : Chan → Chan) : (r.updIn k i f).cmplt = r.cmplt := rfl
@[simp] theorem updIn_cmpltQ (r : Region) (k i : Nat) (f : Chan → Chan) : (r.updIn k i f).cmpltQ = r.cmpltQ := rfl
@[simp] theorem updIn_mcheck (r : Region) (k i : Nat) (f : Chan → Chan) : (r.updIn k i f).mcheck = r.mcheck := rfl
@[simp] theorem updIn_rheat (r : Region) (k i : Nat) (f : Chan → Chan) : (r.updIn k i f).rheat = r.rheat := rfl
@[simp] theorem updIn_sysAns (r : Region) (k i : Nat) (f : Chan → Chan) : (r.updIn k i f).sysAns = r.sysAns := rfl
@[simp] theorem updIn_moving (r : Region) (k i : Nat) (f : Chan → Chan) : (r.updIn k i f).moving = r.moving := rfl
@[simp] theorem updIn_cwEnd (r : Region) (k i : Nat) (f : Chan → Chan) : (r.updIn k i f).cwEnd = r.cwEnd := rfl
@[simp] theorem updIn_heatP (r : Region) (k i : Nat) (f : Chan → Chan) : (r.updIn k i f).heatP = r.heatP := rfl
@[simp] theorem updIn_pause (r : Region) (k i : Nat) (f : Chan → Chan) : (r.updIn k i f).pause = r.pause := rfl
@[simp] theorem updIn_wctx (r : Region) (k i : Nat) (f : Chan → Chan) : (r.updIn k i f).wctx = r.wctx := rfl
@[simp] theorem updIn_ptags (r : Region) (k i : Nat) (f : Chan → Chan) : (r.updIn k i f).ptags = r.ptags := rfl

@[simp] theorem updU_rid (r : Region) (k : Nat) (f : MtU → MtU) : (r.updU k f).rid = r.rid := rfl
@[simp] theorem updU_rcb (r : Region) (k : Nat) (f : MtU → MtU) : (r.updU k f).rcb = r.rcb := rfl
@[simp] theorem updU_part (r : Region) (k : Nat) (f : MtU → MtU) : (r.updU k f).part = r.part := rfl
@[simp] theorem updU_st (r : Region) (k : Nat) (f : MtU → MtU) : (r.updU k f).st = r.st := rfl
@[simp] theorem updU_busy (r : Region) (k : Nat) (f : MtU → MtU) : (r.updU k f).busy = r.busy := rfl
@[simp] theorem updU_lastop (r : Region) (k : Nat) (f : MtU → MtU) : (r.updU k f).lastop = r.lastop := rfl
@[simp] theorem updU_lstat (r : Region) (k : Nat) (f : MtU → MtU) : (r.updU k f).lstat = r.lstat := rfl
@[simp] theorem updU_res (r : Region) (k : Nat) (f : MtU → MtU) : (r.updU k f).res = r.res := rfl
@[simp] theorem updU_frz (r : Region) (k : Nat) (f : MtU → MtU) : (r.updU k f).frz = r.frz := rfl
@[simp] theorem updU_sdem (r : Region) (k : Nat) (f : MtU → MtU) : (r.updU k f).sdem = r.sdem := rfl
@[simp] theorem updU_rpq (r : Region) (k : Nat) (f : MtU → MtU) : (r.updU k f).rpq = r.rpq := rfl
@[simp] theorem updU_fidl (r : Region) (k : Nat) (f : MtU → MtU) : (r.updU k f).fidl = r.fidl := rfl
@[simp] theorem updU_doneC (r : Region) (k : Nat) (f : MtU → MtU) : (r.updU k f).doneC = r.doneC := rfl
@[simp] theorem updU_origin (r : Region) (k : Nat) (f : MtU → MtU) : (r.updU k f).origin = r.origin := rfl
@[simp] theorem updU_eprio (r : Region) (k : Nat) (f : MtU → MtU) : (r.updU k f).eprio = r.eprio := rfl
@[simp] theorem updU_untrk (r : Region) (k : Nat) (f : MtU → MtU) : (r.updU k f).untrk = r.untrk := rfl
@[simp] theorem updU_runs (r : Region) (k : Nat) (f : MtU → MtU) : (r.updU k f).runs = r.runs := rfl
@[simp] theorem updU_eff3 (r : Region) (k : Nat) (f : MtU → MtU) : (r.updU k f).eff3 = r.eff3 := rfl
@[simp] theorem updU_eff4 (r : Region) (k : Nat) (f : MtU → MtU) : (r.updU k f).eff4 = r.eff4 := rfl
@[simp] theorem updU_eff5 (r : Region) (k : Nat) (f : MtU → MtU) : (r.updU k f).eff5 = r.eff5 := rfl
@[simp] theorem updU_chain (r : Region) (k : Nat) (f : MtU → MtU) : (r.updU k f).chain = r.chain := rfl
@[simp] theorem updU_onl (r : Region) (k : Nat) (f : MtU → MtU) : (r.updU k f).onl = r.onl := rfl
@[simp] theorem updU_w (r : Region) (k : Nat) (f : MtU → MtU) : (r.updU k f).w = r.w := rfl
@[simp] theorem updU_h (r : Region) (k : Nat) (f : MtU → MtU) : (r.updU k f).h = r.h := rfl
@[simp] theorem updU_doneN (r : Region) (k : Nat) (f : MtU → MtU) : (r.updU k f).doneN = r.doneN := rfl
@[simp] theorem updU_shp (r : Region) (k : Nat) (f : MtU → MtU) : (r.updU k f).shp = r.shp := rfl
@[simp] theorem updU_pair (r : Region) (k : Nat) (f : MtU → MtU) : (r.updU k f).pair = r.pair := rfl
@[simp] theorem updU_image (r : Region) (k : Nat) (f : MtU → MtU) : (r.updU k f).image = r.image := rfl
@[simp] theorem updU_caps (r : Region) (k : Nat) (f : MtU → MtU) : (r.updU k f).caps = r.caps := rfl
@[simp] theorem updU_mt (r : Region) (k : Nat) (f : MtU → MtU) : (r.updU k f).mt = r.mt := rfl
@[simp] theorem updU_pres (r : Region) (k : Nat) (f : MtU → MtU) : (r.updU k f).pres = r.pres := rfl
@[simp] theorem updU_pois (r : Region) (k : Nat) (f : MtU → MtU) : (r.updU k f).pois = r.pois := rfl
@[simp] theorem updU_par (r : Region) (k : Nat) (f : MtU → MtU) : (r.updU k f).par = r.par := rfl
@[simp] theorem updU_parPres (r : Region) (k : Nat) (f : MtU → MtU) : (r.updU k f).parPres = r.parPres := rfl
@[simp] theorem updU_parPois (r : Region) (k : Nat) (f : MtU → MtU) : (r.updU k f).parPois = r.parPois := rfl
@[simp] theorem updU_patch (r : Region) (k : Nat) (f : MtU → MtU) : (r.updU k f).patch = r.patch := rfl
@[simp] theorem updU_coln (r : Region) (k : Nat) (f : MtU → MtU) : (r.updU k f).coln = r.coln := rfl
@[simp] theorem updU_pool (r : Region) (k : Nat) (f : MtU → MtU) : (r.updU k f).pool = r.pool := rfl
@[simp] theorem updU_cols (r : Region) (k : Nat) (f : MtU → MtU) : (r.updU k f).cols = r.cols := rfl
@[simp] theorem updU_grants (r : Region) (k : Nat) (f : MtU → MtU) : (r.updU k f).grants = r.grants := rfl
@[simp] theorem updU_colEnd (r : Region) (k : Nat) (f : MtU → MtU) : (r.updU k f).colEnd = r.colEnd := rfl
@[simp] theorem updU_flight (r : Region) (k : Nat) (f : MtU → MtU) : (r.updU k f).flight = r.flight := rfl
@[simp] theorem updU_seq (r : Region) (k : Nat) (f : MtU → MtU) : (r.updU k f).seq = r.seq := rfl
@[simp] theorem updU_rcyc (r : Region) (k : Nat) (f : MtU → MtU) : (r.updU k f).rcyc = r.rcyc := rfl
@[simp] theorem updU_drain (r : Region) (k : Nat) (f : MtU → MtU) : (r.updU k f).drain = r.drain := rfl
@[simp] theorem updU_drainSl (r : Region) (k : Nat) (f : MtU → MtU) : (r.updU k f).drainSl = r.drainSl := rfl
@[simp] theorem updU_settled (r : Region) (k : Nat) (f : MtU → MtU) : (r.updU k f).settled = r.settled := rfl
@[simp] theorem updU_cut (r : Region) (k : Nat) (f : MtU → MtU) : (r.updU k f).cut = r.cut := rfl
@[simp] theorem updU_frzReq (r : Region) (k : Nat) (f : MtU → MtU) : (r.updU k f).frzReq = r.frzReq := rfl
@[simp] theorem updU_frzAge (r : Region) (k : Nat) (f : MtU → MtU) : (r.updU k f).frzAge = r.frzAge := rfl
@[simp] theorem updU_tx (r : Region) (k : Nat) (f : MtU → MtU) : (r.updU k f).tx = r.tx := rfl
@[simp] theorem updU_strms (r : Region) (k : Nat) (f : MtU → MtU) : (r.updU k f).strms = r.strms := rfl
@[simp] theorem updU_copies (r : Region) (k : Nat) (f : MtU → MtU) : (r.updU k f).copies = r.copies := rfl
@[simp] theorem updU_cpyid (r : Region) (k : Nat) (f : MtU → MtU) : (r.updU k f).cpyid = r.cpyid := rfl
@[simp] theorem updU_cstat (r : Region) (k : Nat) (f : MtU → MtU) : (r.updU k f).cstat = r.cstat := rfl
@[simp] theorem updU_nles (r : Region) (k : Nat) (f : MtU → MtU) : (r.updU k f).nles = r.nles := rfl
@[simp] theorem updU_recs (r : Region) (k : Nat) (f : MtU → MtU) : (r.updU k f).recs = r.recs := rfl
@[simp] theorem updU_lop (r : Region) (k : Nat) (f : MtU → MtU) : (r.updU k f).lop = r.lop := rfl
@[simp] theorem updU_partner (r : Region) (k : Nat) (f : MtU → MtU) : (r.updU k f).partner = r.partner := rfl
@[simp] theorem updU_active (r : Region) (k : Nat) (f : MtU → MtU) : (r.updU k f).active = r.active := rfl
@[simp] theorem updU_parked (r : Region) (k : Nat) (f : MtU → MtU) : (r.updU k f).parked = r.parked := rfl
@[simp] theorem updU_spent (r : Region) (k : Nat) (f : MtU → MtU) : (r.updU k f).spent = r.spent := rfl
@[simp] theorem updU_quiet (r : Region) (k : Nat) (f : MtU → MtU) : (r.updU k f).quiet = r.quiet := rfl
@[simp] theorem updU_cnt (r : Region) (k : Nat) (f : MtU → MtU) : (r.updU k f).cnt = r.cnt := rfl
@[simp] theorem updU_rest (r : Region) (k : Nat) (f : MtU → MtU) : (r.updU k f).rest = r.rest := rfl
@[simp] theorem updU_shState (r : Region) (k : Nat) (f : MtU → MtU) : (r.updU k f).shState = r.shState := rfl
@[simp] theorem updU_host (r : Region) (k : Nat) (f : MtU → MtU) : (r.updU k f).host = r.host := rfl
@[simp] theorem updU_cmplt (r : Region) (k : Nat) (f : MtU → MtU) : (r.updU k f).cmplt = r.cmplt := rfl
@[simp] theorem updU_cmpltQ (r : Region) (k : Nat) (f : MtU → MtU) : (r.updU k f).cmpltQ = r.cmpltQ := rfl
@[simp] theorem updU_mcheck (r : Region) (k : Nat) (f : MtU → MtU) : (r.updU k f).mcheck = r.mcheck := rfl
@[simp] theorem updU_rheat (r : Region) (k : Nat) (f : MtU → MtU) : (r.updU k f).rheat = r.rheat := rfl
@[simp] theorem updU_sysAns (r : Region) (k : Nat) (f : MtU → MtU) : (r.updU k f).sysAns = r.sysAns := rfl
@[simp] theorem updU_moving (r : Region) (k : Nat) (f : MtU → MtU) : (r.updU k f).moving = r.moving := rfl
@[simp] theorem updU_cwEnd (r : Region) (k : Nat) (f : MtU → MtU) : (r.updU k f).cwEnd = r.cwEnd := rfl
@[simp] theorem updU_heatP (r : Region) (k : Nat) (f : MtU → MtU) : (r.updU k f).heatP = r.heatP := rfl
@[simp] theorem updU_pause (r : Region) (k : Nat) (f : MtU → MtU) : (r.updU k f).pause = r.pause := rfl
@[simp] theorem updU_wctx (r : Region) (k : Nat) (f : MtU → MtU) : (r.updU k f).wctx = r.wctx := rfl
@[simp] theorem updU_ptags (r : Region) (k : Nat) (f : MtU → MtU) : (r.updU k f).ptags = r.ptags := rfl

@[simp] theorem updHnd_rid (r : Region) (k h : Nat) (f : Hnd → Hnd) : (r.updHnd k h f).rid = r.rid := rfl
@[simp] theorem updHnd_rcb (r : Region) (k h : Nat) (f : Hnd → Hnd) : (r.updHnd k h f).rcb = r.rcb := rfl
@[simp] theorem updHnd_part (r : Region) (k h : Nat) (f : Hnd → Hnd) : (r.updHnd k h f).part = r.part := rfl
@[simp] theorem updHnd_st (r : Region) (k h : Nat) (f : Hnd → Hnd) : (r.updHnd k h f).st = r.st := rfl
@[simp] theorem updHnd_busy (r : Region) (k h : Nat) (f : Hnd → Hnd) : (r.updHnd k h f).busy = r.busy := rfl
@[simp] theorem updHnd_lastop (r : Region) (k h : Nat) (f : Hnd → Hnd) : (r.updHnd k h f).lastop = r.lastop := rfl
@[simp] theorem updHnd_lstat (r : Region) (k h : Nat) (f : Hnd → Hnd) : (r.updHnd k h f).lstat = r.lstat := rfl
@[simp] theorem updHnd_res (r : Region) (k h : Nat) (f : Hnd → Hnd) : (r.updHnd k h f).res = r.res := rfl
@[simp] theorem updHnd_frz (r : Region) (k h : Nat) (f : Hnd → Hnd) : (r.updHnd k h f).frz = r.frz := rfl
@[simp] theorem updHnd_sdem (r : Region) (k h : Nat) (f : Hnd → Hnd) : (r.updHnd k h f).sdem = r.sdem := rfl
@[simp] theorem updHnd_rpq (r : Region) (k h : Nat) (f : Hnd → Hnd) : (r.updHnd k h f).rpq = r.rpq := rfl
@[simp] theorem updHnd_fidl (r : Region) (k h : Nat) (f : Hnd → Hnd) : (r.updHnd k h f).fidl = r.fidl := rfl
@[simp] theorem updHnd_doneC (r : Region) (k h : Nat) (f : Hnd → Hnd) : (r.updHnd k h f).doneC = r.doneC := rfl
@[simp] theorem updHnd_origin (r : Region) (k h : Nat) (f : Hnd → Hnd) : (r.updHnd k h f).origin = r.origin := rfl
@[simp] theorem updHnd_eprio (r : Region) (k h : Nat) (f : Hnd → Hnd) : (r.updHnd k h f).eprio = r.eprio := rfl
@[simp] theorem updHnd_untrk (r : Region) (k h : Nat) (f : Hnd → Hnd) : (r.updHnd k h f).untrk = r.untrk := rfl
@[simp] theorem updHnd_runs (r : Region) (k h : Nat) (f : Hnd → Hnd) : (r.updHnd k h f).runs = r.runs := rfl
@[simp] theorem updHnd_eff3 (r : Region) (k h : Nat) (f : Hnd → Hnd) : (r.updHnd k h f).eff3 = r.eff3 := rfl
@[simp] theorem updHnd_eff4 (r : Region) (k h : Nat) (f : Hnd → Hnd) : (r.updHnd k h f).eff4 = r.eff4 := rfl
@[simp] theorem updHnd_eff5 (r : Region) (k h : Nat) (f : Hnd → Hnd) : (r.updHnd k h f).eff5 = r.eff5 := rfl
@[simp] theorem updHnd_chain (r : Region) (k h : Nat) (f : Hnd → Hnd) : (r.updHnd k h f).chain = r.chain := rfl
@[simp] theorem updHnd_onl (r : Region) (k h : Nat) (f : Hnd → Hnd) : (r.updHnd k h f).onl = r.onl := rfl
@[simp] theorem updHnd_w (r : Region) (k h : Nat) (f : Hnd → Hnd) : (r.updHnd k h f).w = r.w := rfl
@[simp] theorem updHnd_h (r : Region) (k h : Nat) (f : Hnd → Hnd) : (r.updHnd k h f).h = r.h := rfl
@[simp] theorem updHnd_doneN (r : Region) (k h : Nat) (f : Hnd → Hnd) : (r.updHnd k h f).doneN = r.doneN := rfl
@[simp] theorem updHnd_shp (r : Region) (k h : Nat) (f : Hnd → Hnd) : (r.updHnd k h f).shp = r.shp := rfl
@[simp] theorem updHnd_pair (r : Region) (k h : Nat) (f : Hnd → Hnd) : (r.updHnd k h f).pair = r.pair := rfl
@[simp] theorem updHnd_image (r : Region) (k h : Nat) (f : Hnd → Hnd) : (r.updHnd k h f).image = r.image := rfl
@[simp] theorem updHnd_caps (r : Region) (k h : Nat) (f : Hnd → Hnd) : (r.updHnd k h f).caps = r.caps := rfl
@[simp] theorem updHnd_mt (r : Region) (k h : Nat) (f : Hnd → Hnd) : (r.updHnd k h f).mt = r.mt := rfl
@[simp] theorem updHnd_pres (r : Region) (k h : Nat) (f : Hnd → Hnd) : (r.updHnd k h f).pres = r.pres := rfl
@[simp] theorem updHnd_pois (r : Region) (k h : Nat) (f : Hnd → Hnd) : (r.updHnd k h f).pois = r.pois := rfl
@[simp] theorem updHnd_par (r : Region) (k h : Nat) (f : Hnd → Hnd) : (r.updHnd k h f).par = r.par := rfl
@[simp] theorem updHnd_parPres (r : Region) (k h : Nat) (f : Hnd → Hnd) : (r.updHnd k h f).parPres = r.parPres := rfl
@[simp] theorem updHnd_parPois (r : Region) (k h : Nat) (f : Hnd → Hnd) : (r.updHnd k h f).parPois = r.parPois := rfl
@[simp] theorem updHnd_patch (r : Region) (k h : Nat) (f : Hnd → Hnd) : (r.updHnd k h f).patch = r.patch := rfl
@[simp] theorem updHnd_coln (r : Region) (k h : Nat) (f : Hnd → Hnd) : (r.updHnd k h f).coln = r.coln := rfl
@[simp] theorem updHnd_pool (r : Region) (k h : Nat) (f : Hnd → Hnd) : (r.updHnd k h f).pool = r.pool := rfl
@[simp] theorem updHnd_cols (r : Region) (k h : Nat) (f : Hnd → Hnd) : (r.updHnd k h f).cols = r.cols := rfl
@[simp] theorem updHnd_grants (r : Region) (k h : Nat) (f : Hnd → Hnd) : (r.updHnd k h f).grants = r.grants := rfl
@[simp] theorem updHnd_colEnd (r : Region) (k h : Nat) (f : Hnd → Hnd) : (r.updHnd k h f).colEnd = r.colEnd := rfl
@[simp] theorem updHnd_flight (r : Region) (k h : Nat) (f : Hnd → Hnd) : (r.updHnd k h f).flight = r.flight := rfl
@[simp] theorem updHnd_seq (r : Region) (k h : Nat) (f : Hnd → Hnd) : (r.updHnd k h f).seq = r.seq := rfl
@[simp] theorem updHnd_rcyc (r : Region) (k h : Nat) (f : Hnd → Hnd) : (r.updHnd k h f).rcyc = r.rcyc := rfl
@[simp] theorem updHnd_drain (r : Region) (k h : Nat) (f : Hnd → Hnd) : (r.updHnd k h f).drain = r.drain := rfl
@[simp] theorem updHnd_drainSl (r : Region) (k h : Nat) (f : Hnd → Hnd) : (r.updHnd k h f).drainSl = r.drainSl := rfl
@[simp] theorem updHnd_settled (r : Region) (k h : Nat) (f : Hnd → Hnd) : (r.updHnd k h f).settled = r.settled := rfl
@[simp] theorem updHnd_cut (r : Region) (k h : Nat) (f : Hnd → Hnd) : (r.updHnd k h f).cut = r.cut := rfl
@[simp] theorem updHnd_frzReq (r : Region) (k h : Nat) (f : Hnd → Hnd) : (r.updHnd k h f).frzReq = r.frzReq := rfl
@[simp] theorem updHnd_frzAge (r : Region) (k h : Nat) (f : Hnd → Hnd) : (r.updHnd k h f).frzAge = r.frzAge := rfl
@[simp] theorem updHnd_tx (r : Region) (k h : Nat) (f : Hnd → Hnd) : (r.updHnd k h f).tx = r.tx := rfl
@[simp] theorem updHnd_strms (r : Region) (k h : Nat) (f : Hnd → Hnd) : (r.updHnd k h f).strms = r.strms := rfl
@[simp] theorem updHnd_copies (r : Region) (k h : Nat) (f : Hnd → Hnd) : (r.updHnd k h f).copies = r.copies := rfl
@[simp] theorem updHnd_cpyid (r : Region) (k h : Nat) (f : Hnd → Hnd) : (r.updHnd k h f).cpyid = r.cpyid := rfl
@[simp] theorem updHnd_cstat (r : Region) (k h : Nat) (f : Hnd → Hnd) : (r.updHnd k h f).cstat = r.cstat := rfl
@[simp] theorem updHnd_nles (r : Region) (k h : Nat) (f : Hnd → Hnd) : (r.updHnd k h f).nles = r.nles := rfl
@[simp] theorem updHnd_recs (r : Region) (k h : Nat) (f : Hnd → Hnd) : (r.updHnd k h f).recs = r.recs := rfl
@[simp] theorem updHnd_lop (r : Region) (k h : Nat) (f : Hnd → Hnd) : (r.updHnd k h f).lop = r.lop := rfl
@[simp] theorem updHnd_partner (r : Region) (k h : Nat) (f : Hnd → Hnd) : (r.updHnd k h f).partner = r.partner := rfl
@[simp] theorem updHnd_active (r : Region) (k h : Nat) (f : Hnd → Hnd) : (r.updHnd k h f).active = r.active := rfl
@[simp] theorem updHnd_parked (r : Region) (k h : Nat) (f : Hnd → Hnd) : (r.updHnd k h f).parked = r.parked := rfl
@[simp] theorem updHnd_spent (r : Region) (k h : Nat) (f : Hnd → Hnd) : (r.updHnd k h f).spent = r.spent := rfl
@[simp] theorem updHnd_quiet (r : Region) (k h : Nat) (f : Hnd → Hnd) : (r.updHnd k h f).quiet = r.quiet := rfl
@[simp] theorem updHnd_cnt (r : Region) (k h : Nat) (f : Hnd → Hnd) : (r.updHnd k h f).cnt = r.cnt := rfl
@[simp] theorem updHnd_rest (r : Region) (k h : Nat) (f : Hnd → Hnd) : (r.updHnd k h f).rest = r.rest := rfl
@[simp] theorem updHnd_shState (r : Region) (k h : Nat) (f : Hnd → Hnd) : (r.updHnd k h f).shState = r.shState := rfl
@[simp] theorem updHnd_host (r : Region) (k h : Nat) (f : Hnd → Hnd) : (r.updHnd k h f).host = r.host := rfl
@[simp] theorem updHnd_cmplt (r : Region) (k h : Nat) (f : Hnd → Hnd) : (r.updHnd k h f).cmplt = r.cmplt := rfl
@[simp] theorem updHnd_cmpltQ (r : Region) (k h : Nat) (f : Hnd → Hnd) : (r.updHnd k h f).cmpltQ = r.cmpltQ := rfl
@[simp] theorem updHnd_mcheck (r : Region) (k h : Nat) (f : Hnd → Hnd) : (r.updHnd k h f).mcheck = r.mcheck := rfl
@[simp] theorem updHnd_rheat (r : Region) (k h : Nat) (f : Hnd → Hnd) : (r.updHnd k h f).rheat = r.rheat := rfl
@[simp] theorem updHnd_sysAns (r : Region) (k h : Nat) (f : Hnd → Hnd) : (r.updHnd k h f).sysAns = r.sysAns := rfl
@[simp] theorem updHnd_moving (r : Region) (k h : Nat) (f : Hnd → Hnd) : (r.updHnd k h f).moving = r.moving := rfl
@[simp] theorem updHnd_cwEnd (r : Region) (k h : Nat) (f : Hnd → Hnd) : (r.updHnd k h f).cwEnd = r.cwEnd := rfl
@[simp] theorem updHnd_heatP (r : Region) (k h : Nat) (f : Hnd → Hnd) : (r.updHnd k h f).heatP = r.heatP := rfl
@[simp] theorem updHnd_pause (r : Region) (k h : Nat) (f : Hnd → Hnd) : (r.updHnd k h f).pause = r.pause := rfl
@[simp] theorem updHnd_wctx (r : Region) (k h : Nat) (f : Hnd → Hnd) : (r.updHnd k h f).wctx = r.wctx := rfl
@[simp] theorem updHnd_ptags (r : Region) (k h : Nat) (f : Hnd → Hnd) : (r.updHnd k h f).ptags = r.ptags := rfl

/-! ## Tiles, planes and PEs after an update -/

theorem tile_setTile (r : Region) (k j : Nat) (t : Tile) : (r.setTile k t).tile j = if j = k then t else r.tile j := tget_tset ..

@[simp] theorem tile_setTile_same (r : Region) (k : Nat) (t : Tile) : (r.setTile k t).tile k = t := by simp [tile_setTile]

theorem pl_setPl (r : Region) (k j : Nat) (p : Plane) : (r.setPl k p).pl j = if j = k then p else r.pl j := by
  simp only [Region.pl, Region.setPl, tile_setTile]; split <;> rfl

theorem pl_updPl (r : Region) (k j : Nat) (f : Plane → Plane) : (r.updPl k f).pl j = if j = k then f (r.pl k) else r.pl j := pl_setPl ..

@[simp] theorem pl_updPl_same (r : Region) (k : Nat) (f : Plane → Plane) : (r.updPl k f).pl k = f (r.pl k) := by simp [pl_updPl]

theorem ct_updPl (r : Region) (k j : Nat) (f : Plane → Plane) : (r.updPl k f).ct j = if j = k then (f (r.pl k)).ct else r.ct j := by
  simp only [Region.ct, pl_updPl]; split <;> rfl

theorem ct_updCt (r : Region) (k j : Nat) (f : Ct → Ct) : (r.updCt k f).ct j = if j = k then f (r.ct k) else r.ct j := by
  simp only [Region.updCt, ct_updPl]; rfl

@[simp] theorem ct_updCt_same (r : Region) (k : Nat) (f : Ct → Ct) : (r.updCt k f).ct k = f (r.ct k) := by simp [ct_updCt]

theorem ct_updIn (r : Region) (k i j : Nat) (f : Chan → Chan) : (r.updIn k i f).ct j = r.ct j := by
  simp only [Region.updIn, ct_updPl]; split
  · rename_i h; subst h; rfl
  · rfl

theorem ct_updU (r : Region) (k j : Nat) (f : MtU → MtU) : (r.updU k f).ct j = r.ct j := by
  simp only [Region.updU, ct_updPl]; split
  · rename_i h; subst h; rfl
  · rfl

theorem ct_updHnd (r : Region) (k h j : Nat) (f : Hnd → Hnd) : (r.updHnd k h f).ct j = r.ct j := by
  simp only [Region.updHnd, ct_updPl]; split
  · rename_i e; subst e; rfl
  · rfl

theorem chan_updIn (r : Region) (k i j n : Nat) (f : Chan → Chan) :
    (r.updIn k i f).chan j n = if j = k ∧ n = i then f (r.chan k i) else r.chan j n := by
  simp only [Region.chan, Region.updIn, pl_updPl]
  by_cases h : j = k
  · subst h
    simp only [if_true, tget_tupd, true_and]
  · simp [h]

theorem chan_updCt (r : Region) (k j n : Nat) (f : Ct → Ct) : (r.updCt k f).chan j n = r.chan j n := by
  simp only [Region.chan, Region.updCt, pl_updPl]; split
  · rename_i h; subst h; rfl
  · rfl

theorem hnd_updHnd (r : Region) (k i j n : Nat) (f : Hnd → Hnd) :
    (r.updHnd k i f).hnd j n = if j = k ∧ n = i then f (r.hnd k i) else r.hnd j n := by
  simp only [Region.hnd, Region.updHnd, pl_updPl]
  by_cases h : j = k
  · subst h
    simp only [if_true, tget_tupd, true_and]
  · simp [h]

end Sys2Proof.Machine
end

