-- ==== Sys2Proof/Laws/Fire.lean ====
section
/-! SUPPORT. What a firing does, once for all PE instructions: with the act's region it retires, with the act's trap it is cancelled, and
where the slot is not ready nothing happens. -/

namespace Sys2Proof.Machine

/-- A firing whose act gives r'. -/
theorem pe_fire_ok {s : State} {op : Nat} {t : Ti} {r r' : Region} {act : At → Region → Except TrapInfo Region} {pops : List Nat}
    (h : Fires s op t r) (ha : act s.here r = .ok r') : pe s (fun x r => fire x op t pops (act x) r) = .next (s.fired pops r') := by
  unfold pe onRegion
  rw [h.1]
  simp only [fire, h.2, if_true, ha]
  rfl

/-- A firing whose act traps. -/
theorem pe_fire_err {s : State} {op : Nat} {t : Ti} {r : Region} {e : TrapInfo} {act : At → Region → Except TrapInfo Region}
    {pops : List Nat} (h : Fires s op t r) (ha : act s.here r = .error e) :
    pe s (fun x r => fire x op t pops (act x) r) = .next (s.trapped r e) := by
  unfold pe onRegion
  rw [h.1]
  simp only [fire, h.2, if_true, ha]
  rfl

/-- A single-cycle scalar instruction that gives a value and a condition. -/
theorem pe_fireScalar_ok {s : State} {op : Nat} {t : Ti} {r : Region} {v : Val} {c : Bool}
    {f : At → Region → Opnds → Except TrapInfo (Val × Bool)} (h : Fires s op t r) (hf : f s.here r (s.opnds op t r) = .ok (v, c)) :
    pe s (fun x r => fireScalar x op t (f x) r) = .next (s.retired op t r v c) := by
  unfold fireScalar
  unfold State.opnds at hf
  refine pe_fire_ok (r' := (deliverS s.fc r s.curKey op t v t.om (colourOf r s.curKey op t)).updCt s.curKey (fun k => predUpd k t c))
    (act := fun x r => match f x r (opndsOf r x.key op t) with
      | .error e => .error e
      | .ok (v, cond) =>
        .ok ((deliverS x.fc r x.key op t v t.om (colourOf r x.key op t)).updCt x.key (fun c => predUpd c t cond))) h ?_
  have hf' := hf
  simp only [State.here] at hf' ⊢
  simp only [hf']

/-- A single-cycle scalar instruction that traps. -/
theorem pe_fireScalar_err {s : State} {op : Nat} {t : Ti} {r : Region} {e : TrapInfo}
    {f : At → Region → Opnds → Except TrapInfo (Val × Bool)} (h : Fires s op t r) (hf : f s.here r (s.opnds op t r) = .error e) :
    pe s (fun x r => fireScalar x op t (f x) r) = .next (s.trapped r e) := by
  unfold fireScalar
  unfold State.opnds at hf
  refine pe_fire_err
    (act := fun x r => match f x r (opndsOf r x.key op t) with
      | .error e => .error e
      | .ok (v, cond) =>
        .ok ((deliverS x.fc r x.key op t v t.om (colourOf r x.key op t)).updCt x.key (fun c => predUpd c t cond))) h ?_
  have hf' := hf
  simp only [State.here] at hf' ⊢
  simp only [hf']

/-- A single-cycle scalar instruction that gives a value, a condition, a mark and a colour. -/
theorem pe_fireToken_ok {s : State} {op : Nat} {t : Ti} {r : Region} {v : Val} {m : BitVec 2} {k : BitVec 10} {c : Bool}
    {f : At → Region → Opnds → Except TrapInfo (Val × BitVec 2 × BitVec 10 × Bool)} (h : Fires s op t r)
    (hf : f s.here r (s.opnds op t r) = .ok (v, m, k, c)) :
    pe s (fun x r => fireToken x op t (f x) r) = .next (s.retiredM op t r v m k c) := by
  unfold fireToken
  unfold State.opnds at hf
  refine pe_fire_ok (r' := (deliverS s.fc r s.curKey op t v m k).updCt s.curKey (fun ct => predUpd ct t c))
    (act := fun x r => match f x r (opndsOf r x.key op t) with
      | .error e => .error e
      | .ok (v, m, c, cond) => .ok ((deliverS x.fc r x.key op t v m c).updCt x.key (fun ct => predUpd ct t cond))) h ?_
  have hf' := hf
  simp only [State.here] at hf' ⊢
  simp only [hf']

/-- A long operation whose act gives its record. -/
theorem pe_fireLong_ok {s : State} {op : Nat} {t : Ti} {lat : Nat} {r : Region} {o : PendOp}
    {f : At → Region → Opnds → Except TrapInfo PendOp} (h : Fires s op t r) (hf : f s.here r (s.opnds op t r) = .ok o) :
    pe s (fun x r => fireLong x op t lat (f x) r)
      = .next (s.started op t r { o with due := some (s.fc + lat - 1), col := colourOf r s.curKey op t }) := by
  unfold fireLong
  unfold State.opnds at hf
  refine pe_fire_ok (r' := startOp s.here op t { o with due := some (s.fc + lat - 1), col := colourOf r s.curKey op t } r)
    (act := fun x r => match f x r (opndsOf r x.key op t) with
      | .error e => .error e
      | .ok o => .ok (startOp x op t { o with due := some (x.fc + lat - 1), col := colourOf r x.key op t } r)) h ?_
  have hf' := hf
  simp only [State.here] at hf' ⊢
  simp only [hf']

end Sys2Proof.Machine
end

