-- ==== Sys2Proof/Laws/MemWf.lean ====
section
/-! SUPPORT. Every operation on DRAM keeps the canonical form of the list that holds it, and the memory of the reset state has it. -/

namespace Sys2Proof.Machine

/-- A state whose DRAM list is canonical stays so in a fold of steps that each keep it. -/
theorem wf_foldl {α : Type} (l : List α) (f : State → α → State) (h : ∀ s a, Mem.wf s.mem = true → Mem.wf (f s a).mem = true) (s : State)
    (hs : Mem.wf s.mem = true) : Mem.wf (l.foldl f s).mem = true := by
  induction l generalizing s with
  | nil => exact hs
  | cons a l ih => exact ih _ (h s a hs)

/-- The same for a fold over the list itself. -/
theorem memWf_foldl {α : Type} (l : List α) (f : List Host.Cell → α → List Host.Cell)
    (h : ∀ m a, Mem.wf m = true → Mem.wf (f m a) = true) (m : List Host.Cell) (hm : Mem.wf m = true) : Mem.wf (l.foldl f m) = true := by
  induction l generalizing m with
  | nil => exact hm
  | cons a l ih => exact ih _ (h m a hm)

theorem reset_memWf : Mem.wf State.reset.mem = true := rfl

theorem setBitAt_wf {m : List Host.Cell} (a b : Nat) (v : Bool) (h : Mem.wf m = true) : Mem.wf (setBitAt m a b v) = true :=
  Mem.wf_wrByte _ _ h

theorem track_wf {s : State} (pa : Nat) (h : Mem.wf s.mem = true) : Mem.wf (s.track pa).mem = true := by
  unfold State.track
  split
  · exact h
  · dsimp only
    split
    · exact setBitAt_wf _ _ _ (setBitAt_wf _ _ _ (setBitAt_wf _ _ _ h))
    · exact setBitAt_wf _ _ _ h

theorem setPres_wf {s : State} (pa : Nat) (v : Bool) (h : Mem.wf s.mem = true) : Mem.wf (s.setPres pa v).mem = true :=
  track_wf _ (setBitAt_wf _ _ _ h)

@[simp] theorem events_mem (s : State) (pa : Nat) : (s.events pa).mem = s.mem := rfl
@[simp] theorem unreserve_mem (s : State) (pa n : Nat) : (s.unreserve pa n).mem = s.mem := rfl

theorem wr8_wf {s : State} (pa : Nat) (v : Val) (h : Mem.wf s.mem = true) : Mem.wf (s.wr8 pa v).mem = true := by
  unfold State.wr8
  dsimp only
  rw [unreserve_mem, events_mem]
  exact track_wf _ (Mem.wf_wrNat _ _ _ h)

theorem wrW_wf {s : State} (pa : Nat) (w : Word) (h : Mem.wf s.mem = true) : Mem.wf (s.wrW pa w).mem = true := wr8_wf _ _ h

theorem wrWs_wf {s : State} (pa : Nat) (ws : List Word) (h : Mem.wf s.mem = true) : Mem.wf (s.wrWs pa ws).mem = true :=
  wf_foldl _ _ (fun _ _ hs => wrW_wf _ _ hs) s h

theorem wrN_wf {s : State} (pa n : Nat) (v : Word) (h : Mem.wf s.mem = true) : Mem.wf (s.wrN pa n v).mem = true := by
  unfold State.wrN
  rw [unreserve_mem, events_mem]
  exact track_wf _ (Mem.wf_wrNat _ _ _ h)

theorem wrBs_wf {s : State} (pa : Nat) (bs : List Byte) (h : Mem.wf s.mem = true) : Mem.wf (s.wrBs pa bs).mem = true := by
  unfold State.wrBs
  dsimp only
  rw [unreserve_mem]
  refine wf_foldl _ _ (fun s a hs => by rw [events_mem]; exact hs) _ ?_
  exact wf_foldl _ _ (fun s a hs => track_wf a hs) _ (Mem.wf_wrBytes _ _ h)

theorem addHeat_wf {s : State} (part pa n : Nat) (h : Mem.wf s.mem = true) : Mem.wf (s.addHeat part pa n).mem = true := by
  unfold State.addHeat
  exact track_wf _ (Mem.wf_wrNat _ _ _ h)

theorem halveHeat_wf {s : State} (part : Nat) (h : Mem.wf s.mem = true) : Mem.wf (s.halveHeat part).mem = true := by
  unfold State.halveHeat
  exact wf_foldl _ _ (fun _ _ hs => track_wf _ (Mem.wf_wrNat _ _ _ hs)) _ h

/-- Writing a region's RCB words keeps the form (R323). -/
theorem sync_wf {s : State} (rid : Nat) (h : Mem.wf s.mem = true) : Mem.wf (s.sync rid).mem = true := by
  unfold State.sync
  split
  · exact h
  · exact wrWs_wf _ _ h

theorem updSync_wf {s : State} (rid : Nat) (f : Region → Region) (h : Mem.wf s.mem = true) : Mem.wf (s.updSync rid f).mem = true := by
  unfold State.updSync
  refine sync_wf _ ?_
  simpa using h

end Sys2Proof.Machine
end

