-- ==== Sys2Proof/Laws/Ops.lean ====
section
/-! SUPPORT. What the shared operations over a region can do, once for each: the channel operations leave every tile's context and every
word of the MTs alone. -/

namespace Sys2Proof.Machine

/-! ## One tile, one plane -/

theorem ct_updCt_ne (r : Region) {key k : Nat} (f : Ct → Ct) (h : k ≠ key) : (r.updCt key f).ct k = r.ct k := by simp [ct_updCt, h]

/-! ## What a channel operation leaves alone -/

/-- Every context, every byte of the MTs with its marks, the capabilities and the state of the region are the same. -/
def KeepCt (r r' : Region) : Prop :=
  (∀ k, r'.ct k = r.ct k) ∧ r'.mt = r.mt ∧ r'.pres = r.pres ∧ r'.pois = r.pois ∧ r'.caps = r.caps ∧ r'.st = r.st

theorem KeepCt.refl (r : Region) : KeepCt r r := ⟨fun _ => rfl, rfl, rfl, rfl, rfl, rfl⟩

theorem KeepCt.trans {a b c : Region} (h : KeepCt a b) (g : KeepCt b c) : KeepCt a c :=
  ⟨fun k => (g.1 k).trans (h.1 k), g.2.1.trans h.2.1, g.2.2.1.trans h.2.2.1, g.2.2.2.1.trans h.2.2.2.1,
   g.2.2.2.2.1.trans h.2.2.2.2.1, g.2.2.2.2.2.trans h.2.2.2.2.2⟩

theorem keepCt_updPl (r : Region) (key : Nat) (f : Plane → Plane) (h : ∀ p, (f p).ct = p.ct) : KeepCt r (r.updPl key f) := by
  refine ⟨fun k => ?_, rfl, rfl, rfl, rfl, rfl⟩
  rw [ct_updPl]
  split
  · rename_i e; subst e; exact h _
  · rfl

theorem keepCt_foldl {α : Type} (l : List α) (f : Region → α → Region) (h : ∀ r a, KeepCt r (f r a)) (r : Region) : KeepCt r (l.foldl f r) := by
  induction l generalizing r with
  | nil => exact KeepCt.refl r
  | cons a l ih => exact (h r a).trans (ih _)

theorem keepCt_updIn (r : Region) (key inp : Nat) (f : Chan → Chan) : KeepCt r (r.updIn key inp f) := keepCt_updPl _ _ _ (fun _ => rfl)

theorem keepCt_updHnd (r : Region) (key h : Nat) (f : Hnd → Hnd) : KeepCt r (r.updHnd key h f) := keepCt_updPl _ _ _ (fun _ => rfl)

theorem keepCt_popIn (r : Region) (key inp : Nat) : KeepCt r (r.popIn key inp) := keepCt_updIn ..

theorem keepCt_sendOut (fc : Nat) (r : Region) (p : Plane) (key o : Nat) (tok : Token) : KeepCt r (r.sendOut fc p key o tok) := by
  unfold Region.sendOut
  split
  · exact keepCt_foldl _ _ (fun r d => keepCt_updIn ..) r
  · split
    · split
      · exact KeepCt.refl r
      · rename_i w _ _
        exact keepCt_updPl r key (fun p => { p with credit := tset p.credit o (tget p.credit 0 o - 1) }) (fun _ => rfl)
    · split
      · split <;> exact KeepCt.refl r
      · exact KeepCt.refl r

theorem keepCt_drainList (fc key : Nat) (l : List Emit) (b : List Nat) (r : Region) : KeepCt r (Region.drainList fc key l b r).2 := by
  induction l generalizing b r with
  | nil => exact KeepCt.refl r
  | cons e rest ih =>
    unfold Region.drainList
    dsimp only
    generalize (if e.old = true then (r.tile key).ins else r.pl key) = p
    cases e.tok with
    | none => exact ih _ r
    | some tok =>
      dsimp only
      split
      · exact ih _ r
      · exact (keepCt_foldl e.outs _ (fun r o => keepCt_sendOut ..) r).trans (ih _ _)

theorem keepCt_drainOut (fc : Nat) (r : Region) (key : Nat) : KeepCt r (r.drainOut fc key) := by
  unfold Region.drainOut
  exact (keepCt_drainList fc key _ [] r).trans (keepCt_updPl _ _ _ (fun _ => rfl))

theorem keepCt_emit (fc : Nat) (r : Region) (key : Nat) (outs : List Nat) (tok : Token) : KeepCt r (r.emit fc key outs tok) := by
  unfold Region.emit
  split
  · exact KeepCt.refl r
  · refine KeepCt.trans ?_ (keepCt_drainOut ..)
    exact keepCt_updPl _ _ _ (fun _ => rfl)

theorem keepCt_reserve (r : Region) (key op : Nat) (outs : List Nat) : KeepCt r (r.reserve key op outs) := by
  unfold Region.reserve
  split
  · exact KeepCt.refl r
  · exact keepCt_updPl _ _ _ (fun _ => rfl)

theorem keepCt_fill (fc : Nat) (r : Region) (key op : Nat) (tok : Token) : KeepCt r (r.fill fc key op tok) := by
  unfold Region.fill
  refine KeepCt.trans ?_ (keepCt_drainOut ..)
  exact keepCt_updPl _ _ _ (fun _ => rfl)

theorem keepCt_unreserve (fc : Nat) (r : Region) (key op : Nat) : KeepCt r (r.unreserve fc key op) := by
  unfold Region.unreserve
  refine KeepCt.trans ?_ (keepCt_drainOut ..)
  exact keepCt_updPl _ _ _ (fun _ => rfl)

theorem keepCt_pops (l : List Nat) (key : Nat) (r : Region) : KeepCt r (l.foldl (fun r i => r.popIn key i) r) :=
  keepCt_foldl _ _ (fun r i => keepCt_popIn r key i) r

/-! ## What the end of a firing and the start of a long operation leave alone -/

/-- The end of a firing changes of the contexts only the note that its PE fired and of which slot, its pointer and its holds. -/
theorem afterFire_ct (x : At) (pops : List Nat) (r : Region) (k : Nat) :
    (afterFire x pops r).ct k =
      if k = x.key then { r.ct k with fired := true, firedN := some x.slot, arb := arbNext (r.ct k) x.slot, hold := tdel (r.ct k).hold x.slot } else r.ct k := by
  unfold afterFire
  have h := (keepCt_pops pops x.key r).1
  rw [ct_updCt]
  split
  · rename_i e; subst e; rw [h]
  · exact h k

/-- Every register of every tile, every byte of the MTs with its marks, the capabilities and the state of the region are the same. -/
def KeepRegs (r r' : Region) : Prop :=
  (∀ k, (r'.ct k).g = (r.ct k).g ∧ (r'.ct k).v = (r.ct k).v ∧ (r'.ct k).p = (r.ct k).p ∧ (r'.ct k).k = (r.ct k).k ∧
    (r'.ct k).acc = (r.ct k).acc ∧ (r'.ct k).sr = (r.ct k).sr ∧ (r'.ct k).mode = (r.ct k).mode ∧ (r'.ct k).slots = (r.ct k).slots) ∧
  r'.mt = r.mt ∧ r'.pres = r.pres ∧ r'.pois = r.pois ∧ r'.caps = r.caps ∧ r'.st = r.st

theorem KeepCt.regs {r r' : Region} (h : KeepCt r r') : KeepRegs r r' :=
  ⟨fun k => by rw [h.1 k]; exact ⟨rfl, rfl, rfl, rfl, rfl, rfl, rfl, rfl⟩, h.2⟩

theorem KeepRegs.refl (r : Region) : KeepRegs r r := (KeepCt.refl r).regs

theorem KeepRegs.trans {a b c : Region} (h : KeepRegs a b) (g : KeepRegs b c) : KeepRegs a c := by
  obtain ⟨h1, h2, h3, h4, h5, h6⟩ := h
  obtain ⟨g1, g2, g3, g4, g5, g6⟩ := g
  refine ⟨fun k => ?_, g2.trans h2, g3.trans h3, g4.trans h4, g5.trans h5, g6.trans h6⟩
  obtain ⟨a1, a2, a3, a4, a5, a6, a7, a8⟩ := h1 k
  obtain ⟨b1, b2, b3, b4, b5, b6, b7, b8⟩ := g1 k
  exact ⟨b1.trans a1, b2.trans a2, b3.trans a3, b4.trans a4, b5.trans a5, b6.trans a6, b7.trans a7, b8.trans a8⟩

/-- A change of one context that leaves its registers alone. -/
theorem keepRegs_updCt (r : Region) (key : Nat) (f : Ct → Ct)
    (h : ∀ c, (f c).g = c.g ∧ (f c).v = c.v ∧ (f c).p = c.p ∧ (f c).k = c.k ∧ (f c).acc = c.acc ∧ (f c).sr = c.sr ∧
      (f c).mode = c.mode ∧ (f c).slots = c.slots) : KeepRegs r (r.updCt key f) := by
  refine ⟨fun k => ?_, rfl, rfl, rfl, rfl, rfl⟩
  rw [ct_updCt]
  split
  · rename_i e; subst e; exact h _
  · exact ⟨rfl, rfl, rfl, rfl, rfl, rfl, rfl, rfl⟩

theorem keepRegs_afterFire (x : At) (pops : List Nat) (r : Region) : KeepRegs r (afterFire x pops r) := by
  unfold afterFire
  exact (keepCt_pops pops x.key r).regs.trans (keepRegs_updCt _ _ _ (fun _ => ⟨rfl, rfl, rfl, rfl, rfl, rfl, rfl, rfl⟩))

theorem keepRegs_startOp (x : At) (op : Nat) (t : Ti) (o : PendOp) (r : Region) : KeepRegs r (startOp x op t o r) := by
  have h := (keepCt_reserve r x.key r.seq (if op = 0xD3 then [] else outsOf op t)).regs
  unfold startOp
  dsimp only
  revert h
  generalize r.seq = id
  generalize Region.reserve r x.key id (if op = 0xD3 then [] else outsOf op t) = r1
  intro h
  have g := h.trans (keepRegs_updCt r1 x.key
    (fun c => { pendMarks r1 x.key op t true c with
                ops := tset (pendMarks r1 x.key op t true c).ops id { o with slot := x.slot, code := op, ti := t, seq := id } })
    (fun _ => ⟨rfl, rfl, rfl, rfl, rfl, rfl, rfl, rfl⟩))
  exact ⟨g.1, g.2⟩

theorem keepRegs_raise (r : Region) (e : TrapInfo) : KeepRegs r (r.raise e) := KeepRegs.refl r

end Sys2Proof.Machine
end

