-- ==== Sys2Proof/Laws/PerInstr.lean ====
section
/-! SUPPORT. Facts made instruction by instruction. Code: an instruction with an OP has one that fits eight bits, and the OP leads
back to it. -/

namespace Sys2Proof.Laws.Code

/-- The OP of an instruction leads back to it (R104, R116). -/
def Statement (i : Sys2Proof.Instr) : Prop :=
  ∀ op t, Sys2Proof.peCode i = some (op, t) → op < 256 ∧ Sys2Proof.peOf op t = some i

theorem of_code (i : Sys2Proof.Instr) (n : Nat) (u : Sys2Proof.Ti) (h : Sys2Proof.peCode i = some (n, u)) (hn : n < 256)
    (hp : Sys2Proof.peOf n u = some i) : Statement i := by
  intro op t h'
  obtain ⟨rfl, rfl⟩ : n = op ∧ u = t := by simpa [h] using h'
  exact ⟨hn, hp⟩

theorem of_none (i : Sys2Proof.Instr) (h : Sys2Proof.peCode i = none) : Statement i := by
  intro op t h'; rw [h] at h'; cases h'

theorem nop (a0) : Statement (.nop a0) := of_code _ 0x00 a0 rfl (by decide) rfl
theorem mov (a0) : Statement (.mov a0) := of_code _ 0x01 a0 rfl (by decide) rfl
theorem add (a0) : Statement (.add a0) := of_code _ 0x02 a0 rfl (by decide) rfl
theorem sub (a0) : Statement (.sub a0) := of_code _ 0x03 a0 rfl (by decide) rfl
theorem addw (a0) : Statement (.addw a0) := of_code _ 0x04 a0 rfl (by decide) rfl
theorem subw (a0) : Statement (.subw a0) := of_code _ 0x05 a0 rfl (by decide) rfl
theorem mul (a0) : Statement (.mul a0) := of_code _ 0x06 a0 rfl (by decide) rfl
theorem mulh (a0) : Statement (.mulh a0) := of_code _ 0x07 a0 rfl (by decide) rfl
theorem mulhu (a0) : Statement (.mulhu a0) := of_code _ 0x08 a0 rfl (by decide) rfl
theorem div (a0) : Statement (.div a0) := of_code _ 0x09 a0 rfl (by decide) rfl
theorem divu (a0) : Statement (.divu a0) := of_code _ 0x0A a0 rfl (by decide) rfl
theorem rem (a0) : Statement (.rem a0) := of_code _ 0x0B a0 rfl (by decide) rfl
theorem remu (a0) : Statement (.remu a0) := of_code _ 0x0C a0 rfl (by decide) rfl
theorem and (a0) : Statement (.and a0) := of_code _ 0x0D a0 rfl (by decide) rfl
theorem or (a0) : Statement (.or a0) := of_code _ 0x0E a0 rfl (by decide) rfl
theorem xor (a0) : Statement (.xor a0) := of_code _ 0x0F a0 rfl (by decide) rfl
theorem andn (a0) : Statement (.andn a0) := of_code _ 0x10 a0 rfl (by decide) rfl
theorem shl (a0) : Statement (.shl a0) := of_code _ 0x11 a0 rfl (by decide) rfl
theorem shr (a0) : Statement (.shr a0) := of_code _ 0x12 a0 rfl (by decide) rfl
theorem sar (a0) : Statement (.sar a0) := of_code _ 0x13 a0 rfl (by decide) rfl
theorem rol (a0) : Statement (.rol a0) := of_code _ 0x14 a0 rfl (by decide) rfl
theorem clz (a0) : Statement (.clz a0) := of_code _ 0x15 a0 rfl (by decide) rfl
theorem ctz (a0) : Statement (.ctz a0) := of_code _ 0x16 a0 rfl (by decide) rfl
theorem popc (a0) : Statement (.popc a0) := of_code _ 0x17 a0 rfl (by decide) rfl
theorem min (a0) : Statement (.min a0) := of_code _ 0x18 a0 rfl (by decide) rfl
theorem max (a0) : Statement (.max a0) := of_code _ 0x19 a0 rfl (by decide) rfl
theorem minu (a0) : Statement (.minu a0) := of_code _ 0x1A a0 rfl (by decide) rfl
theorem maxu (a0) : Statement (.maxu a0) := of_code _ 0x1B a0 rfl (by decide) rfl
theorem bext (a0) : Statement (.bext a0) := of_code _ 0x1C a0 rfl (by decide) rfl
theorem bins (a0) : Statement (.bins a0) := of_code _ 0x1D a0 rfl (by decide) rfl
theorem sel (a0) : Statement (.sel a0) := of_code _ 0x1E a0 rfl (by decide) rfl
theorem mac (a0) : Statement (.mac a0) := of_code _ 0x1F a0 rfl (by decide) rfl
theorem cmpeq (a0) : Statement (.cmpeq a0) := of_code _ 0x20 a0 rfl (by decide) rfl
theorem cmpne (a0) : Statement (.cmpne a0) := of_code _ 0x21 a0 rfl (by decide) rfl
theorem cmplt (a0) : Statement (.cmplt a0) := of_code _ 0x22 a0 rfl (by decide) rfl
theorem cmpltu (a0) : Statement (.cmpltu a0) := of_code _ 0x23 a0 rfl (by decide) rfl
theorem cmple (a0) : Statement (.cmple a0) := of_code _ 0x24 a0 rfl (by decide) rfl
theorem cmpleu (a0) : Statement (.cmpleu a0) := of_code _ 0x25 a0 rfl (by decide) rfl
theorem tstb (a0) : Statement (.tstb a0) := of_code _ 0x26 a0 rfl (by decide) rfl
theorem tstand (a0) : Statement (.tstand a0) := of_code _ 0x27 a0 rfl (by decide) rfl
theorem sext (a0) : Statement (.sext a0) := of_code _ 0x28 a0 rfl (by decide) rfl
theorem zext (a0) : Statement (.zext a0) := of_code _ 0x29 a0 rfl (by decide) rfl
theorem fwd (a0) : Statement (.fwd a0) := of_code _ 0x30 a0 rfl (by decide) rfl
theorem drop (a0) : Statement (.drop a0) := of_code _ 0x31 a0 rfl (by decide) rfl
theorem mark (a0) : Statement (.mark a0) := of_code _ 0x32 a0 rfl (by decide) rfl
theorem emitc (a0) : Statement (.emitc a0) := of_code _ 0x33 a0 rfl (by decide) rfl
theorem join (a0) : Statement (.join a0) := of_code _ 0x34 a0 rfl (by decide) rfl
theorem cntset (a0) : Statement (.cntset a0) := of_code _ 0x35 a0 rfl (by decide) rfl
theorem cntinc (a0) : Statement (.cntinc a0) := of_code _ 0x36 a0 rfl (by decide) rfl
theorem cntrd (a0) : Statement (.cntrd a0) := of_code _ 0x37 a0 rfl (by decide) rfl
theorem spawn (a0) : Statement (.spawn a0) := of_code _ 0x38 a0 rfl (by decide) rfl
theorem sendc (a0) : Statement (.sendc a0) := of_code _ 0x39 a0 rfl (by decide) rfl
theorem cret (a0) : Statement (.cret a0) := of_code _ 0x3A a0 rfl (by decide) rfl
theorem colr (a0) : Statement (.colr a0) := of_code _ 0x3B a0 rfl (by decide) rfl
theorem prd (a0) : Statement (.prd a0) := of_code _ 0x3C a0 rfl (by decide) rfl
theorem pwr (a0) : Statement (.pwr a0) := of_code _ 0x3D a0 rfl (by decide) rfl
theorem done (a0) : Statement (.done a0) := of_code _ 0x3E a0 rfl (by decide) rfl
theorem trap (a0) : Statement (.trap a0) := of_code _ 0x3F a0 rfl (by decide) rfl
theorem faddD (a0) : Statement (.faddD a0) := of_code _ 0x40 a0 rfl (by decide) rfl
theorem fsubD (a0) : Statement (.fsubD a0) := of_code _ 0x41 a0 rfl (by decide) rfl
theorem fmulD (a0) : Statement (.fmulD a0) := of_code _ 0x42 a0 rfl (by decide) rfl
theorem ffmaD (a0) : Statement (.ffmaD a0) := of_code _ 0x43 a0 rfl (by decide) rfl
theorem fminD (a0) : Statement (.fminD a0) := of_code _ 0x44 a0 rfl (by decide) rfl
theorem fmaxD (a0) : Statement (.fmaxD a0) := of_code _ 0x45 a0 rfl (by decide) rfl
theorem fdivD (a0) : Statement (.fdivD a0) := of_code _ 0x46 a0 rfl (by decide) rfl
theorem fsqrtD (a0) : Statement (.fsqrtD a0) := of_code _ 0x47 a0 rfl (by decide) rfl
theorem faddS (a0) : Statement (.faddS a0) := of_code _ 0x48 a0 rfl (by decide) rfl
theorem fsubS (a0) : Statement (.fsubS a0) := of_code _ 0x49 a0 rfl (by decide) rfl
theorem fmulS (a0) : Statement (.fmulS a0) := of_code _ 0x4A a0 rfl (by decide) rfl
theorem ffmaS (a0) : Statement (.ffmaS a0) := of_code _ 0x4B a0 rfl (by decide) rfl
theorem fminS (a0) : Statement (.fminS a0) := of_code _ 0x4C a0 rfl (by decide) rfl
theorem fmaxS (a0) : Statement (.fmaxS a0) := of_code _ 0x4D a0 rfl (by decide) rfl
theorem fdivS (a0) : Statement (.fdivS a0) := of_code _ 0x4E a0 rfl (by decide) rfl
theorem fsqrtS (a0) : Statement (.fsqrtS a0) := of_code _ 0x4F a0 rfl (by decide) rfl
theorem fcmpeq (a0) : Statement (.fcmpeq a0) := of_code _ 0x50 a0 rfl (by decide) rfl
theorem fcmplt (a0) : Statement (.fcmplt a0) := of_code _ 0x51 a0 rfl (by decide) rfl
theorem fcmple (a0) : Statement (.fcmple a0) := of_code _ 0x52 a0 rfl (by decide) rfl
theorem fcmpun (a0) : Statement (.fcmpun a0) := of_code _ 0x53 a0 rfl (by decide) rfl
theorem fcvt (a0) : Statement (.fcvt a0) := of_code _ 0x54 a0 rfl (by decide) rfl
theorem fcvti (a0) : Statement (.fcvti a0) := of_code _ 0x55 a0 rfl (by decide) rfl
theorem icvtf (a0) : Statement (.icvtf a0) := of_code _ 0x56 a0 rfl (by decide) rfl
theorem fexp2S (a0) : Statement (.fexp2S a0) := of_code _ 0x57 a0 rfl (by decide) rfl
theorem flog2S (a0) : Statement (.flog2S a0) := of_code _ 0x58 a0 rfl (by decide) rfl
theorem frcpS (a0) : Statement (.frcpS a0) := of_code _ 0x59 a0 rfl (by decide) rfl
theorem frsqS (a0) : Statement (.frsqS a0) := of_code _ 0x5A a0 rfl (by decide) rfl
theorem fclass (a0) : Statement (.fclass a0) := of_code _ 0x5B a0 rfl (by decide) rfl
theorem vadd (a0) : Statement (.vadd a0) := of_code _ 0x60 a0 rfl (by decide) rfl
theorem vsub (a0) : Statement (.vsub a0) := of_code _ 0x61 a0 rfl (by decide) rfl
theorem vmul (a0) : Statement (.vmul a0) := of_code _ 0x62 a0 rfl (by decide) rfl
theorem vfma (a0) : Statement (.vfma a0) := of_code _ 0x63 a0 rfl (by decide) rfl
theorem vmin (a0) : Statement (.vmin a0) := of_code _ 0x64 a0 rfl (by decide) rfl
theorem vmax (a0) : Statement (.vmax a0) := of_code _ 0x65 a0 rfl (by decide) rfl
theorem vabs (a0) : Statement (.vabs a0) := of_code _ 0x66 a0 rfl (by decide) rfl
theorem vneg (a0) : Statement (.vneg a0) := of_code _ 0x67 a0 rfl (by decide) rfl
theorem vexp2 (a0) : Statement (.vexp2 a0) := of_code _ 0x68 a0 rfl (by decide) rfl
theorem vrcp (a0) : Statement (.vrcp a0) := of_code _ 0x69 a0 rfl (by decide) rfl
theorem vrsq (a0) : Statement (.vrsq a0) := of_code _ 0x6A a0 rfl (by decide) rfl
theorem vlog2 (a0) : Statement (.vlog2 a0) := of_code _ 0x6B a0 rfl (by decide) rfl
theorem vcvt (a0) : Statement (.vcvt a0) := of_code _ 0x6C a0 rfl (by decide) rfl
theorem vredsum (a0) : Statement (.vredsum a0) := of_code _ 0x6D a0 rfl (by decide) rfl
theorem vredmax (a0) : Statement (.vredmax a0) := of_code _ 0x6E a0 rfl (by decide) rfl
theorem vredmin (a0) : Statement (.vredmin a0) := of_code _ 0x6F a0 rfl (by decide) rfl
theorem vand (a0) : Statement (.vand a0) := of_code _ 0x70 a0 rfl (by decide) rfl
theorem vor (a0) : Statement (.vor a0) := of_code _ 0x71 a0 rfl (by decide) rfl
theorem vxor (a0) : Statement (.vxor a0) := of_code _ 0x72 a0 rfl (by decide) rfl
theorem vshl (a0) : Statement (.vshl a0) := of_code _ 0x73 a0 rfl (by decide) rfl
theorem vshr (a0) : Statement (.vshr a0) := of_code _ 0x74 a0 rfl (by decide) rfl
theorem vsar (a0) : Statement (.vsar a0) := of_code _ 0x75 a0 rfl (by decide) rfl
theorem vcmpeq (a0) : Statement (.vcmpeq a0) := of_code _ 0x76 a0 rfl (by decide) rfl
theorem vcmplt (a0) : Statement (.vcmplt a0) := of_code _ 0x77 a0 rfl (by decide) rfl
theorem vcmple (a0) : Statement (.vcmple a0) := of_code _ 0x78 a0 rfl (by decide) rfl
theorem vsel (a0) : Statement (.vsel a0) := of_code _ 0x79 a0 rfl (by decide) rfl
theorem vbcast (a0) : Statement (.vbcast a0) := of_code _ 0x7A a0 rfl (by decide) rfl
theorem vextr (a0) : Statement (.vextr a0) := of_code _ 0x7B a0 rfl (by decide) rfl
theorem vins (a0) : Statement (.vins a0) := of_code _ 0x7C a0 rfl (by decide) rfl
theorem vshuf (a0) : Statement (.vshuf a0) := of_code _ 0x7D a0 rfl (by decide) rfl
theorem vpack (a0) : Statement (.vpack a0) := of_code _ 0x7E a0 rfl (by decide) rfl
theorem vunpk (a0) : Statement (.vunpk a0) := of_code _ 0x7F a0 rfl (by decide) rfl
theorem vlrec (a0) : Statement (.vlrec a0) := of_code _ 0x80 a0 rfl (by decide) rfl
theorem vscan (a0) : Statement (.vscan a0) := of_code _ 0x81 a0 rfl (by decide) rfl
theorem vmov (a0) : Statement (.vmov a0) := of_code _ 0x82 a0 rfl (by decide) rfl
theorem vld (a0) : Statement (.vld a0) := of_code _ 0x83 a0 rfl (by decide) rfl
theorem vst (a0) : Statement (.vst a0) := of_code _ 0x84 a0 rfl (by decide) rfl
theorem mma (a0) : Statement (.mma a0) := of_code _ 0xA0 a0 rfl (by decide) rfl
theorem mmas (a0) : Statement (.mmas a0) := of_code _ 0xA1 a0 rfl (by decide) rfl
theorem mmax (a0) : Statement (.mmax a0) := of_code _ 0xA2 a0 rfl (by decide) rfl
theorem accz (a0) : Statement (.accz a0) := of_code _ 0xA3 a0 rfl (by decide) rfl
theorem accrd (a0) : Statement (.accrd a0) := of_code _ 0xA4 a0 rfl (by decide) rfl
theorem accwr (a0) : Statement (.accwr a0) := of_code _ 0xA5 a0 rfl (by decide) rfl
theorem accscl (a0) : Statement (.accscl a0) := of_code _ 0xA6 a0 rfl (by decide) rfl
theorem accadd (a0) : Statement (.accadd a0) := of_code _ 0xA7 a0 rfl (by decide) rfl
theorem ld (a0) : Statement (.ld a0) := of_code _ 0xC0 a0 rfl (by decide) rfl
theorem st (a0) : Statement (.st a0) := of_code _ 0xC1 a0 rfl (by decide) rfl
theorem ldw (a0) : Statement (.ldw a0) := of_code _ 0xC2 a0 rfl (by decide) rfl
theorem stw (a0) : Statement (.stw a0) := of_code _ 0xC3 a0 rfl (by decide) rfl
theorem ldp (a0) : Statement (.ldp a0) := of_code _ 0xC4 a0 rfl (by decide) rfl
theorem stp (a0) : Statement (.stp a0) := of_code _ 0xC5 a0 rfl (by decide) rfl
theorem clrp (a0) : Statement (.clrp a0) := of_code _ 0xC6 a0 rfl (by decide) rfl
theorem ldne (a0) : Statement (.ldne a0) := of_code _ 0xC7 a0 rfl (by decide) rfl
theorem atadd (a0) : Statement (.atadd a0) := of_code _ 0xC8 a0 rfl (by decide) rfl
theorem atmin (a0) : Statement (.atmin a0) := of_code _ 0xC9 a0 rfl (by decide) rfl
theorem atmax (a0) : Statement (.atmax a0) := of_code _ 0xCA a0 rfl (by decide) rfl
theorem atand (a0) : Statement (.atand a0) := of_code _ 0xCB a0 rfl (by decide) rfl
theorem ator (a0) : Statement (.ator a0) := of_code _ 0xCC a0 rfl (by decide) rfl
theorem atxor (a0) : Statement (.atxor a0) := of_code _ 0xCD a0 rfl (by decide) rfl
theorem atxchg (a0) : Statement (.atxchg a0) := of_code _ 0xCE a0 rfl (by decide) rfl
theorem atcas (a0) : Statement (.atcas a0) := of_code _ 0xCF a0 rfl (by decide) rfl
theorem redadd (a0) : Statement (.redadd a0) := of_code _ 0xD0 a0 rfl (by decide) rfl
theorem redfadd (a0) : Statement (.redfadd a0) := of_code _ 0xD1 a0 rfl (by decide) rfl
theorem gath (a0) : Statement (.gath a0) := of_code _ 0xD2 a0 rfl (by decide) rfl
theorem scat (a0) : Statement (.scat a0) := of_code _ 0xD3 a0 rfl (by decide) rfl
theorem hwait (a0) : Statement (.hwait a0) := of_code _ 0xD4 a0 rfl (by decide) rfl
theorem hrel (a0) : Statement (.hrel a0) := of_code _ 0xD5 a0 rfl (by decide) rfl
theorem hclm (a0) : Statement (.hclm a0) := of_code _ 0xD6 a0 rfl (by decide) rfl
theorem hfin (a0) : Statement (.hfin a0) := of_code _ 0xD7 a0 rfl (by decide) rfl
theorem hstat (a0) : Statement (.hstat a0) := of_code _ 0xD8 a0 rfl (by decide) rfl
theorem fence (a0) : Statement (.fence a0) := of_code _ 0xD9 a0 rfl (by decide) rfl
theorem wreg (a0) : Statement (.wreg a0) := of_code _ 0xDA a0 rfl (by decide) rfl
theorem whold (a0) : Statement (.whold a0) := of_code _ 0xDB a0 rfl (by decide) rfl
theorem wdrop (a0) : Statement (.wdrop a0) := of_code _ 0xDC a0 rfl (by decide) rfl
theorem barr (a0) : Statement (.barr a0) := of_code _ 0xDD a0 rfl (by decide) rfl
theorem mlock (a0) : Statement (.mlock a0) := of_code _ 0xDE a0 rfl (by decide) rfl
theorem munlk (a0) : Statement (.munlk a0) := of_code _ 0xDF a0 rfl (by decide) rfl
theorem eqpush (a0) : Statement (.eqpush a0) := of_code _ 0xE0 a0 rfl (by decide) rfl
theorem eqflush (a0) : Statement (.eqflush a0) := of_code _ 0xE1 a0 rfl (by decide) rfl
theorem eqstat (a0) : Statement (.eqstat a0) := of_code _ 0xE2 a0 rfl (by decide) rfl
theorem eqpri (a0) : Statement (.eqpri a0) := of_code _ 0xE3 a0 rfl (by decide) rfl
theorem nlbin (a0) : Statement (.nlbin a0) := of_code _ 0xE4 a0 rfl (by decide) rfl
theorem nlsweep (a0) : Statement (.nlsweep a0) := of_code _ 0xE5 a0 rfl (by decide) rfl
theorem nlmove (a0) : Statement (.nlmove a0) := of_code _ 0xE6 a0 rfl (by decide) rfl
theorem nlstat (a0) : Statement (.nlstat a0) := of_code _ 0xE7 a0 rfl (by decide) rfl
theorem nlclr (a0) : Statement (.nlclr a0) := of_code _ 0xE8 a0 rfl (by decide) rfl
theorem scopy (a0) : Statement (.scopy a0) := of_code _ 0xE9 a0 rfl (by decide) rfl
theorem scstat (a0) : Statement (.scstat a0) := of_code _ 0xEA a0 rfl (by decide) rfl
theorem qenq (a0) : Statement (.qenq a0) := of_code _ 0xEB a0 rfl (by decide) rfl
theorem qdeq (a0) : Statement (.qdeq a0) := of_code _ 0xEC a0 rfl (by decide) rfl
theorem qsteal (a0) : Statement (.qsteal a0) := of_code _ 0xED a0 rfl (by decide) rfl
theorem sysc (a0) : Statement (.sysc a0) := of_code _ 0xF0 a0 rfl (by decide) rfl
theorem brk (a0) : Statement (.brk a0) := of_code _ 0xF1 a0 rfl (by decide) rfl
theorem cfgsw (a0) : Statement (.cfgsw a0) := of_code _ 0xF3 a0 rfl (by decide) rfl
theorem rdcyc (a0) : Statement (.rdcyc a0) := of_code _ 0xF4 a0 rfl (by decide) rfl
theorem crnFload (a0) : Statement (.crnFload a0) := of_none _ rfl
theorem crnFkill (a0) : Statement (.crnFkill a0) := of_none _ rfl
theorem crnFshadow (a0) : Statement (.crnFshadow a0) := of_none _ rfl
theorem crnFswap (a0) : Statement (.crnFswap a0) := of_none _ rfl
theorem crnFrun (a0) : Statement (.crnFrun a0) := of_none _ rfl
theorem crnFhalt (a0) : Statement (.crnFhalt a0) := of_none _ rfl
theorem crnFmark (a0) : Statement (.crnFmark a0) := of_none _ rfl
theorem crnFscan (a0) : Statement (.crnFscan a0) := of_none _ rfl
theorem crnFrest (a0) : Statement (.crnFrest a0) := of_none _ rfl
theorem crnFmove (a0) : Statement (.crnFmove a0) := of_none _ rfl
theorem crnFpatch (a0) : Statement (.crnFpatch a0) := of_none _ rfl
theorem crnFinval (a0) : Statement (.crnFinval a0) := of_none _ rfl
theorem crnFtok (a0) : Statement (.crnFtok a0) := of_none _ rfl
theorem crnFinject (a0) : Statement (.crnFinject a0) := of_none _ rfl
theorem crnFstat (a0) : Statement (.crnFstat a0) := of_none _ rfl
theorem crnFpar (a0) : Statement (.crnFpar a0) := of_none _ rfl
theorem crnWftrd (a0) : Statement (.crnWftrd a0) := of_none _ rfl
theorem crnWftclr (a0) : Statement (.crnWftclr a0) := of_none _ rfl
theorem crnfrecWrite (a0) : Statement (.crnfrecWrite a0) := of_none _ rfl
theorem hcrnpmapWrite (a0) : Statement (.hcrnpmapWrite a0) := of_none _ rfl
theorem csrWrite (a0) : Statement (.csrWrite a0) := of_none _ rfl
theorem longOpComplete (a0) (a1) (a2) : Statement (.longOpComplete a0 a1 a2) := of_none _ rfl
theorem tensorComplete (a0) (a1) (a2) : Statement (.tensorComplete a0 a1 a2) := of_none _ rfl
theorem homeAccess (a0) (a1) : Statement (.homeAccess a0 a1) := of_none _ rfl
theorem deferralAdmit (a0) (a1) : Statement (.deferralAdmit a0 a1) := of_none _ rfl
theorem queueControllerOp (a0) (a1) : Statement (.queueControllerOp a0 a1) := of_none _ rfl
theorem tokenArrival (a0) (a1) (a2) : Statement (.tokenArrival a0 a1 a2) := of_none _ rfl
theorem weltTokenArrival (a0) (a1) (a2) (a3) : Statement (.weltTokenArrival a0 a1 a2 a3) := of_none _ rfl
theorem weltCredit (a0) (a1) (a2) : Statement (.weltCredit a0 a1 a2) := of_none _ rfl
theorem controlPulse (a0) (a1) (a2) : Statement (.controlPulse a0 a1 a2) := of_none _ rfl
theorem waitRegister (a0) (a1) (a2) : Statement (.waitRegister a0 a1 a2) := of_none _ rfl
theorem cycleConfirm (a0) : Statement (.cycleConfirm a0) := of_none _ rfl
theorem colourClearDone (a0) (a1) : Statement (.colourClearDone a0 a1) := of_none _ rfl
theorem frameFiring (a0) (a1) : Statement (.frameFiring a0 a1) := of_none _ rfl
theorem frameForward (a0) (a1) : Statement (.frameForward a0 a1) := of_none _ rfl
theorem frameStore (a0) (a1) (a2) : Statement (.frameStore a0 a1 a2) := of_none _ rfl
theorem runComplete (a0) : Statement (.runComplete a0) := of_none _ rfl
theorem replayStart (a0) : Statement (.replayStart a0) := of_none _ rfl
theorem streamStart (a0) (a1) : Statement (.streamStart a0 a1) := of_none _ rfl
theorem boxStart (a0) (a1) : Statement (.boxStart a0 a1) := of_none _ rfl
theorem streamElement (a0) (a1) : Statement (.streamElement a0 a1) := of_none _ rfl
theorem extentRefill (a0) (a1) : Statement (.extentRefill a0 a1) := of_none _ rfl
theorem boxComplete (a0) (a1) (a2) : Statement (.boxComplete a0 a1 a2) := of_none _ rfl
theorem streamCompletionWord (a0) (a1) : Statement (.streamCompletionWord a0 a1) := of_none _ rfl
theorem writeStreamTake (a0) (a1) : Statement (.writeStreamTake a0 a1) := of_none _ rfl
theorem tapArrival (a0) (a1) : Statement (.tapArrival a0 a1) := of_none _ rfl
theorem copyStart (a0) (a1) (a2) : Statement (.copyStart a0 a1 a2) := of_none _ rfl
theorem copyComplete (a0) (a1) : Statement (.copyComplete a0 a1) := of_none _ rfl
theorem fifoTake (a0) (a1) : Statement (.fifoTake a0 a1) := of_none _ rfl
theorem fifoGive (a0) (a1) : Statement (.fifoGive a0 a1) := of_none _ rfl
theorem lineToken (a0) (a1) : Statement (.lineToken a0 a1) := of_none _ rfl
theorem gathMtGather (a0) (a1) : Statement (.gathMtGather a0 a1) := of_none _ rfl
theorem gathMtScatter (a0) (a1) : Statement (.gathMtScatter a0 a1) := of_none _ rfl
theorem gathMtOrderingToken (a0) (a1) : Statement (.gathMtOrderingToken a0 a1) := of_none _ rfl
theorem suuUpdate (a0) (a1) (a2) : Statement (.suuUpdate a0 a1 a2) := of_none _ rfl
theorem compTileRecord (a0) (a1) : Statement (.compTileRecord a0 a1) := of_none _ rfl
theorem exqPushAccept (a0) (a1) : Statement (.exqPushAccept a0 a1) := of_none _ rfl
theorem queueAged (a0) (a1) (a2) : Statement (.queueAged a0 a1 a2) := of_none _ rfl
theorem exqChoose (a0) (a1) : Statement (.exqChoose a0 a1) := of_none _ rfl
theorem exqBatchToken (a0) (a1) : Statement (.exqBatchToken a0 a1) := of_none _ rfl
theorem exqFlushToken (a0) (a1) : Statement (.exqFlushToken a0 a1) := of_none _ rfl
theorem exqRingRefill (a0) (a1) : Statement (.exqRingRefill a0 a1) := of_none _ rfl
theorem excPair (a0) (a1) : Statement (.excPair a0 a1) := of_none _ rfl
theorem excEmit (a0) (a1) : Statement (.excEmit a0 a1) := of_none _ rfl
theorem excEnd (a0) (a1) : Statement (.excEnd a0 a1) := of_none _ rfl
theorem nleTakeOp (a0) (a1) : Statement (.nleTakeOp a0 a1) := of_none _ rfl
theorem nlePairToken (a0) (a1) (a2) : Statement (.nlePairToken a0 a1 a2) := of_none _ rfl
theorem nlstatArrive (a0) (a1) (a2) : Statement (.nlstatArrive a0 a1 a2) := of_none _ rfl
theorem swapTake (a0) (a1) (a2) : Statement (.swapTake a0 a1 a2) := of_none _ rfl
theorem swapDiscard (a0) (a1) (a2) : Statement (.swapDiscard a0 a1 a2) := of_none _ rfl
theorem markerTake (a0) (a1) : Statement (.markerTake a0 a1) := of_none _ rfl
theorem markerEmit (a0) (a1) : Statement (.markerEmit a0 a1) := of_none _ rfl
theorem pmarkLogEnd (a0) (a1) (a2) : Statement (.pmarkLogEnd a0 a1 a2) := of_none _ rfl
theorem pmarkLateInject (a0) : Statement (.pmarkLateInject a0) := of_none _ rfl
theorem markDrainComplete (a0) : Statement (.markDrainComplete a0) := of_none _ rfl
theorem drainTimeout (a0) : Statement (.drainTimeout a0) := of_none _ rfl
theorem freezeStop (a0) : Statement (.freezeStop a0) := of_none _ rfl
theorem regionSettled (a0) : Statement (.regionSettled a0) := of_none _ rfl
theorem faultRecordDeliver (a0) (a1) : Statement (.faultRecordDeliver a0 a1) := of_none _ rfl
theorem faultInterrupt (a0) : Statement (.faultInterrupt a0) := of_none _ rfl
theorem focInterrupt (a0) : Statement (.focInterrupt a0) := of_none _ rfl
theorem softError (a0) : Statement (.softError a0) := of_none _ rfl
theorem loadComplete (a0) : Statement (.loadComplete a0) := of_none _ rfl
theorem shadowLoadComplete (a0) : Statement (.shadowLoadComplete a0) := of_none _ rfl
theorem scanOutComplete (a0) : Statement (.scanOutComplete a0) := of_none _ rfl
theorem restoreComplete (a0) : Statement (.restoreComplete a0) := of_none _ rfl
theorem moveComplete (a0) : Statement (.moveComplete a0) := of_none _ rfl
theorem scrubComplete (a0) : Statement (.scrubComplete a0) := of_none _ rfl
theorem launchTailWrite (a0) (a1) (a2) : Statement (.launchTailWrite a0 a1 a2) := of_none _ rfl
theorem launchTake (a0) : Statement (.launchTake a0) := of_none _ rfl
theorem compaction (a0) : Statement (.compaction a0) := of_none _ rfl
theorem autoMove (a0) : Statement (.autoMove a0) := of_none _ rfl
theorem budgetExpiry (a0) : Statement (.budgetExpiry a0) := of_none _ rfl
theorem sliceSwitch (a0) : Statement (.sliceSwitch a0) := of_none _ rfl
theorem sliceCutTimeout (a0) : Statement (.sliceCutTimeout a0) := of_none _ rfl
theorem stageYield (a0) : Statement (.stageYield a0) := of_none _ rfl
theorem groupEnd (a0) : Statement (.groupEnd a0) := of_none _ rfl
theorem heatAccount (a0) (a1) : Statement (.heatAccount a0 a1) := of_none _ rfl
theorem heatEpochEnd (a0) : Statement (.heatEpochEnd a0) := of_none _ rfl
theorem migrationRequest (a0) : Statement (.migrationRequest a0) := of_none _ rfl
theorem migrationStart (a0) : Statement (.migrationStart a0) := of_none _ rfl
theorem migrationDrained (a0) : Statement (.migrationDrained a0) := of_none _ rfl
theorem migrationCopyDone (a0) : Statement (.migrationCopyDone a0) := of_none _ rfl
theorem peerRequest (a0) (a1) : Statement (.peerRequest a0 a1) := of_none _ rfl
theorem peerAck (a0) (a1) (a2) : Statement (.peerAck a0 a1 a2) := of_none _ rfl
theorem linkTrain (a0) (a1) (a2) : Statement (.linkTrain a0 a1 a2) := of_none _ rfl
theorem linkLoss (a0) : Statement (.linkLoss a0) := of_none _ rfl
theorem noRouteFlit (a0) (a1) : Statement (.noRouteFlit a0 a1) := of_none _ rfl
theorem partSet : Statement .partSet := of_none _ rfl
theorem partGet : Statement .partGet := of_none _ rfl
theorem partSeal : Statement .partSeal := of_none _ rfl
theorem partReset : Statement .partReset := of_none _ rfl
theorem linkGet : Statement .linkGet := of_none _ rfl
theorem attReport : Statement .attReport := of_none _ rfl
theorem attExtend : Statement .attExtend := of_none _ rfl
theorem icmpv6Frame (a0) (a1) : Statement (.icmpv6Frame a0 a1) := of_none _ rfl
theorem khrOpen (a0) : Statement (.khrOpen a0) := of_none _ rfl
theorem khrClose (a0) : Statement (.khrClose a0) := of_none _ rfl
theorem khrLaunch (a0) : Statement (.khrLaunch a0) := of_none _ rfl
theorem khrReplay (a0) : Statement (.khrReplay a0) := of_none _ rfl
theorem khrCopyin (a0) : Statement (.khrCopyin a0) := of_none _ rfl
theorem khrCopyout (a0) : Statement (.khrCopyout a0) := of_none _ rfl
theorem khrEvsub (a0) : Statement (.khrEvsub a0) := of_none _ rfl
theorem khrSrvreg (a0) : Statement (.khrSrvreg a0) := of_none _ rfl
theorem khrFileResponse (a0) (a1) (a2) (a3) : Statement (.khrFileResponse a0 a1 a2 a3) := of_none _ rfl
theorem khrPcfg (a0) : Statement (.khrPcfg a0) := of_none _ rfl
theorem khrVfreset (a0) : Statement (.khrVfreset a0) := of_none _ rfl
theorem ckptConfig (a0) : Statement (.ckptConfig a0) := of_none _ rfl
theorem ckptQuiesce (a0) : Statement (.ckptQuiesce a0) := of_none _ rfl
theorem ckptWrite (a0) : Statement (.ckptWrite a0) := of_none _ rfl
theorem ckptResume (a0) : Statement (.ckptResume a0) := of_none _ rfl
theorem ckptStatus (a0) : Statement (.ckptStatus a0) := of_none _ rfl
theorem ckptRestore (a0) : Statement (.ckptRestore a0) := of_none _ rfl
theorem fopen (a0) (a1) (a2) : Statement (.fopen a0 a1 a2) := of_none _ rfl
theorem fread (a0) (a1) (a2) : Statement (.fread a0 a1 a2) := of_none _ rfl
theorem fwrite (a0) (a1) (a2) : Statement (.fwrite a0 a1 a2) := of_none _ rfl
theorem fclose (a0) (a1) (a2) : Statement (.fclose a0 a1 a2) := of_none _ rfl
theorem fsize (a0) (a1) (a2) : Statement (.fsize a0 a1 a2) := of_none _ rfl
theorem sconnect (a0) (a1) (a2) : Statement (.sconnect a0 a1 a2) := of_none _ rfl
theorem slisten (a0) (a1) (a2) : Statement (.slisten a0 a1 a2) := of_none _ rfl
theorem saccept (a0) (a1) (a2) : Statement (.saccept a0 a1 a2) := of_none _ rfl
theorem sclose (a0) (a1) (a2) : Statement (.sclose a0 a1 a2) := of_none _ rfl
theorem mzero (a0) (a1) (a2) : Statement (.mzero a0 a1 a2) := of_none _ rfl
theorem mheat (a0) (a1) (a2) : Statement (.mheat a0 a1 a2) := of_none _ rfl
theorem fileServerTimeout (a0) (a1) : Statement (.fileServerTimeout a0 a1) := of_none _ rfl
theorem connTxSend (a0) (a1) : Statement (.connTxSend a0 a1) := of_none _ rfl
theorem connRxDeliver (a0) (a1) (a2) : Statement (.connRxDeliver a0 a1 a2) := of_none _ rfl
theorem connPeerFin (a0) (a1) : Statement (.connPeerFin a0 a1) := of_none _ rfl
theorem connReset (a0) (a1) (a2) : Statement (.connReset a0 a1 a2) := of_none _ rfl
theorem mgmtReadDescriptor (a0) : Statement (.mgmtReadDescriptor a0) := of_none _ rfl
theorem mgmtVfReset (a0) (a1) : Statement (.mgmtVfReset a0 a1) := of_none _ rfl
theorem mgmtDeviceReset (a0) : Statement (.mgmtDeviceReset a0) := of_none _ rfl
theorem mgmtSetHypervisor (a0) (a1) : Statement (.mgmtSetHypervisor a0 a1) := of_none _ rfl
theorem pldmSensorRead (a0) : Statement (.pldmSensorRead a0) := of_none _ rfl
theorem pldmPowerCap (a0) : Statement (.pldmPowerCap a0) := of_none _ rfl
theorem pldmFruRead (a0) : Statement (.pldmFruRead a0) := of_none _ rfl
theorem pldmFirmwareUpdate (a0) : Statement (.pldmFirmwareUpdate a0) := of_none _ rfl
theorem pldmBase (a0) : Statement (.pldmBase a0) := of_none _ rfl
theorem clockThrottle (a0) : Statement (.clockThrottle a0) := of_none _ rfl
theorem power48vOn : Statement .power48vOn := of_none _ rfl
theorem powerEnable (a0) : Statement (.powerEnable a0) := of_none _ rfl
theorem powerStandby (a0) : Statement (.powerStandby a0) := of_none _ rfl
theorem power48vOff : Statement .power48vOff := of_none _ rfl
theorem resetN : Statement .resetN := of_none _ rfl
theorem poisonedHartAccess (a0) (a1) : Statement (.poisonedHartAccess a0 a1) := of_none _ rfl
theorem tcpPeerConnect (a0) (a1) (a2) : Statement (.tcpPeerConnect a0 a1 a2) := of_none _ rfl

end Sys2Proof.Laws.Code
end

