-- ==== Sys2Proof/Tests/Slice0.lean ====
section
/-! SUPPORT. Tests: words written out from the encodings of the spec, ill-formed terms that the checks refuse, the state after reset, and a state
that meets the hypotheses of each claim. -/

namespace Sys2Proof.Tests
open Sys2Proof Sys2Proof.Machine

set_option Elab.async false
set_option linter.unusedVariables false

/-! ## Words (R104, R149, R154, R173, R184, R199, R219, R266, R282, R302, R327, R329) -/

/-- A decoder's answer is this instruction. -/
def readsAs (e : Except DecErr Instr) (i : Instr) : Bool := match e with | .ok j => decide (j = i) | .error _ => false

theorem test_words_scalar : ([
    (0b1000000000000000000000000000000000111101111011100000000000000000, .nop { sa := 15, sb := 15, dst := 14 }),
    (0b1000000000000000000000000000000010000101111000110000000000000000, .mov { sa := 1, sb := 15, dst := 3 }),
    (0b1000000000000000000000000000000100000100010000110000000000000000, .add { sa := 1, sb := 2, dst := 3 }),
    (0b1000000000000000000000000000000110000100010000110000000000000000, .sub { sa := 1, sb := 2, dst := 3 }),
    (0b1000000000000000000000000000001000000100010000110000000000000000, .addw { sa := 1, sb := 2, dst := 3 }),
    (0b1000000000000000000000000000001010000100010000110000000000000000, .subw { sa := 1, sb := 2, dst := 3 }),
    (0b1000000000000000000000000000001100000100010000110000000000000000, .mul { sa := 1, sb := 2, dst := 3 }),
    (0b1000000000000000000000000000001110000100010000110000000000000000, .mulh { sa := 1, sb := 2, dst := 3 }),
    (0b1000000000000000000000000000010000000100010000110000000000000000, .mulhu { sa := 1, sb := 2, dst := 3 }),
    (0b1000000000000000000000000000010010000100010000110000000000000000, .div { sa := 1, sb := 2, dst := 3 }),
    (0b1000000000000000000000000000010100000100010000110000000000000000, .divu { sa := 1, sb := 2, dst := 3 }),
    (0b1000000000000000000000000000010110000100010000110000000000000000, .rem { sa := 1, sb := 2, dst := 3 }),
    (0b1000000000000000000000000000011000000100010000110000000000000000, .remu { sa := 1, sb := 2, dst := 3 }),
    (0b1000000000000000000000000000011010000100010000110000000000000000, .and { sa := 1, sb := 2, dst := 3 }),
    (0b1000000000000000000000000000011100000100010000110000000000000000, .or { sa := 1, sb := 2, dst := 3 }),
    (0b1000000000000000000000000000011110000100010000110000000000000000, .xor { sa := 1, sb := 2, dst := 3 }),
    (0b1000000000000000000000000000100000000100010000110000000000000000, .andn { sa := 1, sb := 2, dst := 3 }),
    (0b1000000000000000000000000000100010000100010000110000000000000000, .shl { sa := 1, sb := 2, dst := 3 }),
    (0b1000000000000000000000000000100100000100010000110000000000000000, .shr { sa := 1, sb := 2, dst := 3 }),
    (0b1000000000000000000000000000100110000100010000110000000000000000, .sar { sa := 1, sb := 2, dst := 3 }),
    (0b1000000000000000000000000000101000000100010000110000000000000000, .rol { sa := 1, sb := 2, dst := 3 }),
    (0b1000000000000000000000000000101010000101111000110000000000000000, .clz { sa := 1, sb := 15, dst := 3 }),
    (0b1000000000000000000000000000101100000101111000110000000000000000, .ctz { sa := 1, sb := 15, dst := 3 }),
    (0b1000000000000000000000000000101110000101111000110000000000000000, .popc { sa := 1, sb := 15, dst := 3 }),
    (0b1000000000000000000000000000110000000100010000110000000000000000, .min { sa := 1, sb := 2, dst := 3 }),
    (0b1000000000000000000000000000110010000100010000110000000000000000, .max { sa := 1, sb := 2, dst := 3 }),
    (0b1000000000000000000000000000110100000100010000110000000000000000, .minu { sa := 1, sb := 2, dst := 3 }),
    (0b1000000000000000000000000000110110000100010000110000000000000000, .maxu { sa := 1, sb := 2, dst := 3 }),
    (0b1000000000000000000000000000111000000100010000110000000000000000, .bext { sa := 1, sb := 2, dst := 3 }),
    (0b1000000000000000000000000000111010000100010000110000000000000000, .bins { sa := 1, sb := 2, dst := 3 }),
    (0b1000000000000000000000000000111100000100010000110000000000001101, .sel { sa := 1, sb := 2, dst := 3, imm := 13 }),
    (0b1000000000000000000000000000111110000100010000110000000000000000, .mac { sa := 1, sb := 2, dst := 3 })
  ] : List (BitVec 64 × Instr)).all (fun p => readsAs (decodeSlot p.1) p.2) = true := by decide

theorem test_words_compare : ([
    (0b1000000000000000000000000001000000000100010000110000000000000000, .cmpeq { sa := 1, sb := 2, dst := 3 }),
    (0b1000000000000000000000000001000010000100010000110000000000000000, .cmpne { sa := 1, sb := 2, dst := 3 }),
    (0b1000000000000100000000000001000101100000010011100001010100000000, .cmplt { cc := { en := 1, ch := 0, mt := 0 }, sa := 24, sb := 2, dst := 14, puo := 1, pui := 5 }),
    (0b1000000000000000000000000001000110000100010000110000000000000000, .cmpltu { sa := 1, sb := 2, dst := 3 }),
    (0b1000000000000000000000000001001000000100010000110000000000000000, .cmple { sa := 1, sb := 2, dst := 3 }),
    (0b1000000000000000000000000001001010000100010000110000000000000000, .cmpleu { sa := 1, sb := 2, dst := 3 }),
    (0b1000000000000000000000000001001100000100010000110000000000000000, .tstb { sa := 1, sb := 2, dst := 3 }),
    (0b1000000000000000000000000001001110000100010000110000000000000000, .tstand { sa := 1, sb := 2, dst := 3 }),
    (0b1000000000000000000000000001010000000100010000110000000000000000, .sext { sa := 1, sb := 2, dst := 3 }),
    (0b1000000000000000000000000001010010000100010000110000000000000000, .zext { sa := 1, sb := 2, dst := 3 })
  ] : List (BitVec 64 × Instr)).all (fun p => readsAs (decodeSlot p.1) p.2) = true := by decide

theorem test_words_token : ([
    (0b1000000000000000000000000001100001001101111100010000000000000001, .fwd { sa := 19, sb := 15, dst := 17, imm := 1 }),
    (0b1000000000000000000000000001100011000010111011100000000000000000, .drop { sa := 16, sb := 23, dst := 14 }),
    (0b1000000000000000000000000001100101101001111000110000000000000000, .mark { sa := 26, sb := 15, dst := 3 }),
    (0b1000000000000000000000000001100110000101111110001100000000000000, .emitc { sa := 1, sb := 15, dst := 24, om := 3 }),
    (0b1000000000000000000000000001101001000010001100100100000000000000, .join { sa := 16, sb := 17, dst := 18, om := 1 }),
    (0b1000000000000000000000000001101010010101111011100000000000000110, .cntset { sa := 5, sb := 15, dst := 14, imm := 6 }),
    (0b1000000000000000000000000001101100111101111011100000000000000011, .cntinc { sa := 15, sb := 15, dst := 14, imm := 3 }),
    (0b1000000000000000000000000001101110111101111001000000000000000010, .cntrd { sa := 15, sb := 15, dst := 4, imm := 2 }),
    (0b1000000000000000000000000001110000000101111100000000000000000000, .spawn { sa := 1, sb := 15, dst := 16 }),
    (0b1000000000000000000000000001110010000100010100000100000000000000, .sendc { sa := 1, sb := 2, dst := 16, om := 1 }),
    (0b1000000000000000000000000001110101000001111100010000000000000000, .cret { sa := 16, sb := 15, dst := 17 }),
    (0b1000000000000000000000000001110111000001111000110000000000000000, .colr { sa := 16, sb := 15, dst := 3 }),
    (0b1000000000000000000000000001111000111101111010010000000000000000, .prd { sa := 15, sb := 15, dst := 9 }),
    (0b1000000000000000000000000001111010000100010011100000000000000000, .pwr { sa := 1, sb := 2, dst := 14 }),
    (0b1000000000000000000000000001111100111101111011100000000000000000, .done { sa := 15, sb := 15, dst := 14 }),
    (0b1000000000000000000000000001111110000101111011100000000001001101, .trap { sa := 1, sb := 15, dst := 14, imm := 77 })
  ] : List (BitVec 64 × Instr)).all (fun p => readsAs (decodeSlot p.1) p.2) = true := by decide

theorem test_words_float : ([
    (0b1000000000000000000000000010000000000100010000110000000010010000, .faddD { sa := 1, sb := 2, dst := 3, imm := 144 }),
    (0b1000000000000000000000000010000010000100010000110000000010010000, .fsubD { sa := 1, sb := 2, dst := 3, imm := 144 }),
    (0b1000000000000000000000000010000100000100010000110000000010010000, .fmulD { sa := 1, sb := 2, dst := 3, imm := 144 }),
    (0b1000000000000000000000000010000110000100010000110000000010010000, .ffmaD { sa := 1, sb := 2, dst := 3, imm := 144 }),
    (0b1000000000000000000000000010001000000100010000110000000000000000, .fminD { sa := 1, sb := 2, dst := 3 }),
    (0b1000000000000000000000000010001010000100010000110000000000000000, .fmaxD { sa := 1, sb := 2, dst := 3 }),
    (0b1000000000000000000000000010001100000100010000110000000010010000, .fdivD { sa := 1, sb := 2, dst := 3, imm := 144 }),
    (0b1000000000000000000000000010001110000101111000110000000010100000, .fsqrtD { sa := 1, sb := 15, dst := 3, imm := 160 }),
    (0b1000000000000000000000000010010000000100010000110000000010010000, .faddS { sa := 1, sb := 2, dst := 3, imm := 144 }),
    (0b1000000000000000000000000010010010000100010000110000000010010000, .fsubS { sa := 1, sb := 2, dst := 3, imm := 144 }),
    (0b1000000000000000000000000010010100000100010000110000000010010000, .fmulS { sa := 1, sb := 2, dst := 3, imm := 144 }),
    (0b1000000000000000000000000010010110000100010000110000000010010000, .ffmaS { sa := 1, sb := 2, dst := 3, imm := 144 }),
    (0b1000000000000000000000000010011000000100010000110000000000000000, .fminS { sa := 1, sb := 2, dst := 3 }),
    (0b1000000000000000000000000010011010000100010000110000000000000000, .fmaxS { sa := 1, sb := 2, dst := 3 }),
    (0b1000000000000000000000000010011100000100010000110000000010010000, .fdivS { sa := 1, sb := 2, dst := 3, imm := 144 }),
    (0b1000000000000000000000000010011110000101111000110000000010100000, .fsqrtS { sa := 1, sb := 15, dst := 3, imm := 160 }),
    (0b1000000000000000000000000010100000000100010000110000000000000001, .fcmpeq { sa := 1, sb := 2, dst := 3, imm := 1 }),
    (0b1000000000000000000000000010100010000100010000110000000000000001, .fcmplt { sa := 1, sb := 2, dst := 3, imm := 1 }),
    (0b1000000000000000000000000010100100000100010000110000000000000001, .fcmple { sa := 1, sb := 2, dst := 3, imm := 1 }),
    (0b1000000000000000000000000010100110000100010000110000000000000001, .fcmpun { sa := 1, sb := 2, dst := 3, imm := 1 }),
    (0b1000000000000000000000000010101000000101001000110000000000110001, .fcvt { sa := 1, sb := 9, dst := 3, imm := 49 }),
    (0b1000000000000000000000000010101010000100000000110000000001010000, .fcvti { sa := 1, dst := 3, imm := 80 }),
    (0b1000000000000000000000000010101100000110000000110000000001110001, .icvtf { sa := 1, sb := 16, dst := 3, imm := 113 }),
    (0b1000000000000000000000000010101110000101111000110000000000000000, .fexp2S { sa := 1, sb := 15, dst := 3 }),
    (0b1000000000000000000000000010110000000101111000110000000000000000, .flog2S { sa := 1, sb := 15, dst := 3 }),
    (0b1000000000000000000000000010110010000101111000110000000000000000, .frcpS { sa := 1, sb := 15, dst := 3 }),
    (0b1000000000000000000000000010110100000101111000110000000000000000, .frsqS { sa := 1, sb := 15, dst := 3 }),
    (0b1000000000000000000000000010110110000101111000110000000000001000, .fclass { sa := 1, sb := 15, dst := 3, imm := 8 })
  ] : List (BitVec 64 × Instr)).all (fun p => readsAs (decodeSlot p.1) p.2) = true := by decide

theorem test_words_vector : ([
    (0b1000000000000000000000000011000000000100010000110000000000000011, .vadd { sa := 1, sb := 2, dst := 3, imm := 3 }),
    (0b1000000000000000000000000011000010000100010000110000000000000011, .vsub { sa := 1, sb := 2, dst := 3, imm := 3 }),
    (0b1111001101010000000000000011000100001100000000000010101010000001, .vmul { la := { en := 1, val := 1, p := 9 }, lb := { en := 1, val := 0, p := 10 }, sa := 3, puo := 2, pui := 10, imm := 129 }),
    (0b1000000000000000000000000011000110000100010000110000000000000011, .vfma { sa := 1, sb := 2, dst := 3, imm := 3 }),
    (0b1000000000000000000000000011001000000100010000110000000000000011, .vmin { sa := 1, sb := 2, dst := 3, imm := 3 }),
    (0b1000000000000000000000000011001010000100010000110000000000000011, .vmax { sa := 1, sb := 2, dst := 3, imm := 3 }),
    (0b1000000000000000000000000011001100000111111000110000000010000011, .vabs { sa := 1, sb := 31, dst := 3, imm := 131 }),
    (0b1000000000000000000000000011001110000111111000110000000010000011, .vneg { sa := 1, sb := 31, dst := 3, imm := 131 }),
    (0b1000000000000000000000000011010000000111111000110000000000010001, .vexp2 { sa := 1, sb := 31, dst := 3, imm := 17 }),
    (0b1000000000000000000000000011010010000111111000110000000000010001, .vrcp { sa := 1, sb := 31, dst := 3, imm := 17 }),
    (0b1000000000000000000000000011010100000111111000110000000000010001, .vrsq { sa := 1, sb := 31, dst := 3, imm := 17 }),
    (0b1000000000000000000000000011010110000111111000110000000000010001, .vlog2 { sa := 1, sb := 31, dst := 3, imm := 17 }),
    (0b1000000000000000000000000011011000000100001000110000000000110011, .vcvt { sa := 1, sb := 1, dst := 3, imm := 51 }),
    (0b1000000000000000000000000011011010000111111101000000000000000001, .vredsum { sa := 1, sb := 31, dst := 20, imm := 1 }),
    (0b1000000000000000000000000011011100000111111101000000000000000001, .vredmax { sa := 1, sb := 31, dst := 20, imm := 1 }),
    (0b1000000000000000000000000011011110000111111101000000000000000001, .vredmin { sa := 1, sb := 31, dst := 20, imm := 1 }),
    (0b1000000000000000000000000011100000000100010000110000000000000011, .vand { sa := 1, sb := 2, dst := 3, imm := 3 }),
    (0b1000000000000000000000000011100010000100010000110000000000000011, .vor { sa := 1, sb := 2, dst := 3, imm := 3 }),
    (0b1000000000000000000000000011100100000100010000110000000000000011, .vxor { sa := 1, sb := 2, dst := 3, imm := 3 }),
    (0b1000000000000000000000000011100110000100010000110000000000001100, .vshl { sa := 1, sb := 2, dst := 3, imm := 12 }),
    (0b1000000000000000000000000011101000000100010000110000000000001100, .vshr { sa := 1, sb := 2, dst := 3, imm := 12 }),
    (0b1000000000000000000000000011101010000100010000110000000000001100, .vsar { sa := 1, sb := 2, dst := 3, imm := 12 })
  ] : List (BitVec 64 × Instr)).all (fun p => readsAs (decodeSlot p.1) p.2) = true := by decide

theorem test_words_lane : ([
    (0b1000000000000000000000000011101100000100010000110000000000000011, .vcmpeq { sa := 1, sb := 2, dst := 3, imm := 3 }),
    (0b1000000000000000000000000011101110000100010000110000000000000011, .vcmplt { sa := 1, sb := 2, dst := 3, imm := 3 }),
    (0b1000000000000000000000000011110000000100010000110000000000000011, .vcmple { sa := 1, sb := 2, dst := 3, imm := 3 }),
    (0b1000000000000000000000000011110010000100010000110000000000000011, .vsel { sa := 1, sb := 2, dst := 3, imm := 3 }),
    (0b1000000000000000000000000011110100000110001000110000000000000001, .vbcast { sa := 1, sb := 17, dst := 3, imm := 1 }),
    (0b1000000000000000000000000011110110000110001100100000000000000001, .vextr { sa := 1, sb := 17, dst := 18, imm := 1 }),
    (0b1000000000000000000000000011111001000010001000110000000000000001, .vins { sa := 16, sb := 17, dst := 3, imm := 1 }),
    (0b1000000000000000000000000011111010000100010000110000000000000011, .vshuf { sa := 1, sb := 2, dst := 3, imm := 3 }),
    (0b1000000000000000000000000011111100000100010000110000000000000011, .vpack { sa := 1, sb := 2, dst := 3, imm := 3 }),
    (0b1000000000000000000000000011111110000111111000110000000010000011, .vunpk { sa := 1, sb := 31, dst := 3, imm := 131 }),
    (0b1000000000000000000000000100000000000100010000110000000000000001, .vlrec { sa := 1, sb := 2, dst := 3, imm := 1 }),
    (0b1000000000000100100000000100000010000001001000010000000000001100, .vscan { cc := { en := 1, ch := 1, mt := 0 }, sb := 9, dst := 1, imm := 12 }),
    (0b1000000000000000000000000100000100000111111000110000000010000011, .vmov { sa := 1, sb := 31, dst := 3, imm := 131 }),
    (0b1000000000000000000000000100000111000111111000110000000000000001, .vld { sa := 17, sb := 31, dst := 3, imm := 1 }),
    (0b1000000000000000000000000100001001000100010011100000000010000001, .vst { sa := 17, sb := 2, dst := 14, imm := 129 })
  ] : List (BitVec 64 × Instr)).all (fun p => readsAs (decodeSlot p.1) p.2) = true := by decide

theorem test_words_tensor : ([
    (0b1000000000000000000000000101000001100001001000100000000000010001, .mma { sa := 24, sb := 9, dst := 2, imm := 17 }),
    (0b1000000000000110000000000101000011100001001000000001001000111001, .mmas { cc := { en := 1, ch := 4, mt := 0 }, sa := 24, sb := 9, puo := 1, pui := 2, imm := 57 }),
    (0b1000000000000000000000000101000101100001001000100000000000010001, .mmax { sa := 24, sb := 9, dst := 2, imm := 17 }),
    (0b1000000000000000000000000101000110000000000000110000000000000000, .accz { dst := 3 }),
    (0b1000000000000000000000000101001000101000000000010000000000001010, .accrd { sa := 10, dst := 1, imm := 10 }),
    (0b1000000000000000000000000101001010101000000000010000000000010010, .accwr { sa := 10, dst := 1, imm := 18 }),
    (0b1000000000000000000000000101001100101000000000010000000000010010, .accscl { sa := 10, dst := 1, imm := 18 }),
    (0b1000000000000000000000000101001110101000000000010000000000010010, .accadd { sa := 10, dst := 1, imm := 18 })
  ] : List (BitVec 64 × Instr)).all (fun p => readsAs (decodeSlot p.1) p.2) = true := by decide

theorem test_words_memory : ([
    (0b1000000000000000000000000110000000000101111000110000000011111110, .ld { sa := 1, sb := 15, dst := 3, imm := 254 }),
    (0b1000000000000000000000000110000010000100010000110000000011111111, .st { sa := 1, sb := 2, dst := 3, imm := 255 }),
    (0b1000000000000000000000000110000100000101111000110000000000000110, .ldw { sa := 1, sb := 15, dst := 3, imm := 6 }),
    (0b1000000000000000000000000110000110000100010011100000000000000010, .stw { sa := 1, sb := 2, dst := 14, imm := 2 }),
    (0b1000000000000000000000000110001000000101111000110000000011111110, .ldp { sa := 1, sb := 15, dst := 3, imm := 254 }),
    (0b1000000000000000000000000110001010000100010000110000000011111111, .stp { sa := 1, sb := 2, dst := 3, imm := 255 }),
    (0b1000000000000000000000000110001100000101111000110000000011111110, .clrp { sa := 1, sb := 15, dst := 3, imm := 254 }),
    (0b1110000100001000000000000110001110000101000010000010000100000000, .ldne { la := { en := 1, val := 1, p := 0 }, lb := { en := 1, val := 0, p := 1 }, sa := 1, sb := 8, dst := 8, puo := 2, pui := 1 }),
    (0b1000000000000000000000000110010000000100010000110000000011111111, .atadd { sa := 1, sb := 2, dst := 3, imm := 255 }),
    (0b1000000000000000000000000110010010000100010000110000000011111111, .atmin { sa := 1, sb := 2, dst := 3, imm := 255 }),
    (0b1000000000000000000000000110010100000100010000110000000011111111, .atmax { sa := 1, sb := 2, dst := 3, imm := 255 }),
    (0b1000000000000000000000000110010110000100010000110000000011111111, .atand { sa := 1, sb := 2, dst := 3, imm := 255 }),
    (0b1000000000000000000000000110011000000100010000110000000011111111, .ator { sa := 1, sb := 2, dst := 3, imm := 255 }),
    (0b1000000000000000000000000110011010000100010000110000000011111111, .atxor { sa := 1, sb := 2, dst := 3, imm := 255 }),
    (0b1000000000000000000000000110011100000100010000110000000011111111, .atxchg { sa := 1, sb := 2, dst := 3, imm := 255 }),
    (0b1000000000000000000000000110011110000100010000110000000011111111, .atcas { sa := 1, sb := 2, dst := 3, imm := 255 }),
    (0b1000000000000000000000000110100000000100010000110000000011111111, .redadd { sa := 1, sb := 2, dst := 3, imm := 255 }),
    (0b1000000000000000000000000110100010000100010011100000000000000001, .redfadd { sa := 1, sb := 2, dst := 14, imm := 1 }),
    (0b1000000000000000000000000110100100000100010000110000000000000101, .gath { sa := 1, sb := 2, dst := 3, imm := 5 }),
    (0b1000000000000000000000000110100110000100010000110000000000000011, .scat { sa := 1, sb := 2, dst := 3, imm := 3 })
  ] : List (BitVec 64 × Instr)).all (fun p => readsAs (decodeSlot p.1) p.2) = true := by decide

theorem test_words_sync : ([
    (0b1000000000000000000000000110101000111101111011100000000001101010, .hwait { sa := 15, sb := 15, dst := 14, imm := 106 }),
    (0b1000000000000000000000000110101010111101111011100000000001001010, .hrel { sa := 15, sb := 15, dst := 14, imm := 74 }),
    (0b1000000000000000000000000110101100111101111011100000000000101010, .hclm { sa := 15, sb := 15, dst := 14, imm := 42 }),
    (0b1000000000000000000000000110101110111101111011100000000001001010, .hfin { sa := 15, sb := 15, dst := 14, imm := 74 }),
    (0b1000000000000000000000000110110000111101111001000000000000011111, .hstat { sa := 15, sb := 15, dst := 4, imm := 31 }),
    (0b1110001100010000000000000110110010111101111011100010001000001101, .fence { la := { en := 1, val := 1, p := 1 }, lb := { en := 1, val := 0, p := 2 }, sa := 15, sb := 15, dst := 14, puo := 2, pui := 2, imm := 13 }),
    (0b1000000000000000000000000110110100000101111011100000000000000101, .wreg { sa := 1, sb := 15, dst := 14, imm := 5 }),
    (0b1000000000000000000000000110110110000101111011100000000000000101, .whold { sa := 1, sb := 15, dst := 14, imm := 5 }),
    (0b1000000000000000000000000110111000000101111011100000000000010101, .wdrop { sa := 1, sb := 15, dst := 14, imm := 21 }),
    (0b1000000000000000000000000110111010000101111000110000000000000001, .barr { sa := 1, sb := 15, dst := 3, imm := 1 }),
    (0b1000000000000000000000000110111100000100010000110000000011111111, .mlock { sa := 1, sb := 2, dst := 3, imm := 255 }),
    (0b1000000000000000000000000110111110000101111000110000000011111110, .munlk { sa := 1, sb := 15, dst := 3, imm := 254 })
  ] : List (BitVec 64 × Instr)).all (fun p => readsAs (decodeSlot p.1) p.2) = true := by decide

theorem test_words_engine : ([
    (0b1000000000000000000000000111000000000100010001110000000000000011, .eqpush { sa := 1, sb := 2, dst := 7, imm := 3 }),
    (0b1000000000000000000000000111000010000101111000110000000000000000, .eqflush { sa := 1, sb := 15, dst := 3 }),
    (0b1000000000000000000000000111000100000101111000110000000000000000, .eqstat { sa := 1, sb := 15, dst := 3 }),
    (0b1000000000000000000000000111000110000100010000110000000000000000, .eqpri { sa := 1, sb := 2, dst := 3 }),
    (0b1000000000000000000000000111001000000100010000110000000000101111, .nlbin { sa := 1, sb := 2, dst := 3, imm := 47 }),
    (0b1000000000000000000000000111001010111101111011100000000010000000, .nlsweep { sa := 15, sb := 15, dst := 14, imm := 128 }),
    (0b1000000000000000000000000111001100000100010000110000000000101111, .nlmove { sa := 1, sb := 2, dst := 3, imm := 47 }),
    (0b1000000000000000000000000111001110111101111001000000000000000101, .nlstat { sa := 15, sb := 15, dst := 4, imm := 5 }),
    (0b1000000000000000000000000111010000000101111000110000000000101111, .nlclr { sa := 1, sb := 15, dst := 3, imm := 47 }),
    (0b1000000000000000000000000111010010000100010000110000000000000000, .scopy { sa := 1, sb := 2, dst := 3 }),
    (0b1000000000000000000000000111010100000101111000110000000000000000, .scstat { sa := 1, sb := 15, dst := 3 })
  ] : List (BitVec 64 × Instr)).all (fun p => readsAs (decodeSlot p.1) p.2) = true := by decide

theorem test_words_queue : ([
    (0b1000000000000000000000000111010110000100010000110000000000000000, .qenq { sa := 1, sb := 2, dst := 3 }),
    (0b1000000000000000000000000111011000000101111000110000000000000000, .qdeq { sa := 1, sb := 15, dst := 3 }),
    (0b1000000000000000000000000111011010000101111000110000000000000000, .qsteal { sa := 1, sb := 15, dst := 3 }),
    (0b1000000000000000000000000111100000000100010000110000000000000000, .sysc { sa := 1, sb := 2, dst := 3 }),
    (0b1000000000000000000000000111100010111101111011100000000000000101, .brk { sa := 15, sb := 15, dst := 14, imm := 5 }),
    (0b1110001100010000000000000111100110111101111100000010001000000000, .cfgsw { la := { en := 1, val := 1, p := 1 }, lb := { en := 1, val := 0, p := 2 }, sa := 15, sb := 15, dst := 16, puo := 2, pui := 2 }),
    (0b1000000000000000000000000111101000111101111000010000000000000001, .rdcyc { sa := 15, sb := 15, dst := 1, imm := 1 })
  ] : List (BitVec 64 × Instr)).all (fun p => readsAs (decodeSlot p.1) p.2) = true := by decide

theorem test_words_xcarnar : ([
    (0b00000000110001011000010100001011, .crnFload { rd := 10, rs1 := 11, rs2 := 12 }),
    (0b00000010110001011000010100001011, .crnFkill { rd := 10, rs1 := 11, rs2 := 12 }),
    (0b00000100110001011000010100001011, .crnFshadow { rd := 10, rs1 := 11, rs2 := 12 }),
    (0b00000110110001011000010100001011, .crnFswap { rd := 10, rs1 := 11, rs2 := 12 }),
    (0b00001000110001011000010100001011, .crnFrun { rd := 10, rs1 := 11, rs2 := 12 }),
    (0b00001010110001011000010100001011, .crnFhalt { rd := 10, rs1 := 11, rs2 := 12 }),
    (0b00001100110001011000010100001011, .crnFmark { rd := 10, rs1 := 11, rs2 := 12 }),
    (0b00001110110001011000010100001011, .crnFscan { rd := 10, rs1 := 11, rs2 := 12 }),
    (0b00010000110001011000010100001011, .crnFrest { rd := 10, rs1 := 11, rs2 := 12 }),
    (0b00010010110001011000010100001011, .crnFmove { rd := 10, rs1 := 11, rs2 := 12 }),
    (0b00010100110001011000010100001011, .crnFpatch { rd := 10, rs1 := 11, rs2 := 12 }),
    (0b00010110110001011000010100001011, .crnFinval { rd := 10, rs1 := 11, rs2 := 12 }),
    (0b00011000110001011000010100001011, .crnFtok { rd := 10, rs1 := 11, rs2 := 12 }),
    (0b00011010110001011000010100001011, .crnFinject { rd := 10, rs1 := 11, rs2 := 12 }),
    (0b00011100110001011000010100001011, .crnFstat { rd := 10, rs1 := 11, rs2 := 12 }),
    (0b00011110110001011000010100001011, .crnFpar { rd := 10, rs1 := 11, rs2 := 12 }),
    (0b00100000110001011000010100001011, .crnWftrd { rd := 10, rs1 := 11, rs2 := 12 }),
    (0b00100010110001011000010100001011, .crnWftclr { rd := 10, rs1 := 11, rs2 := 12 })
  ] : List (BitVec 32 × Instr)).all (fun p => readsAs (decodeHart p.1) p.2) = true := by decide

/-! ## CSR words (log 10: the RISC-V SYSTEM opcode) -/

theorem test_words_csr : ([
    (0b01011100000000010001000111110011, .csrWrite { f3 := 1, rd := 3, rs1 := 2, csr := 0x5C0 }),
    (0b01011100010000010010000111110011, .crnfrecWrite { f3 := 2, rd := 3, rs1 := 2, csr := 0x5C4 }),
    (0b01101110010000010011000111110011, .crnfrecWrite { f3 := 3, rd := 3, rs1 := 2, csr := 0x6E4 }),
    (0b01101100000011111101000001110011, .hcrnpmapWrite { f3 := 5, rd := 0, rs1 := 31, csr := 0x6C0 })
  ] : List (BitVec 32 × Instr)).all (fun p => readsAs (decodeHart p.1) p.2) = true := by decide

/-! ## Ill-formed terms, refused (R105, R108-R115, R149, R154, R173-R175, R184, R199, R219, R266, R282, R302) -/

/-- A well-formed scalar, vector, tensor and memory word. -/
def tS : Ti := { sa := 1, sb := 2, dst := 3 }
def tV : Ti := { sa := 1, sb := 2, dst := 3, imm := 9 }
def tA : Ti := { sa := 1, sb := 2, dst := 3 }

theorem test_wf_legal : ([.add tS, .vadd tV, .mma tA, .st tS, .mov { tS with sb := 15 }, .vld { sa := 20, sb := 31, dst := 3 }] : List Instr).all Instr.wf = true := by decide

theorem test_wf_trigger : ([
    .add { tS with la := { val := 1 } }, .add { tS with la := { p := 3 } }, .add { tS with lb := { val := 1 } }, .add { tS with cc := { ch := 1 } },
    .add { tS with cd := { mt := 1 } }, .add { tS with pui := 1 }, .add { tS with puo := 1, pui := 12 }, .add { tS with om := 1 },
    .add { tS with dst := 16, om := 3 }, .fwd { sa := 16, sb := 15, dst := 16, imm := 1, om := 1 }
  ] : List Instr).any Instr.wf = false := by decide

theorem test_wf_scalar : ([
    .add { tS with dst := 15 }, .add { tS with dst := 26 }, .add { tS with imm := 1 }, .nop tS, .nop { sa := 15, sb := 15, dst := 14, imm := 1 },
    .mov tS, .clz tS, .sel { tS with sa := 14 }, .mac { tS with dst := 14 }, .bins { tS with dst := 16 }, .bins { tS with imm := 16 },
    .fwd { tS with sb := 15 }, .drop { sa := 16, sb := 1, dst := 14 }, .mark { sa := 1, sb := 15, dst := 3 },
    .emitc { sa := 1, sb := 15, dst := 16 }, .join { sa := 16, sb := 16, dst := 3 }, .cntset { sa := 1, sb := 15, dst := 14, imm := 8 },
    .cntset { sa := 15, sb := 15, dst := 14, imm := 12 }, .cntinc { sa := 15, sb := 15, dst := 14, imm := 4 },
    .cntrd { sa := 15, sb := 15, dst := 3, imm := 4 }, .spawn { tS with sb := 15 }, .sendc tS, .cret tS, .colr { sa := 1, sb := 1, dst := 3 },
    .prd { sa := 15, sb := 15, dst := 3, imm := 1 }, .pwr { sa := 1, sb := 2, dst := 14, puo := 1 }, .done { sa := 1, sb := 15, dst := 14 },
    .trap { sa := 14, sb := 15, dst := 14 }
  ] : List Instr).any Instr.wf = false := by decide

theorem test_wf_float : ([
    .faddD { tS with sb := 14 }, .fmulS { tS with imm := 0x60 }, .ffmaD { tS with dst := 16 }, .fminS { tS with imm := 0x80 },
    .fsqrtD { tS with sb := 2 }, .fcmplt { tS with imm := 2 }, .fcvt { tS with sb := 6 }, .fcvt { tS with sb := 0, imm := 0x90 },
    .fcvti { tS with sb := 16 }, .icvtf { tS with sb := 0, imm := 0x80 }, .fexp2S { tS with sb := 15, imm := 1 }, .fclass { tS with sb := 15, imm := 9 }
  ] : List Instr).any Instr.wf = false := by decide

theorem test_wf_vector : ([
    .vadd { tV with dst := 12 }, .vfma { tV with dst := 8 }, .vadd { tV with imm := 14 }, .vadd { tV with imm := 0x19 }, .vadd { tV with sb := 30 },
    .vmin { tV with imm := 0x49 }, .vabs { tV with sb := 1 }, .vrcp { tV with sb := 31 }, .vcvt { tV with sb := 15 },
    .vredsum { tV with sb := 31, sa := 20 }, .vredmax { tV with sb := 31, imm := 0x49 }, .vand { tV with imm := 0x4E }, .vshl { tV with imm := 1 },
    .vcmpeq { tV with dst := 16 }, .vsel { tV with imm := 0x89 }, .vbcast { tV with sb := 2 }, .vextr { tV with sb := 20, dst := 3 },
    .vins { tV with sa := 20, sb := 20, dst := 8 }, .vshuf { tV with imm := 6 }, .vpack { tV with sa := 20 }, .vunpk tV, .vlrec { tV with imm := 9 },
    .vscan { tV with imm := 12, sa := 20 }, .vmov tV, .vld { sa := 1, sb := 31, dst := 3 }, .vst { sa := 20, sb := 20, dst := 14 }
  ] : List Instr).any Instr.wf = false := by decide

theorem test_wf_tensor : ([
    .mma { tA with dst := 4 }, .mmas { tA with imm := 64 }, .accz { tA with sa := 1, sb := 0 }, .accrd { tA with sb := 1 }, .accrd { tA with sb := 0, imm := 16 },
    .accwr { tA with sb := 0, imm := 32 }, .accscl { tA with sb := 0, imm := 8 }, .accadd { tA with sb := 3 }
  ] : List Instr).any Instr.wf = false := by decide

theorem test_wf_memory : ([
    .ld { tS with sa := 14, sb := 15 }, .ld tS, .st { tS with sa := 14 }, .ldw { tS with sb := 15, imm := 3 }, .stw { tS with imm := 4 },
    .atcas { tS with dst := 16 }, .redadd { tS with dst := 26 }, .redfadd { tS with imm := 7 }, .gath { tS with imm := 7 },
    .hwait { sa := 15, sb := 15, dst := 14, imm := 128 }, .hrel { sa := 15, sb := 15, dst := 14, imm := 0xA0 }, .hclm { sa := 15, sb := 15, dst := 14, imm := 64 },
    .hfin { sa := 15, sb := 15, dst := 14, imm := 0xA0 }, .hstat { sa := 15, sb := 15, dst := 3, imm := 32 }, .fence { sa := 15, sb := 15, dst := 14, imm := 3 },
    .wreg { tS with sb := 15, imm := 2 }, .whold { tS with sb := 15, imm := 4 }, .wdrop { tS with sb := 15, imm := 0x14 }, .barr { tS with sb := 15, imm := 2 },
    .eqpush { tS with imm := 14 }, .mlock { tS with sa := 14 }, .eqflush { tS with sb := 15, imm := 1 }, .eqpri { tS with imm := 1 },
    .nlbin { tS with imm := 48 }, .nlsweep { sa := 15, sb := 15, dst := 3, imm := 48 }, .nlstat { sa := 1, sb := 15, dst := 3 },
    .nlclr { tS with sb := 15, imm := 48 }, .scopy { tS with sb := 16 }, .scstat { tS with sb := 15, imm := 1 }, .qenq { tS with imm := 1 },
    .qdeq { tS with sb := 2 }, .sysc { tS with imm := 1 }, .brk { sa := 1, sb := 15, dst := 14 }, .cfgsw { sa := 15, sb := 15, dst := 3 },
    .rdcyc { sa := 15, sb := 15, dst := 3, imm := 2 }
  ] : List Instr).any Instr.wf = false := by decide

theorem test_wf_csr : ([
    .csrWrite { f3 := 0, csr := 0x5C0 }, .csrWrite { f3 := 4, csr := 0x5C0 }, .csrWrite { csr := 0x300 }, .csrWrite { csr := 0x5C4 },
    .crnfrecWrite { csr := 0x5C0 }, .hcrnpmapWrite { csr := 0x5C4 }
  ] : List Instr).any Instr.wf = false := by decide

/-! ## After reset, and a few steps -/

/-- A hart is at the vector of the spec in the mode of the spec (R373); nothing runs. -/
theorem test_reset : State.reset.regions = [] ∧ State.reset.parts = [] ∧ State.reset.mem = [] ∧ State.reset.fc = 0 := ⟨rfl, rfl, rfl, rfl⟩

/-! ## States that meet the hypotheses of each claim -/

def ct0 : Ct := { g := [(1, { bits := 7 }), (2, { bits := 12 }), (3, {bits := 5, pois := true})] }
def tkD (v : Nat) : Token := { pay := BitVec.ofNat 512 v, pois := 0, mark := mkD, col := 0 }
def rC (c : Ct) (inp : Tab Chan := []) : Region := { rid := 1, part := 1, st := rRunning, res := true, w := 1, h := 1, tiles := [(0, { act := { ct := c, inp := inp, routes := [(0, [0])] } })] }
def rP : Region := rC ct0
def sP (r : Region) : State := { State.reset with regions := [(1, r)], parts := [(1, {})], curRid := 1, curKey := 0, curSlot := 3, fc := 9 }
def t12 : Ti := { sa := 1, sb := 2, dst := 4, puo := 1, pui := 2 }
def t13 : Ti := { sa := 1, sb := 3, dst := 4 }

def gAt (cap off : Nat) : Val := { bits := BitVec.ofNat 64 (2 ^ 62 + cap * 2 ^ 54 + off) }
def capOf (base len rights : Nat) : List Word :=
  let n := base * 2 ^ 71 + len * 2 ^ 31 + rights * 2 ^ 23 + 2 ^ 15 + 5
  [BitVec.ofNat 64 n, BitVec.ofNat 64 (n / 2 ^ 64), 0, 0]
def pD : List Word := ([5 * 2 ^ 36] ++ List.replicate 13 0 ++ [2 ^ 52]).map (BitVec.ofNat 64)
def sM (r : Region) : State := { sP r with parts := [(1, { desc := pD })] }
def regOf (o : Host.Outcome State Fault Refusal) (rid : Nat := 1) : Region := match o with | .next s => (tfind s.regions rid).getD {} | _ => {}
def stOf (o : Host.Outcome State Fault Refusal) : State := match o with | .next s => s | _ => State.reset
def memT (l : List (Nat × Nat)) : List Host.Cell := l.foldl (fun m x => wrNat m x.1 8 x.2) []
/-- Page tables: VA 0..0xFFFF to PA 0x10000, with every right. -/
def pt0 : List (Nat × Nat) := [(0, 2 ^ 63 + 0x1000), (0x1000, 2 ^ 63 + 0x2000), (0x2000, 2 ^ 63 + 0x3000), (0x3000, 2 ^ 63 + 0x4000), (0x4000, 2 ^ 63 + 2 ^ 62 + 0x1000E)]
def capT : List Word := capOf 0 0x10000 0xFF
def sT (r : Region) (m : List (Nat × Nat) := []) : State := { sM r with mem := memT (pt0 ++ m) }
/-- An answer is this value; from its evaluation. -/
def okIs {α β : Type} [DecidableEq β] (e : Except α β) (b : β) : Bool := match e with | .ok x => decide (x = b) | .error _ => false
theorem okIs_eq {α β : Type} [DecidableEq β] {e : Except α β} {b : β} (h : okIs e b = true) : e = .ok b := by
  cases e with
  | error _ => exact absurd h (by simp [okIs])
  | ok x => exact congrArg Except.ok (of_decide_eq_true h)
def errIs {α β : Type} [DecidableEq α] (e : Except α β) (b : α) : Bool := match e with | .error x => decide (x = b) | .ok _ => false
theorem errIs_eq {α β : Type} [DecidableEq α] {e : Except α β} {b : α} (h : errIs e b = true) : e = .error b := by
  cases e with
  | ok _ => exact absurd h (by simp [errIs])
  | error x => exact congrArg Except.error (of_decide_eq_true h)
theorem prod_ok {α β γ : Type} [DecidableEq γ] {p : α × Except β γ} {b : γ} (h : okIs p.2 b = true) : p = (p.1, .ok b) := by rw [← okIs_eq h]
theorem some_get {α β γ : Type} (p : Option (α × β × γ)) (h : p.isSome = true) : p = some ((p.get h).1, (p.get h).2.1, (p.get h).2.2) := by
  cases p with
  | none => cases h
  | some x => rfl
theorem prod_snd {α β : Type} {p : α × β} {b : β} (h : p.2 = b) : p = (p.1, b) := by rw [← h]
def pD2 : List Word := ([2 ^ 63 + 5 * 2 ^ 36, 10 * 2 ^ 50] ++ List.replicate 12 (2 ^ 64 - 1) ++ [2 ^ 52, 0] ++ [2^64-1,2^64-1,2^64-1] ).map (BitVec.ofNat 64)
def rcbW (rid par img : Nat) (root : Bool) : List Nat := [rid * 2 ^ 52 + 1 * 2 ^ 45, (if root then 1 else par * 2^7/128) , 511 * 2 ^ 55, 768 * 2 ^ 54 + 8192 * 2 ^ 40 + 4 * 2 ^ 6, 0, 8192 * 2 ^ 32, img, 0]
def wsAt (a : Nat) (l : List Nat) : List (Nat × Nat) := (List.range l.length).map (fun i => (a + 8 * i, l.getD i 0))
def img0 : List Nat := [0x4B434C310001 * 2 ^ 16, 0x0101, 0, 0, 64, 0, 0, 0]
def sC : State := { State.reset with mem := memT (wsAt 0x30000 (rcbW 7 0 0x20000 true) ++ wsAt 0x20000 img0), parts := [(1, { desc := pD2, root := 0x30000 })] }
def exOk {α β : Type} (e : Except α β) (d : β) : β := match e with | .ok x => x | .error _ => d
def exErr {α β : Type} (e : Except α β) (d : α) : α := match e with | .ok _ => d | .error x => x
def exIsOk {α β : Type} (e : Except α β) : Bool := match e with | .ok _ => true | .error _ => false
theorem ok_get {α β : Type} {e : Except α β} (d : β) (h : exIsOk e = true) : e = .ok (exOk e d) := by
  cases e with
  | error _ => exact absurd h (by simp [exIsOk])
  | ok _ => rfl
theorem err_get {α β : Type} {e : Except α β} (d : α) (h : exIsOk e = false) : e = .error (exErr e d) := by
  cases e with
  | ok _ => exact absurd h (by simp [exIsOk])
  | error _ => rfl
theorem hasReg {s : State} {rid : Nat} (h : (tfind s.regions rid).isSome = true) : HasRegion s rid (s.region rid) := by
  unfold HasRegion
  cases e : tfind s.regions rid with
  | none => rw [e] at h; cases h
  | some x => rw [State.region, tget_of_tfind _ e]
def tw1 : Ti := {sa := 15, sb := 15, dst := 14}
def tw5 : Ti := {sa := 16, sb := 17, dst := 1}
def tw6 : Ti := {sa := 15, sb := 15, dst := 1, imm := 1}
def tw7 : Ti := {sa := 15, sb := 15, dst := 1}
def tw10 : Ti := {t12 with dst := 3}
def tw11 : Ti := {sa := 3, sb := 15, dst := 14, imm := 200}
def tw12 : Ti := {sa := 15, sb := 15, dst := 14, imm := 200}
def tw13 : Ti := {sa := 16, sb := 15, dst := 16, imm := 1}
def tw14 : Ti := {sa := 16, sb := 15, dst := 16, om := 1}
def tw15 : Ti := {sa := 16, sb := 15, dst := 16, om := 3}
def tw16 : Ti := {sa := 1, sb := 15, dst := 16, om := 3}
def tw17 : Ti := {sa := 16, sb := 1, dst := 16, om := 1}
def tw18 : Ti := {sa := 16, sb := 3, dst := 16, om := 1}
def tw19 : Ti := {sa := 1, sb := 2, dst := 14}
def tw20 : Ti := {sa := 1, sb := 3, dst := 14}
def tw21 : Ti := {sa := 2, sb := 15, dst := 14, imm := 1, puo := 1}
def tw22 : Ti := {sa := 2, sb := 15, dst := 14, imm := 2, puo := 1}
def tw23 : Ti := {sa := 2, sb := 15, dst := 14, imm := 5, puo := 1}
def tw24 : Ti := {sa := 2, sb := 15, dst := 14, imm := 9, puo := 1}
def tw25 : Ti := {sa := 3, sb := 15, dst := 14, imm := 9, puo := 1}
def tw26 : Ti := {sa := 15, sb := 15, dst := 14, imm := 1, puo := 1}
def tw28 : Ti := {sa := 2, sb := 15, dst := 16, puo := 1}
def tw29 : Ti := {sa := 16, sb := 15, dst := 16, puo := 1}
def tw30 : Ti := {t12 with imm := 3}
def tw31 : Ti := {sa := 1, sb := 3, dst := 4, imm := 12}
def tw32 : Ti := {sa := 1, sb := 2, dst := 4, imm := 12}
def tw33 : Ti := {sa := 1, sb := 15, dst := 4}
def tw34 : Ti := {sa := 5, sb := 15, dst := 4}
def tw36 : Ti := {sa := 1, sb := 2, dst := 4}
def tw37 : Ti := {sa := 1, sb := 3, dst := 4}
def tw39 : Ti := {sa := 23, sb := 31, dst := 4}
def tw40 : Ti := {sa := 24, sb := 31, dst := 4}
def tw41 : Ti := {sa := 19, sb := 31, dst := 4}
def tw42 : Ti := {sa := 23, sb := 1, dst := 14}
def tw43 : Ti := {sa := 17, sb := 1, dst := 14}
def tw44 : Ti := {sa := 19, sb := 1, dst := 14}
def tw45 : Ti := {sa := 3, sb := 2, dst := 4}
def tw46 : Ti := {sa := 7, sb := 2, dst := 4}
def tw47 : Ti := {sa := 4, sb := 15, dst := 4}
def tw48 : Ti := {sa := 8, sb := 2, dst := 4}
def tw49 : Ti := {sa := 10, sb := 15, dst := 4}
def tw50 : Ti := {sa := 8, sb := 9, dst := 0}
def tw52 : Ti := {sa := 31, sb := 31, dst := 1}
def tw53 : Ti := {sa := 8, sb := 31, dst := 1}
def tw54 : Ti := {sa := 8, sb := 31, dst := 1, imm := 16}
def tw55 : Ti := {sa := 1, sb := 2, dst := 14, imm := 2}
def tw56 : Ti := {sa := 1, sb := 2, dst := 14, imm := 1}
def tw57 : Ti := {sa := 1, sb := 15, dst := 14, imm := 1}
def tw58 : Ti := {sa := 7, sb := 3, dst := 14, imm := 1}
def tw59 : Ti := {sa := 15, sb := 15, dst := 14, imm := 2}
def tw60 : Ti := {sa := 15, sb := 15, dst := 14, imm := 72}
def tw61 : Ti := {sa := 15, sb := 15, dst := 14, imm := 105}
def tw62 : Ti := {sa := 15, sb := 15, dst := 14, imm := 104}
def tw63 : Ti := {sa := 15, sb := 15, dst := 14, imm := 8}
def tw64 : Ti := {sa := 15, sb := 15, dst := 14, imm := 12}
def tw65 : Ti := {sa := 15, sb := 15, dst := 14, imm := 40}
def tw66 : Ti := {sa := 4, sb := 3, dst := 1}
def tw67 : Ti := {sa := 2, sb := 3, dst := 1}
def tw68 : Ti := {sa := 7, sb := 3, dst := 1}
def tw69 : Ti := {sa := 8, sb := 3, dst := 1}
def tw70 : Ti := {sa := 1, sb := 3, dst := 1}
def tw71 : Ti := {sa := 15, sb := 15, dst := 16, puo := 1}
def tw72 : Ti := {sa := 1, sb := 15, dst := 1}
def tw73 : Ti := {sa := 9, sb := 15, dst := 1}
def tw74 : Ti := {sa := 10, sb := 15, dst := 1}
def tw75 : Ti := {sa := 2, sb := 15, dst := 1}
def tw77 : Ti := {sa := 2, sb := 7, dst := 1}
def tw78 : Ti := {sa := 3, sb := 15, dst := 1}
def tw80 : Ti := { t12 with imm := 0x01, sb := 9 }
def tw81 : Ti := { t12 with imm := 0xE1 }
def tw82 : Ti := { t12 with imm := 0xEE }
def tw83 : Ti := { t12 with imm := 12 }
def tw84 : Ti := {t12 with imm := 12}
def tw85 : Ti := {t12 with imm := 1}
def tw86 : Ti := { t12 with imm := 0x31, sb := 0x18 }

/-! ## The worked examples of the spec -/

/-- The words of the worked examples: EQPUSH, NLSWEEP, BRK, CMPLT, FCVT's fields, and BINS (after R151, R154, R244, R282, R302). -/
theorem test_words_examples : ([
    (0x8000007004470003, .eqpush { sa := 1, sb := 2, dst := 7, imm := 3 }),
    (0x80000072BDEE0080, .nlsweep { sa := 15, sb := 15, dst := 14, imm := 0x80 }),
    (0x80000078BDEE0005, .brk { sa := 15, sb := 15, dst := 14, imm := 5 }),
    (0x80040011604E1500, .cmplt { cc := { en := 1 }, sa := 24, sb := 2, dst := 14, puo := 1, pui := 5 })
  ] : List (Word × Instr)).all (fun p => readsAs (decodeSlot p.1) p.2) = true := by decide

/-- Register n of the tile after one step of i on registers g2 and g4 of these values, and g3 = 5. -/
def runG (n a b : Nat) (i : Ti → Instr) (t : Ti := { sa := 2, sb := 4, dst := 3 }) : Nat :=
  let r := rC { g := [(2, { bits := BitVec.ofNat 64 a }), (3, { bits := 5 }), (4, { bits := BitVec.ofNat 64 b })] }
  (tget ((regOf (exec (i t) (sP r))).ct 0).g {} n).bits.toNat

/-- The BINS and BEXT example after R151. -/
theorem test_bins : runG 2 0xFFFFFFFFFFFFFFFF 0x0304 .bins { sa := 3, sb := 4, dst := 2 } = 0xFFFFFFFFFFFFFFDF := by decide +kernel
theorem test_bext : runG 3 0xFFFFFFFFFFFFFFDF 0x0304 .bext = 5 := by decide +kernel

/-- R62, R63, R150: wraps, sign extension from bit 31, the corner cases of division. -/
theorem test_integer : runG 3 (2 ^ 64 - 1) 2 .add = 1 ∧ runG 3 0x7FFFFFFF 1 .addw = 0xFFFFFFFF80000000 ∧ runG 3 (2 ^ 63) 65 .sar = 3 * 2 ^ 62 ∧
    runG 3 (2 ^ 64 - 1) 1 .min = 2 ^ 64 - 1 ∧ runG 3 (2 ^ 64 - 1) 1 .minu = 1 := by decide +kernel
theorem test_division : divU 7 0 = BitVec.ofNat 64 (2 ^ 64 - 1) ∧ remU 7 0 = 7 ∧ divS (BitVec.ofInt 64 (-7)) 2 = BitVec.ofInt 64 (-3) ∧
    remS (BitVec.ofInt 64 (-7)) 2 = BitVec.ofInt 64 (-1) ∧ divS (BitVec.ofNat 64 (2 ^ 63)) (BitVec.ofInt 64 (-1)) = BitVec.ofNat 64 (2 ^ 63) := by decide +kernel

/-- The VREDSUM example: 2^24 in lane 0 and 1.0 in the other lanes give 0x4B80_0007 by the tree of the spec. -/
theorem test_vredsum : (reduce 0x6D 1 0 false 0 (0x4B800000 :: List.replicate 15 0x3F800000)).1 = 0x4B800007 := by decide +kernel

/-- The BRK example after R400: word 0 of the record of region 7 of partition 1, slot 2. -/
theorem test_brk :
    let r : Region := { rC { slots := [(2, 0x80000078BDEE0005)] } with rid := 7 }
    let r' := regOf (exec (.brk { sa := 15, sb := 15, dst := 14, imm := 5 }) { sP r with curSlot := 2 })
    r'.recs.map (fun x => [x.w.getD 0 0, x.w.getD 1 0, x.w.getD 4 0]) = [[0x8201007000090000, 5, 0x80000078BDEE0005]] := by decide +kernel


/-! ### Pe -/

namespace WitPe

def rT : Region := rC ct0 [(0, {buf := [{ pay := 0x1F3, mark := mkL, col := 3 }]}), (1, {buf := [tkD 9]})]
def rT2 : Region := { rT with doneN := 3, doneC := 2 }
def rT3 : Region := { rT with doneN := 3, doneC := 3 }
def rK : Region := rC { ct0 with kcfg := [(1, 0x0000000A00000000)], k := [(1, {val := 9, run := true}), (2, {val := 0, run := false})] }
def rS : Region := { rC ct0 with pool := [5, 6], grants := [(3, 5)], coln := 9, cols := [(4, {st := .live, par := 2})] }
def rL : Region := { rC ct0 [(0, {buf := [{ pay := 0x1F3, mark := mkL, col := 4 }]})] with  cols := [(4, {st := .live, par := 2})] }
/-- An operation that completes at the end of this fc, in slot 3. -/
def oR (o : PendOp) : PendOp := { o with slot := 3, due := some 9 }
def rO (o : PendOp) : Region := rC { ct0 with ops := [(7, oR o)], sr := 5 }
def rV : Region := rC { ct0 with v := [(1, {bits := 0x123456789}), (2, { bits := 77, pois := 1 })] }
def xV : VIn := { a := { bits := 0x123456789 }, b := { bits := 0x123456799 }, d := { bits := 7 }, mask := 3, j := { bits := 1 } }

theorem wit_DestinationReaders_1 :
 (Fires (sP rP) 29 t12 rP) ∧
 (CleanAB (sP rP) 29 t12 rP) ∧
 ((State.opnds (sP rP) 29 t12 rP).d.pois = false) :=
  ⟨⟨rfl, by decide⟩, ⟨rfl, rfl⟩, rfl⟩

theorem wit_DestinationReaders_2 :
 (Fires (sP rP) 31 t12 rP) ∧
 (CleanAB (sP rP) 31 t12 rP) ∧
 ((State.opnds (sP rP) 31 t12 rP).d.pois = false) :=
  ⟨⟨rfl, by decide⟩, ⟨rfl, rfl⟩, rfl⟩

theorem wit_ValueResult_1 :
 (valueOf (Instr.nop tw1) (sP rP) rP = some (0, tw1, { : Val }, false)) ∧
 (Fires (sP rP) 0 tw1 rP) :=
  ⟨rfl, ⟨rfl, by decide⟩⟩

theorem wit_ValueResult_2 :
 (valueOf (Instr.mov t13) (sP rP) rP = some (1, t13, (State.opnds (sP rP) 1 t13 rP).a, (State.opnds (sP rP) 1 t13 rP).a.bits != 0)) ∧
 (Fires (sP rP) 1 t13 rP) :=
  ⟨rfl, ⟨rfl, by decide⟩⟩

theorem wit_ValueResult_3 :
 (valueOf (Instr.join tw5) (sP rT) rT =
  some
    (52, tw5,
      { bits := (State.opnds (sP rT) 52 tw5 rT).a.bits, pois := (State.opnds (sP rT) 52 tw5 rT).a.pois || (State.opnds (sP rT) 52 tw5 rT).b.pois :
        Val },
      (State.opnds (sP rT) 52 tw5 rT).a.bits == (State.opnds (sP rT) 52 tw5 rT).b.bits)) ∧
 (Fires (sP rT) 52 tw5 rT) :=
  ⟨rfl, ⟨rfl, by decide⟩⟩

theorem wit_ValueResult_4 :
 (valueOf (Instr.prd tw7) (sP rT) rT =
  some (60, tw7, { bits := predWord (Region.ct rT (sP rT).curKey) : Val }, predWord (Region.ct rT (sP rT).curKey) != 0)) ∧
 (Fires (sP rT) 60 tw7 rT) :=
  ⟨rfl, ⟨rfl, by decide⟩⟩

theorem wit_TrapsTaken_1 :
 ((∃ (f : Word → Word → Word), aluOf (Instr.mul t13) = some (6, t13, f)) ∨
  (∃ (f : Word → Word → Prop), cmpOf (Instr.mul t13) = some (6, t13, f)) ∨
    (∃ (l : Nat), ∃ (f : Word → Word → Word), longOf (Instr.mul t13) = some (6, t13, l, f)) ∨
      ∃ (n : Nat), ∃ (f : Nat → Nat → Nat × Bool), floatAluOf (Instr.mul t13) = some (6, t13, n, f)) ∧
 (Fires (sP rP) 6 t13 rP) ∧
 (((State.opnds (sP rP) 6 t13 rP).a.pois || (State.opnds (sP rP) 6 t13 rP).b.pois) = true) :=
  ⟨(Or.inr (Or.inr (Or.inl ⟨_, _, rfl⟩))), ⟨rfl, by decide⟩, rfl⟩

theorem wit_TrapsTaken_2 :
 ((∃ (f : Word → Word → Word), aluOf (Instr.add t13) = some (2, t13, f)) ∨
  (∃ (f : Word → Word → Prop), cmpOf (Instr.add t13) = some (2, t13, f)) ∨
    (∃ (l : Nat), ∃ (f : Word → Word → Word), longOf (Instr.add t13) = some (2, t13, l, f)) ∨
      ∃ (n : Nat), ∃ (f : Nat → Nat → Nat × Bool), floatAluOf (Instr.add t13) = some (2, t13, n, f)) ∧
 (Fires (sP rP) 2 t13 rP) ∧
 (((State.opnds (sP rP) 2 t13 rP).a.pois || (State.opnds (sP rP) 2 t13 rP).b.pois) = true) :=
  ⟨(Or.inl ⟨_, rfl⟩), ⟨rfl, by decide⟩, rfl⟩

theorem wit_TrapsTaken_3 :
 ((∃ (f : Word → Word → Word), aluOf (Instr.cmpeq t13) = some (32, t13, f)) ∨
  (∃ (f : Word → Word → Prop), cmpOf (Instr.cmpeq t13) = some (32, t13, f)) ∨
    (∃ (l : Nat), ∃ (f : Word → Word → Word), longOf (Instr.cmpeq t13) = some (32, t13, l, f)) ∨
      ∃ (n : Nat), ∃ (f : Nat → Nat → Nat × Bool), floatAluOf (Instr.cmpeq t13) = some (32, t13, n, f)) ∧
 (Fires (sP rP) 32 t13 rP) ∧
 (((State.opnds (sP rP) 32 t13 rP).a.pois || (State.opnds (sP rP) 32 t13 rP).b.pois) = true) :=
  ⟨(Or.inr (Or.inl ⟨_, rfl⟩)), ⟨rfl, by decide⟩, rfl⟩

theorem wit_TrapsTaken_4 :
 ((∃ (f : Word → Word → Word), aluOf (Instr.fminS t13) = some (76, t13, f)) ∨
  (∃ (f : Word → Word → Prop), cmpOf (Instr.fminS t13) = some (76, t13, f)) ∨
    (∃ (l : Nat), ∃ (f : Word → Word → Word), longOf (Instr.fminS t13) = some (76, t13, l, f)) ∨
      ∃ (n : Nat), ∃ (f : Nat → Nat → Nat × Bool), floatAluOf (Instr.fminS t13) = some (76, t13, n, f)) ∧
 (Fires (sP rP) 76 t13 rP) ∧
 (((State.opnds (sP rP) 76 t13 rP).a.pois || (State.opnds (sP rP) 76 t13 rP).b.pois) = true) :=
  ⟨(Or.inr (Or.inr (Or.inr ⟨_, _, rfl⟩))), ⟨rfl, by decide⟩, rfl⟩

theorem wit_TrapsTaken_5 :
 (Instr.bins tw10 = Instr.bins tw10 ∧ 29 = 29 ∨ Instr.bins tw10 = Instr.mac tw10 ∧ 29 = 31) ∧
 (Fires (sP rP) 29 tw10 rP) ∧
 (((State.opnds (sP rP) 29 tw10 rP).a.pois || (State.opnds (sP rP) 29 tw10 rP).b.pois || (State.opnds (sP rP) 29 tw10 rP).d.pois) = true) :=
  ⟨(Or.inl ⟨rfl, rfl⟩), ⟨rfl, by decide⟩, rfl⟩

theorem wit_TrapsTaken_6 :
 (Instr.mac tw10 = Instr.bins tw10 ∧ 31 = 29 ∨ Instr.mac tw10 = Instr.mac tw10 ∧ 31 = 31) ∧
 (Fires (sP rP) 31 tw10 rP) ∧
 (((State.opnds (sP rP) 31 tw10 rP).a.pois || (State.opnds (sP rP) 31 tw10 rP).b.pois || (State.opnds (sP rP) 31 tw10 rP).d.pois) = true) :=
  ⟨(Or.inr ⟨rfl, rfl⟩), ⟨rfl, by decide⟩, rfl⟩

theorem wit_TrapsTaken_7 :
 (floatOf (Instr.ffmaS tw10) = some (75, tw10, 4, true)) ∧
 (Fires (sP rP) 75 tw10 rP) ∧
 (((State.opnds (sP rP) 75 tw10 rP).a.pois || (State.opnds (sP rP) 75 tw10 rP).b.pois || true && (State.opnds (sP rP) 75 tw10 rP).d.pois) = true) :=
  ⟨rfl, ⟨rfl, by decide⟩, rfl⟩

theorem wit_TrapsTaken_8 :
 Fires (sP rP) 63 tw11 rP :=
  ⟨rfl, by decide⟩

theorem wit_TrapsTaken_9 :
 Fires (sP rP) 241 tw12 rP :=
  ⟨rfl, by decide⟩

theorem wit_TokenResults_1 :
 (Fires (sP rT) 48 tw13 rT) ∧
 (BitVec.getLsbD tw13.imm 0 = true) :=
  ⟨⟨rfl, by decide⟩, rfl⟩

theorem wit_TokenResults_2 :
 (Fires (sP rT) 48 tw14 rT) ∧
 (BitVec.getLsbD tw14.imm 0 = false) ∧
 (tw14.om ≠ mkC ∨ BitVec.toNat (State.opnds (sP rT) 48 tw14 rT).a.bits % 256 < 240) :=
  ⟨⟨rfl, by decide⟩, rfl, (Or.inl (by decide))⟩

theorem wit_TokenResults_3 :
 (Fires (sP rT) 48 tw15 rT) ∧
 (BitVec.getLsbD tw15.imm 0 = false) ∧
 (tw15.om = mkC) ∧
 (240 ≤ BitVec.toNat (State.opnds (sP rT) 48 tw15 rT).a.bits % 256) :=
  ⟨⟨rfl, by decide⟩, rfl, rfl, (by decide +kernel)⟩

theorem wit_TokenResults_4 :
 (Fires (sP rT) 51 tw16 rT) ∧
 (BitVec.toNat (State.opnds (sP rT) 51 tw16 rT).a.bits % 256 < 240) :=
  ⟨⟨rfl, by decide⟩, (by decide +kernel)⟩

theorem wit_TokenResults_5 :
 (Fires (sP rT) 51 tw15 rT) ∧
 (240 ≤ BitVec.toNat (State.opnds (sP rT) 51 tw15 rT).a.bits % 256) :=
  ⟨⟨rfl, by decide⟩, (by decide +kernel)⟩

theorem wit_TokenResults_6 :
 (Fires (sP rT) 57 tw17 rT) ∧
 ((State.opnds (sP rT) 57 tw17 rT).b.pois = false) :=
  ⟨⟨rfl, by decide⟩, (by decide +kernel)⟩

theorem wit_TokenResults_7 :
 (Fires (sP rT) 57 tw18 rT) ∧
 ((State.opnds (sP rT) 57 tw18 rT).b.pois = true) :=
  ⟨⟨rfl, by decide⟩, (by decide +kernel)⟩

theorem wit_TokenResults_8 :
 (Fires (sP rT) 61 tw19 rT) ∧
 (CleanAB (sP rT) 61 tw19 rT) :=
  ⟨⟨rfl, by decide⟩, ⟨rfl, rfl⟩⟩

theorem wit_TokenResults_9 :
 (Fires (sP rT) 61 tw20 rT) ∧
 ((State.opnds (sP rT) 61 tw20 rT).a.pois = true ∨ (State.opnds (sP rT) 61 tw20 rT).b.pois = true) :=
  ⟨⟨rfl, by decide⟩, (Or.inr rfl)⟩

theorem wit_TokenResults_10 :
 Fires (sP rT2) 62 tw1 rT2 :=
  ⟨rfl, by decide⟩

theorem wit_TokenResults_11 :
 Fires (sP rT3) 62 tw1 rT3 :=
  ⟨rfl, by decide⟩

theorem wit_CountersAndColours_1 :
 (Fires (sP rK) 53 tw21 rK) ∧
 ((State.opnds (sP rK) 53 tw21 rK).a.pois = false) ∧
 (BitVec.toNat tw21.imm / 4 = 0) ∧
 ((kGet (Region.ct rK (sP rK).curKey) (BitVec.toNat tw21.imm % 4)).run = true) :=
  ⟨⟨rfl, by decide⟩, rfl, rfl, rfl⟩

theorem wit_CountersAndColours_2 :
 (Fires (sP rK) 53 tw22 rK) ∧
 ((State.opnds (sP rK) 53 tw22 rK).a.pois = false) ∧
 (BitVec.toNat tw22.imm / 4 = 0) ∧
 ((kGet (Region.ct rK (sP rK).curKey) (BitVec.toNat tw22.imm % 4)).run = false) :=
  ⟨⟨rfl, by decide⟩, rfl, rfl, rfl⟩

theorem wit_CountersAndColours_3 :
 (Fires (sP rK) 53 tw23 rK) ∧
 ((State.opnds (sP rK) 53 tw23 rK).a.pois = false) ∧
 (BitVec.toNat tw23.imm / 4 = 1) :=
  ⟨⟨rfl, by decide⟩, rfl, rfl⟩

theorem wit_CountersAndColours_4 :
 (Fires (sP rK) 53 tw24 rK) ∧
 ((State.opnds (sP rK) 53 tw24 rK).a.pois = false) ∧
 (BitVec.toNat tw24.imm / 4 = 2) :=
  ⟨⟨rfl, by decide⟩, rfl, rfl⟩

theorem wit_CountersAndColours_5 :
 (Fires (sP rK) 53 tw25 rK) ∧
 ((State.opnds (sP rK) 53 tw25 rK).a.pois = true) :=
  ⟨⟨rfl, by decide⟩, rfl⟩

theorem wit_CountersAndColours_6 :
 Fires (sP rK) 54 tw26 rK :=
  ⟨rfl, by decide⟩

theorem wit_CountersAndColours_7 :
 (Fires (sP rS) 56 tw28 rS) ∧
 (tfind rS.grants ((sP rS).curKey * 16 + (sP rS).curSlot) = some 5) :=
  ⟨⟨rfl, by decide⟩, rfl⟩

theorem wit_CountersAndColours_8 :
 (Fires (sP rL) 58 tw29 rL) ∧
 (BitVec.toNat (colourOf rL (sP rL).curKey 58 tw29) ≠ 0) ∧
 ((tget rL.cols { : Colour } (BitVec.toNat (colourOf rL (sP rL).curKey 58 tw29))).st = ColSt.live) :=
  ⟨⟨rfl, by decide⟩, (by decide), rfl⟩

theorem wit_CountersAndColours_9 :
 (Fires (sP rL) 58 tw28 rL) ∧
 (BitVec.toNat (colourOf rL (sP rL).curKey 58 tw28) = 0 ∨
  (tget rL.cols { : Colour } (BitVec.toNat (colourOf rL (sP rL).curKey 58 tw28))).st ≠ ColSt.live) :=
  ⟨⟨rfl, by decide⟩, (by decide)⟩

theorem wit_FloatResults_1 :
 (floatOf (Instr.faddS t12) = some (72, t12, 4, false)) ∧
 (Fires (sP rP) 72 t12 rP) ∧
 (CleanAB (sP rP) 72 t12 rP) ∧
 (false = true → (State.opnds (sP rP) 72 t12 rP).d.pois = false) :=
  ⟨rfl, ⟨rfl, by decide⟩, ⟨rfl, rfl⟩, (by decide)⟩

theorem wit_FloatResults_2 :
 (floatOf (Instr.ffmaS t12) = some (75, t12, 4, true)) ∧
 (Fires (sP rP) 75 t12 rP) ∧
 (CleanAB (sP rP) 75 t12 rP) ∧
 (true = true → (State.opnds (sP rP) 75 t12 rP).d.pois = false) :=
  ⟨rfl, ⟨rfl, by decide⟩, ⟨rfl, rfl⟩, (by decide)⟩

theorem wit_FloatResults_3 :
 (Completes (sP (rO { code := 72, ti := t12, a := { bits := 1065353216 : Val }, b := { bits := 864026625 : Val }, ph := 1 : PendOp })) 1 0 7
  (rO { code := 72, ti := t12, a := { bits := 1065353216 : Val }, b := { bits := 864026625 : Val }, ph := 1 : PendOp })
  (oR { code := 72, ti := t12, a := { bits := 1065353216 : Val }, b := { bits := 864026625 : Val }, ph := 1 : PendOp })) ∧
 ((oR { code := 72, ti := t12, a := { bits := 1065353216 : Val }, b := { bits := 864026625 : Val }, ph := 1 : PendOp }).ph = 1) ∧
 (floatExact (oR { code := 72, ti := t12, a := { bits := 1065353216 : Val }, b := { bits := 864026625 : Val }, ph := 1 : PendOp }).code
    (oR { code := 72, ti := t12, a := { bits := 1065353216 : Val }, b := { bits := 864026625 : Val }, ph := 1 : PendOp }).ti
    (Region.ct (rO { code := 72, ti := t12, a := { bits := 1065353216 : Val }, b := { bits := 864026625 : Val }, ph := 1 : PendOp }) 0)
    (oR { code := 72, ti := t12, a := { bits := 1065353216 : Val }, b := { bits := 864026625 : Val }, ph := 1 : PendOp }).a.bits
    (oR { code := 72, ti := t12, a := { bits := 1065353216 : Val }, b := { bits := 864026625 : Val }, ph := 1 : PendOp }).b.bits
    (oR { code := 72, ti := t12, a := { bits := 1065353216 : Val }, b := { bits := 864026625 : Val }, ph := 1 : PendOp }).c.bits =
  some
    (1, 0, false, false,
      addVals
        (if
            BitVec.getLsbD
                (oR { code := 72, ti := t12, a := { bits := 1065353216 : Val }, b := { bits := 864026625 : Val }, ph := 1 : PendOp }).ti.imm 7 =
              true then
          BitVec.toNat (oR { code := 72, ti := t12, a := { bits := 1065353216 : Val }, b := { bits := 864026625 : Val }, ph := 1 : PendOp }).ti.imm /
              16 %
            8
        else
          fld (Region.ct (rO { code := 72, ti := t12, a := { bits := 1065353216 : Val }, b := { bits := 864026625 : Val }, ph := 1 : PendOp }) 0).mode
            63 61)
        (fdec 1
          (BitVec.toNat (oR { code := 72, ti := t12, a := { bits := 1065353216 : Val }, b := { bits := 864026625 : Val }, ph := 1 : PendOp }).a.bits %
            2 ^ fmtW 1))
        (fdec 1
          (BitVec.toNat (oR { code := 72, ti := t12, a := { bits := 1065353216 : Val }, b := { bits := 864026625 : Val }, ph := 1 : PendOp }).b.bits %
            2 ^ fmtW 1)))) :=
  ⟨⟨by decide +kernel, by decide +kernel, by decide +kernel, by decide +kernel, by decide +kernel, Or.inr (by decide +kernel)⟩, rfl, rfl⟩

theorem wit_FloatResults_4 :
 (Completes (sP (rO { code := 84, ti := tw86, a := { bits := 127 : Val }, ph := 1 : PendOp })) 1 0 7
  (rO { code := 84, ti := tw86, a := { bits := 127 : Val }, ph := 1 : PendOp })
  (oR { code := 84, ti := tw86, a := { bits := 127 : Val }, ph := 1 : PendOp })) ∧
 ((oR { code := 84, ti := tw86, a := { bits := 127 : Val }, ph := 1 : PendOp }).ph = 1) ∧
 (floatExact (oR { code := 84, ti := tw86, a := { bits := 127 : Val }, ph := 1 : PendOp }).code
    (oR { code := 84, ti := tw86, a := { bits := 127 : Val }, ph := 1 : PendOp }).ti
    (Region.ct (rO { code := 84, ti := tw86, a := { bits := 127 : Val }, ph := 1 : PendOp }) 0)
    (oR { code := 84, ti := tw86, a := { bits := 127 : Val }, ph := 1 : PendOp }).a.bits
    (oR { code := 84, ti := tw86, a := { bits := 127 : Val }, ph := 1 : PendOp }).b.bits
    (oR { code := 84, ti := tw86, a := { bits := 127 : Val }, ph := 1 : PendOp }).c.bits =
  some
    (3, 0, true, true,
      edec (BitVec.toNat (oR { code := 84, ti := tw86, a := { bits := 127 : Val }, ph := 1 : PendOp }).ti.imm % 16)
        (BitVec.toNat (oR { code := 84, ti := tw86, a := { bits := 127 : Val }, ph := 1 : PendOp }).a.bits %
          2 ^ fmtW (BitVec.toNat (oR { code := 84, ti := tw86, a := { bits := 127 : Val }, ph := 1 : PendOp }).ti.imm % 16)))) :=
  ⟨⟨by decide +kernel, by decide +kernel, by decide +kernel, by decide +kernel, by decide +kernel, Or.inr (by decide +kernel)⟩, rfl, rfl⟩

theorem wit_FloatResults_5 :
 (Completes (sP (rO { code := 85, ti := tw80, a := { bits := 1075838976 : Val }, ph := 1 : PendOp })) 1 0 7
  (rO { code := 85, ti := tw80, a := { bits := 1075838976 : Val }, ph := 1 : PendOp })
  (oR { code := 85, ti := tw80, a := { bits := 1075838976 : Val }, ph := 1 : PendOp })) ∧
 ((oR { code := 85, ti := tw80, a := { bits := 1075838976 : Val }, ph := 1 : PendOp }).ph = 1) ∧
 ((oR { code := 85, ti := tw80, a := { bits := 1075838976 : Val }, ph := 1 : PendOp }).code = 85) :=
  ⟨⟨by decide +kernel, by decide +kernel, by decide +kernel, by decide +kernel, by decide +kernel, Or.inr (by decide +kernel)⟩, rfl, rfl⟩

theorem wit_FloatResults_6 :
 (Completes (sP (rO { code := 84, ti := tw81, a := { bits := 1075838976 : Val }, ph := 1 : PendOp })) 1 0 7
  (rO { code := 84, ti := tw81, a := { bits := 1075838976 : Val }, ph := 1 : PendOp })
  (oR { code := 84, ti := tw81, a := { bits := 1075838976 : Val }, ph := 1 : PendOp })) ∧
 ((oR { code := 84, ti := tw81, a := { bits := 1075838976 : Val }, ph := 1 : PendOp }).ph = 1) ∧
 ((oR { code := 84, ti := tw81, a := { bits := 1075838976 : Val }, ph := 1 : PendOp }).code = 84) ∧
 (BitVec.toNat (oR { code := 84, ti := tw81, a := { bits := 1075838976 : Val }, ph := 1 : PendOp }).ti.imm / 16 = 14) ∧
 (BitVec.toNat (oR { code := 84, ti := tw81, a := { bits := 1075838976 : Val }, ph := 1 : PendOp }).ti.imm % 16 ≤ 8) :=
  ⟨⟨by decide +kernel, by decide +kernel, by decide +kernel, by decide +kernel, by decide +kernel, Or.inr (by decide +kernel)⟩, rfl, rfl, rfl, (by decide)⟩

theorem wit_FloatResults_7 :
 (Completes (sP (rO { code := 84, ti := tw82, a := { bits := 1265 : Val }, ph := 1 : PendOp })) 1 0 7
  (rO { code := 84, ti := tw82, a := { bits := 1265 : Val }, ph := 1 : PendOp })
  (oR { code := 84, ti := tw82, a := { bits := 1265 : Val }, ph := 1 : PendOp })) ∧
 ((oR { code := 84, ti := tw82, a := { bits := 1265 : Val }, ph := 1 : PendOp }).ph = 1) ∧
 ((oR { code := 84, ti := tw82, a := { bits := 1265 : Val }, ph := 1 : PendOp }).code = 84) ∧
 (BitVec.toNat (oR { code := 84, ti := tw82, a := { bits := 1265 : Val }, ph := 1 : PendOp }).ti.imm / 16 = 14) ∧
 (BitVec.toNat (oR { code := 84, ti := tw82, a := { bits := 1265 : Val }, ph := 1 : PendOp }).ti.imm % 16 = 14) :=
  ⟨⟨by decide +kernel, by decide +kernel, by decide +kernel, by decide +kernel, by decide +kernel, Or.inr (by decide +kernel)⟩, rfl, rfl, rfl, rfl⟩

theorem wit_FloatResults_8 :
 (floatAluOf (Instr.fminS t12) = some (76, t12, 1, fun (a b : Nat) => (fMin 1 a b, fMin 1 a b != 0))) ∧
 (Fires (sP rP) 76 t12 rP) ∧
 (CleanAB (sP rP) 76 t12 rP) :=
  ⟨rfl, ⟨rfl, by decide⟩, ⟨rfl, rfl⟩⟩

theorem wit_FloatResults_9 :
 (floatAluOf (Instr.fcmplt t12) =
  some (81, t12, 0, fun (a b : Nat) => (if fLt (BitVec.toNat t12.imm % 2) a b = true then 1 else 0, fLt (BitVec.toNat t12.imm % 2) a b))) ∧
 (Fires (sP rP) 81 t12 rP) ∧
 (CleanAB (sP rP) 81 t12 rP) :=
  ⟨rfl, ⟨rfl, by decide⟩, ⟨rfl, rfl⟩⟩

theorem wit_FloatResults_10 :
 (floatAluOf (Instr.fclass tw30) = some (91, tw30, 3, fun (a x : Nat) => (2 ^ fClass (BitVec.toNat tw30.imm % 16) a, true))) ∧
 (Fires (sP rP) 91 tw30 rP) ∧
 (CleanAB (sP rP) 91 tw30 rP) :=
  ⟨rfl, ⟨rfl, by decide⟩, ⟨rfl, rfl⟩⟩

theorem wit_VectorResults_1 :
 (vecLongOf (Instr.vadd tw31) = some (96, tw31, 4)) ∧
 (Fires (sP rV) 96 tw31 rV) ∧
 (vecPoison 96 tw31 (vinOf rV (sP rV).curKey 96 tw31) = false) :=
  ⟨rfl, ⟨rfl, by decide⟩, (by decide +kernel)⟩

theorem wit_VectorResults_2 :
 (vecLongOf (Instr.vadd tw32) = some (96, tw32, 4)) ∧
 (Fires (sP rV) 96 tw32 rV) ∧
 (vecPoison 96 tw32 (vinOf rV (sP rV).curKey 96 tw32) = true) :=
  ⟨rfl, ⟨rfl, by decide⟩, (by decide +kernel)⟩

theorem wit_VectorResults_3 :
 (vecOf (Instr.vand tw31) = some (112, tw31)) ∧
 (Fires (sP rV) 112 tw31 rV) ∧
 (vecPoison 112 tw31 (vinOf rV (sP rV).curKey 112 tw31) = false) :=
  ⟨rfl, ⟨rfl, by decide⟩, (by decide +kernel)⟩

theorem wit_VectorResults_4 :
 (vecOf (Instr.vand tw32) = some (112, tw32)) ∧
 (Fires (sP rV) 112 tw32 rV) ∧
 (vecPoison 112 tw32 (vinOf rV (sP rV).curKey 112 tw32) = true) :=
  ⟨rfl, ⟨rfl, by decide⟩, (by decide +kernel)⟩

theorem wit_VectorResults_5 :
 (Completes (sP (rO { code := 96, ti := tw83, va := { bits := 18 : VVal }, vb := { bits := 52 : VVal }, mask := 1, ph := 2 : PendOp })) 1 0 7
  (rO { code := 96, ti := tw83, va := { bits := 18 : VVal }, vb := { bits := 52 : VVal }, mask := 1, ph := 2 : PendOp })
  (oR { code := 96, ti := tw83, va := { bits := 18 : VVal }, vb := { bits := 52 : VVal }, mask := 1, ph := 2 : PendOp })) ∧
 ((oR { code := 96, ti := tw83, va := { bits := 18 : VVal }, vb := { bits := 52 : VVal }, mask := 1, ph := 2 : PendOp }).ph = 2) ∧
 (96 ≤ (oR { code := 96, ti := tw83, va := { bits := 18 : VVal }, vb := { bits := 52 : VVal }, mask := 1, ph := 2 : PendOp }).code) ∧
 ((oR { code := 96, ti := tw83, va := { bits := 18 : VVal }, vb := { bits := 52 : VVal }, mask := 1, ph := 2 : PendOp }).code ≤ 130) :=
  ⟨⟨by decide +kernel, by decide +kernel, by decide +kernel, by decide +kernel, by decide +kernel, Or.inr (by decide +kernel)⟩, rfl, (by decide), (by decide)⟩

theorem wit_VectorResults_6 :
 (112 ≤ 112) ∧
 (112 ≤ 127 ∨ 112 = 130) ∧
 (fmtOf tw84 ≤ 14) ∧
 (112 < 118 ∨ 120 < 112) ∧
 (112 ≠ 123) :=
  ⟨(by decide), (Or.inl (by decide)), (by decide), (Or.inl (by decide)), (by decide)⟩

theorem wit_VectorResults_7 :
 (112 ≤ 119) ∧
 (119 ≤ 127 ∨ 119 = 130) ∧
 (fmtOf tw84 ≤ 14) ∧
 (118 ≤ 119) ∧
 (119 ≤ 120) :=
  ⟨(by decide), (Or.inl (by decide)), (by decide), (by decide), (by decide)⟩

theorem wit_VectorResults_8 :
 (112 ≤ 123) ∧
 (123 ≤ 127 ∨ 123 = 130) ∧
 (fmtOf tw84 ≤ 14) ∧
 (123 = 123) :=
  ⟨(by decide), (Or.inl (by decide)), (by decide), rfl⟩

theorem wit_VectorResults_9 :
 (fmtOf tw84 ≤ 14) ∧
 (96 ≤ 96) ∧
 (96 ≤ 107) ∧
 (fmtOf tw84 ≤ 13) :=
  ⟨(by decide), (by decide), (by decide), (by decide)⟩

theorem wit_VectorResults_10 :
 (fmtOf tw84 ≤ 14) ∧
 (108 = 108) ∧
 (BitVec.toNat tw84.sb ≤ 14) :=
  ⟨(by decide), rfl, (by decide)⟩

theorem wit_VectorResults_11 :
 (fmtOf tw84 ≤ 14) ∧
 (109 ≤ 109) ∧
 (109 ≤ 111) ∧
 (fmtOf tw84 ≤ 13) ∧
 (9 ≤ fmtOf tw84) ∧
 (109 = 109) :=
  ⟨(by decide), (by decide), (by decide), (by decide), (by decide), rfl⟩

theorem wit_VectorResults_12 :
 (fmtOf tw84 ≤ 14) ∧
 (109 ≤ 110) ∧
 (110 ≤ 111) ∧
 (fmtOf tw84 ≤ 13) ∧
 (9 ≤ fmtOf tw84) ∧
 (110 = 110) :=
  ⟨(by decide), (by decide), (by decide), (by decide), (by decide), rfl⟩

theorem wit_VectorResults_13 :
 (fmtOf tw84 ≤ 14) ∧
 (109 ≤ 111) ∧
 (111 ≤ 111) ∧
 (fmtOf tw84 ≤ 13) ∧
 (9 ≤ fmtOf tw84) ∧
 (111 = 111) :=
  ⟨(by decide), (by decide), (by decide), (by decide), (by decide), rfl⟩

theorem wit_VectorResults_14 :
 (fmtOf tw85 ≤ 14) ∧
 (109 ≤ 109) ∧
 (109 ≤ 111) ∧
 (fmtOf tw85 ≤ 13) ∧
 (fmtOf tw85 ≤ 8) ∧
 (109 = 109) :=
  ⟨(by decide), (by decide), (by decide), (by decide), (by decide), rfl⟩

theorem wit_VectorResults_15 :
 (fmtOf tw85 ≤ 14) ∧
 (109 ≤ 110) ∧
 (110 ≤ 111) ∧
 (fmtOf tw85 ≤ 13) ∧
 (fmtOf tw85 ≤ 8) ∧
 (110 = 110) :=
  ⟨(by decide), (by decide), (by decide), (by decide), (by decide), rfl⟩

theorem wit_VectorResults_16 :
 (fmtOf tw85 ≤ 14) ∧
 (109 ≤ 111) ∧
 (111 ≤ 111) ∧
 (fmtOf tw85 ≤ 13) ∧
 (fmtOf tw85 ≤ 8) ∧
 (111 = 111) :=
  ⟨(by decide), (by decide), (by decide), (by decide), (by decide), rfl⟩

theorem wit_VectorResults_17 :
 (fmtOf tw85 ≤ 14) ∧
 (128 = 128 ∨ 128 = 129) ∧
 (fmtOf tw85 ≤ 13) :=
  ⟨(by decide), (Or.inl rfl), (by decide)⟩

end WitPe

/-! ### Pe2 -/

namespace WitPe2

theorem wit_IntegerResults_1 :
 (aluOf (Instr.add t12) = some (2, t12, fun (a b : Word) => BitVec.ofNat 64 (BitVec.toNat a + BitVec.toNat b))) ∧
 (Fires (sP rP) 2 t12 rP) ∧
 (CleanAB (sP rP) 2 t12 rP) :=
  ⟨rfl, ⟨rfl, by decide⟩, ⟨rfl, rfl⟩⟩

theorem wit_IntegerResults_2 :
 (longOf (Instr.div t12) =
  some
    (9, t12, 18, fun (a b : Word) =>
      if b = 0 then ones64 else if a = intMin64 ∧ b = ones64 then intMin64 else BitVec.ofInt 64 (Int.tdiv (BitVec.toInt a) (BitVec.toInt b)))) ∧
 (Fires (sP rP) 9 t12 rP) ∧
 (CleanAB (sP rP) 9 t12 rP) :=
  ⟨rfl, ⟨rfl, by decide⟩, ⟨rfl, rfl⟩⟩

theorem wit_CompareResult_1 :
 (cmpOf (Instr.cmplt t12) = some (34, t12, fun (a b : Word) => BitVec.toInt a < BitVec.toInt b)) ∧
 (Fires (sP rP) 34 t12 rP) ∧
 (CleanAB (sP rP) 34 t12 rP) ∧
 (BitVec.toInt (State.opnds (sP rP) 34 t12 rP).a.bits < BitVec.toInt (State.opnds (sP rP) 34 t12 rP).b.bits) :=
  ⟨rfl, ⟨rfl, by decide⟩, ⟨rfl, rfl⟩, (by decide)⟩

theorem wit_CompareResult_2 :
 (cmpOf (Instr.cmpeq t12) = some (32, t12, fun (a b : Word) => a = b)) ∧
 (Fires (sP rP) 32 t12 rP) ∧
 (CleanAB (sP rP) 32 t12 rP) ∧
 (¬(State.opnds (sP rP) 32 t12 rP).a.bits = (State.opnds (sP rP) 32 t12 rP).b.bits) :=
  ⟨rfl, ⟨rfl, by decide⟩, ⟨rfl, rfl⟩, (by decide)⟩

theorem wit_CompareResult_3 :
 (cmpOf (Instr.cmpeq t13) = some (32, t13, fun (a b : Word) => a = b)) ∧
 (Fires (sP rP) 32 t13 rP) ∧
 ((State.opnds (sP rP) 32 t13 rP).a.pois = true ∨ (State.opnds (sP rP) 32 t13 rP).b.pois = true) :=
  ⟨rfl, ⟨rfl, by decide⟩, (Or.inr rfl)⟩

end WitPe2

/-! ### Memory -/

namespace WitMemory

def ctM : Ct := { g := [(1, gAt 0 0), (2, { bits := 12 }), (3, { bits := 5, pois := true }), (4, gAt 1 0), (5, gAt 0 4), (6, gAt 0 64), (7, { bits := 0x100 }), (8, { bits := 0x104 }), (9, { bits := 2 ^ 63 + 2 ^ 62 })] }
def rM : Region := { rC ctM with caps := [(0, capOf 0x1000 64 0xFF), (1, capOf 0x1000 64 0)] }
def rM2 : Region := { rM with part := 2 }
def rX : Region := { rM with tiles := (1, { act := { mode := [BitVec.ofNat 64 (7 * 2 ^ 60), 0] } }) :: rM.tiles }

theorem wit_MemoryIssues_1 :
 (memOf (Instr.ld tw33) = some (192, tw33, false, fun (o : Opnds) => { ea := eaPlus tw33 o, rights := [bR], frame := true, op := MOp.read 8 : MemReq })) ∧
 (Fires (sM rM) 192 tw33 rM) ∧
 ((State.opnds (sM rM) 192 tw33 rM).a.pois = false) ∧
 (false = true → (State.opnds (sM rM) 192 tw33 rM).b.pois = false) ∧
 (locate rM (sM rM).curKey (sealOf (sM rM) rM.part)
    { ea := eaPlus tw33 (State.opnds (sM rM) 192 tw33 rM), rights := [bR], frame := true, op := MOp.read 8 : MemReq }.ea
    { ea := eaPlus tw33 (State.opnds (sM rM) 192 tw33 rM), rights := [bR], frame := true, op := MOp.read 8 : MemReq }.n
    { ea := eaPlus tw33 (State.opnds (sM rM) 192 tw33 rM), rights := [bR], frame := true, op := MOp.read 8 : MemReq }.rights
    { ea := eaPlus tw33 (State.opnds (sM rM) 192 tw33 rM), rights := [bR], frame := true, op := MOp.read 8 : MemReq }.frame
    { ea := eaPlus tw33 (State.opnds (sM rM) 192 tw33 rM), rights := [bR], frame := true, op := MOp.read 8 : MemReq }.wr =
  Except.ok
    (Place.glob (fld { ea := eaPlus tw33 (State.opnds (sM rM) 192 tw33 rM), rights := [bR], frame := true, op := MOp.read 8 : MemReq }.ea 61 54)
      (capBase
          (capEntry rM
            (fld { ea := eaPlus tw33 (State.opnds (sM rM) 192 tw33 rM), rights := [bR], frame := true, op := MOp.read 8 : MemReq }.ea 61 54)) +
        fld { ea := eaPlus tw33 (State.opnds (sM rM) 192 tw33 rM), rights := [bR], frame := true, op := MOp.read 8 : MemReq }.ea 53 0)
      (capRemote
        (capEntry rM
          (fld { ea := eaPlus tw33 (State.opnds (sM rM) 192 tw33 rM), rights := [bR], frame := true, op := MOp.read 8 : MemReq }.ea 61 54))))) :=
  ⟨rfl, ⟨rfl, by decide⟩, rfl, (by decide), rfl⟩

theorem wit_MemoryIssues_2 :
 (memOf (Instr.ld tw34) = some (192, tw34, false, fun (o : Opnds) => { ea := eaPlus tw34 o, rights := [bR], frame := true, op := MOp.read 8 : MemReq })) ∧
 (Fires (sM rM) 192 tw34 rM) ∧
 ((State.opnds (sM rM) 192 tw34 rM).a.pois = false) ∧
 (false = true → (State.opnds (sM rM) 192 tw34 rM).b.pois = false) ∧
 (locate rM (sM rM).curKey (sealOf (sM rM) rM.part)
    { ea := eaPlus tw34 (State.opnds (sM rM) 192 tw34 rM), rights := [bR], frame := true, op := MOp.read 8 : MemReq }.ea
    { ea := eaPlus tw34 (State.opnds (sM rM) 192 tw34 rM), rights := [bR], frame := true, op := MOp.read 8 : MemReq }.n
    { ea := eaPlus tw34 (State.opnds (sM rM) 192 tw34 rM), rights := [bR], frame := true, op := MOp.read 8 : MemReq }.rights
    { ea := eaPlus tw34 (State.opnds (sM rM) 192 tw34 rM), rights := [bR], frame := true, op := MOp.read 8 : MemReq }.frame
    { ea := eaPlus tw34 (State.opnds (sM rM) 192 tw34 rM), rights := [bR], frame := true, op := MOp.read 8 : MemReq }.wr =
  Except.error
    { code := 21,
      va := BitVec.toNat { ea := eaPlus tw34 (State.opnds (sM rM) 192 tw34 rM), rights := [bR], frame := true, op := MOp.read 8 : MemReq }.ea,
      aux := { ea := eaPlus tw34 (State.opnds (sM rM) 192 tw34 rM), rights := [bR], frame := true, op := MOp.read 8 : MemReq }.n : TrapInfo }) :=
  ⟨rfl, ⟨rfl, by decide⟩, rfl, (by decide), rfl⟩

theorem wit_MemoryIssues_3 :
 (memOf (Instr.atadd tw37) =
  some (200, tw37, true, fun (o : Opnds) => { ea := eaPlus tw37 o, rights := [bR, bW, bA], op := MOp.rmw Rmw.add 8 true o.b { : Val } : MemReq })) ∧
 (Fires (sM rM) 200 tw37 rM) ∧
 (((State.opnds (sM rM) 200 tw37 rM).a.pois || true && (State.opnds (sM rM) 200 tw37 rM).b.pois) = true) :=
  ⟨rfl, ⟨rfl, by decide⟩, rfl⟩

theorem wit_CapabilityChecks_1 :
 (fld (gAt 0 4).bits 63 62 = 1) ∧
 (BitVec.toNat (gAt 0 4).bits % 8 ≠ 0) :=
  ⟨rfl, (by decide)⟩

theorem wit_CapabilityChecks_2 :
 (fld (gAt 0 56).bits 63 62 = 1) ∧
 (BitVec.toNat (gAt 0 56).bits % 8 = 0) ∧
 (capSeal (capEntry rM (fld (gAt 0 56).bits 61 54)) = 0 ∨ capSeal (capEntry rM (fld (gAt 0 56).bits 61 54)) ≠ 6) :=
  ⟨rfl, rfl, (by decide)⟩

theorem wit_CapabilityChecks_3 :
 (fld (gAt 0 56).bits 63 62 = 1) ∧
 (BitVec.toNat (gAt 0 56).bits % 8 = 0) ∧
 (capSeal (capEntry rM2 (fld (gAt 0 56).bits 61 54)) ≠ 0) ∧
 (capSeal (capEntry rM2 (fld (gAt 0 56).bits 61 54)) = 5) ∧
 (capRemote (capEntry rM2 (fld (gAt 0 56).bits 61 54)) = false ∧ capPart (capEntry rM2 (fld (gAt 0 56).bits 61 54)) ≠ rM2.part ∨
  ∃ (b : Nat), b ∈ [bR] ∧ capRight (capEntry rM2 (fld (gAt 0 56).bits 61 54)) b = false) :=
  ⟨rfl, rfl, (by decide), rfl, (Or.inl ⟨rfl, by decide⟩)⟩

theorem wit_CapabilityChecks_4 :
 (fld (gAt 0 64).bits 63 62 = 1) ∧
 (BitVec.toNat (gAt 0 64).bits % 8 = 0) ∧
 (capSeal (capEntry rM (fld (gAt 0 64).bits 61 54)) ≠ 0) ∧
 (capSeal (capEntry rM (fld (gAt 0 64).bits 61 54)) = 5) ∧
 (capRemote (capEntry rM (fld (gAt 0 64).bits 61 54)) = true ∨ capPart (capEntry rM (fld (gAt 0 64).bits 61 54)) = rM.part) ∧
 (∀ (b : Nat), b ∈ [bR] → capRight (capEntry rM (fld (gAt 0 64).bits 61 54)) b = true) ∧
 (capLen (capEntry rM (fld (gAt 0 64).bits 61 54)) < fld (gAt 0 64).bits 53 0 + 8) :=
  ⟨rfl, rfl, (by decide), rfl, (Or.inr rfl), (by decide), (by decide)⟩

theorem wit_CapabilityChecks_5 :
 (fld (gAt 0 56).bits 63 62 = 1) ∧
 (BitVec.toNat (gAt 0 56).bits % 8 = 0) ∧
 (capSeal (capEntry rM (fld (gAt 0 56).bits 61 54)) ≠ 0) ∧
 (capSeal (capEntry rM (fld (gAt 0 56).bits 61 54)) = 5) ∧
 (capRemote (capEntry rM (fld (gAt 0 56).bits 61 54)) = true ∨ capPart (capEntry rM (fld (gAt 0 56).bits 61 54)) = rM.part) ∧
 (∀ (b : Nat), b ∈ [bR] → capRight (capEntry rM (fld (gAt 0 56).bits 61 54)) b = true) ∧
 (fld (gAt 0 56).bits 53 0 + 8 ≤ capLen (capEntry rM (fld (gAt 0 56).bits 61 54))) :=
  ⟨rfl, rfl, (by decide), rfl, (Or.inr rfl), (by decide), (by decide)⟩

theorem wit_VectorMemory_1 :
 (Fires (sM rM) 131 tw39 rM) ∧
 ((vIndex rM (sM rM).curKey tw39.sa).pois = false) ∧
 (vlocate rM (sM rM).curKey (vIndex rM (sM rM).curKey tw39.sa).bits false = Except.ok (256, 0)) :=
  ⟨⟨rfl, by decide⟩, rfl, rfl⟩

theorem wit_VectorMemory_2 :
 (Fires (sM rM) 131 tw40 rM) ∧
 ((vIndex rM (sM rM).curKey tw40.sa).pois = false) ∧
 (vlocate rM (sM rM).curKey (vIndex rM (sM rM).curKey tw40.sa).bits false =
  Except.error { code := 21, va := BitVec.toNat (vIndex rM (sM rM).curKey tw40.sa).bits, aux := 64 : TrapInfo }) :=
  ⟨⟨rfl, by decide⟩, rfl, rfl⟩

theorem wit_VectorMemory_3 :
 (Fires (sM rM) 131 tw41 rM) ∧
 ((vIndex rM (sM rM).curKey tw41.sa).pois = true) :=
  ⟨⟨rfl, by decide⟩, rfl⟩

theorem wit_VectorMemory_4 :
 (Fires (sM rM) 132 tw42 rM) ∧
 ((vIndex rM (sM rM).curKey tw42.sa).pois = false) ∧
 (vlocate rM (sM rM).curKey (vIndex rM (sM rM).curKey tw42.sa).bits true = Except.ok (256, 0)) :=
  ⟨⟨rfl, by decide⟩, rfl, rfl⟩

theorem wit_VectorMemory_5 :
 (Fires (sM rM) 132 tw43 rM) ∧
 ((vIndex rM (sM rM).curKey tw43.sa).pois = false) ∧
 (vlocate rM (sM rM).curKey (vIndex rM (sM rM).curKey tw43.sa).bits true =
  Except.error { code := 20, va := BitVec.toNat (vIndex rM (sM rM).curKey tw43.sa).bits, aux := 64 : TrapInfo }) :=
  ⟨⟨rfl, by decide⟩, rfl, rfl⟩

theorem wit_VectorMemory_6 :
 (Fires (sM rM) 132 tw44 rM) ∧
 ((vIndex rM (sM rM).curKey tw44.sa).pois = true) :=
  ⟨⟨rfl, by decide⟩, rfl⟩

theorem wit_QueueIssues_1 :
 ((Instr.qenq tw45 = Instr.qenq tw45 ∧ 235 = 235 ∧ true = true ∧ (fun (o : Opnds) => MOp.qenq o.b) = fun (o : Opnds) => MOp.qenq o.b) ∨
  (Instr.qenq tw45 = Instr.qdeq tw45 ∧ 235 = 236 ∧ true = false ∧ (fun (o : Opnds) => MOp.qenq o.b) = fun (x : Opnds) => MOp.qdeq) ∨
    Instr.qenq tw45 = Instr.qsteal tw45 ∧ 235 = 237 ∧ true = false ∧ (fun (o : Opnds) => MOp.qenq o.b) = fun (x : Opnds) => MOp.qsteal) ∧
 (Fires (sM rM) 235 tw45 rM) ∧
 ((State.opnds (sM rM) 235 tw45 rM).a.pois = true) :=
  ⟨(Or.inl ⟨rfl, rfl, rfl, rfl⟩), ⟨rfl, by decide⟩, rfl⟩

theorem wit_QueueIssues_2 :
 ((Instr.qenq tw46 = Instr.qenq tw46 ∧ 235 = 235 ∧ true = true ∧ (fun (o : Opnds) => MOp.qenq o.b) = fun (o : Opnds) => MOp.qenq o.b) ∨
  (Instr.qenq tw46 = Instr.qdeq tw46 ∧ 235 = 236 ∧ true = false ∧ (fun (o : Opnds) => MOp.qenq o.b) = fun (x : Opnds) => MOp.qdeq) ∨
    Instr.qenq tw46 = Instr.qsteal tw46 ∧ 235 = 237 ∧ true = false ∧ (fun (o : Opnds) => MOp.qenq o.b) = fun (x : Opnds) => MOp.qsteal) ∧
 (Fires (sM rM) 235 tw46 rM) ∧
 ((State.opnds (sM rM) 235 tw46 rM).a.pois = false) ∧
 (fld (State.opnds (sM rM) 235 tw46 rM).a.bits 63 62 ≠ 1) :=
  ⟨(Or.inl ⟨rfl, rfl, rfl, rfl⟩), ⟨rfl, by decide⟩, rfl, (by decide)⟩

theorem wit_QueueIssues_3 :
 ((Instr.qdeq tw34 = Instr.qenq tw34 ∧ 236 = 235 ∧ false = true ∧ (fun (x : Opnds) => MOp.qdeq) = fun (o : Opnds) => MOp.qenq o.b) ∨
  (Instr.qdeq tw34 = Instr.qdeq tw34 ∧ 236 = 236 ∧ false = false ∧ (fun (x : Opnds) => MOp.qdeq) = fun (x : Opnds) => MOp.qdeq) ∨
    Instr.qdeq tw34 = Instr.qsteal tw34 ∧ 236 = 237 ∧ false = false ∧ (fun (x : Opnds) => MOp.qdeq) = fun (x : Opnds) => MOp.qsteal) ∧
 (Fires (sM rM) 236 tw34 rM) ∧
 ((State.opnds (sM rM) 236 tw34 rM).a.pois = false) ∧
 (fld (State.opnds (sM rM) 236 tw34 rM).a.bits 63 62 = 1) ∧
 (BitVec.toNat (State.opnds (sM rM) 236 tw34 rM).a.bits % 64 ≠ 0) :=
  ⟨(Or.inr (Or.inl ⟨rfl, rfl, rfl, rfl⟩)), ⟨rfl, by decide⟩, rfl, rfl, (by decide)⟩

theorem wit_QueueIssues_4 :
 ((Instr.qenq tw36 = Instr.qenq tw36 ∧ 235 = 235 ∧ true = true ∧ (fun (o : Opnds) => MOp.qenq o.b) = fun (o : Opnds) => MOp.qenq o.b) ∨
  (Instr.qenq tw36 = Instr.qdeq tw36 ∧ 235 = 236 ∧ true = false ∧ (fun (o : Opnds) => MOp.qenq o.b) = fun (x : Opnds) => MOp.qdeq) ∨
    Instr.qenq tw36 = Instr.qsteal tw36 ∧ 235 = 237 ∧ true = false ∧ (fun (o : Opnds) => MOp.qenq o.b) = fun (x : Opnds) => MOp.qsteal) ∧
 (Fires (sM rM) 235 tw36 rM) ∧
 ((State.opnds (sM rM) 235 tw36 rM).a.pois = false) ∧
 (fld (State.opnds (sM rM) 235 tw36 rM).a.bits 63 62 = 1) ∧
 (BitVec.toNat (State.opnds (sM rM) 235 tw36 rM).a.bits % 64 = 0) :=
  ⟨(Or.inl ⟨rfl, rfl, rfl, rfl⟩), ⟨rfl, by decide⟩, rfl, rfl, (by decide)⟩

theorem wit_QueueIssues_5 :
 ((Instr.qsteal tw47 = Instr.qenq tw47 ∧ 237 = 235 ∧ false = true ∧ (fun (x : Opnds) => MOp.qsteal) = fun (o : Opnds) => MOp.qenq o.b) ∨
  (Instr.qsteal tw47 = Instr.qdeq tw47 ∧ 237 = 236 ∧ false = false ∧ (fun (x : Opnds) => MOp.qsteal) = fun (x : Opnds) => MOp.qdeq) ∨
    Instr.qsteal tw47 = Instr.qsteal tw47 ∧ 237 = 237 ∧ false = false ∧ (fun (x : Opnds) => MOp.qsteal) = fun (x : Opnds) => MOp.qsteal) ∧
 (Fires (sM rM) 237 tw47 rM) ∧
 ((State.opnds (sM rM) 237 tw47 rM).a.pois = false) ∧
 (fld (State.opnds (sM rM) 237 tw47 rM).a.bits 63 62 = 1) ∧
 (BitVec.toNat (State.opnds (sM rM) 237 tw47 rM).a.bits % 64 = 0) :=
  ⟨(Or.inr (Or.inr ⟨rfl, rfl, rfl, rfl⟩)), ⟨rfl, by decide⟩, rfl, rfl, (by decide)⟩

theorem wit_QueueIssues_6 :
 (Instr.eqpush tw36 = Instr.eqpush tw36 ∧ 224 = 224 ∧ true = true ∨
  Instr.eqpush tw36 = Instr.eqflush tw36 ∧ 224 = 225 ∧ true = false ∨
    Instr.eqpush tw36 = Instr.eqstat tw36 ∧ 224 = 226 ∧ true = false ∨ Instr.eqpush tw36 = Instr.eqpri tw36 ∧ 224 = 227 ∧ true = true) ∧
 (Fires (sM rX) 224 tw36 rX) ∧
 ((State.opnds (sM rX) 224 tw36 rX).a.pois = false) ∧
 (true = true → (State.opnds (sM rX) 224 tw36 rX).b.pois = false) ∧
 (fld (State.opnds (sM rX) 224 tw36 rX).a.bits 63 62 ≠ 0 ∨ fld (State.opnds (sM rX) 224 tw36 rX).a.bits 61 32 ≠ 0) :=
  ⟨(Or.inl ⟨rfl, rfl, rfl⟩), ⟨rfl, by decide⟩, rfl, (by decide), (Or.inl (by decide))⟩

theorem wit_QueueIssues_7 :
 (Instr.eqpush tw48 = Instr.eqpush tw48 ∧ 224 = 224 ∧ true = true ∨
  Instr.eqpush tw48 = Instr.eqflush tw48 ∧ 224 = 225 ∧ true = false ∨
    Instr.eqpush tw48 = Instr.eqstat tw48 ∧ 224 = 226 ∧ true = false ∨ Instr.eqpush tw48 = Instr.eqpri tw48 ∧ 224 = 227 ∧ true = true) ∧
 (Fires (sM rX) 224 tw48 rX) ∧
 ((State.opnds (sM rX) 224 tw48 rX).a.pois = false) ∧
 (true = true → (State.opnds (sM rX) 224 tw48 rX).b.pois = false) ∧
 (fld (State.opnds (sM rX) 224 tw48 rX).a.bits 63 62 = 0) ∧
 (fld (State.opnds (sM rX) 224 tw48 rX).a.bits 61 32 = 0) ∧
 (BitVec.toNat (State.opnds (sM rX) 224 tw48 rX).a.bits % 8 ≠ 0) :=
  ⟨(Or.inl ⟨rfl, rfl, rfl⟩), ⟨rfl, by decide⟩, rfl, (by decide), rfl, rfl, (by decide)⟩

theorem wit_QueueIssues_8 :
 (Instr.eqpush tw46 = Instr.eqpush tw46 ∧ 224 = 224 ∧ true = true ∨
  Instr.eqpush tw46 = Instr.eqflush tw46 ∧ 224 = 225 ∧ true = false ∨
    Instr.eqpush tw46 = Instr.eqstat tw46 ∧ 224 = 226 ∧ true = false ∨ Instr.eqpush tw46 = Instr.eqpri tw46 ∧ 224 = 227 ∧ true = true) ∧
 (Fires (sM rX) 224 tw46 rX) ∧
 ((State.opnds (sM rX) 224 tw46 rX).a.pois = false) ∧
 (true = true → (State.opnds (sM rX) 224 tw46 rX).b.pois = false) ∧
 (fld (State.opnds (sM rX) 224 tw46 rX).a.bits 63 62 = 0) ∧
 (fld (State.opnds (sM rX) 224 tw46 rX).a.bits 61 32 = 0) ∧
 (BitVec.toNat (State.opnds (sM rX) 224 tw46 rX).a.bits % 8 = 0) ∧
 (rX.w * rX.h ≤ fld (State.opnds (sM rX) 224 tw46 rX).a.bits 31 22 ∨
  planeMode (Region.pl rX (mtAddrKey (BitVec.toNat (State.opnds (sM rX) 224 tw46 rX).a.bits))) ≠ 7 ∨
    exqN (Region.pl rX (mtAddrKey (BitVec.toNat (State.opnds (sM rX) 224 tw46 rX).a.bits))) ≤
      BitVec.toNat (State.opnds (sM rX) 224 tw46 rX).a.bits % 2 ^ 19 / 8) :=
  ⟨(Or.inl ⟨rfl, rfl, rfl⟩), ⟨rfl, by decide⟩, rfl, (by decide), rfl, rfl, rfl, (by decide)⟩

theorem wit_QueueIssues_9 :
 (Instr.eqflush tw49 = Instr.eqpush tw49 ∧ 225 = 224 ∧ false = true ∨
  Instr.eqflush tw49 = Instr.eqflush tw49 ∧ 225 = 225 ∧ false = false ∨
    Instr.eqflush tw49 = Instr.eqstat tw49 ∧ 225 = 226 ∧ false = false ∨ Instr.eqflush tw49 = Instr.eqpri tw49 ∧ 225 = 227 ∧ false = true) ∧
 (Fires (sM rX) 225 tw49 rX) ∧
 ((State.opnds (sM rX) 225 tw49 rX).a.pois = false) ∧
 (false = true → (State.opnds (sM rX) 225 tw49 rX).b.pois = false) ∧
 (fld (State.opnds (sM rX) 225 tw49 rX).a.bits 63 62 = 0) ∧
 (fld (State.opnds (sM rX) 225 tw49 rX).a.bits 61 32 = 0) ∧
 (BitVec.toNat (State.opnds (sM rX) 225 tw49 rX).a.bits % 8 = 0) ∧
 (fld (State.opnds (sM rX) 225 tw49 rX).a.bits 31 22 < rX.w * rX.h) ∧
 (planeMode (Region.pl rX (mtAddrKey (BitVec.toNat (State.opnds (sM rX) 225 tw49 rX).a.bits))) = 7) ∧
 (BitVec.toNat (State.opnds (sM rX) 225 tw49 rX).a.bits % 2 ^ 19 / 8 <
  exqN (Region.pl rX (mtAddrKey (BitVec.toNat (State.opnds (sM rX) 225 tw49 rX).a.bits)))) :=
  ⟨(Or.inr (Or.inl ⟨rfl, rfl, rfl⟩)), ⟨rfl, by decide⟩, rfl, (by decide), rfl, rfl, rfl, (by decide), rfl, (by decide)⟩

end WitMemory

/-! ### Tensor -/

namespace WitTensor

def tdW (a u : Nat) : Word := BitVec.ofNat 64 (a * 2 ^ 60 + a * 2 ^ 56 + u * 2 ^ 54 + 10 * 2 ^ 47 + 11 * 2 ^ 42)
def rH (td : Word) (sa sb : BitVec 2) (buf : List Token) (pois : List Nat := []) : Region :=
  { rC { ct0 with td := [(0, td)] } [(0, { buf := buf })] with
    tiles := [(0, { act := { ct := { ct0 with td := [(0, td)] }, inp := [(0, { buf := buf })] } }),
      (1, { act := { hs := [(0, { st := sa, grant := some 3 }), (1, { st := sb }), (2, { st := hFull }), (3, { st := hFull })] } })], pois := pois }
def tokE : Token := { pay := 0, mark := mkE, col := 0 }
def rH0 : Region := rH (tdW 0 0) hFull hFull []
def rHp : Region := rH (tdW 0 0) hFull hFull [] [0]
def rHs : Region := rH (tdW 2 0) hFull hFull [tokE]
def rHg : Region := rH (tdW 2 0) hFull hFull [tkD 3]
def rHh : Region := rH (tdW 6 1) hFull hFull [tkD 3, tokE]
def rHq : Region := rH (tdW 2 0) hFull hFull [tkD 3] [0]
def rHf : Region := rH (tdW 0 0) hFilling hFull []
def rN : Region := { rC { g := [(1, gAt 0 0), (2, { bits := 0 }), (3, { bits := 1}), (7, gAt 0 60)] } with onl := true, eff3 := BitVec.ofNat 64 (2 * 2 ^ 24), caps := [(0, capOf 0x1000 64 0xFF)] }

theorem wit_TensorAndEngineStarts_1 :
 (Instr.mma tw50 = Instr.mma tw50 ∧ 160 = 160 ∨ Instr.mma tw50 = Instr.mmax tw50 ∧ 160 = 162) ∧
 (Fires (sP rH0) 160 tw50 rH0) ∧
 (((List.any
      ((hselWords rH0 (sP rH0).curKey (BitVec.toNat tw50.sa)
              (tileWords (tdA (tdOf rH0 (sP rH0).curKey tw50)) (tdK (tdOf rH0 (sP rH0).curKey tw50))) ++
            hselWords rH0 (sP rH0).curKey (BitVec.toNat tw50.sb)
              (tileWords (tdB (tdOf rH0 (sP rH0).curKey tw50)) (tdK (tdOf rH0 (sP rH0).curKey tw50))) ++
          if 160 = 162 then
            hselWords rH0 (sP rH0).curKey (fld (tdOf rH0 (sP rH0).curKey tw50) 51 47) (16 * (tdK (tdOf rH0 (sP rH0).curKey tw50) / 32) / 8)
          else []) ++
        if 160 = 162 then
          hselWords rH0 (sP rH0).curKey (fld (tdOf rH0 (sP rH0).curKey tw50) 46 42) (16 * (tdK (tdOf rH0 (sP rH0).curKey tw50) / 32) / 8)
        else [])
      fun (w : Val) => w.pois) ||
    !BitVec.getLsbD tw50.imm 3 && accAnyPois (Region.ct rH0 (sP rH0).curKey) (tdFp64 (tdOf rH0 (sP rH0).curKey tw50)) (BitVec.toNat tw50.dst % 4)) =
  false) :=
  ⟨(Or.inl ⟨rfl, rfl⟩), ⟨rfl, by decide +kernel⟩, (by decide +kernel)⟩

theorem wit_TensorAndEngineStarts_2 :
 (Instr.mmax tw50 = Instr.mma tw50 ∧ 162 = 160 ∨ Instr.mmax tw50 = Instr.mmax tw50 ∧ 162 = 162) ∧
 (Fires (sP rHp) 162 tw50 rHp) ∧
 (((List.any
      ((hselWords rHp (sP rHp).curKey (BitVec.toNat tw50.sa)
              (tileWords (tdA (tdOf rHp (sP rHp).curKey tw50)) (tdK (tdOf rHp (sP rHp).curKey tw50))) ++
            hselWords rHp (sP rHp).curKey (BitVec.toNat tw50.sb)
              (tileWords (tdB (tdOf rHp (sP rHp).curKey tw50)) (tdK (tdOf rHp (sP rHp).curKey tw50))) ++
          if 162 = 162 then
            hselWords rHp (sP rHp).curKey (fld (tdOf rHp (sP rHp).curKey tw50) 51 47) (16 * (tdK (tdOf rHp (sP rHp).curKey tw50) / 32) / 8)
          else []) ++
        if 162 = 162 then
          hselWords rHp (sP rHp).curKey (fld (tdOf rHp (sP rHp).curKey tw50) 46 42) (16 * (tdK (tdOf rHp (sP rHp).curKey tw50) / 32) / 8)
        else [])
      fun (w : Val) => w.pois) ||
    !BitVec.getLsbD tw50.imm 3 && accAnyPois (Region.ct rHp (sP rHp).curKey) (tdFp64 (tdOf rHp (sP rHp).curKey tw50)) (BitVec.toNat tw50.dst % 4)) =
  true) :=
  ⟨(Or.inr ⟨rfl, rfl⟩), ⟨rfl, by decide +kernel⟩, (by decide +kernel)⟩

theorem wit_TensorAndEngineStarts_3 :
 (Fires (sP rHs) 161 tw50 rHs) ∧
 (tdMeta rHs (sP rHs).curKey tw50 = some Meta.stop) :=
  ⟨⟨rfl, by decide +kernel⟩, (by decide +kernel)⟩

theorem wit_TensorAndEngineStarts_4 :
 (Fires (sP rHg) 161 tw50 rHg) ∧
 (tdMeta rHg (sP rHg).curKey tw50 = some (Meta.group false)) ∧
 (Meta.group false = Meta.group false ∧ 1 = tdTm (tdOf rHg (sP rHg).curKey tw50) ∨ Meta.group false = Meta.short 1 ∧ false = false) ∧
 ((((List.any
        (hselWords rHg (sP rHg).curKey (BitVec.toNat tw50.sa) (mmaWords 161 (tdOf rHg (sP rHg).curKey tw50)).fst ++
          hselWords rHg (sP rHg).curKey (BitVec.toNat tw50.sb) (mmaWords 161 (tdOf rHg (sP rHg).curKey tw50)).snd)
        fun (w : Val) => w.pois) ||
      List.any (List.take 1 (Region.chan rHg (sP rHg).curKey (fld (tdOf rHg (sP rHg).curKey tw50) 41 39)).buf) fun (k : Token) =>
        BitVec.getLsbD k.pois 0) ||
    !BitVec.getLsbD tw50.imm 3 && accAnyPois (Region.ct rHg (sP rHg).curKey) (tdFp64 (tdOf rHg (sP rHg).curKey tw50)) (BitVec.toNat tw50.dst % 4)) =
  false) :=
  ⟨⟨rfl, by decide +kernel⟩, (by decide +kernel), (Or.inl ⟨rfl, by decide +kernel⟩), (by decide +kernel)⟩

theorem wit_TensorAndEngineStarts_5 :
 (Fires (sP rHh) 161 tw50 rHh) ∧
 (tdMeta rHh (sP rHh).curKey tw50 = some (Meta.short 1)) ∧
 (Meta.short 1 = Meta.group false ∧ 1 = tdTm (tdOf rHh (sP rHh).curKey tw50) ∨ Meta.short 1 = Meta.short 1 ∧ false = false) ∧
 ((((List.any
        (hselWords rHh (sP rHh).curKey (BitVec.toNat tw50.sa) (mmaWords 161 (tdOf rHh (sP rHh).curKey tw50)).fst ++
          hselWords rHh (sP rHh).curKey (BitVec.toNat tw50.sb) (mmaWords 161 (tdOf rHh (sP rHh).curKey tw50)).snd)
        fun (w : Val) => w.pois) ||
      List.any (List.take 1 (Region.chan rHh (sP rHh).curKey (fld (tdOf rHh (sP rHh).curKey tw50) 41 39)).buf) fun (k : Token) =>
        BitVec.getLsbD k.pois 0) ||
    !BitVec.getLsbD tw50.imm 3 && accAnyPois (Region.ct rHh (sP rHh).curKey) (tdFp64 (tdOf rHh (sP rHh).curKey tw50)) (BitVec.toNat tw50.dst % 4)) =
  false) :=
  ⟨⟨rfl, by decide +kernel⟩, (by decide +kernel), (Or.inr ⟨rfl, by decide +kernel⟩), (by decide +kernel)⟩

theorem wit_TensorAndEngineStarts_6 :
 (Fires (sP rHq) 161 tw50 rHq) ∧
 (tdMeta rHq (sP rHq).curKey tw50 = some (Meta.group false)) ∧
 (Meta.group false = Meta.group false ∧ 1 = tdTm (tdOf rHq (sP rHq).curKey tw50) ∨ Meta.group false = Meta.short 1 ∧ false = false) ∧
 ((((List.any
        (hselWords rHq (sP rHq).curKey (BitVec.toNat tw50.sa) (mmaWords 161 (tdOf rHq (sP rHq).curKey tw50)).fst ++
          hselWords rHq (sP rHq).curKey (BitVec.toNat tw50.sb) (mmaWords 161 (tdOf rHq (sP rHq).curKey tw50)).snd)
        fun (w : Val) => w.pois) ||
      List.any (List.take 1 (Region.chan rHq (sP rHq).curKey (fld (tdOf rHq (sP rHq).curKey tw50) 41 39)).buf) fun (k : Token) =>
        BitVec.getLsbD k.pois 0) ||
    !BitVec.getLsbD tw50.imm 3 && accAnyPois (Region.ct rHq (sP rHq).curKey) (tdFp64 (tdOf rHq (sP rHq).curKey tw50)) (BitVec.toNat tw50.dst % 4)) =
  true) :=
  ⟨⟨rfl, by decide +kernel⟩, (by decide +kernel), (Or.inl ⟨rfl, by decide +kernel⟩), (by decide +kernel)⟩

theorem wit_TensorAndEngineStarts_7 :
 Fires (sP rH0) 163 tw52 rH0 :=
  ⟨rfl, by decide +kernel⟩

theorem wit_TensorAndEngineStarts_8 :
 Fires (sP rHf) 164 tw53 rHf :=
  ⟨rfl, by decide +kernel⟩

theorem wit_TensorAndEngineStarts_9 :
 ((Instr.accwr tw54 = Instr.accwr tw54 ∧
    165 = 165 ∧
      (if tdFp64 (tdOf rH0 (sP rH0).curKey tw54) = true then 32 else 16) = if tdFp64 (tdOf rH0 (sP rH0).curKey tw54) = true then 32 else 16) ∨
  Instr.accwr tw54 = Instr.accscl tw54 ∧ 165 = 166 ∧ (if tdFp64 (tdOf rH0 (sP rH0).curKey tw54) = true then 32 else 16) = 4 ∨
    Instr.accwr tw54 = Instr.accadd tw54 ∧
      165 = 167 ∧
        (if tdFp64 (tdOf rH0 (sP rH0).curKey tw54) = true then 32 else 16) = if tdFp64 (tdOf rH0 (sP rH0).curKey tw54) = true then 32 else 16) ∧
 (Fires (sP rH0) 165 tw54 rH0) ∧
 (165 = 165 ∨
  ((List.any (hselWords rH0 (sP rH0).curKey (BitVec.toNat tw54.sa) (accSrcWords 165 (tdOf rH0 (sP rH0).curKey tw54))) fun (w : Val) => w.pois) ||
      accAnyPois (Region.ct rH0 (sP rH0).curKey) (tdFp64 (tdOf rH0 (sP rH0).curKey tw54)) (BitVec.toNat tw54.dst % 4)) =
    false) :=
  ⟨(Or.inl ⟨rfl, rfl, rfl⟩), ⟨rfl, by decide +kernel⟩, (Or.inl rfl)⟩

theorem wit_TensorAndEngineStarts_10 :
 ((Instr.accadd tw53 = Instr.accwr tw53 ∧
    167 = 165 ∧
      (if tdFp64 (tdOf rHp (sP rHp).curKey tw53) = true then 32 else 16) = if tdFp64 (tdOf rHp (sP rHp).curKey tw53) = true then 32 else 16) ∨
  Instr.accadd tw53 = Instr.accscl tw53 ∧ 167 = 166 ∧ (if tdFp64 (tdOf rHp (sP rHp).curKey tw53) = true then 32 else 16) = 4 ∨
    Instr.accadd tw53 = Instr.accadd tw53 ∧
      167 = 167 ∧
        (if tdFp64 (tdOf rHp (sP rHp).curKey tw53) = true then 32 else 16) = if tdFp64 (tdOf rHp (sP rHp).curKey tw53) = true then 32 else 16) ∧
 (Fires (sP rHp) 167 tw53 rHp) ∧
 (167 ≠ 165) ∧
 (((List.any (hselWords rHp (sP rHp).curKey (BitVec.toNat tw53.sa) (accSrcWords 167 (tdOf rHp (sP rHp).curKey tw53))) fun (w : Val) => w.pois) ||
    accAnyPois (Region.ct rHp (sP rHp).curKey) (tdFp64 (tdOf rHp (sP rHp).curKey tw53)) (BitVec.toNat tw53.dst % 4)) =
  true) :=
  ⟨(Or.inr (Or.inr ⟨rfl, rfl, rfl⟩)), ⟨rfl, by decide +kernel⟩, (by decide +kernel), (by decide +kernel)⟩

theorem wit_TensorAndEngineStarts_11 :
 (Instr.nlbin tw55 = Instr.nlbin tw55 ∧ 228 = 228 ∧ 8 = 8 ∨
  Instr.nlbin tw55 = Instr.nlmove tw55 ∧ 228 = 230 ∧ 8 = 8 ∨ Instr.nlbin tw55 = Instr.nlclr tw55 ∧ 228 = 232 ∧ 8 = 64) ∧
 (Fires (sM rN) 228 tw55 rN) ∧
 ((State.opnds (sM rN) 228 tw55 rN).a.pois = false) ∧
 (228 = 232 ∨ (State.opnds (sM rN) 228 tw55 rN).b.pois = false) ∧
 (nleCount rN ≤ BitVec.toNat tw55.imm % 64) :=
  ⟨(Or.inl ⟨rfl, rfl, rfl⟩), ⟨rfl, by decide⟩, rfl, (Or.inr rfl), (by decide)⟩

theorem wit_TensorAndEngineStarts_12 :
 (Instr.nlbin tw56 = Instr.nlbin tw56 ∧ 228 = 228 ∧ 8 = 8 ∨
  Instr.nlbin tw56 = Instr.nlmove tw56 ∧ 228 = 230 ∧ 8 = 8 ∨ Instr.nlbin tw56 = Instr.nlclr tw56 ∧ 228 = 232 ∧ 8 = 64) ∧
 (Fires (sM rN) 228 tw56 rN) ∧
 ((State.opnds (sM rN) 228 tw56 rN).a.pois = false) ∧
 (228 = 232 ∨ (State.opnds (sM rN) 228 tw56 rN).b.pois = false) ∧
 (BitVec.toNat tw56.imm % 64 < nleCount rN) ∧
 (228 = 228 ∧ fld (State.opnds (sM rN) 228 tw56 rN).b.bits 16 0 = 0 ∨
  ∃ (p : Place), locate rN (sM rN).curKey (sealOf (sM rN) rN.part) (State.opnds (sM rN) 228 tw56 rN).a.bits 8 [bR] false false = Except.ok p) :=
  ⟨(Or.inl ⟨rfl, rfl, rfl⟩), ⟨rfl, by decide⟩, rfl, (Or.inr rfl), (by decide), (Or.inl ⟨rfl, rfl⟩)⟩

theorem wit_TensorAndEngineStarts_13 :
 (Instr.nlclr tw57 = Instr.nlbin tw57 ∧ 232 = 228 ∧ 64 = 8 ∨
  Instr.nlclr tw57 = Instr.nlmove tw57 ∧ 232 = 230 ∧ 64 = 8 ∨ Instr.nlclr tw57 = Instr.nlclr tw57 ∧ 232 = 232 ∧ 64 = 64) ∧
 (Fires (sM rN) 232 tw57 rN) ∧
 ((State.opnds (sM rN) 232 tw57 rN).a.pois = false) ∧
 (232 = 232 ∨ (State.opnds (sM rN) 232 tw57 rN).b.pois = false) ∧
 (BitVec.toNat tw57.imm % 64 < nleCount rN) ∧
 (232 = 228 ∧ fld (State.opnds (sM rN) 232 tw57 rN).b.bits 16 0 = 0 ∨
  ∃ (p : Place), locate rN (sM rN).curKey (sealOf (sM rN) rN.part) (State.opnds (sM rN) 232 tw57 rN).a.bits 64 [bR] false false = Except.ok p) :=
  ⟨(Or.inr (Or.inr ⟨rfl, rfl, rfl⟩)), ⟨rfl, by decide⟩, rfl, (Or.inl rfl), (by decide), (Or.inr ⟨_, rfl⟩)⟩

theorem wit_TensorAndEngineStarts_14 :
 (Instr.nlmove tw58 = Instr.nlbin tw58 ∧ 230 = 228 ∧ 8 = 8 ∨
  Instr.nlmove tw58 = Instr.nlmove tw58 ∧ 230 = 230 ∧ 8 = 8 ∨ Instr.nlmove tw58 = Instr.nlclr tw58 ∧ 230 = 232 ∧ 8 = 64) ∧
 (Fires (sM rN) 230 tw58 rN) ∧
 ((State.opnds (sM rN) 230 tw58 rN).a.pois = false) ∧
 (230 = 232 ∨ (State.opnds (sM rN) 230 tw58 rN).b.pois = false) ∧
 (BitVec.toNat tw58.imm % 64 < nleCount rN) ∧
 (230 ≠ 228 ∨ fld (State.opnds (sM rN) 230 tw58 rN).b.bits 16 0 ≠ 0) ∧
 (locate rN (sM rN).curKey (sealOf (sM rN) rN.part) (State.opnds (sM rN) 230 tw58 rN).a.bits 8 [bR] false false =
  Except.error { code := 21, va := BitVec.toNat (State.opnds (sM rN) 230 tw58 rN).a.bits, aux := 8 : TrapInfo }) :=
  ⟨(Or.inr (Or.inl ⟨rfl, rfl, rfl⟩)), ⟨rfl, by decide⟩, rfl, (Or.inr rfl), (by decide), (Or.inl (by decide)), rfl⟩

theorem wit_TensorAndEngineStarts_15 :
 (Instr.nlsweep tw59 = Instr.nlsweep tw59 ∧ 229 = 229 ∨ Instr.nlsweep tw59 = Instr.nlstat tw59 ∧ 229 = 231) ∧
 (Fires (sM rN) 229 tw59 rN) ∧
 (nleCount rN ≤ BitVec.toNat tw59.imm % 64) :=
  ⟨(Or.inl ⟨rfl, rfl⟩), ⟨rfl, by decide⟩, (by decide)⟩

theorem wit_TensorAndEngineStarts_16 :
 (Instr.nlstat tw6 = Instr.nlsweep tw6 ∧ 231 = 229 ∨ Instr.nlstat tw6 = Instr.nlstat tw6 ∧ 231 = 231) ∧
 (Fires (sM rN) 231 tw6 rN) ∧
 (BitVec.toNat tw6.imm % 64 < nleCount rN) :=
  ⟨(Or.inr ⟨rfl, rfl⟩), ⟨rfl, by decide⟩, (by decide)⟩

end WitTensor

/-! ### Sync -/

namespace WitSync

def sPol (pol : Nat) (r : Region) : State := { sP r with parts := [(1, { desc := [BitVec.ofNat 64 (pol * 2 ^ 54 + 5 * 2 ^ 36)] })] }
def rHs2 (a b : BitVec 2) : Region := { rC ct0 with tiles := [(0, { act := { ct := ct0, routes := [(0, [0])] } }), (1, { act := { hs := [(0, { st := a, grant := some 3 }), (1, { st := b })] } })] }
def rHF : Region := rHs2 hFull hFilling
def rHG : Region := rHs2 hFree hFree
def ctS : Ct := { g := [(1, gAt 0 0), (2, { bits := 0x100 }), (3, { bits := 1}), (4, { bits := 2 ^ 63 + 2 ^ 62 }), (7, gAt 0 60), (8, gAt 1 0), (9, { bits := 0x104 }), (10, {bits := 0x80000 * 8 })] }
def rSy : Region := { rC ctS with caps := [(0, capOf 0x1000 64 0xFF), (1, [BitVec.ofNat 64 5, 0, BitVec.ofNat 64 (2 ^ 63), 0])] }
def rAr (ci : Nat) : Region := { rC ct0 with tiles := [(0, { act := { ct := { ct0 with ciNet := [(1, 1)], ci := [(1, ci)] }, inp := [(2, { wire := [(9, tkD 3)], buf := [tkD 1, tkD 2, tkD 3] })], welt := [(2, 7), (17, 8)], routes := [(0, [0])] } }), (1, { act := { mode := [BitVec.ofNat 64 (3 * 2 ^ 60 + 1 * 2 ^ 57 + 4 * 2 ^ 50)] } })], cols := [(1, { st := .clearing })], pres := [4, 5], pool := [3], coln := 4 }
def rAr14 : Region := rAr 14
def rArW : Region := { rAr14 with tiles := tmap rAr14.tiles (fun k x => if k = 0 then { x with act := { x.act with welt := [(18, 8)], inp := [(2, { wire := [(9, tkD 3)] })] } } else x) }
def tFr (c : Nat) (m : BitVec 2) : Token := { pay := 5, mark := m, col := BitVec.ofNat 10 c }
def frMode : Word := BitVec.ofNat 64 (3 * 2 ^ 60 + 1 * 2 ^ 57 + 4 * 2 ^ 50)
def rFr (bufs : Tab Chan) (u : MtU) (pres : List Nat) : Region :=
  { rC ct0 with tiles := [(1, { act := { mode := [frMode], inp := bufs, u := u, routes := [(0, [0])] } })], cols := [(1, { st := .live })], pres := pres, coln := 4 }
def rFr1 : Region := rFr [(1, { buf := [tFr 1 mkD] })] {} []
def rFr2 : Region := { rFr [(1, { buf := [tFr 600 mkL] })] {} [] with pair := true }
def rFr2b : Region := { rFr [(1, { buf := [tFr 1023 mkL] })] {} [] with tiles := [(1, { act := { mode := [BitVec.ofNat 64 (3 * 2 ^ 60 + 1 * 2 ^ 57 + 127 * 2 ^ 50)], inp := [(1, { buf := [tFr 1023 mkL] })] } })] }
def rFr3 : Region := rFr [] { frBusy := some (1, 0) } []
def rFr4 : Region := rFr [(0, { buf := [tFr 1 mkE] })] {} []
def rFr5 : Region := rFr [(0, { buf := [tFr 1 mkE] })] { frFwd := some 0 } []
def rFr6 : Region := { rFr4 with pres := [frameAddr (rFr4.pl 1) 1 1 0 / 8, frameAddr (rFr4.pl 1) 1 1 1 / 8] }

theorem wit_HandlesFencesServices_1 :
 (Instr.hrel tw60 = Instr.hrel tw60 ∧ 213 = 213 ∨ Instr.hrel tw60 = Instr.hfin tw60 ∧ 213 = 215) ∧
 (Fires (sPol 2 rHF) 213 tw60 rHF) ∧
 (BitVec.toNat tw60.imm / 32 < 3 ∨ partFpol (State.part (sPol 2 rHF) rHF.part) = 0) ∧
 (if 213 = 215 then hselState rHF (sPol 2 rHF).curKey (BitVec.toNat tw60.imm % 32) = hFilling
else
  hselState rHF (sPol 2 rHF).curKey (BitVec.toNat tw60.imm % 32) = hFull ∨ hselState rHF (sPol 2 rHF).curKey (BitVec.toNat tw60.imm % 32) = hDraining) :=
  ⟨(Or.inl ⟨rfl, rfl⟩), ⟨rfl, by decide⟩, (Or.inl (by decide)), (Or.inl rfl)⟩

theorem wit_HandlesFencesServices_2 :
 (Instr.hfin tw61 = Instr.hrel tw61 ∧ 215 = 213 ∨ Instr.hfin tw61 = Instr.hfin tw61 ∧ 215 = 215) ∧
 (Fires (sPol 1 rHF) 215 tw61 rHF) ∧
 (3 ≤ BitVec.toNat tw61.imm / 32) ∧
 (partFpol (State.part (sPol 1 rHF) rHF.part) = 1) ∧
 (if 215 = 215 then hselState rHF (sPol 1 rHF).curKey (BitVec.toNat tw61.imm % 32) = hFilling
else
  hselState rHF (sPol 1 rHF).curKey (BitVec.toNat tw61.imm % 32) = hFull ∨ hselState rHF (sPol 1 rHF).curKey (BitVec.toNat tw61.imm % 32) = hDraining) :=
  ⟨(Or.inr ⟨rfl, rfl⟩), ⟨rfl, by decide⟩, (by decide), rfl, rfl⟩

theorem wit_HandlesFencesServices_3 :
 (Instr.hrel tw62 = Instr.hrel tw62 ∧ 213 = 213 ∨ Instr.hrel tw62 = Instr.hfin tw62 ∧ 213 = 215) ∧
 (Fires (sPol 2 rHF) 213 tw62 rHF) ∧
 (3 ≤ BitVec.toNat tw62.imm / 32) ∧
 (2 ≤ partFpol (State.part (sPol 2 rHF) rHF.part)) :=
  ⟨(Or.inl ⟨rfl, rfl⟩), ⟨rfl, by decide⟩, (by decide), (by decide)⟩

theorem wit_HandlesFencesServices_4 :
 (Instr.hrel tw61 = Instr.hrel tw61 ∧ 213 = 213 ∨ Instr.hrel tw61 = Instr.hfin tw61 ∧ 213 = 215) ∧
 (Fires (sPol 1 rHF) 213 tw61 rHF) ∧
 (BitVec.toNat tw61.imm / 32 < 3 ∨ partFpol (State.part (sPol 1 rHF) rHF.part) ≤ 1) ∧
 (¬if 213 = 215 then hselState rHF (sPol 1 rHF).curKey (BitVec.toNat tw61.imm % 32) = hFilling
  else
    hselState rHF (sPol 1 rHF).curKey (BitVec.toNat tw61.imm % 32) = hFull ∨
      hselState rHF (sPol 1 rHF).curKey (BitVec.toNat tw61.imm % 32) = hDraining) :=
  ⟨(Or.inl ⟨rfl, rfl⟩), ⟨rfl, by decide⟩, (Or.inr (by decide)), (by decide)⟩

theorem wit_HandlesFencesServices_5 :
 (Fires (sPol 2 rHF) 217 tw63 rHF) ∧
 (BitVec.toNat tw63.imm / 4 % 8 < 3 ∨ partFpol (State.part (sPol 2 rHF) rHF.part) = 0) :=
  ⟨⟨rfl, by decide⟩, (Or.inl (by decide))⟩

theorem wit_HandlesFencesServices_6 :
 (Fires (sPol 1 rHF) 217 tw64 rHF) ∧
 (3 ≤ BitVec.toNat tw64.imm / 4 % 8) ∧
 (partFpol (State.part (sPol 1 rHF) rHF.part) = 1) :=
  ⟨⟨rfl, by decide⟩, (by decide), rfl⟩

theorem wit_HandlesFencesServices_7 :
 (Fires (sPol 3 rHF) 217 tw64 rHF) ∧
 (3 ≤ BitVec.toNat tw64.imm / 4 % 8) ∧
 (2 ≤ partFpol (State.part (sPol 3 rHF) rHF.part)) :=
  ⟨⟨rfl, by decide⟩, (by decide), (by decide)⟩

theorem wit_HandlesFencesServices_8 :
 Fires (sP rHF) 214 tw65 rHF :=
  ⟨rfl, by decide⟩

theorem wit_HandlesFencesServices_9 :
 (Fires (sM rSy) 240 tw66 rSy) ∧
 (CleanAB (sM rSy) 240 tw66 rSy) ∧
 (fld (State.opnds (sM rSy) 240 tw66 rSy).a.bits 63 62 = 3) :=
  ⟨⟨rfl, by decide⟩, ⟨rfl, rfl⟩, (by decide +kernel)⟩

theorem wit_HandlesFencesServices_10 :
 (Fires (sM rSy) 240 tw67 rSy) ∧
 (CleanAB (sM rSy) 240 tw67 rSy) ∧
 (fld (State.opnds (sM rSy) 240 tw67 rSy).a.bits 63 62 = 0 ∨ fld (State.opnds (sM rSy) 240 tw67 rSy).a.bits 63 62 = 2) :=
  ⟨⟨rfl, by decide⟩, ⟨rfl, rfl⟩, (Or.inl rfl)⟩

theorem wit_HandlesFencesServices_11 :
 (Fires (sM rSy) 240 tw68 rSy) ∧
 (CleanAB (sM rSy) 240 tw68 rSy) ∧
 (fld (State.opnds (sM rSy) 240 tw68 rSy).a.bits 63 62 = 1) ∧
 (BitVec.toNat (State.opnds (sM rSy) 240 tw68 rSy).a.bits % 64 ≠ 0) :=
  ⟨⟨rfl, by decide⟩, ⟨rfl, rfl⟩, rfl, (by decide)⟩

theorem wit_HandlesFencesServices_12 :
 (Fires (sM rSy) 240 tw69 rSy) ∧
 (CleanAB (sM rSy) 240 tw69 rSy) ∧
 (fld (State.opnds (sM rSy) 240 tw69 rSy).a.bits 63 62 = 1) ∧
 (BitVec.toNat (State.opnds (sM rSy) 240 tw69 rSy).a.bits % 64 = 0) ∧
 (capRemote (capEntry rSy (fld (State.opnds (sM rSy) 240 tw69 rSy).a.bits 61 54)) = true) :=
  ⟨⟨rfl, by decide⟩, ⟨rfl, rfl⟩, rfl, rfl, rfl⟩

theorem wit_HandlesFencesServices_13 :
 (Fires (sM rSy) 240 tw70 rSy) ∧
 (CleanAB (sM rSy) 240 tw70 rSy) ∧
 (fld (State.opnds (sM rSy) 240 tw70 rSy).a.bits 63 62 = 1) ∧
 (BitVec.toNat (State.opnds (sM rSy) 240 tw70 rSy).a.bits % 64 = 0) ∧
 (capRemote (capEntry rSy (fld (State.opnds (sM rSy) 240 tw70 rSy).a.bits 61 54)) = false) ∧
 (capCheck rSy (sealOf (sM rSy) rSy.part) (fld (State.opnds (sM rSy) 240 tw70 rSy).a.bits 61 54) (fld (State.opnds (sM rSy) 240 tw70 rSy).a.bits 53 0)
    64 [bR] =
  Except.ok
    (Place.glob (fld (State.opnds (sM rSy) 240 tw70 rSy).a.bits 61 54)
      (capBase (capEntry rSy (fld (State.opnds (sM rSy) 240 tw70 rSy).a.bits 61 54)) + fld (State.opnds (sM rSy) 240 tw70 rSy).a.bits 53 0)
      (capRemote (capEntry rSy (fld (State.opnds (sM rSy) 240 tw70 rSy).a.bits 61 54))))) :=
  ⟨⟨rfl, by decide⟩, ⟨rfl, rfl⟩, rfl, rfl, rfl, rfl⟩

theorem wit_HandlesFencesServices_14 :
 Fires (sP rHF) 243 tw71 rHF :=
  ⟨rfl, by decide⟩

theorem wit_HandlesFencesServices_15 :
 (Fires (sM rSy) 233 tw72 rSy) ∧
 ((State.opnds (sM rSy) 233 tw72 rSy).a.pois = false) ∧
 (tw72.sb = 15 ∨ (State.opnds (sM rSy) 233 tw72 rSy).b.pois = false) ∧
 (fld (State.opnds (sM rSy) 233 tw72 rSy).a.bits 63 62 ≠ 0 ∨ fld (State.opnds (sM rSy) 233 tw72 rSy).a.bits 61 32 ≠ 0) :=
  ⟨⟨rfl, by decide⟩, rfl, (Or.inl rfl), (Or.inl (by decide))⟩

theorem wit_HandlesFencesServices_16 :
 (Fires (sM rSy) 233 tw73 rSy) ∧
 ((State.opnds (sM rSy) 233 tw73 rSy).a.pois = false) ∧
 (tw73.sb = 15 ∨ (State.opnds (sM rSy) 233 tw73 rSy).b.pois = false) ∧
 (fld (State.opnds (sM rSy) 233 tw73 rSy).a.bits 63 62 = 0) ∧
 (fld (State.opnds (sM rSy) 233 tw73 rSy).a.bits 61 32 = 0) ∧
 (BitVec.toNat (State.opnds (sM rSy) 233 tw73 rSy).a.bits % 64 ≠ 0) :=
  ⟨⟨rfl, by decide⟩, rfl, (Or.inl rfl), rfl, rfl, (by decide)⟩

theorem wit_HandlesFencesServices_17 :
 (Fires (sM rSy) 233 tw74 rSy) ∧
 ((State.opnds (sM rSy) 233 tw74 rSy).a.pois = false) ∧
 (tw74.sb = 15 ∨ (State.opnds (sM rSy) 233 tw74 rSy).b.pois = false) ∧
 (fld (State.opnds (sM rSy) 233 tw74 rSy).a.bits 63 62 = 0) ∧
 (fld (State.opnds (sM rSy) 233 tw74 rSy).a.bits 61 32 = 0) ∧
 (BitVec.toNat (State.opnds (sM rSy) 233 tw74 rSy).a.bits % 64 = 0) ∧
 (mtOk rSy (BitVec.toNat (State.opnds (sM rSy) 233 tw74 rSy).a.bits) 64 = false) :=
  ⟨⟨rfl, by decide⟩, rfl, (Or.inl rfl), rfl, rfl, rfl, (by decide)⟩

theorem wit_HandlesFencesServices_18 :
 (Fires (sM rSy) 233 tw75 rSy) ∧
 ((State.opnds (sM rSy) 233 tw75 rSy).a.pois = false) ∧
 (tw75.sb = 15 ∨ (State.opnds (sM rSy) 233 tw75 rSy).b.pois = false) ∧
 (fld (State.opnds (sM rSy) 233 tw75 rSy).a.bits 63 62 = 0) ∧
 (fld (State.opnds (sM rSy) 233 tw75 rSy).a.bits 61 32 = 0) ∧
 (BitVec.toNat (State.opnds (sM rSy) 233 tw75 rSy).a.bits % 64 = 0) ∧
 (mtOk rSy (BitVec.toNat (State.opnds (sM rSy) 233 tw75 rSy).a.bits) 64 = true) ∧
 (tw75.sb = 15 ∨
  ∃ (q : Place),
    locate rSy (sM rSy).curKey (sealOf (sM rSy) rSy.part) (State.opnds (sM rSy) 233 tw75 rSy).b.bits 8 [bR, bW, bA] false true = Except.ok q) :=
  ⟨⟨rfl, by decide⟩, rfl, (Or.inl rfl), rfl, rfl, rfl, (by decide), (Or.inl rfl)⟩

theorem wit_HandlesFencesServices_19 :
 (Fires (sM rSy) 233 tw77 rSy) ∧
 ((State.opnds (sM rSy) 233 tw77 rSy).a.pois = false) ∧
 (tw77.sb = 15 ∨ (State.opnds (sM rSy) 233 tw77 rSy).b.pois = false) ∧
 (fld (State.opnds (sM rSy) 233 tw77 rSy).a.bits 63 62 = 0) ∧
 (fld (State.opnds (sM rSy) 233 tw77 rSy).a.bits 61 32 = 0) ∧
 (BitVec.toNat (State.opnds (sM rSy) 233 tw77 rSy).a.bits % 64 = 0) ∧
 (mtOk rSy (BitVec.toNat (State.opnds (sM rSy) 233 tw77 rSy).a.bits) 64 = true) ∧
 (tw77.sb ≠ 15) ∧
 (locate rSy (sM rSy).curKey (sealOf (sM rSy) rSy.part) (State.opnds (sM rSy) 233 tw77 rSy).b.bits 8 [bR, bW, bA] false true =
  Except.error { code := 21, va := BitVec.toNat (State.opnds (sM rSy) 233 tw77 rSy).b.bits, aux := 8 : TrapInfo }) :=
  ⟨⟨rfl, by decide⟩, rfl, (Or.inr rfl), rfl, rfl, rfl, (by decide), (by decide), rfl⟩

theorem wit_HandlesFencesServices_20 :
 (Fires (sM rSy) 234 tw78 rSy) ∧
 ((State.opnds (sM rSy) 234 tw78 rSy).a.pois = false) :=
  ⟨⟨rfl, by decide⟩, rfl⟩

theorem wit_Arrivals_1 :
 (HasRegion (sP rAr14) 1 rAr14) ∧
 ((Region.chan rAr14 0 2).wire = [(9, tkD 3)]) ∧
 (9 ≤ (sP rAr14).fc) ∧
 (List.length (Region.chan rAr14 0 2).buf + (Region.chan rAr14 0 2).popped < chanCap (Region.tile rAr14 0) 2) ∧
 ((Region.tile rAr14 0).mark = false ∨ tokIsPmark (tkD 3) = false) :=
  ⟨rfl, rfl, (by decide), (by decide), (Or.inl rfl)⟩

theorem wit_Arrivals_2 :
 (HasRegion (sP rAr14) 1 rAr14) ∧
 (Option.isSome (weltOf (Region.tile rAr14 0).act (16 + 1)) = true ∨ Option.isSome (weltOf (Region.tile rAr14 0).ins (16 + 1)) = true) ∧
 (tokHw (tkD 3) = false) ∧
 (List.length (Region.chan rAr14 0 1).buf + (Region.chan rAr14 0 1).popped < chanCap (Region.tile rAr14 0) 1) ∧
 ((Region.chan rAr14 0 1).wire = []) :=
  ⟨rfl, (Or.inl rfl), (by decide +kernel), (by decide), rfl⟩

theorem wit_Arrivals_3 :
 (HasRegion (sP rArW) 1 rArW) ∧
 (Option.isSome (weltOf (Region.tile rArW 0).act (16 + 2)) = true ∨ Option.isSome (weltOf (Region.tile rArW 0).ins (16 + 2)) = true) ∧
 (tokHw (tkD 3) = false) ∧
 (List.length (Region.chan rArW 0 2).buf + (Region.chan rArW 0 2).popped < chanCap (Region.tile rArW 0) 2) ∧
 ((Region.chan rArW 0 2).wire ≠ []) :=
  ⟨rfl, (Or.inl rfl), (by decide +kernel), (by decide +kernel), (by decide +kernel)⟩

theorem wit_Arrivals_4 :
 (HasRegion (sP rAr14) 1 rAr14) ∧
 (weltOf (Region.pl rAr14 0) (2 % 32) = some 7) ∧
 (2 < 32) :=
  ⟨rfl, rfl, (by decide)⟩

theorem wit_Arrivals_5 :
 (HasRegion (sP rAr14) 1 rAr14) ∧
 (weltOf (Region.pl rAr14 0) (34 % 32) = some 7) ∧
 (32 ≤ 34) :=
  ⟨rfl, rfl, (by decide)⟩

theorem wit_Arrivals_6 :
 (HasRegion (sP rAr14) 1 rAr14) ∧
 ((Region.tile rAr14 0).swBusy = none) ∧
 (tget (Region.ct rAr14 0).ciNet 0 1 ≠ 0) ∧
 (tget (Region.ct rAr14 0).ci 0 1 < 15) :=
  ⟨rfl, rfl, (by decide), (by decide)⟩

theorem wit_Arrivals_7 :
 (HasRegion (sP rAr14) 1 rAr14) ∧
 ((tget rAr14.cols { : Colour } 1).st = ColSt.clearing) :=
  ⟨rfl, rfl⟩

theorem wit_FrameUnit_1 :
 (UnitRuns (sP rFr1) 1 1 3 rFr1) ∧
 (Region.head rFr1 1 1 = some (tFr 1 mkD)) ∧
 (1 < frameN (Region.pl rFr1 1)) ∧
 ((tFr 1 mkD).mark = mkD ∨ (tFr 1 mkD).mark = mkL) ∧
 ((BitVec.toNat (tFr 1 mkD).col * frameS (Region.pl rFr1 1) + frameS (Region.pl rFr1 1)) * 8 ≤ mtLimit rFr1) ∧
 (List.contains (Region.popIn rFr1 1 1).pres (frameAddr (Region.pl rFr1 1) 1 (BitVec.toNat (tFr 1 mkD).col) 1 / 8) = false ∨
  (tget (Region.popIn rFr1 1 1).cols { : Colour } (BitVec.toNat (tFr 1 mkD).col)).st = ColSt.clearing) :=
  ⟨⟨rfl, by decide, rfl⟩, rfl, (by decide), (Or.inl rfl), (by decide), (Or.inl (by decide))⟩

theorem wit_FrameUnit_2 :
 (UnitRuns (sP rFr2b) 1 1 3 rFr2b) ∧
 (Region.head rFr2b 1 1 = some (tFr 1023 mkL)) ∧
 (1 < frameN (Region.pl rFr2b 1)) ∧
 ((tFr 1023 mkL).mark = mkD ∨ (tFr 1023 mkL).mark = mkL) ∧
 (mtLimit rFr2b < (BitVec.toNat (tFr 1023 mkL).col * frameS (Region.pl rFr2b 1) + frameS (Region.pl rFr2b 1)) * 8) :=
  ⟨⟨rfl, by decide, rfl⟩, rfl, (by decide), (Or.inr rfl), (by decide)⟩

theorem wit_FrameUnit_3 :
 (UnitRuns (sP rFr3) 1 1 3 rFr3) ∧
 (Region.usedU rFr3 1 uEmit = false) ∧
 (Region.outSpace rFr3 1 0 = true) ∧
 ((Region.pl rFr3 1).u.frBusy = some (1, 0)) ∧
 (0 < frameN (Region.pl rFr3 1)) :=
  ⟨⟨rfl, by decide, rfl⟩, rfl, rfl, rfl, (by decide)⟩

theorem wit_FrameUnit_4 :
 ((Region.pl rFr6 1).u.frBusy = none) ∧
 (frameReady rFr6 1 = some 1) :=
  ⟨rfl, (by decide +kernel)⟩

theorem wit_FrameUnit_5 :
 ((Region.pl rFr4 1).u.frBusy = none) ∧
 (frameReady rFr4 1 = none) ∧
 (0 < frameN (Region.pl rFr4 1)) ∧
 (Region.head rFr4 1 0 = some (tFr 1 mkE)) ∧
 ((tFr 1 mkE).mark = mkE ∨ (tFr 1 mkE).mark = mkC) ∧
 (∀ (i : Nat) (x : Token), i < 0 → Region.head rFr4 1 i = some x → x.mark ≠ mkE ∧ x.mark ≠ mkC) :=
  ⟨rfl, (by decide +kernel), (by decide), rfl, (Or.inl rfl), (fun i x hi => absurd hi (Nat.not_lt_zero i))⟩

theorem wit_FrameUnit_6 :
 (UnitRuns (sP rFr5) 1 1 3 rFr5) ∧
 (Region.usedU rFr5 1 uEmit = false) ∧
 (Region.outSpace rFr5 1 0 = true) ∧
 ((Region.pl rFr5 1).u.frFwd = some 0) ∧
 (Region.head rFr5 1 0 = some (tFr 1 mkE)) ∧
 ((tFr 1 mkE).mark = mkE ∨ (tFr 1 mkE).mark = mkC) :=
  ⟨⟨rfl, by decide, rfl⟩, rfl, rfl, rfl, rfl, (Or.inl rfl)⟩

end WitSync

/-! ### Drain -/

namespace WitDrain

def rSw (shp : Bool) : Region := { rC ct0 with tiles := [(0, { act := { ct := ct0, inp := [(0, { buf := [tokSwap, tkD 5] })], routes := [(0, [0])] }, ins := { shadow := true } })], shp := shp }
def rSw1 : Region := rSw true
def rSw0 : Region := rSw false
def rSw2 : Region := { rC ct0 with tiles := [(0, { act := { ct := ct0, inp := [(0, { buf := [tokSwap, tkD 5] })], routes := [(0, [0])] }, ins := { shadow := true }, swS := true })], shp := true }
def rDr (n : Nat) (tl : Tile) : Region := { rC ct0 with tiles := [(0, tl)], drain := some n }
def rDr3 : Region := rDr 0 { act := { inp := [(0, { buf := [tokPmark, tkD 5] })] } }
def rDr4 : Region := rDr 256 {}
def rDr5 : Region := rDr 0 { act := { inp := [(0, { wire := [(9, tokPmark)] })] }, mark := true }
def rDr6 : Region := rDr 0 { act := { routes := [(0, [0]), (1, [0])] }, mark := true }
def rDr7 : Region := rDr 0 { mark := true, markEm := true }
def rDr8 : Region := rDr 2048 {}
def rDr9 : Region := { rDr7 with drainSl := true }
def rFz : Region := { rC ct0 with frzReq := some 3 }
def rFz2 : Region := { rC ct0 with st := rFrozen }
def rRn : Region := { rC ct0 with doneN := 2, doneC := 2 }
def rRn2 : Region := { rRn with rpq := true, drain := some 7 }
def rRq : Region := { rC ct0 with doneN := 2, doneC := 2, st := rIdle, rpq := true }
def rFi : Region := { rC ct0 with fidl := true, st := rFrozen }

theorem wit_DrainSteps_1 :
 (HasRegion (sP rSw1) 1 rSw1) ∧
 (waveLive rSw1 0 = true) ∧
 (swapHead rSw1 0 0 = true) ∧
 (swapPasses rSw1 0 0 = true) ∧
 (tileQuiet rSw1 0 = true) ∧
 (engineAtRest rSw1 0 = true) :=
  ⟨rfl, rfl, (by decide +kernel), rfl, rfl, rfl⟩

theorem wit_DrainSteps_2 :
 (HasRegion (sP rSw0) 1 rSw0) ∧
 (waveLive rSw0 0 = true) ∧
 (swapHead rSw0 0 0 = true) ∧
 (swapPasses rSw0 0 0 = false) ∧
 (rSw0.shp = true → tileQuiet rSw0 0 = true ∧ engineAtRest rSw0 0 = true) :=
  ⟨rfl, rfl, (by decide +kernel), rfl, (fun e => nomatch e)⟩

theorem wit_DrainSteps_3 :
 (HasRegion (sP rSw2) 1 rSw2) ∧
 (waveLive rSw2 0 = true) ∧
 (swapHead rSw2 0 0 = true) ∧
 (swapPasses rSw2 0 0 = false) ∧
 (rSw2.shp = true → tileQuiet rSw2 0 = true ∧ engineAtRest rSw2 0 = true) :=
  ⟨rfl, rfl, (by decide +kernel), rfl, (fun _ => by decide +kernel)⟩

theorem wit_DrainSteps_4 :
 (HasRegion (sP rDr3) 1 rDr3) ∧
 (Option.isSome rDr3.drain = true) ∧
 (waveLive rDr3 0 = true) ∧
 (unitDone rDr3 0 = true) ∧
 ((List.any (Region.pl rDr3 0).inp fun (c : Nat × Chan) =>
    match Chan.front c.snd with
    | some t => tokIsPmark t
    | none => false) =
  true) :=
  ⟨rfl, rfl, rfl, rfl, (by decide +kernel)⟩

theorem wit_DrainSteps_5 :
 (HasRegion (sP rDr4) 1 rDr4) ∧
 (rDr4.drain = some 256) ∧
 (256 ≤ 256) ∧
 (0 ∈ Region.keys rDr4) ∧
 (waveLive rDr4 0 = true) ∧
 (unitDone rDr4 0 = true) :=
  ⟨rfl, rfl, (by decide), (by decide), rfl, rfl⟩

theorem wit_DrainSteps_6 :
 (HasRegion (sP rDr5) 1 rDr5) ∧
 ((Region.chan rDr5 0 0).wire = [(9, tokPmark)]) ∧
 (tokIsPmark tokPmark = true) ∧
 ((Region.tile rDr5 0).mark = true) ∧
 (9 ≤ (sP rDr5).fc) :=
  ⟨rfl, rfl, (by decide +kernel), rfl, (by decide)⟩

theorem wit_DrainSteps_7 :
 (HasRegion (sP rDr6) 1 rDr6) ∧
 (Option.isSome rDr6.drain = true) ∧
 ((Region.tile rDr6 0).mark = true) ∧
 ((Region.tile rDr6 0).markEm = false) ∧
 ((Region.ct rDr6 0).ops = []) ∧
 (enginesCut rDr6 0 = true) ∧
 (∀ (a : Nat × Access), a ∈ rDr6.flight → ownerTile rDr6 a.snd ≠ 0) :=
  ⟨rfl, rfl, rfl, rfl, rfl, rfl, (fun a ha => nomatch ha)⟩

theorem wit_DrainSteps_8 :
 (HasRegion (sP rDr7) 1 rDr7) ∧
 (Option.isSome rDr7.drain = true) ∧
 (rDr7.frzReq = none) ∧
 (cutDone rDr7 = true) ∧
 (rDr7.drainSl = false) :=
  ⟨rfl, rfl, rfl, (by decide +kernel), rfl⟩

theorem wit_DrainSteps_9 :
 (HasRegion (sP rDr9) 1 rDr9) ∧
 (Option.isSome rDr9.drain = true) ∧
 (rDr9.frzReq = none) ∧
 (cutDone rDr9 = true) ∧
 (rDr9.drainSl = true) :=
  ⟨rfl, rfl, rfl, (by decide +kernel), rfl⟩

theorem wit_DrainSteps_10 :
 (HasRegion (sP rDr8) 1 rDr8) ∧
 (rDr8.drain = some 2048) ∧
 (2048 ≤ 2048) ∧
 (rDr8.drainSl = false) :=
  ⟨rfl, rfl, (by decide), rfl⟩

theorem wit_FreezeSteps_1 :
 (HasRegion (sP rFz) 1 rFz) ∧
 (rFz.frzReq = some 3) ∧
 (rFz.st = rRunning ∨ rFz.st = rIdle) :=
  ⟨rfl, rfl, (Or.inl rfl)⟩

theorem wit_FreezeSteps_2 :
 (HasRegion (sP rFz2) 1 rFz2) ∧
 (rFz2.st = rFrozen) ∧
 (rFz2.settled = false) ∧
 (settleReady rFz2 = true) ∧
 (rFz2.strms = []) ∧
 (rFz2.copies = []) ∧
 (∀ (a : Nat × Access), a ∈ rFz2.flight → a.snd.st ≠ AccSt.travel) ∧
 ((State.part (sP rFz2) rFz2.part).mig = none) :=
  ⟨rfl, rfl, rfl, rfl, rfl, rfl, (fun a ha => nomatch ha), rfl⟩

theorem wit_FreezeSteps_3 :
 rP.st = rRunning ∨ rP.st = rIdle :=
  (Or.inl rfl)

theorem wit_RunSteps_1 :
 rFi.fidl = true :=
  rfl

theorem wit_RunSteps_2 :
 rP.fidl = false :=
  rfl

theorem wit_RunSteps_3 :
 (HasRegion (sP rRn) 1 rRn) ∧
 (runDone rRn = true) ∧
 (rRn.rpq = false) :=
  ⟨rfl, rfl, rfl⟩

theorem wit_RunSteps_4 :
 (HasRegion (sP rRn2) 1 rRn2) ∧
 (runDone rRn2 = true) ∧
 (rRn2.rpq = true) ∧
 (State.ckptOn (sP rRn2) = false) :=
  ⟨rfl, rfl, rfl, rfl⟩

theorem wit_RunSteps_5 :
 (HasRegion (sP rRq) 1 rRq) ∧
 (rRq.st = rIdle) ∧
 (rRq.rpq = true) ∧
 (State.ckptOn (sP rRq) = false) :=
  ⟨rfl, rfl, rfl, rfl⟩

end WitDrain

/-! ### Streams -/

namespace WitStreams

/-- Stream descriptor: word 1's top byte, its other bits, elements, words 0 and 7. -/
def dsc (base : Nat) (hi lo n : Nat) (aux : Nat) : List Word :=
  [BitVec.ofNat 64 base, BitVec.ofNat 64 (hi * 2 ^ 56 + lo)] ++ [BitVec.ofNat 64 (n * 2 ^ 40 + 8)] ++ List.replicate 4 (BitVec.ofNat 64 (2 ^ 40)) ++ [BitVec.ofNat 64 aux]
def rSt (z : Strm) (hst : BitVec 2 := 0) : Region := { rC ct0 with strms := [(2, z)], caps := [(0, capT)], tiles := [(1, { act := { hs := [(0, { st := hst })] } }), (0, { act := { ct := ct0, routes := [(0, [0])] } })] }
def zA : Strm := { tile := 0, desc := dsc 0x100 0x43 2 3 0 }
def rSa : Region := rSt zA
def rSb : Region := rSt { zA with desc := dsc (2 ^ 62 + 0x100000) 0x43 2 3 0 }
def rSc : Region := rSt { tile := 1, st := 1, desc := dsc 0x100 0x83 2 3 0 } hFull
def rSd : Region := rSt { zA with st := 1, desc := dsc 0x100 0x43 (2 ^ 23 + 2) 3 (2 ^ 62 + 64), done := [0, 1] }
def rSe : Region := rSt { zA with st := 1, taps := 1 }
def rSf : Region := rSt { zA with st := 1, desc := dsc 0x100 0xC3 2 3 0, held := [tokPmark] }
def rSh : Region := { rSt { zA with st := 1, desc := dsc 0x100 0xC3 2 3 0 } with tiles := [(0, { act := { outq := [{ op := 0, outs := [0], tok := some (tkD 3) }] } })] }
def rSg : Region := rSt { zA with st := 1, next := 1, got := 1 }
def rSi : Region := rSt { zA with st := 1, desc := dsc (2 ^ 62 + 0x100) 0x43 2 3 0 }
def rSj : Region := rSt { zA with st := 1, next := 3, got := 3, done := [0] }

theorem wit_StreamSteps_1 :
 (HasRegion (sT rSa) 1 rSa) ∧
 (canStart rSa 2 = true) ∧
 (startCheck rSa (sealOf (sT rSa) rSa.part) (partFpol (State.part (sT rSa) rSa.part)) (Region.strm rSa 2).desc = Except.ok false) :=
  ⟨rfl, rfl, (okIs_eq (by decide +kernel))⟩

theorem wit_StreamSteps_2 :
 (HasRegion (sT rSb) 1 rSb) ∧
 (canStart rSb 2 = true) ∧
 (startCheck rSb (sealOf (sT rSb) rSb.part) (partFpol (State.part (sT rSb) rSb.part)) (Region.strm rSb 2).desc =
  Except.error
    {
      code :=
        { code := 16,
            va := capBase (capEntry rSb (fld (List.getD (Region.strm rSb 2).desc 0 0) 61 54)) + fld (List.getD (Region.strm rSb 2).desc 0 0) 53 0,
            capx := some (fld (List.getD (Region.strm rSb 2).desc 0 0) 61 54) : TrapInfo }.code,
      va :=
        { code := 16,
            va := capBase (capEntry rSb (fld (List.getD (Region.strm rSb 2).desc 0 0) 61 54)) + fld (List.getD (Region.strm rSb 2).desc 0 0) 53 0,
            capx := some (fld (List.getD (Region.strm rSb 2).desc 0 0) 61 54) : TrapInfo }.va,
      aux := dEsz (Region.strm rSb 2).desc,
      capx :=
        { code := 16,
            va := capBase (capEntry rSb (fld (List.getD (Region.strm rSb 2).desc 0 0) 61 54)) + fld (List.getD (Region.strm rSb 2).desc 0 0) 53 0,
            capx := some (fld (List.getD (Region.strm rSb 2).desc 0 0) 61 54) : TrapInfo }.capx :
      TrapInfo }) :=
  ⟨rfl, rfl, rfl⟩

theorem wit_StreamSteps_3 :
 (HasRegion (sT rSc) 1 rSc) ∧
 (boxOpen rSc 2 = true) ∧
 (portTaken rSc 2 = false) ∧
 (dPerm (Region.strm rSc 2).desc = false) ∧
 (mcTiles rSc (Region.strm rSc 2).tile (Region.strm rSc 2).desc = [(Region.strm rSc 2).tile]) ∧
 ((portMay rSc (Region.strm rSc 2).tile (dEndp (Region.strm rSc 2).desc % 8) !dWrite (Region.strm rSc 2).desc) = true) :=
  ⟨rfl, (by decide +kernel), (by decide +kernel), rfl, (by decide +kernel), (by decide +kernel)⟩

theorem wit_StreamSteps_4 :
 (HasRegion (sT rSd) 1 rSd) ∧
 (strmLive rSd 2 = true) ∧
 ((Region.strm rSd 2).st = 1) ∧
 ((Region.strm rSd 2).copy = false) ∧
 ((Region.strm rSd 2).compl = 0) ∧
 (dAuxk (Region.strm rSd 2).desc = 1) ∧
 (dChan (Region.strm rSd 2).desc = true) ∧
 (List.length (Region.strm rSd 2).done = dBoxes (Region.strm rSd 2).desc) ∧
 ((Region.strm rSd 2).taps = 0) ∧
 (dEos (Region.strm rSd 2).desc = false) ∧
 (rSd.flight = []) :=
  ⟨rfl, rfl, rfl, rfl, rfl, (by decide +kernel), (by decide +kernel), (by decide +kernel), rfl, (by decide +kernel), rfl⟩

theorem wit_StreamSteps_5 :
 (HasRegion (sT rSe) 1 rSe) ∧
 (strmLive rSe 2 = true) ∧
 ((Region.strm rSe 2).copy = false) ∧
 ((Region.strm rSe 2).taps ≠ 0) ∧
 (rSe.flight = []) :=
  ⟨rfl, rfl, rfl, (by decide), rfl⟩

theorem wit_StreamSteps_6 :
 (HasRegion (sT rSf) 1 rSf) ∧
 (strmLive rSf 2 = true) ∧
 ((Region.strm rSf 2).copy = false) ∧
 (dWrite (Region.strm rSf 2).desc = true) ∧
 (dChan (Region.strm rSf 2).desc = true) ∧
 ((Region.strm rSf 2).held = [tokPmark]) ∧
 (tokHw tokPmark = true) :=
  ⟨rfl, rfl, rfl, (by decide +kernel), (by decide +kernel), rfl, (by decide +kernel)⟩

theorem wit_StreamSteps_7 :
 (HasRegion (sT rSh) 1 rSh) ∧
 (strmLive rSh 2 = true) ∧
 ((Region.strm rSh 2).copy = false) ∧
 (dWrite (Region.strm rSh 2).desc = true) ∧
 (dChan (Region.strm rSh 2).desc = true) ∧
 ((Region.strm rSh 2).held = []) :=
  ⟨rfl, (by decide +kernel), rfl, rfl, (by decide +kernel), rfl⟩

theorem wit_StreamSteps_8 :
 (HasRegion (sT rSh) 1 rSh) ∧
 (strmLive rSh 2 = true) ∧
 ((Region.strm rSh 2).copy = false) ∧
 (dWrite (Region.strm rSh 2).desc = true) ∧
 (dChan (Region.strm rSh 2).desc = true) ∧
 ((Region.strm rSh 2).held = []) ∧
 (2 < copyBase) ∧
 ((Region.pl rSh (Region.strm rSh 2).tile).outq = [{ outs := [0], tok := some (tkD 3) : Emit }]) ∧
 (outDests (Region.pl rSh (Region.strm rSh 2).tile) 0 = []) ∧
 (weltOf (Region.pl rSh (Region.strm rSh 2).tile) 0 = none) ∧
 (Region.drainOf rSh (Region.pl rSh (Region.strm rSh 2).tile) (Region.strm rSh 2).tile 0 = some 2) ∧
 (tokIsSwap (tkD 3) = false) :=
  ⟨rfl, (by decide +kernel), rfl, rfl, (by decide +kernel), rfl, (by decide), rfl, rfl, rfl, (by decide +kernel), (by decide +kernel)⟩

theorem wit_StreamSteps_9 :
 (HasRegion (sT rSg) 1 rSg) ∧
 (2 < copyBase) ∧
 (strmLive rSg 2 = true) ∧
 ((Region.strm rSg 2).st = 1) ∧
 ((Region.strm rSg 2).copy = false) ∧
 (dWrite (Region.strm rSg 2).desc = false) ∧
 (dChan (Region.strm rSg 2).desc = true) ∧
 (dExp (Region.strm rSg 2).desc = false) ∧
 (dEos (Region.strm rSg 2).desc = false) ∧
 ((Region.strm rSg 2).pmark = false) ∧
 ((Region.strm rSg 2).stop = false) ∧
 ((Region.strm rSg 2).halt ≠ 4) ∧
 (swapWaits rSg (Region.strm rSg 2).tile = false) ∧
 ((Region.strm rSg 2).next < dN (Region.strm rSg 2).desc) ∧
 (readRoom rSg (Region.strm rSg 2) = true) ∧
 (rSg.flight = []) ∧
 ((strmAddr rSg 2 (Region.strm rSg 2).next).fst = 0) :=
  ⟨rfl, (by decide), rfl, rfl, rfl, (by decide +kernel), (by decide +kernel), (by decide +kernel), (by decide +kernel), rfl, rfl, (by decide), (by decide +kernel), (by decide +kernel), (by decide +kernel), rfl, rfl⟩

theorem wit_StreamSteps_10 :
 (HasRegion (sT rSi) 1 rSi) ∧
 (strmLive rSi 2 = true) ∧
 ((Region.strm rSi 2).st = 1) ∧
 (List.find? (fun (a : Nat × Nat × Nat) => a.fst == 1 && !capRemote (capEntry rSi a.snd.snd) && Option.isNone (extFind (Region.strm rSi 2) a.snd.fst))
    (wantAddr rSi 2) =
  some (1, 256, 0)) ∧
 (pageFrozen (State.part (sT rSi) rSi.part) 256 = false) ∧
 (pagePaused rSi 256 = false) ∧
 (State.walk (sT rSi) rSi.part 256 = Except.ok ((BitVec.ofNat 64 (2 ^ 63 + 2 ^ 62 + 65550), 5), 16384)) :=
  ⟨rfl, rfl, rfl, (by decide +kernel), rfl, rfl, (by rfl)⟩

theorem wit_StreamSteps_11 :
 (HasRegion (sT rSj) 1 rSj) ∧
 (2 < copyBase) ∧
 (hasStrm rSj 2 = true) ∧
 ((Region.strm rSj 2).copy = false) ∧
 (List.contains (Region.strm rSj 2).done 1 = false) ∧
 (1 < dBoxes (Region.strm rSj 2).desc) ∧
 ((Region.strm rSj 2).st ≠ 0) ∧
 (boxDone rSj 2 1 = true) ∧
 (dChan (Region.strm rSj 2).desc = true) :=
  ⟨rfl, (by decide), rfl, rfl, rfl, (by decide +kernel), (by decide), (by decide +kernel), (by decide +kernel)⟩

end WitStreams

/-! ### Copies -/

namespace WitCopies

def dcp (esz : Nat) : List Nat := [0x200, (0x40 + esz) * 2 ^ 56 + 2, 3 * 2 ^ 40 + 8] ++ List.replicate 4 (2 ^ 40) ++ [0x400]
def ctCp : Ct := { ct0 with ops := [(7, { code := 0xE9, ti := { dst := 4 }, a := { bits := 0x100 }, ph := 7 })] }
def rCp (esz : Nat) : Region := { rC ctCp with mt := memT ((List.range 8).map (fun i => (0x100 + 8 * i, (dcp esz).getD i 0))), cpyid := 4 }
def rCp3 : Region := rCp 3
def rCp8 : Region := { rCp 3 with mt := [] }
def rCpE : Region := { rC ct0 with copies := [(copyBase + 1, { tile := 0, copy := true, cid := 3, st := 1, desc := (dcp 3).map (BitVec.ofNat 64), done := [0, 1], compl := 2, next := 3, got := 3 })] }

theorem wit_CopySteps_1 :
 (HasRegion (sT rCp8) 1 rCp8) ∧
 (tfind (Region.ct rCp8 0).ops 7 = some { code := 233, ti := { dst := 4 : Ti }, a := { bits := 256 : Val }, ph := 7 : PendOp }) ∧
 (opsRun rCp8 = true) ∧
 ({ code := 233, ti := { dst := 4 : Ti }, a := { bits := 256 : Val }, ph := 7 : PendOp }.code = 233) ∧
 ({ code := 233, ti := { dst := 4 : Ti }, a := { bits := 256 : Val }, ph := 7 : PendOp }.ph ≠ phClaim) ∧
 (earlierDone rCp8 0 7 = true) ∧
 ((List.any
    (Region.mtWords rCp8 (BitVec.toNat { code := 233, ti := { dst := 4 : Ti }, a := { bits := 256 : Val }, ph := 7 : PendOp }.a.bits % 2 ^ 32) 8)
    fun (v : Val) => v.pois) =
  false) ∧
 (cpBlockValid rCp8
    (List.map (fun (v : Val) => v.bits)
      (Region.mtWords rCp8 (BitVec.toNat { code := 233, ti := { dst := 4 : Ti }, a := { bits := 256 : Val }, ph := 7 : PendOp }.a.bits % 2 ^ 32) 8)) =
  false) :=
  ⟨rfl, rfl, rfl, rfl, (by decide), rfl, (by decide +kernel), (by decide +kernel)⟩

theorem wit_CopySteps_2 :
 (HasRegion (sT rCp3) 1 rCp3) ∧
 (tfind (Region.ct rCp3 0).ops 7 = some { code := 233, ti := { dst := 4 : Ti }, a := { bits := 256 : Val }, ph := 7 : PendOp }) ∧
 (opsRun rCp3 = true) ∧
 ({ code := 233, ti := { dst := 4 : Ti }, a := { bits := 256 : Val }, ph := 7 : PendOp }.code = 233) ∧
 ({ code := 233, ti := { dst := 4 : Ti }, a := { bits := 256 : Val }, ph := 7 : PendOp }.ph ≠ phClaim) ∧
 (earlierDone rCp3 0 7 = true) ∧
 ((List.any
    (Region.mtWords rCp3 (BitVec.toNat { code := 233, ti := { dst := 4 : Ti }, a := { bits := 256 : Val }, ph := 7 : PendOp }.a.bits % 2 ^ 32) 8)
    fun (v : Val) => v.pois) =
  false) ∧
 (cpBlockValid rCp3
    (List.map (fun (v : Val) => v.bits)
      (Region.mtWords rCp3 (BitVec.toNat { code := 233, ti := { dst := 4 : Ti }, a := { bits := 256 : Val }, ph := 7 : PendOp }.a.bits % 2 ^ 32) 8)) =
  true) ∧
 (cpCheck rCp3 (sealOf (sT rCp3) rCp3.part) (partFpol (State.part (sT rCp3) rCp3.part))
    (List.map (fun (v : Val) => v.bits)
      (Region.mtWords rCp3 (BitVec.toNat { code := 233, ti := { dst := 4 : Ti }, a := { bits := 256 : Val }, ph := 7 : PendOp }.a.bits % 2 ^ 32) 8)) =
  Except.ok false) ∧
 (dChan
    (List.map (fun (v : Val) => v.bits)
      (Region.mtWords rCp3 (BitVec.toNat { code := 233, ti := { dst := 4 : Ti }, a := { bits := 256 : Val }, ph := 7 : PendOp }.a.bits % 2 ^ 32) 8)) =
  true) :=
  ⟨rfl, rfl, rfl, rfl, (by decide), rfl, (by decide +kernel), (by decide +kernel), (okIs_eq (by decide +kernel)), (by decide +kernel)⟩

theorem wit_CopySteps_3 :
 (HasRegion (sT rCpE) 1 rCpE) ∧
 (hasStrm rCpE (copyBase + 1) = true) ∧
 (strmLive rCpE (copyBase + 1) = true) ∧
 ((Region.strm rCpE (copyBase + 1)).copy = true) ∧
 (List.length (Region.strm rCpE (copyBase + 1)).done = dBoxes (Region.strm rCpE (copyBase + 1)).desc) ∧
 ((Region.strm rCpE (copyBase + 1)).compl = 2) ∧
 (dChan (Region.strm rCpE (copyBase + 1)).desc = true) :=
  ⟨rfl, rfl, rfl, rfl, (by decide +kernel), rfl, (by decide +kernel)⟩

end WitCopies

/-! ### Units -/

namespace WitUnits

/-- A region whose MT 1 has a mode word, unit state and input buffers; route of its outputs to the MT's own west. -/
def rU (mode : List Nat) (u : MtU) (bufs : List (Nat × List Token)) : Region :=
  { rC ct0 with tiles := [(1, { act := { mode := mode.map (BitVec.ofNat 64), u := u, inp := bufs.map (fun x => (x.1, { buf := x.2 })), routes := [(0, [0]), (1, [0]), (8, [0])] } })], caps := [(0, capT)] }
def rFi1 : Region := rU [2 ^ 60 + 64 * 2 ^ 21] {} [(0, [tkD 5])]
def rFi2 : Region := rU [2 ^ 60 + 64 * 2 ^ 21] { rtail := 1 } []
def rLi : Region := rU [2 * 2 ^ 60 + 2 * 2 ^ 56 + 4 * 2 ^ 24] { col := 3 } [(0, [tkD 5])]
def rGa : Region := rU [4 * 2 ^ 60 + 3 * 2 ^ 58, 0x100] { first := 1 } [(0, [tkD 5])]
def rGs : Region := rU [4 * 2 ^ 60 + 3 * 2 ^ 58, 0x100] { first := 2 } [(1, [tkD 5]), (2, [tkD 9])]
def rGo : Region := { rU [4 * 2 ^ 60 + 3 * 2 ^ 58, 0x100] { greqs := [{ kind := 1, acc := 7, ord := 2 }] } [] with flight := [(7, { own := .unit 1 2, op := .write 8 {}, st := .done })] }
def rSu : Region := rU [5 * 2 ^ 60 + 3 * 2 ^ 58, 0x100] {} [(0, [tkD 5]), (1, [tkD 9])]
def rLn : Region := rU [2 * 2 ^ 60 + 2 * 2 ^ 56 + 4 * 2 ^ 24] { rows := 1, col := 3 } [(0, [tkD 5])]
def gq (k acc : Nat) : GReq := { kind := k, idx := 5, tok := tkD 5, loc := (0, 0x128, 0), acc := acc, ord := 1 }
def rGw : Region := rU [4 * 2 ^ 60 + 3 * 2 ^ 58, 0x100] { first := 2, greqs := [gq 0 0], reqOrd := 2 } [(1, [tkD 5]), (2, [tkD 9])]
def rGi : Region := rU [4 * 2 ^ 60 + 3 * 2 ^ 58, 0x100] { greqs := [gq 0 0], reqOrd := 2 } []
def rGr : Region := { rU [4 * 2 ^ 60 + 2 ^ 57 + 2 ^ 58, 0x100] { greqs := [gq 0 7], reqOrd := 2 } [] with flight := [(7, { own := .unit 1 1, op := .read 2, st := .done, ans := { bits := 0x18000 } })] }
def rSi : Region := rU [5 * 2 ^ 60 + 3 * 2 ^ 58, 0x100] { sreqs := [{ addr := 0x128, vals := [{ bits := 3 }], ord := 4 }], reqOrd := 5 } []
def rSg : Region := rU [5 * 2 ^ 60 + 3 * 2 ^ 58, 0x100] { sreqs := [{ addr := 0x128, vals := [{ bits := 3 }], ord := 4 }, { addr := 0x128, vals := [{ bits := 6 }], ord := 5 }], reqOrd := 6 } []
def rCe : Region := rU [6 * 2 ^ 60 + 3 * 2 ^ 58] { rows := 32 } []
def rCo : Region := rU [6 * 2 ^ 60 + 3 * 2 ^ 58] {} [(8, [tkD 5])]
def exqM (b : Nat) : List Nat := [7 * 2 ^ 60 + b, 0, 2 ^ 56 + 2 ^ 48 + 0 * 2 ^ 16]
def ctE : Ct := { ct0 with ops := [(3, { code := 0xE0, b := { bits := 11 }, c := { bits := 12 }, ph := 9 })] }
def accE : Access := { own := .pe 0 3 0, op := .read 8, sp := 3, addr := 16 * 8, seq := 3 }
def rE (u : MtU) : Region :=
  { rC ctE with tiles := [(0, { act := { ct := ctE, routes := [(0, [0])] } }), (1, { act := { mode := (exqM 0).map (BitVec.ofNat 64), u := u, routes := [(0, [0]), (8, [0])] } })], flight := [(5, accE)] }
def rE1 : Region := rE {}
def accW : Access := { accE with st := .waiting, pa := 5 }
def rEw : Region := { rE {} with flight := [(5, accW)] }
def rE2 : Region := { rE { ents := [{ w0 := { bits := 1 } }] } with flight := [] }
def rE4 : Region := { rE { ents := [{ w0 := { bits := 1 }, chosen := true }], batch := some (0, 1, false) } with flight := [] }
def rE5 : Region := { rE { qs := [(0, { flush := [{ mark := 0, tile := 0, op := 3, col := 2, n := 4 }] })], batch := some (0, 0, true) } with flight := [] }
def rE6 : Region := { rE { ring := [{ w0 := { bits := 1 } }] } with flight := [] }
def excH (s slot km1 : Nat) : Token := { pay := BitVec.ofNat 512 (s * 2 ^ 40 + slot * 2 ^ 36 + km1 * 2 ^ 32), mark := mkD }
def rX1 : Region := rU [8 * 2 ^ 60] {} [(0, [excH 0 0 0]), (8, [tkD 9])]
def rX2 : Region := rU [8 * 2 ^ 60] { win := [(0, [(0, tokVal (excH 0 0 0), {})])] } []
def rX4 : Region := rU [8 * 2 ^ 60] { win := [(0, [(0, { tokVal (excH 0 0 0) with pois := true }, {})])] } []
def rX3 : Region := rU [8 * 2 ^ 60] {} [(0, [{ mark := mkE }]), (8, [{ mark := mkE }])]

theorem wit_UnitSteps_1 :
 (UnitRuns (sT rFi1) 1 1 1 rFi1) ∧
 (Region.head rFi1 1 (fifoChan (Region.pl rFi1 1)) = some (tkD 5)) ∧
 ((fifoCount (Region.pl rFi1 1) + if Region.usedU rFi1 1 uGive = true then 1 else 0) < fifoCap (Region.pl rFi1 1)) ∧
 (Region.usedU rFi1 1 uTake = false) :=
  ⟨⟨rfl, by decide, rfl⟩, (by decide +kernel), (by decide +kernel), rfl⟩

theorem wit_UnitSteps_2 :
 (UnitRuns (sT rFi2) 1 1 1 rFi2) ∧
 ((if Region.usedU rFi2 1 uTake = true then 1 else 0) < fifoCount (Region.pl rFi2 1)) ∧
 (Region.usedU rFi2 1 uGive = false) ∧
 (Region.outSpace rFi2 1 (fifoChan (Region.pl rFi2 1)) = true) :=
  ⟨⟨rfl, by decide, rfl⟩, (by decide +kernel), rfl, (by decide +kernel)⟩

theorem wit_UnitSteps_3 :
 (UnitRuns (sT rLi) 1 1 2 rLi) ∧
 (Region.head rLi 1 0 = some (tkD 5)) ∧
 ((tkD 5).mark = mkD ∨ (tkD 5).mark = mkL) ∧
 ((Region.pl rLi 1).u.rows + 1 < lineNl (Region.pl rLi 1)) :=
  ⟨⟨rfl, by decide, rfl⟩, (by decide +kernel), (Or.inl rfl), (by decide +kernel)⟩

theorem wit_UnitSteps_4 :
 (UnitRuns (sT rLn) 1 1 2 rLn) ∧
 (Region.head rLn 1 0 = some (tkD 5)) ∧
 ((tkD 5).mark = mkD ∨ (tkD 5).mark = mkL) ∧
 (lineNl (Region.pl rLn 1) ≤ (Region.pl rLn 1).u.rows + 1) ∧
 (∀ (o : Nat), o < lineNl (Region.pl rLn 1) → Region.outSpace rLn 1 o = true) :=
  ⟨⟨rfl, by decide, rfl⟩, (by decide +kernel), (Or.inl rfl), (by decide +kernel), (by decide +kernel)⟩

theorem wit_UnitSteps_5 :
 (UnitRuns (sT rGa) 1 1 4 rGa) ∧
 (Region.head rGa 1 0 = some (tkD 5)) ∧
 ((tkD 5).mark = mkD ∨ (tkD 5).mark = mkL) ∧
 ((Region.pl rGa 1).u.greqs = []) ∧
 ((Region.pl rGa 1).u.first = 1) ∧
 ((tokVal (tkD 5)).pois = false) ∧
 (tblAddr rGa (sealOf (sT rGa) rGa.part) (List.getD (Region.pl rGa 1).mode 1 0) (tblEsz (Region.pl rGa 1)) (tokVal (tkD 5)).bits [bR] =
  Except.ok (0, 296, 0)) :=
  ⟨⟨rfl, by decide, rfl⟩, (by decide +kernel), (Or.inl rfl), rfl, rfl, (by decide +kernel), (okIs_eq (by decide +kernel))⟩

theorem wit_UnitSteps_6 :
 (UnitRuns (sT rGs) 1 1 4 rGs) ∧
 (Region.head rGs 1 1 = some (tkD 5)) ∧
 (Region.head rGs 1 2 = some (tkD 9)) ∧
 ((tkD 5).mark = mkD ∨ (tkD 5).mark = mkL) ∧
 ((Region.pl rGs 1).u.first = 2) ∧
 (scatCan rGs 1 = true) ∧
 ((tokVal (tkD 5)).pois = false) ∧
 (tblAddr rGs (sealOf (sT rGs) rGs.part) (List.getD (Region.pl rGs 1).mode 1 0) (tblEsz (Region.pl rGs 1)) (tokVal (tkD 5)).bits [bW] =
  Except.ok (0, 296, 0)) ∧
 (reqDue rGs 1 1 = none) ∧
 (∀ (x : GReq), x ∈ (Region.pl rGs 1).u.greqs → x.ord < (Region.pl rGs 1).u.reqOrd) :=
  ⟨⟨rfl, by decide, rfl⟩, (by decide +kernel), (by decide +kernel), (Or.inl rfl), rfl, (by decide +kernel), (by decide +kernel), (okIs_eq (by decide +kernel)), rfl, (by decide +kernel)⟩

theorem wit_UnitSteps_7 :
 (UnitRuns (sT rGw) 1 1 4 rGw) ∧
 (Region.head rGw 1 1 = some (tkD 5)) ∧
 (Region.head rGw 1 2 = some (tkD 9)) ∧
 ((tkD 5).mark = mkD ∨ (tkD 5).mark = mkL) ∧
 ((Region.pl rGw 1).u.first = 2) ∧
 (scatCan rGw 1 = true) ∧
 ((tokVal (tkD 5)).pois = false) ∧
 (tblAddr rGw (sealOf (sT rGw) rGw.part) (List.getD (Region.pl rGw 1).mode 1 0) (tblEsz (Region.pl rGw 1)) (tokVal (tkD 5)).bits [bW] =
  Except.ok (0, 296, 0)) ∧
 (reqDue rGw 1 1 = none) ∧
 (∀ (x : GReq), x ∈ (Region.pl rGw 1).u.greqs → x.ord < (Region.pl rGw 1).u.reqOrd) :=
  ⟨⟨rfl, by decide, rfl⟩, (by decide +kernel), (by decide +kernel), (Or.inl rfl), rfl, (by decide +kernel), (by decide +kernel), (okIs_eq (by decide +kernel)), rfl, (by decide +kernel)⟩

theorem wit_UnitSteps_8 :
 (UnitRuns (sT rGi) 1 1 4 rGi) ∧
 (reqDue rGi 1 0 = some (gq 0 0)) ∧
 (∀ (x : GReq) (rest : List GReq),
  List.filter (fun (x : GReq) => x.kind == 0 || x.kind == 2) (Region.pl rGi 1).u.greqs = x :: rest →
    x.kind = 0 ∧ accIs rGi x.acc ≠ some AccSt.done ∧ ∀ (c : Nat), accIs rGi x.acc ≠ some (AccSt.failed c)) :=
  ⟨⟨rfl, by decide, rfl⟩, (by decide +kernel), (fun x rest e => by cases e; exact ⟨rfl, by decide +kernel, fun c e => nomatch e⟩)⟩

theorem wit_UnitSteps_9 :
 (UnitRuns (sT rGr) 1 1 4 rGr) ∧
 (Region.outSpace rGr 1 0 = true) ∧
 ((Region.pl rGr 1).u.greqs = [gq 0 7]) ∧
 ((gq 0 7).kind = 0) ∧
 (accIs rGr (gq 0 7).acc = some AccSt.done) :=
  ⟨⟨rfl, by decide, rfl⟩, (by decide +kernel), rfl, rfl, rfl⟩

theorem wit_UnitSteps_10 :
 (UnitRuns (sT rGo) 1 1 4 rGo) ∧
 (Region.outSpace rGo 1 1 = true) ∧
 ((Region.pl rGo 1).u.greqs = [{ kind := 1, acc := 7, ord := 2 : GReq }]) ∧
 ({ kind := 1, acc := 7, ord := 2 : GReq }.kind = 1) ∧
 (accIs rGo { kind := 1, acc := 7, ord := 2 : GReq }.acc = some AccSt.done) :=
  ⟨⟨rfl, by decide, rfl⟩, (by decide +kernel), rfl, rfl, rfl⟩

theorem wit_UnitSteps_11 :
 (UnitRuns (sT rSu) 1 1 5 rSu) ∧
 (Region.head rSu 1 0 = some (tkD 5)) ∧
 (Region.head rSu 1 1 = some (tkD 9)) ∧
 ((tkD 5).mark = mkD ∨ (tkD 5).mark = mkL) ∧
 ((Region.pl rSu 1).u.sreqs = []) ∧
 ((tokVal (tkD 5)).pois = false) ∧
 (tblAddr (Region.popIn (Region.popIn rSu 1 0) 1 1) (sealOf (sT rSu) rSu.part) (List.getD (Region.pl rSu 1).mode 1 0) (tblEsz (Region.pl rSu 1))
    (tokVal (tkD 5)).bits [bW, bA] =
  Except.ok (0, 296, 0)) :=
  ⟨⟨rfl, by decide, rfl⟩, (by decide +kernel), (by decide +kernel), (Or.inl rfl), rfl, (by decide +kernel), (okIs_eq (by decide +kernel))⟩

theorem wit_UnitSteps_12 :
 (UnitRuns (sT rSi) 1 1 5 rSi) ∧
 ((Region.pl rSi 1).u.sreqs[0]? = some { addr := 296, vals := [{ bits := 3 : Val }], ord := 4 : SUpd }) ∧
 ({ addr := 296, vals := [{ bits := 3 : Val }], ord := 4 : SUpd }.acc = 0) ∧
 ({ addr := 296, vals := [{ bits := 3 : Val }], ord := 4 : SUpd }.ends = none) ∧
 (suuOrdered (Region.pl rSi 1) = true → ∀ (x : SUpd), x ∈ List.take 0 (Region.pl rSi 1).u.sreqs → Option.isSome x.ends = true ∨ x.acc ≠ 0) :=
  ⟨⟨rfl, by decide, rfl⟩, rfl, rfl, rfl, (fun _ x hx => nomatch hx)⟩

theorem wit_UnitSteps_13 :
 (UnitRuns (sT rSg) 1 1 5 rSg) ∧
 ((Region.pl rSg 1).u.sreqs =
  [{ addr := 296, vals := [{ bits := 3 : Val }], ord := 4 : SUpd }, { addr := 296, vals := [{ bits := 6 : Val }], ord := 5 : SUpd }]) ∧
 ({ addr := 296, vals := [{ bits := 3 : Val }], ord := 4 : SUpd }.acc = 0) ∧
 ({ addr := 296, vals := [{ bits := 6 : Val }], ord := 5 : SUpd }.acc = 0) ∧
 ({ addr := 296, vals := [{ bits := 3 : Val }], ord := 4 : SUpd }.ends = none) ∧
 ({ addr := 296, vals := [{ bits := 6 : Val }], ord := 5 : SUpd }.ends = none) ∧
 ({ addr := 296, vals := [{ bits := 3 : Val }], ord := 4 : SUpd }.addr = { addr := 296, vals := [{ bits := 6 : Val }], ord := 5 : SUpd }.addr) ∧
 ({ addr := 296, vals := [{ bits := 3 : Val }], ord := 4 : SUpd }.ord ≠ { addr := 296, vals := [{ bits := 6 : Val }], ord := 5 : SUpd }.ord) :=
  ⟨⟨rfl, by decide, rfl⟩, rfl, rfl, rfl, rfl, rfl, rfl, (by decide)⟩

theorem wit_UnitSteps_14 :
 ({ vals := [{ bits := 3 : Val }, { bits := 6 : Val }] : SUpd }.vals = [{ bits := 3 : Val }, { bits := 6 : Val }]) ∧
 (suuOp (Region.pl rSg 1) ≠ 2) :=
  ⟨rfl, (by decide)⟩

theorem wit_UnitSteps_15 :
 (HasRegion (sT rCo) 1 rCo) ∧
 (unitLive rCo 1 = true) ∧
 (planeMode (Region.pl rCo 1) = 6) ∧
 (Region.head rCo 1 8 = some (tkD 5)) ∧
 ((tkD 5).mark = mkD ∨ (tkD 5).mark = mkL) ∧
 ((Region.pl rCo 1).u.rows ≠ 4 * compEsz (Region.pl rCo 1)) :=
  ⟨rfl, rfl, rfl, (by decide +kernel), (Or.inl rfl), (by decide +kernel)⟩

theorem wit_UnitSteps_16 :
 (UnitRuns (sT rCe) 1 1 6 rCe) ∧
 ((Region.pl rCe 1).u.rows = 4 * compEsz (Region.pl rCe 1)) ∧
 (Region.usedU rCe 1 uTake = false) ∧
 (Region.usedU rCe 1 uEmit = false) ∧
 (Region.outSpace rCe 1 8 = true) :=
  ⟨⟨rfl, by decide, rfl⟩, (by decide +kernel), rfl, rfl, (by decide +kernel)⟩

theorem wit_EntryRoundTrip_1 :
 (BitVec.toNat (tkD 5).pay < 2 ^ 64) ∧
 (BitVec.toNat (tkD 5).pois < 2) :=
  ⟨(by decide +kernel), (by decide +kernel)⟩

theorem wit_ExpertQueueSteps_1 :
 (HasAccess (sT rE1) 1 5 rE1 accE) ∧
 (accE.own = Owner.pe 0 3 0) ∧
 (Region.op? rE1 0 3 = some { code := 224, b := { bits := 11 : Val }, c := { bits := 12 : Val }, ph := 9 : PendOp }) ∧
 ({ code := 224, b := { bits := 11 : Val }, c := { bits := 12 : Val }, ph := 9 : PendOp }.code = 224) ∧
 (accE.sp = 3) ∧
 (unitLive rE1 (accE.addr / 8 / 16) = true) ∧
 (accE.st = AccSt.travel) ∧
 (mustPrecede (sT rE1) rE1 5 accE false = true) :=
  ⟨⟨rfl, rfl⟩, rfl, rfl, rfl, rfl, rfl, rfl, (by decide +kernel)⟩

theorem wit_ExpertQueueSteps_2 :
 (HasAccess (sT rEw) 1 5 rEw accW) ∧
 (accW.own = Owner.pe 0 3 0) ∧
 (Region.op? rEw 0 3 = some { code := 224, b := { bits := 11 : Val }, c := { bits := 12 : Val }, ph := 9 : PendOp }) ∧
 ({ code := 224, b := { bits := 11 : Val }, c := { bits := 12 : Val }, ph := 9 : PendOp }.code = 224) ∧
 (accW.sp = 3) ∧
 (unitLive rEw (accW.addr / 8 / 16) = true) ∧
 (accW.st = AccSt.waiting) ∧
 (pushNext (sT rEw).fc 5 accW rEw = true) ∧
 (Region.usedU rEw (accW.addr / 8 / 16) uPush = false) ∧
 (exqStored (Region.tile rEw (accW.addr / 8 / 16)) < 2048) ∧
 ((Region.pl rEw (accW.addr / 8 / 16)).u.ring = []) :=
  ⟨⟨rfl, rfl⟩, rfl, rfl, rfl, rfl, rfl, rfl, (by decide +kernel), (by decide +kernel), (by decide +kernel), rfl⟩

theorem wit_ExpertQueueSteps_3 :
 (UnitRuns (sT rE2) 1 1 7 rE2) ∧
 (rE2.cnt ≠ rRunning) ∧
 (0 < exqN (Region.pl rE2 1)) ∧
 (exqAged (Region.pl rE2 1) (sT rE2).fc 0 = true) ∧
 ((exqSt (Region.pl rE2 1) 0).x = none) :=
  ⟨⟨rfl, by decide, rfl⟩, (by decide), (by decide +kernel), (by decide +kernel), rfl⟩

theorem wit_ExpertQueueSteps_4 :
 ((Region.pl (ageAll 9 1 rE2) 1).u.batch = none) ∧
 (Region.usedU (ageAll 9 1 rE2) 1 uEmit = false) ∧
 (exqPick (Region.pl (ageAll 9 1 rE2) 1) 9 = some 0) :=
  ⟨(by decide +kernel), (by decide +kernel), (by decide +kernel)⟩

theorem wit_ExpertQueueSteps_5 :
 (UnitRuns (sT rE2) 1 1 7 rE2) ∧
 (rE2.cnt ≠ rRunning) :=
  ⟨⟨rfl, by decide, rfl⟩, (by decide)⟩

theorem wit_ExpertQueueSteps_6 :
 (UnitRuns (sT rE4) 1 1 7 rE4) ∧
 ((Region.pl rE4 1).u.batch = some (0, 1, false)) ∧
 (List.filter (fun (e : QEnt) => e.chosen) (Region.pl rE4 1).u.ents = [{ w0 := { bits := 1 : Val }, chosen := true : QEnt }]) ∧
 (Region.usedU rE4 1 uEmit = false) ∧
 (Region.outSpace rE4 1 (exqOut (Region.pl rE4 1) 0) = true) :=
  ⟨⟨rfl, by decide, rfl⟩, rfl, rfl, rfl, (by decide +kernel)⟩

theorem wit_ExpertQueueSteps_7 :
 (UnitRuns (sT rE5) 1 1 7 rE5) ∧
 ((Region.pl rE5 1).u.batch = some (0, 0, true)) ∧
 ((exqSt (Region.pl rE5 1) 0).flush = [{ op := 3, col := 2, n := 4 : Flush }]) ∧
 (Region.usedU rE5 1 uEmit = false) ∧
 (Region.outSpace rE5 1 (exqOut (Region.pl rE5 1) 0) = true) :=
  ⟨⟨rfl, by decide, rfl⟩, rfl, rfl, rfl, (by decide +kernel)⟩

theorem wit_ExpertQueueSteps_8 :
 (UnitRuns (sT rE6) 1 1 7 rE6) ∧
 ((Region.pl rE6 1).u.ring = [{ w0 := { bits := 1 : Val } : QEnt }]) ∧
 (rE6.flight = []) ∧
 (exqStored (Region.tile rE6 1) < 2048) :=
  ⟨⟨rfl, by decide, rfl⟩, rfl, rfl, (by decide +kernel)⟩

theorem wit_ExpertQueueSteps_9 :
 (UnitRuns (sT rX1) 1 1 8 rX1) ∧
 (Region.head rX1 1 0 = some (excH 0 0 0)) ∧
 (Region.head rX1 1 8 = some (tkD 9)) ∧
 ((excH 0 0 0).mark = mkD ∨ (excH 0 0 0).mark = mkL) ∧
 ((tkD 9).mark = mkD ∨ (tkD 9).mark = mkL) ∧
 ((tokVal (excH 0 0 0)).pois = false) ∧
 ((tkD 9).pois = 0) ∧
 (excBad (Region.pl rX1 1).u (tokVal (excH 0 0 0)) = false) :=
  ⟨⟨rfl, by decide, rfl⟩, (by decide +kernel), (by decide +kernel), (Or.inl rfl), (Or.inl rfl), (by decide +kernel), rfl, (by decide +kernel)⟩

theorem wit_ExpertQueueSteps_10 :
 (UnitRuns (sT rX2) 1 1 8 rX2) ∧
 (excComplete (Region.pl rX2 1).u (BitVec.toNat (Region.pl rX2 1).u.wbase % 2 ^ 24) = true) ∧
 (Region.usedU rX2 1 uEmit = false) ∧
 (Region.outSpace rX2 1 0 = true) ∧
 (Region.outSpace rX2 1 8 = true) ∧
 (List.any (tget (Region.pl rX2 1).u.win [] (BitVec.toNat (Region.pl rX2 1).u.wbase % 2 ^ 24)) excPois = false) :=
  ⟨⟨rfl, by decide, rfl⟩, (by decide +kernel), (by decide +kernel), (by decide +kernel), (by decide +kernel), (by decide +kernel)⟩

theorem wit_ExpertQueueSteps_11 :
 (UnitRuns (sT rX4) 1 1 8 rX4) ∧
 (excComplete (Region.pl rX4 1).u (BitVec.toNat (Region.pl rX4 1).u.wbase % 2 ^ 24) = true) ∧
 (Region.usedU rX4 1 uEmit = false) ∧
 (Region.outSpace rX4 1 0 = true) ∧
 (Region.outSpace rX4 1 8 = true) ∧
 (List.any (tget (Region.pl rX4 1).u.win [] (BitVec.toNat (Region.pl rX4 1).u.wbase % 2 ^ 24)) excPois = true) :=
  ⟨⟨rfl, by decide, rfl⟩, (by decide +kernel), (by decide +kernel), (by decide +kernel), (by decide +kernel), (by decide +kernel)⟩

theorem wit_ExpertQueueSteps_12 :
 (UnitRuns (sT rX3) 1 1 8 rX3) ∧
 (Region.head rX3 1 0 = some { mark := mkE : Token }) ∧
 (Region.head rX3 1 8 = some { mark := mkE : Token }) ∧
 ({ mark := mkE : Token }.mark = mkE) ∧
 ({ mark := mkE : Token }.mark = mkE) ∧
 ((Region.pl rX3 1).u.win = []) ∧
 (Region.outSpace rX3 1 0 = true) ∧
 (Region.outSpace rX3 1 8 = true) :=
  ⟨⟨rfl, by decide, rfl⟩, (by decide +kernel), (by decide +kernel), rfl, rfl, rfl, (by decide +kernel), (by decide +kernel)⟩

end WitUnits

/-! ### Homes -/

namespace WitHomes

def ctN (o : PendOp) : Ct := { ct0 with ops := [(3, o)] }
def opSw : PendOp := { code := 0xE5, ti := { imm := 1 }, ph := 10 }
def opSt : PendOp := { code := 0xE7, ti := { imm := 1 }, ph := 10 }
def rNl (o : PendOp) (n : Nle) : Region := { rC (ctN o) with nles := [(1, n)], onl := true, eff3 := BitVec.ofNat 64 (2 * 2 ^ 24) }
def opCl : PendOp := { code := 0xE8, ti := { imm := 1 }, a := { bits := 0x40 }, ph := 10 }
def blkW : List Nat := [0, 0x4010000000000000, 0x4010000000000000, 0x4010000000000000, 0x3FF0000000000000, 0, 8 * 2 ^ 46, 0]
def opFi : PendOp := { opCl with ph := 11, accs := List.range 8 }
def rNa : Region := rNl opSw { queue := [(0, 3)] }
def rNa2 : Region := rNl opSw { queue := [(0, 3)], st := 1, cfg := blkW.map (BitVec.ofNat 64) }
def rNa3 : Region := rNl opCl { queue := [(0, 3)] }
def rNf : Region := { rNl opFi { busy := some (0, 3) } with
  flight := (List.range 8).map (fun k => (k, { own := .pe 0 3 k, op := .read 8, addr := 0x40 + 8 * k, st := .done, ans := { bits := BitVec.ofNat 64 (blkW.getD k 0) } })) }
def rNb : Region := rNl opSw { cfg := List.replicate 16 0, sweep := [[(0, tkD 7)]] }
def rNc : Region := rNl opSt {}
def vB (c t g : Nat) : Val := { bits := BitVec.ofNat 64 (g * 2 ^ 32 + c * 2 ^ 16 + t) }
def accA (sp : Nat) (addr : Nat) (op : MOp) (st : AccSt := .travel) : Access := { own := .pe 0 3 0, op := op, sp := sp, addr := addr, seq := 3, st := st }
def rAc (a : Access) (pres : List Nat := []) : Region := { rC ct0 with flight := [(5, a)], pres := pres, mt := memT [(0x100, 9)], caps := [(0, capT)] }
def aRd : Access := accA 0 0x104 (.read 4)
def aSt : Access := accA 0 0x100 (.stp { bits := 5 })
def aLd : Access := accA 0 0x108 .ldp
def aDr : Access := accA 1 0x100 (.write 8 { bits := 5 })
def aBad : Access := accA 1 0x20000 (.read 8)
def aWt : Access := accA 0 0x108 .ldp .waiting
def aQd : Access := accA 1 0x400 .qdeq
def rRd : Region := rAc aRd
def rStp : Region := rAc aSt [0x20]
def rLd : Region := rAc aLd
def rDrm : Region := rAc aDr
def rBad : Region := rAc aBad
def rWt : Region := rAc aWt
def rQd : Region := rAc aQd
def rDef : Region := { rAc aLd with flight := (5, aLd) :: (List.range Config.bankDefer).map (fun i => (6 + i, accA 0 0x108 .ldp (.deferred i))) }
def rQb : Region := rAc (accA 1 0x800 .qdeq)
def aQl : Access := accA 1 0xFFF0 .qdeq
def rQl : Region := rAc aQl
def rQw : Region := { rQd with caps := [(0, capOf 0 0x10000 0)] }
def qMem : List (Nat × Nat) := [(0x10400, 0), (0x10408, 1), (0x10410, 1), (0x10440, 77)]
def xq : State × Except TrapInfo Home := (sT rQd qMem).xlate rQd.part (clusterOf rQd (ownerTile rQd aQd)) aQd.addr 0 aQd.op
def xqb : State × Except TrapInfo Home := (sT rQb).xlate rQb.part (clusterOf rQb (ownerTile rQb (accA 1 0x800 .qdeq))) 0x800 0 .qdeq
def qMemE : List (Nat × Nat) := [(0x10400, 3), (0x10408, 3), (0x10410, 1)]
def aQe : Access := accA 1 0x400 (.qenq { bits := 6 })
def rQe : Region := rAc aQe
def qMemF : List (Nat × Nat) := [(0x10400, 0), (0x10408, 2), (0x10410, 1)]
/-- A queue over a page border: its descriptor in the last 64 bytes of the first page, and the next page at another place. -/
def aQp : Access := accA 1 0xFFC0 .qdeq
def rQp : Region := { rAc aQp with caps := [(0, capOf 0 0x20000 0xFF)] }
def qMemP : List (Nat × Nat) := [(0x4008, 2 ^ 63 + 2 ^ 62 + 0x3000E), (0x1FFC0, 0), (0x1FFC8, 1), (0x1FFD0, 1), (0x30000, 77)]
def xqp : State × Except TrapInfo Home := (sT rQp qMemP).xlate rQp.part (clusterOf rQp (ownerTile rQp aQp)) 0xFFC0 0 .qdeq
def sqp : State := setAcc xqp.1 1 5 (fun a => { a with pa := 0x1FFC0 })
def xqi : State × Except TrapInfo Home := sqp.xlate 1 (clusterOf (sqp.region 1) (ownerTile (sqp.region 1) { aQp with pa := 0x1FFC0 })) 0x10000 0 .qdeq
def xqe : State × Except TrapInfo Home := (sT rQe qMemF).xlate rQe.part (clusterOf rQe (ownerTile rQe aQe)) aQe.addr 0 aQe.op
def xqd : State × Except TrapInfo Home := (sT rQd qMemE).xlate rQd.part (clusterOf rQd (ownerTile rQd aQd)) aQd.addr 0 aQd.op
set_option maxRecDepth 16384 in

theorem wit_EngineSteps_1 :
 (HasRegion (sT rNa) 1 rNa) ∧
 (nlLive rNa = true) ∧
 ((nleOf rNa 1).busy = none) ∧
 ((nleOf rNa 1).queue = [(0, 3)]) ∧
 (Region.op? rNa 0 3 = some opSw) ∧
 (opSw.code = 229) ∧
 ((nleOf rNa 1).st = 0) :=
  ⟨rfl, rfl, rfl, rfl, rfl, rfl, rfl⟩

theorem wit_EngineSteps_2 :
 (HasRegion (sT rNa2) 1 rNa2) ∧
 (nlLive rNa2 = true) ∧
 ((nleOf rNa2 1).busy = none) ∧
 ((nleOf rNa2 1).queue = [(0, 3)]) ∧
 (Region.op? rNa2 0 3 = some opSw) ∧
 (opSw.code = 229) ∧
 ((nleOf rNa2 1).st = 1 ∨ (nleOf rNa2 1).st = 2) ∧
 (opSw.a.bits = 0) :=
  ⟨rfl, rfl, rfl, rfl, rfl, rfl, (Or.inl rfl), rfl⟩

theorem wit_EngineSteps_3 :
 (HasRegion (sT rNa3) 1 rNa3) ∧
 (nlLive rNa3 = true) ∧
 ((nleOf rNa3 1).busy = none) ∧
 ((nleOf rNa3 1).queue = [(0, 3)]) ∧
 (Region.op? rNa3 0 3 = some opCl) ∧
 (opCl.code = 232) ∧
 (fld opCl.a.bits 63 62 = 0) ∧
 (nlRange rNa3 0 (sealOf (sT rNa3) rNa3.part) opCl.a.bits 1 64 0 = none) :=
  ⟨rfl, rfl, rfl, rfl, rfl, rfl, rfl, (by decide +kernel)⟩

theorem wit_EngineSteps_4 :
 (HasRegion (sT rNf) 1 rNf) ∧
 (nlLive rNf = true) ∧
 ((nleOf rNf 1).busy = some (0, 3)) ∧
 (Region.op? rNf 0 3 = some opFi) ∧
 (opFi.code = 232) ∧
 (opFi.ph = 11) ∧
 (accsDone rNf opFi = true) ∧
 ((List.any (List.map (fun (a : Access) => a.ans) (opAccs rNf opFi)) fun (v : Val) => v.pois) = false) ∧
 (nlBad rNf 1 (List.map (fun (v : Val) => v.bits) (List.map (fun (a : Access) => a.ans) (opAccs rNf opFi))) = false) :=
  ⟨rfl, rfl, rfl, rfl, rfl, rfl, (by decide +kernel), (by decide +kernel), (by decide +kernel)⟩

theorem wit_EngineSteps_5 :
 (HasRegion (sT rNb) 1 rNb) ∧
 (nlLive rNb = true) ∧
 (List.getD (nleOf rNb 1).sweep 0 [] = [(0, tkD 7)]) ∧
 (List.contains (nleOf rNb 1).sent 0 = false) ∧
 (nlQueued (nleOf rNb 1) 0 = true) ∧
 (0 < Region.inSpace rNb (dstPlace (nlDst (nleOf rNb 1).cfg 0)).fst (dstPlace (nlDst (nleOf rNb 1).cfg 0)).snd) :=
  ⟨rfl, rfl, rfl, rfl, rfl, (by decide +kernel)⟩

theorem wit_EngineSteps_6 :
 (HasRegion (sT rNc) 1 rNc) ∧
 (nlLive rNc = true) ∧
 (findOp rNc 3 = some (0, opSt)) ∧
 (opEng opSt = 1) ∧
 (opSt.code = 231) ∧
 (opSt.ph = 10) ∧
 (∀ (p : Nat × PendOp), p ∈ (Region.ct rNc 0).ops → p.fst < 3 → nlIsOp 1 p.snd = true → nlSent rNc 0 p.fst = true) :=
  ⟨rfl, rfl, rfl, rfl, rfl, rfl, (by decide)⟩

theorem wit_HomeOperations_1 :
 (1 ≤ 4) ∧
 (4 < 8) ∧
 (4 + 4 ≤ 8) :=
  ⟨(by decide), (by decide), (by decide)⟩

theorem wit_HomeOperations_2 :
 (Rmw.add ≠ Rmw.xchg) ∧
 ({ bits := 77, pois := true : Val }.pois = true) :=
  ⟨(by decide), rfl⟩

theorem wit_HomeOperations_3 :
 ({ bits := 77 : Val }.pois = false) ∧
 ((Rmw.add, fun (x y : Word) => BitVec.ofNat 64 (BitVec.toNat x + BitVec.toNat y)) ∈
  [(Rmw.add, fun (x y : Word) => BitVec.ofNat 64 (BitVec.toNat x + BitVec.toNat y)), (Rmw.and, fun (x y : Word) => x &&& y),
    (Rmw.or, fun (x y : Word) => x ||| y), (Rmw.xor, fun (x y : Word) => x ^^^ y),
    (Rmw.min, fun (x y : Word) => if BitVec.toInt x ≤ BitVec.toInt y then x else y),
    (Rmw.max, fun (x y : Word) => if BitVec.toInt y ≤ BitVec.toInt x then x else y)]) :=
  ⟨rfl, List.Mem.head _⟩

theorem wit_HomeOperations_4 :
 ({ bits := 77 : Val }.pois = false) ∧
 ({ bits := 77 : Val }.bits = { bits := 77 : Val }.bits) :=
  ⟨rfl, rfl⟩

theorem wit_HomeOperations_5 :
 ({ bits := 77 : Val }.pois = false) ∧
 ({ bits := 77 : Val }.bits ≠ { bits := 78 : Val }.bits) :=
  ⟨rfl, (by decide)⟩

theorem wit_HomeOperations_6 :
 ({ bits := BitVec.ofNat 64 (2 ^ 63 + 3 * 2 ^ 32) : Val }.pois = false) ∧
 (BitVec.getLsbD { bits := BitVec.ofNat 64 (2 ^ 63 + 3 * 2 ^ 32) : Val }.bits 63 = true) ∧
 (BitVec.toNat { bits := BitVec.ofNat 64 (2 ^ 63 + 3 * 2 ^ 32) : Val }.bits / 2 ^ 32 % 2 ^ 12 = 3) :=
  ⟨rfl, rfl, rfl⟩

theorem wit_HomeOperations_7 :
 BitVec.toNat { bits := BitVec.ofNat 64 (2 ^ 63 + 3 * 2 ^ 32) : Val }.bits / 2 ^ 32 % 2 ^ 12 ≠ 4 :=
  (by decide)

theorem wit_HomeOperations_8 :
 ((vB 2 3 5).pois = false) ∧
 (BitVec.toNat (vB 2 3 5).bits / 2 ^ 16 % 2 ^ 16 + 1 = BitVec.toNat (vB 2 3 5).bits % 2 ^ 16) :=
  ⟨rfl, rfl⟩

theorem wit_HomeOperations_9 :
 ((vB 1 3 5).pois = false) ∧
 (BitVec.toNat (vB 1 3 5).bits / 2 ^ 16 % 2 ^ 16 + 1 < BitVec.toNat (vB 1 3 5).bits % 2 ^ 16) :=
  ⟨rfl, (by decide)⟩

theorem wit_HomeOperations_10 :
 ((vB 3 3 5).pois = false) ∧
 (BitVec.toNat (vB 3 3 5).bits % 2 ^ 16 ≤ BitVec.toNat (vB 3 3 5).bits / 2 ^ 16 % 2 ^ 16) :=
  ⟨rfl, (by decide)⟩

theorem wit_HomeSteps_1 :
 (HasAccess (sT rRd) 1 5 rRd aRd) ∧
 (aRd.st = AccSt.travel) ∧
 (aRd.sp ≠ 1) ∧
 (aRd.sp ≠ 3) ∧
 (aRd.home = none) ∧
 (rRd.st ≠ rNone) ∧
 (rRd.st ≠ rDying) ∧
 (rRd.st ≠ rOut) ∧
 (isQueueOp aRd.op = false) ∧
 (mustPrecede (sT rRd) rRd 5 aRd aRd.rel = true) ∧
 (mustPrecede (sT rRd) rRd 5 aRd (isRelease (sT rRd) 1 aRd) = true) ∧
 (homeOp aRd.op (Option.getD aRd.remote 1) (aRd.addr % 8) (State.locVal (sT rRd) (Loc.mt 1 (aRd.addr / 8 * 8)))
    (State.locPres (sT rRd) (Loc.mt 1 (aRd.addr / 8 * 8))) =
  HRes.done (subGet (State.locVal (sT rRd) (Loc.mt 1 (aRd.addr / 8 * 8))) (aRd.addr % 8) 4) none none) :=
  ⟨⟨rfl, rfl⟩, rfl, (by decide), (by decide), rfl, (by decide), (by decide), (by decide), rfl, (by decide +kernel), (by decide +kernel), rfl⟩

theorem wit_HomeSteps_2 :
 (HasAccess (sT rStp) 1 5 rStp aSt) ∧
 (aSt.st = AccSt.travel) ∧
 (aSt.sp ≠ 1) ∧
 (aSt.sp ≠ 3) ∧
 (aSt.home = none) ∧
 (rStp.st ≠ rNone) ∧
 (rStp.st ≠ rDying) ∧
 (rStp.st ≠ rOut) ∧
 (isQueueOp aSt.op = false) ∧
 (mustPrecede (sT rStp) rStp 5 aSt aSt.rel = true) ∧
 (mustPrecede (sT rStp) rStp 5 aSt (isRelease (sT rStp) 1 aSt) = true) ∧
 (homeOp aSt.op (Option.getD aSt.remote 1) (aSt.addr % 8) (State.locVal (sT rStp) (Loc.mt 1 (aSt.addr / 8 * 8)))
    (State.locPres (sT rStp) (Loc.mt 1 (aSt.addr / 8 * 8))) =
  HRes.fail 32) :=
  ⟨⟨rfl, rfl⟩, rfl, (by decide), (by decide), rfl, (by decide), (by decide), (by decide), rfl, (by decide +kernel), (by decide +kernel), rfl⟩

theorem wit_HomeSteps_3 :
 (HasAccess (sT rLd) 1 5 rLd aLd) ∧
 (aLd.st = AccSt.travel) ∧
 (aLd.sp ≠ 1) ∧
 (aLd.sp ≠ 3) ∧
 (aLd.home = none) ∧
 (rLd.st ≠ rNone) ∧
 (rLd.st ≠ rDying) ∧
 (rLd.st ≠ rOut) ∧
 (isQueueOp aLd.op = false) ∧
 (mustPrecede (sT rLd) rLd 5 aLd aLd.rel = true) ∧
 (mustPrecede (sT rLd) rLd 5 aLd (isRelease (sT rLd) 1 aLd) = true) ∧
 (homeOp aLd.op (Option.getD aLd.remote 1) (aLd.addr % 8) (State.locVal (sT rLd) (Loc.mt 1 (aLd.addr / 8 * 8)))
    (State.locPres (sT rLd) (Loc.mt 1 (aLd.addr / 8 * 8))) =
  HRes.defer) ∧
 ((State.storeCount (sT rLd) (Loc.mt 1 (aLd.addr / 8 * 8))).fst < (State.storeCount (sT rLd) (Loc.mt 1 (aLd.addr / 8 * 8))).snd) :=
  ⟨⟨rfl, rfl⟩, rfl, (by decide), (by decide), rfl, (by decide), (by decide), (by decide), rfl, (by decide +kernel), (by decide +kernel), rfl, (by decide +kernel)⟩

theorem wit_HomeSteps_4 :
 (HasAccess (sT rDef) 1 5 rDef aLd) ∧
 (aLd.st = AccSt.travel) ∧
 (aLd.sp ≠ 1) ∧
 (aLd.sp ≠ 3) ∧
 (aLd.home = none) ∧
 (rDef.st ≠ rNone) ∧
 (rDef.st ≠ rDying) ∧
 (rDef.st ≠ rOut) ∧
 (isQueueOp aLd.op = false) ∧
 (mustPrecede (sT rDef) rDef 5 aLd aLd.rel = true) ∧
 (mustPrecede (sT rDef) rDef 5 aLd (isRelease (sT rDef) 1 aLd) = true) ∧
 (homeOp aLd.op (Option.getD aLd.remote 1) (aLd.addr % 8) (State.locVal (sT rDef) (Loc.mt 1 (aLd.addr / 8 * 8)))
    (State.locPres (sT rDef) (Loc.mt 1 (aLd.addr / 8 * 8))) =
  HRes.defer) ∧
 ((State.storeCount (sT rDef) (Loc.mt 1 (aLd.addr / 8 * 8))).snd ≤ (State.storeCount (sT rDef) (Loc.mt 1 (aLd.addr / 8 * 8))).fst) :=
  ⟨⟨rfl, rfl⟩, rfl, (by decide), (by decide), rfl, (by decide), (by decide), (by decide), rfl, (by decide +kernel), (by decide +kernel), rfl, (by decide +kernel)⟩

theorem wit_HomeSteps_5 :
 (HasAccess (sT rBad) 1 5 rBad aBad) ∧
 (aBad.st = AccSt.travel) ∧
 (aBad.sp = 1) ∧
 (aBad.home = none) ∧
 (rBad.st ≠ rNone) ∧
 (rBad.st ≠ rDying) ∧
 (rBad.st ≠ rOut) ∧
 (isQueueOp aBad.op = false) ∧
 (mustPrecede (sT rBad) rBad 5 aBad aBad.rel = true) ∧
 (capRemote (capEntry rBad aBad.capx) = false) ∧
 (pageFrozen (State.part (sT rBad) rBad.part) aBad.addr = false) ∧
 (pagePaused rBad aBad.addr = false) ∧
 (State.xlate (sT rBad) rBad.part (clusterOf rBad (ownerTile rBad aBad)) aBad.addr 0 aBad.op =
  (sT rBad, Except.error { code := 24, va := 131072, aux := 5 : TrapInfo })) :=
  ⟨⟨rfl, rfl⟩, rfl, rfl, rfl, (by decide), (by decide), (by decide), rfl, (by decide +kernel), (by decide +kernel), rfl, rfl, (Prod.ext rfl rfl)⟩

theorem wit_HomeSteps_6 :
 (HasAccess (sT rDrm) 1 5 rDrm aDr) ∧
 (aDr.st = AccSt.travel) ∧
 (aDr.sp = 1) ∧
 (aDr.home = none) ∧
 (rDrm.st ≠ rNone) ∧
 (rDrm.st ≠ rDying) ∧
 (rDrm.st ≠ rOut) ∧
 (isQueueOp aDr.op = false) ∧
 (mustPrecede (sT rDrm) rDrm 5 aDr aDr.rel = true) ∧
 (capRemote (capEntry rDrm aDr.capx) = false) ∧
 (pageFrozen (State.part (sT rDrm) rDrm.part) aDr.addr = false) ∧
 (pagePaused rDrm aDr.addr = false) ∧
 (State.xlate (sT rDrm) rDrm.part (clusterOf rDrm (ownerTile rDrm aDr)) aDr.addr 0 aDr.op =
  (State.updPart (sT rDrm) rDrm.part fun (p : Part) =>
      { desc := p.desc, root := p.root, slice := p.slice,
        tlb :=
          tset p.tlb (clusterOf rDrm (ownerTile rDrm aDr) * 2 ^ 41 + aDr.addr % 2 ^ 57 / 2 ^ 16)
            ((State.rd8 (sT rDrm)
                  (fld
                        (State.rd8 (sT rDrm)
                            (fld
                                  (State.rd8 (sT rDrm)
                                      (fld
                                            (State.rd8 (sT rDrm)
                                                (fld
                                                      (State.rd8 (sT rDrm)
                                                          (partFtt (State.part (sT rDrm) rDrm.part) + 8 * lvlIdx 1 (aDr.addr % 2 ^ 57))).bits
                                                      41 8 *
                                                    256 +
                                                  8 * lvlIdx (1 + 1) (aDr.addr % 2 ^ 57))).bits
                                            41 8 *
                                          256 +
                                        8 * lvlIdx (1 + 1 + 1) (aDr.addr % 2 ^ 57))).bits
                                  41 8 *
                                256 +
                              8 * lvlIdx (1 + 1 + 1 + 1) (aDr.addr % 2 ^ 57))).bits
                        41 8 *
                      256 +
                    8 * lvlIdx (1 + 1 + 1 + 1 + 1) (aDr.addr % 2 ^ 57))).bits,
              1 + 1 + 1 + 1 + 1),
        lqStop := p.lqStop, lqSeen := p.lqSeen, untrk := p.untrk, spill := p.spill, holds := p.holds, calls := p.calls, arr := p.arr,
        files := p.files, conns := p.conns, lists := p.lists, server := p.server, mig := p.mig, migq := p.migq, epoch := p.epoch : Part },
    Except.ok (Home.dram 65792))) ∧
 (mustPrecede
    (State.updPart (sT rDrm) rDrm.part fun (p : Part) =>
      { desc := p.desc, root := p.root, slice := p.slice,
        tlb :=
          tset p.tlb (clusterOf rDrm (ownerTile rDrm aDr) * 2 ^ 41 + aDr.addr % 2 ^ 57 / 2 ^ 16)
            ((State.rd8 (sT rDrm)
                  (fld
                        (State.rd8 (sT rDrm)
                            (fld
                                  (State.rd8 (sT rDrm)
                                      (fld
                                            (State.rd8 (sT rDrm)
                                                (fld
                                                      (State.rd8 (sT rDrm)
                                                          (partFtt (State.part (sT rDrm) rDrm.part) + 8 * lvlIdx 1 (aDr.addr % 2 ^ 57))).bits
                                                      41 8 *
                                                    256 +
                                                  8 * lvlIdx (1 + 1) (aDr.addr % 2 ^ 57))).bits
                                            41 8 *
                                          256 +
                                        8 * lvlIdx (1 + 1 + 1) (aDr.addr % 2 ^ 57))).bits
                                  41 8 *
                                256 +
                              8 * lvlIdx (1 + 1 + 1 + 1) (aDr.addr % 2 ^ 57))).bits
                        41 8 *
                      256 +
                    8 * lvlIdx (1 + 1 + 1 + 1 + 1) (aDr.addr % 2 ^ 57))).bits,
              1 + 1 + 1 + 1 + 1),
        lqStop := p.lqStop, lqSeen := p.lqSeen, untrk := p.untrk, spill := p.spill, holds := p.holds, calls := p.calls, arr := p.arr,
        files := p.files, conns := p.conns, lists := p.lists, server := p.server, mig := p.mig, migq := p.migq, epoch := p.epoch : Part })
    rDrm 5
    { own := aDr.own, op := aDr.op, sp := aDr.sp, addr := aDr.addr, capx := aDr.capx, seq := aDr.seq, rel := aDr.rel, ea := aDr.ea, st := aDr.st,
      ans := aDr.ans, pa := 65792, peer := aDr.peer, via := aDr.via, back := aDr.back, remote := aDr.remote, home := aDr.home : Access }
    (isRelease
      (State.updPart (sT rDrm) rDrm.part fun (p : Part) =>
        { desc := p.desc, root := p.root, slice := p.slice,
          tlb :=
            tset p.tlb (clusterOf rDrm (ownerTile rDrm aDr) * 2 ^ 41 + aDr.addr % 2 ^ 57 / 2 ^ 16)
              ((State.rd8 (sT rDrm)
                    (fld
                          (State.rd8 (sT rDrm)
                              (fld
                                    (State.rd8 (sT rDrm)
                                        (fld
                                              (State.rd8 (sT rDrm)
                                                  (fld
                                                        (State.rd8 (sT rDrm)
                                                            (partFtt (State.part (sT rDrm) rDrm.part) + 8 * lvlIdx 1 (aDr.addr % 2 ^ 57))).bits
                                                        41 8 *
                                                      256 +
                                                    8 * lvlIdx (1 + 1) (aDr.addr % 2 ^ 57))).bits
                                              41 8 *
                                            256 +
                                          8 * lvlIdx (1 + 1 + 1) (aDr.addr % 2 ^ 57))).bits
                                    41 8 *
                                  256 +
                                8 * lvlIdx (1 + 1 + 1 + 1) (aDr.addr % 2 ^ 57))).bits
                          41 8 *
                        256 +
                      8 * lvlIdx (1 + 1 + 1 + 1 + 1) (aDr.addr % 2 ^ 57))).bits,
                1 + 1 + 1 + 1 + 1),
          lqStop := p.lqStop, lqSeen := p.lqSeen, untrk := p.untrk, spill := p.spill, holds := p.holds, calls := p.calls, arr := p.arr,
          files := p.files, conns := p.conns, lists := p.lists, server := p.server, mig := p.mig, migq := p.migq, epoch := p.epoch : Part })
      1
      { own := aDr.own, op := aDr.op, sp := aDr.sp, addr := aDr.addr, capx := aDr.capx, seq := aDr.seq, rel := aDr.rel, ea := aDr.ea, st := aDr.st,
        ans := aDr.ans, pa := 65792, peer := aDr.peer, via := aDr.via, back := aDr.back, remote := aDr.remote, home := aDr.home : Access }) =
  true) ∧
 (homeOp aDr.op (Option.getD aDr.remote 1) (65792 % 8)
    (State.locVal
      (setAcc
        (State.updPart (sT rDrm) rDrm.part fun (p : Part) =>
          { desc := p.desc, root := p.root, slice := p.slice,
            tlb :=
              tset p.tlb (clusterOf rDrm (ownerTile rDrm aDr) * 2 ^ 41 + aDr.addr % 2 ^ 57 / 2 ^ 16)
                ((State.rd8 (sT rDrm)
                      (fld
                            (State.rd8 (sT rDrm)
                                (fld
                                      (State.rd8 (sT rDrm)
                                          (fld
                                                (State.rd8 (sT rDrm)
                                                    (fld
                                                          (State.rd8 (sT rDrm)
                                                              (partFtt (State.part (sT rDrm) rDrm.part) + 8 * lvlIdx 1 (aDr.addr % 2 ^ 57))).bits
                                                          41 8 *
                                                        256 +
                                                      8 * lvlIdx (1 + 1) (aDr.addr % 2 ^ 57))).bits
                                                41 8 *
                                              256 +
                                            8 * lvlIdx (1 + 1 + 1) (aDr.addr % 2 ^ 57))).bits
                                      41 8 *
                                    256 +
                                  8 * lvlIdx (1 + 1 + 1 + 1) (aDr.addr % 2 ^ 57))).bits
                            41 8 *
                          256 +
                        8 * lvlIdx (1 + 1 + 1 + 1 + 1) (aDr.addr % 2 ^ 57))).bits,
                  1 + 1 + 1 + 1 + 1),
            lqStop := p.lqStop, lqSeen := p.lqSeen, untrk := p.untrk, spill := p.spill, holds := p.holds, calls := p.calls, arr := p.arr,
            files := p.files, conns := p.conns, lists := p.lists, server := p.server, mig := p.mig, migq := p.migq, epoch := p.epoch : Part })
        1 5 fun (x : Access) =>
        { own := aDr.own, op := aDr.op, sp := aDr.sp, addr := aDr.addr, capx := aDr.capx, seq := aDr.seq, rel := aDr.rel, ea := aDr.ea, st := aDr.st,
          ans := aDr.ans, pa := 65792, peer := aDr.peer, via := aDr.via, back := aDr.back, remote := aDr.remote, home := aDr.home : Access })
      (Loc.dram (65792 / 8 * 8)))
    (State.locPres
      (setAcc
        (State.updPart (sT rDrm) rDrm.part fun (p : Part) =>
          { desc := p.desc, root := p.root, slice := p.slice,
            tlb :=
              tset p.tlb (clusterOf rDrm (ownerTile rDrm aDr) * 2 ^ 41 + aDr.addr % 2 ^ 57 / 2 ^ 16)
                ((State.rd8 (sT rDrm)
                      (fld
                            (State.rd8 (sT rDrm)
                                (fld
                                      (State.rd8 (sT rDrm)
                                          (fld
                                                (State.rd8 (sT rDrm)
                                                    (fld
                                                          (State.rd8 (sT rDrm)
                                                              (partFtt (State.part (sT rDrm) rDrm.part) + 8 * lvlIdx 1 (aDr.addr % 2 ^ 57))).bits
                                                          41 8 *
                                                        256 +
                                                      8 * lvlIdx (1 + 1) (aDr.addr % 2 ^ 57))).bits
                                                41 8 *
                                              256 +
                                            8 * lvlIdx (1 + 1 + 1) (aDr.addr % 2 ^ 57))).bits
                                      41 8 *
                                    256 +
                                  8 * lvlIdx (1 + 1 + 1 + 1) (aDr.addr % 2 ^ 57))).bits
                            41 8 *
                          256 +
                        8 * lvlIdx (1 + 1 + 1 + 1 + 1) (aDr.addr % 2 ^ 57))).bits,
                  1 + 1 + 1 + 1 + 1),
            lqStop := p.lqStop, lqSeen := p.lqSeen, untrk := p.untrk, spill := p.spill, holds := p.holds, calls := p.calls, arr := p.arr,
            files := p.files, conns := p.conns, lists := p.lists, server := p.server, mig := p.mig, migq := p.migq, epoch := p.epoch : Part })
        1 5 fun (x : Access) =>
        { own := aDr.own, op := aDr.op, sp := aDr.sp, addr := aDr.addr, capx := aDr.capx, seq := aDr.seq, rel := aDr.rel, ea := aDr.ea, st := aDr.st,
          ans := aDr.ans, pa := 65792, peer := aDr.peer, via := aDr.via, back := aDr.back, remote := aDr.remote, home := aDr.home : Access })
      (Loc.dram (65792 / 8 * 8))) =
  HRes.done { : Val } (some { bits := 5 : Val }) none) :=
  ⟨⟨rfl, rfl⟩, rfl, rfl, rfl, (by decide), (by decide), (by decide), rfl, (by decide +kernel), (by decide +kernel), rfl, rfl, (Prod.ext rfl (okIs_eq (by decide +kernel))), (by decide +kernel), (by decide +kernel)⟩

theorem wit_HomeSteps_7 :
 (HasAccess (sT rWt) 1 5 rWt aWt) ∧
 (aWt.st = AccSt.waiting) ∧
 (aWt.sp ≠ 3) ∧
 ((State.storeCount (sT rWt) (accLoc 1 aWt)).fst < (State.storeCount (sT rWt) (accLoc 1 aWt)).snd) :=
  ⟨⟨rfl, rfl⟩, rfl, (by decide), (by decide +kernel)⟩

theorem wit_HomeSteps_8 :
 (HasAccess (sT rQw) 1 5 rQw aQd) ∧
 (aQd.st = AccSt.travel) ∧
 (aQd.remote = none) ∧
 (aQd.sp = 1) ∧
 (rQw.st ≠ rNone) ∧
 (rQw.st ≠ rDying) ∧
 (rQw.st ≠ rOut) ∧
 (isQueueOp aQd.op = true) ∧
 (mustPrecede (sT rQw) rQw 5 aQd aQd.rel = true) ∧
 (queueCap (sealOf (sT rQw) rQw.part) rQw.part (queueRight aQd.op) (capEntry rQw aQd.capx) = some 17) :=
  ⟨⟨rfl, rfl⟩, rfl, rfl, rfl, (by decide), (by decide), (by decide), rfl, (by decide +kernel), (by decide +kernel)⟩

theorem wit_HomeSteps_9 :
 (HasAccess (sT rQl) 1 5 rQl aQl) ∧
 (aQl.st = AccSt.travel) ∧
 (aQl.remote = none) ∧
 (aQl.sp = 1) ∧
 (rQl.st ≠ rNone) ∧
 (rQl.st ≠ rDying) ∧
 (rQl.st ≠ rOut) ∧
 (isQueueOp aQl.op = true) ∧
 (mustPrecede (sT rQl) rQl 5 aQl aQl.rel = true) ∧
 (queueCap (sealOf (sT rQl) rQl.part) rQl.part (queueRight aQl.op) (capEntry rQl aQl.capx) = none) ∧
 (capLen (capEntry rQl aQl.capx) < aQl.addr - capBase (capEntry rQl aQl.capx) + 64) :=
  ⟨⟨rfl, rfl⟩, rfl, rfl, rfl, (by decide), (by decide), (by decide), rfl, (by decide +kernel), (by decide +kernel), (by decide +kernel)⟩

theorem wit_HomeSteps_10 :
 (HasAccess (sT rQb) 1 5 rQb (accA 1 2048 MOp.qdeq)) ∧
 ((accA 1 2048 MOp.qdeq).st = AccSt.travel) ∧
 ((accA 1 2048 MOp.qdeq).remote = none) ∧
 ((accA 1 2048 MOp.qdeq).sp = 1) ∧
 (rQb.st ≠ rNone) ∧
 (rQb.st ≠ rDying) ∧
 (rQb.st ≠ rOut) ∧
 (isQueueOp (accA 1 2048 MOp.qdeq).op = true) ∧
 (mustPrecede (sT rQb) rQb 5 (accA 1 2048 MOp.qdeq) (accA 1 2048 MOp.qdeq).rel = true) ∧
 (queueCap (sealOf (sT rQb) rQb.part) rQb.part (queueRight (accA 1 2048 MOp.qdeq).op) (capEntry rQb (accA 1 2048 MOp.qdeq).capx) = none) ∧
 ((accA 1 2048 MOp.qdeq).addr - capBase (capEntry rQb (accA 1 2048 MOp.qdeq).capx) + 64 ≤ capLen (capEntry rQb (accA 1 2048 MOp.qdeq).capx)) ∧
 (pageFrozen (State.part (sT rQb) rQb.part) (accA 1 2048 MOp.qdeq).addr = false) ∧
 (pagePaused rQb (accA 1 2048 MOp.qdeq).addr = false) ∧
 (State.xlate (sT rQb) rQb.part (clusterOf rQb (ownerTile rQb (accA 1 2048 MOp.qdeq))) (accA 1 2048 MOp.qdeq).addr 0 (accA 1 2048 MOp.qdeq).op =
  (xqb.fst, Except.ok (Home.dram 67584))) ∧
 (queueBad
    (setAcc xqb.fst 1 5 fun (a : Access) =>
      { own := a.own, op := a.op, sp := a.sp, addr := a.addr, capx := a.capx, seq := a.seq, rel := a.rel, ea := a.ea, st := a.st, ans := a.ans,
        pa := 67584, peer := a.peer, via := a.via, back := a.back, remote := a.remote, home := a.home : Access })
    (capEntry
      (State.region
        (setAcc xqb.fst 1 5 fun (a : Access) =>
          { own := a.own, op := a.op, sp := a.sp, addr := a.addr, capx := a.capx, seq := a.seq, rel := a.rel, ea := a.ea, st := a.st, ans := a.ans,
            pa := 67584, peer := a.peer, via := a.via, back := a.back, remote := a.remote, home := a.home : Access })
        1)
      (accA 1 2048 MOp.qdeq).capx)
    ((accA 1 2048 MOp.qdeq).addr -
      capBase
        (capEntry
          (State.region
            (setAcc xqb.fst 1 5 fun (a : Access) =>
              { own := a.own, op := a.op, sp := a.sp, addr := a.addr, capx := a.capx, seq := a.seq, rel := a.rel, ea := a.ea, st := a.st,
                ans := a.ans, pa := 67584, peer := a.peer, via := a.via, back := a.back, remote := a.remote, home := a.home : Access })
            1)
          (accA 1 2048 MOp.qdeq).capx))
    67584 =
  true) :=
  ⟨⟨rfl, rfl⟩, rfl, rfl, rfl, (by decide), (by decide), (by decide), rfl, (by decide +kernel), (by decide +kernel), (by decide +kernel), rfl, rfl, (prod_ok (by decide +kernel)), (by decide +kernel)⟩

theorem wit_HomeSteps_11 :
 (HasAccess (sT rQd qMem) 1 5 rQd aQd) ∧
 (aQd.st = AccSt.travel) ∧
 (aQd.remote = none) ∧
 (aQd.sp = 1) ∧
 (rQd.st ≠ rNone) ∧
 (rQd.st ≠ rDying) ∧
 (rQd.st ≠ rOut) ∧
 (isQueueOp aQd.op = true) ∧
 (mustPrecede (sT rQd qMem) rQd 5 aQd aQd.rel = true) ∧
 (queueCap (sealOf (sT rQd qMem) rQd.part) rQd.part (queueRight aQd.op) (capEntry rQd aQd.capx) = none) ∧
 (aQd.addr - capBase (capEntry rQd aQd.capx) + 64 ≤ capLen (capEntry rQd aQd.capx)) ∧
 (pageFrozen (State.part (sT rQd qMem) rQd.part) aQd.addr = false) ∧
 (pagePaused rQd aQd.addr = false) ∧
 (State.xlate (sT rQd qMem) rQd.part (clusterOf rQd (ownerTile rQd aQd)) aQd.addr 0 aQd.op = (xq.fst, Except.ok (Home.dram 66560))) ∧
 (queueBad
    (setAcc xq.fst 1 5 fun (a : Access) =>
      { own := a.own, op := a.op, sp := a.sp, addr := a.addr, capx := a.capx, seq := a.seq, rel := a.rel, ea := a.ea, st := a.st, ans := a.ans,
        pa := 66560, peer := a.peer, via := a.via, back := a.back, remote := a.remote, home := a.home : Access })
    (capEntry
      (State.region
        (setAcc xq.fst 1 5 fun (a : Access) =>
          { own := a.own, op := a.op, sp := a.sp, addr := a.addr, capx := a.capx, seq := a.seq, rel := a.rel, ea := a.ea, st := a.st, ans := a.ans,
            pa := 66560, peer := a.peer, via := a.via, back := a.back, remote := a.remote, home := a.home : Access })
        1)
      aQd.capx)
    (aQd.addr -
      capBase
        (capEntry
          (State.region
            (setAcc xq.fst 1 5 fun (a : Access) =>
              { own := a.own, op := a.op, sp := a.sp, addr := a.addr, capx := a.capx, seq := a.seq, rel := a.rel, ea := a.ea, st := a.st,
                ans := a.ans, pa := 66560, peer := a.peer, via := a.via, back := a.back, remote := a.remote, home := a.home : Access })
            1)
          aQd.capx))
    66560 =
  false) ∧
 (State.queueNext
    (setAcc xq.fst 1 5 fun (a : Access) =>
      { own := a.own, op := a.op, sp := a.sp, addr := a.addr, capx := a.capx, seq := a.seq, rel := a.rel, ea := a.ea, st := a.st, ans := a.ans,
        pa := 66560, peer := a.peer, via := a.via, back := a.back, remote := a.remote, home := a.home : Access })
    66560 aQd.op =
  some (true, 1, 1, 0)) ∧
 ((aQd.addr + 64 + 8 * 0) / 2 ^ 16 = aQd.addr / 2 ^ 16 ∧
    ((setAcc xq.fst 1 5 fun (a : Access) =>
          { own := a.own, op := a.op, sp := a.sp, addr := a.addr, capx := a.capx, seq := a.seq, rel := a.rel, ea := a.ea, st := a.st, ans := a.ans,
            pa := 66560, peer := a.peer, via := a.via, back := a.back, remote := a.remote, home := a.home : Access }) =
        setAcc xq.fst 1 5 fun (a : Access) =>
          { own := a.own, op := a.op, sp := a.sp, addr := a.addr, capx := a.capx, seq := a.seq, rel := a.rel, ea := a.ea, st := a.st, ans := a.ans,
            pa := 66560, peer := a.peer, via := a.via, back := a.back, remote := a.remote, home := a.home : Access }) ∧
      66624 = 66560 + 64 + 8 * 0 ∨
  (aQd.addr + 64 + 8 * 0) / 2 ^ 16 ≠ aQd.addr / 2 ^ 16 ∧
    pageFrozen
          (State.part
            (setAcc xq.fst 1 5 fun (a : Access) =>
              { own := a.own, op := a.op, sp := a.sp, addr := a.addr, capx := a.capx, seq := a.seq, rel := a.rel, ea := a.ea, st := a.st,
                ans := a.ans, pa := 66560, peer := a.peer, via := a.via, back := a.back, remote := a.remote, home := a.home : Access })
            (State.region
                (setAcc xq.fst 1 5 fun (a : Access) =>
                  { own := a.own, op := a.op, sp := a.sp, addr := a.addr, capx := a.capx, seq := a.seq, rel := a.rel, ea := a.ea, st := a.st,
                    ans := a.ans, pa := 66560, peer := a.peer, via := a.via, back := a.back, remote := a.remote, home := a.home : Access })
                1).part)
          (aQd.addr + 64 + 8 * 0) =
        false ∧
      pagePaused
            (State.region
              (setAcc xq.fst 1 5 fun (a : Access) =>
                { own := a.own, op := a.op, sp := a.sp, addr := a.addr, capx := a.capx, seq := a.seq, rel := a.rel, ea := a.ea, st := a.st,
                  ans := a.ans, pa := 66560, peer := a.peer, via := a.via, back := a.back, remote := a.remote, home := a.home : Access })
              1)
            (aQd.addr + 64 + 8 * 0) =
          false ∧
        State.xlate
            (setAcc xq.fst 1 5 fun (a : Access) =>
              { own := a.own, op := a.op, sp := a.sp, addr := a.addr, capx := a.capx, seq := a.seq, rel := a.rel, ea := a.ea, st := a.st,
                ans := a.ans, pa := 66560, peer := a.peer, via := a.via, back := a.back, remote := a.remote, home := a.home : Access })
            (State.region
                (setAcc xq.fst 1 5 fun (a : Access) =>
                  { own := a.own, op := a.op, sp := a.sp, addr := a.addr, capx := a.capx, seq := a.seq, rel := a.rel, ea := a.ea, st := a.st,
                    ans := a.ans, pa := 66560, peer := a.peer, via := a.via, back := a.back, remote := a.remote, home := a.home : Access })
                1).part
            (clusterOf
              (State.region
                (setAcc xq.fst 1 5 fun (a : Access) =>
                  { own := a.own, op := a.op, sp := a.sp, addr := a.addr, capx := a.capx, seq := a.seq, rel := a.rel, ea := a.ea, st := a.st,
                    ans := a.ans, pa := 66560, peer := a.peer, via := a.via, back := a.back, remote := a.remote, home := a.home : Access })
                1)
              (ownerTile
                (State.region
                  (setAcc xq.fst 1 5 fun (a : Access) =>
                    { own := a.own, op := a.op, sp := a.sp, addr := a.addr, capx := a.capx, seq := a.seq, rel := a.rel, ea := a.ea, st := a.st,
                      ans := a.ans, pa := 66560, peer := a.peer, via := a.via, back := a.back, remote := a.remote, home := a.home : Access })
                  1)
                { own := aQd.own, op := aQd.op, sp := aQd.sp, addr := aQd.addr, capx := aQd.capx, seq := aQd.seq, rel := aQd.rel, ea := aQd.ea,
                  st := aQd.st, ans := aQd.ans, pa := 66560, peer := aQd.peer, via := aQd.via, back := aQd.back, remote := aQd.remote,
                  home := aQd.home : Access }))
            (aQd.addr + 64 + 8 * 0) 0 aQd.op =
          (setAcc xq.fst 1 5 fun (a : Access) =>
              { own := a.own, op := a.op, sp := a.sp, addr := a.addr, capx := a.capx, seq := a.seq, rel := a.rel, ea := a.ea, st := a.st,
                ans := a.ans, pa := 66560, peer := a.peer, via := a.via, back := a.back, remote := a.remote, home := a.home : Access },
            Except.ok (Home.dram 66624))) :=
  ⟨⟨rfl, rfl⟩, rfl, rfl, rfl, (by decide), (by decide), (by decide), rfl, (by decide +kernel), (by decide +kernel), (by decide +kernel), rfl, rfl, (prod_ok (by decide +kernel)), (by decide +kernel), (by decide +kernel), (Or.inl ⟨by decide +kernel, rfl, by decide +kernel⟩)⟩

theorem wit_HomeSteps_12 :
 (HasAccess (sT rQd qMemE) 1 5 rQd aQd) ∧
 (aQd.st = AccSt.travel) ∧
 (aQd.remote = none) ∧
 (aQd.sp = 1) ∧
 (rQd.st ≠ rNone) ∧
 (rQd.st ≠ rDying) ∧
 (rQd.st ≠ rOut) ∧
 (isQueueOp aQd.op = true) ∧
 (mustPrecede (sT rQd qMemE) rQd 5 aQd aQd.rel = true) ∧
 (queueCap (sealOf (sT rQd qMemE) rQd.part) rQd.part (queueRight aQd.op) (capEntry rQd aQd.capx) = none) ∧
 (aQd.addr - capBase (capEntry rQd aQd.capx) + 64 ≤ capLen (capEntry rQd aQd.capx)) ∧
 (pageFrozen (State.part (sT rQd qMemE) rQd.part) aQd.addr = false) ∧
 (pagePaused rQd aQd.addr = false) ∧
 (State.xlate (sT rQd qMemE) rQd.part (clusterOf rQd (ownerTile rQd aQd)) aQd.addr 0 aQd.op = (xqd.fst, Except.ok (Home.dram 66560))) ∧
 (queueBad
    (setAcc xqd.fst 1 5 fun (a : Access) =>
      { own := a.own, op := a.op, sp := a.sp, addr := a.addr, capx := a.capx, seq := a.seq, rel := a.rel, ea := a.ea, st := a.st, ans := a.ans,
        pa := 66560, peer := a.peer, via := a.via, back := a.back, remote := a.remote, home := a.home : Access })
    (capEntry
      (State.region
        (setAcc xqd.fst 1 5 fun (a : Access) =>
          { own := a.own, op := a.op, sp := a.sp, addr := a.addr, capx := a.capx, seq := a.seq, rel := a.rel, ea := a.ea, st := a.st, ans := a.ans,
            pa := 66560, peer := a.peer, via := a.via, back := a.back, remote := a.remote, home := a.home : Access })
        1)
      aQd.capx)
    (aQd.addr -
      capBase
        (capEntry
          (State.region
            (setAcc xqd.fst 1 5 fun (a : Access) =>
              { own := a.own, op := a.op, sp := a.sp, addr := a.addr, capx := a.capx, seq := a.seq, rel := a.rel, ea := a.ea, st := a.st,
                ans := a.ans, pa := 66560, peer := a.peer, via := a.via, back := a.back, remote := a.remote, home := a.home : Access })
            1)
          aQd.capx))
    66560 =
  false) ∧
 (State.queueNext
    (setAcc xqd.fst 1 5 fun (a : Access) =>
      { own := a.own, op := a.op, sp := a.sp, addr := a.addr, capx := a.capx, seq := a.seq, rel := a.rel, ea := a.ea, st := a.st, ans := a.ans,
        pa := 66560, peer := a.peer, via := a.via, back := a.back, remote := a.remote, home := a.home : Access })
    66560 aQd.op =
  none) :=
  ⟨⟨rfl, rfl⟩, rfl, rfl, rfl, (by decide), (by decide), (by decide), rfl, (by decide +kernel), (by decide +kernel), (by decide +kernel), rfl, rfl, (prod_ok (by decide +kernel)), (by decide +kernel), (by decide +kernel)⟩

theorem wit_HomeSteps_13 :
 (HasAccess (sT rQe qMemF) 1 5 rQe aQe) ∧
 (aQe.st = AccSt.travel) ∧
 (aQe.remote = none) ∧
 (aQe.sp = 1) ∧
 (rQe.st ≠ rNone) ∧
 (rQe.st ≠ rDying) ∧
 (rQe.st ≠ rOut) ∧
 (isQueueOp aQe.op = true) ∧
 (mustPrecede (sT rQe qMemF) rQe 5 aQe aQe.rel = true) ∧
 (queueCap (sealOf (sT rQe qMemF) rQe.part) rQe.part (queueRight aQe.op) (capEntry rQe aQe.capx) = none) ∧
 (aQe.addr - capBase (capEntry rQe aQe.capx) + 64 ≤ capLen (capEntry rQe aQe.capx)) ∧
 (pageFrozen (State.part (sT rQe qMemF) rQe.part) aQe.addr = false) ∧
 (pagePaused rQe aQe.addr = false) ∧
 (State.xlate (sT rQe qMemF) rQe.part (clusterOf rQe (ownerTile rQe aQe)) aQe.addr 0 aQe.op = (xqe.fst, Except.ok (Home.dram 66560))) ∧
 (queueBad
    (setAcc xqe.fst 1 5 fun (a : Access) =>
      { own := a.own, op := a.op, sp := a.sp, addr := a.addr, capx := a.capx, seq := a.seq, rel := a.rel, ea := a.ea, st := a.st, ans := a.ans,
        pa := 66560, peer := a.peer, via := a.via, back := a.back, remote := a.remote, home := a.home : Access })
    (capEntry
      (State.region
        (setAcc xqe.fst 1 5 fun (a : Access) =>
          { own := a.own, op := a.op, sp := a.sp, addr := a.addr, capx := a.capx, seq := a.seq, rel := a.rel, ea := a.ea, st := a.st, ans := a.ans,
            pa := 66560, peer := a.peer, via := a.via, back := a.back, remote := a.remote, home := a.home : Access })
        1)
      aQe.capx)
    (aQe.addr -
      capBase
        (capEntry
          (State.region
            (setAcc xqe.fst 1 5 fun (a : Access) =>
              { own := a.own, op := a.op, sp := a.sp, addr := a.addr, capx := a.capx, seq := a.seq, rel := a.rel, ea := a.ea, st := a.st,
                ans := a.ans, pa := 66560, peer := a.peer, via := a.via, back := a.back, remote := a.remote, home := a.home : Access })
            1)
          aQe.capx))
    66560 =
  false) ∧
 (State.queueNext
    (setAcc xqe.fst 1 5 fun (a : Access) =>
      { own := a.own, op := a.op, sp := a.sp, addr := a.addr, capx := a.capx, seq := a.seq, rel := a.rel, ea := a.ea, st := a.st, ans := a.ans,
        pa := 66560, peer := a.peer, via := a.via, back := a.back, remote := a.remote, home := a.home : Access })
    66560 aQe.op =
  some (false, 0, 2, 0)) :=
  ⟨⟨rfl, rfl⟩, rfl, rfl, rfl, (by decide), (by decide), (by decide), rfl, (by decide +kernel), (by decide +kernel), (by decide +kernel), rfl, rfl, (prod_ok (by decide +kernel)), (by decide +kernel), (by decide +kernel)⟩

set_option maxRecDepth 16384 in
theorem wit_HomeSteps_14 :
 (HasAccess (sT rQp qMemP) 1 5 rQp aQp) ∧
 (aQp.st = AccSt.travel) ∧
 (aQp.remote = none) ∧
 (aQp.sp = 1) ∧
 (rQp.st ≠ rNone) ∧
 (rQp.st ≠ rDying) ∧
 (rQp.st ≠ rOut) ∧
 (isQueueOp aQp.op = true) ∧
 (mustPrecede (sT rQp qMemP) rQp 5 aQp aQp.rel = true) ∧
 (queueCap (sealOf (sT rQp qMemP) rQp.part) rQp.part (queueRight aQp.op) (capEntry rQp aQp.capx) = none) ∧
 (aQp.addr - capBase (capEntry rQp aQp.capx) + 64 ≤ capLen (capEntry rQp aQp.capx)) ∧
 (pageFrozen (State.part (sT rQp qMemP) rQp.part) aQp.addr = false) ∧
 (pagePaused rQp aQp.addr = false) ∧
 (State.xlate (sT rQp qMemP) rQp.part (clusterOf rQp (ownerTile rQp aQp)) aQp.addr 0 aQp.op = (xqp.fst, Except.ok (Home.dram 131008))) ∧
 (queueBad
    (setAcc xqp.fst 1 5 fun (a : Access) =>
      { own := a.own, op := a.op, sp := a.sp, addr := a.addr, capx := a.capx, seq := a.seq, rel := a.rel, ea := a.ea, st := a.st, ans := a.ans,
        pa := 131008, peer := a.peer, via := a.via, back := a.back, remote := a.remote, home := a.home : Access })
    (capEntry
      (State.region
        (setAcc xqp.fst 1 5 fun (a : Access) =>
          { own := a.own, op := a.op, sp := a.sp, addr := a.addr, capx := a.capx, seq := a.seq, rel := a.rel, ea := a.ea, st := a.st, ans := a.ans,
            pa := 131008, peer := a.peer, via := a.via, back := a.back, remote := a.remote, home := a.home : Access })
        1)
      aQp.capx)
    (aQp.addr -
      capBase
        (capEntry
          (State.region
            (setAcc xqp.fst 1 5 fun (a : Access) =>
              { own := a.own, op := a.op, sp := a.sp, addr := a.addr, capx := a.capx, seq := a.seq, rel := a.rel, ea := a.ea, st := a.st,
                ans := a.ans, pa := 131008, peer := a.peer, via := a.via, back := a.back, remote := a.remote, home := a.home : Access })
            1)
          aQp.capx))
    131008 =
  false) ∧
 (State.queueNext
    (setAcc xqp.fst 1 5 fun (a : Access) =>
      { own := a.own, op := a.op, sp := a.sp, addr := a.addr, capx := a.capx, seq := a.seq, rel := a.rel, ea := a.ea, st := a.st, ans := a.ans,
        pa := 131008, peer := a.peer, via := a.via, back := a.back, remote := a.remote, home := a.home : Access })
    131008 aQp.op =
  some (true, 1, 1, 0)) ∧
 ((aQp.addr + 64 + 8 * 0) / 2 ^ 16 = aQp.addr / 2 ^ 16 ∧
    (xqi.fst =
        setAcc xqp.fst 1 5 fun (a : Access) =>
          { own := a.own, op := a.op, sp := a.sp, addr := a.addr, capx := a.capx, seq := a.seq, rel := a.rel, ea := a.ea, st := a.st, ans := a.ans,
            pa := 131008, peer := a.peer, via := a.via, back := a.back, remote := a.remote, home := a.home : Access }) ∧
      196608 = 131008 + 64 + 8 * 0 ∨
  (aQp.addr + 64 + 8 * 0) / 2 ^ 16 ≠ aQp.addr / 2 ^ 16 ∧
    pageFrozen
          (State.part
            (setAcc xqp.fst 1 5 fun (a : Access) =>
              { own := a.own, op := a.op, sp := a.sp, addr := a.addr, capx := a.capx, seq := a.seq, rel := a.rel, ea := a.ea, st := a.st,
                ans := a.ans, pa := 131008, peer := a.peer, via := a.via, back := a.back, remote := a.remote, home := a.home : Access })
            (State.region
                (setAcc xqp.fst 1 5 fun (a : Access) =>
                  { own := a.own, op := a.op, sp := a.sp, addr := a.addr, capx := a.capx, seq := a.seq, rel := a.rel, ea := a.ea, st := a.st,
                    ans := a.ans, pa := 131008, peer := a.peer, via := a.via, back := a.back, remote := a.remote, home := a.home : Access })
                1).part)
          (aQp.addr + 64 + 8 * 0) =
        false ∧
      pagePaused
            (State.region
              (setAcc xqp.fst 1 5 fun (a : Access) =>
                { own := a.own, op := a.op, sp := a.sp, addr := a.addr, capx := a.capx, seq := a.seq, rel := a.rel, ea := a.ea, st := a.st,
                  ans := a.ans, pa := 131008, peer := a.peer, via := a.via, back := a.back, remote := a.remote, home := a.home : Access })
              1)
            (aQp.addr + 64 + 8 * 0) =
          false ∧
        State.xlate
            (setAcc xqp.fst 1 5 fun (a : Access) =>
              { own := a.own, op := a.op, sp := a.sp, addr := a.addr, capx := a.capx, seq := a.seq, rel := a.rel, ea := a.ea, st := a.st,
                ans := a.ans, pa := 131008, peer := a.peer, via := a.via, back := a.back, remote := a.remote, home := a.home : Access })
            (State.region
                (setAcc xqp.fst 1 5 fun (a : Access) =>
                  { own := a.own, op := a.op, sp := a.sp, addr := a.addr, capx := a.capx, seq := a.seq, rel := a.rel, ea := a.ea, st := a.st,
                    ans := a.ans, pa := 131008, peer := a.peer, via := a.via, back := a.back, remote := a.remote, home := a.home : Access })
                1).part
            (clusterOf
              (State.region
                (setAcc xqp.fst 1 5 fun (a : Access) =>
                  { own := a.own, op := a.op, sp := a.sp, addr := a.addr, capx := a.capx, seq := a.seq, rel := a.rel, ea := a.ea, st := a.st,
                    ans := a.ans, pa := 131008, peer := a.peer, via := a.via, back := a.back, remote := a.remote, home := a.home : Access })
                1)
              (ownerTile
                (State.region
                  (setAcc xqp.fst 1 5 fun (a : Access) =>
                    { own := a.own, op := a.op, sp := a.sp, addr := a.addr, capx := a.capx, seq := a.seq, rel := a.rel, ea := a.ea, st := a.st,
                      ans := a.ans, pa := 131008, peer := a.peer, via := a.via, back := a.back, remote := a.remote, home := a.home : Access })
                  1)
                { own := aQp.own, op := aQp.op, sp := aQp.sp, addr := aQp.addr, capx := aQp.capx, seq := aQp.seq, rel := aQp.rel, ea := aQp.ea,
                  st := aQp.st, ans := aQp.ans, pa := 131008, peer := aQp.peer, via := aQp.via, back := aQp.back, remote := aQp.remote,
                  home := aQp.home : Access }))
            (aQp.addr + 64 + 8 * 0) 0 aQp.op =
          (xqi.fst, Except.ok (Home.dram 196608))) :=
  ⟨⟨rfl, rfl⟩, rfl, rfl, rfl, (by decide), (by decide), (by decide), rfl, (by decide +kernel), (by decide +kernel), (by decide +kernel), rfl, rfl, (prod_ok (by decide +kernel)), (by decide +kernel), (by decide +kernel), (Or.inr ⟨by decide +kernel, by decide +kernel, by decide +kernel, prod_ok (by decide +kernel)⟩)⟩

end WitHomes

/-! ### Stores -/

namespace WitStores

def accW (sp : Nat) (addr : Nat) (op : MOp) : Access := { own := .pe 0 3 0, op := op, sp := sp, addr := addr, seq := 3 }
def aW0 : Access := accW 0 0x106 (.write 2 { bits := 0xABCD })
def aW1 : Access := accW 1 0x106 (.write 2 { bits := 0xABCD })
def rW0 : Region := { rC ct0 with flight := [(5, aW0)], mt := memT [(0x100, 9)] }
def rW1 : Region := { rC ct0 with flight := [(5, aW1)], caps := [(0, capT)] }
def oA : PendOp := { slot := 3, code := 6, ti := { dst := 4 }, due := some 9, res := { bits := 77 } }
def oB : PendOp := { slot := 3, code := 0xC0, ti := { dst := 4 }, ph := 4, accs := [5] }
def oT : PendOp := { slot := 3, code := 0xA4, ti := { sa := 8, dst := 1 }, ph := 3, due := some 9 }
def rLo (o : PendOp) (st : AccSt := .travel) : Region :=
  { rC { ct0 with ops := [(3, o)] } with tiles := [(0, { act := { ct := { ct0 with ops := [(3, o)] }, routes := [(0, [0])] } }), (1, { act := { hs := [(0, { st := hFilling })] } })], flight := [(5, { accW 0 0x100 (.read 8) with st := st, ans := { bits := 9 } })] }
def rLA : Region := rLo oA
def rLB : Region := rLo oB .done
def rLF : Region := rLo oB (.failed 0x20)
def rLT : Region := rLo oT
def rLG : Region := rLo oB (.failed 0x10)
def oV : PendOp := { slot := 3, code := 0x83, ti := { dst := 4, imm := 1 }, ph := 4, accs := [5] }
def oW : PendOp := { slot := 3, code := 0x84, ti := { dst := 14, imm := 1 }, ph := 4, accs := [5] }
def rLV : Region := rLo oV .done
def rLW : Region := rLo oW .done
theorem cLA : Completes (sT rLA) 1 0 3 rLA oA := ⟨rfl, rfl, rfl, rfl, rfl, Or.inr (by decide +kernel)⟩
theorem cLB : Completes (sT rLB) 1 0 3 rLB oB := ⟨rfl, rfl, rfl, rfl, rfl, Or.inl rfl⟩
theorem cLF : Completes (sT rLF) 1 0 3 rLF oB := ⟨rfl, rfl, rfl, rfl, rfl, Or.inl rfl⟩
theorem cLG : Completes (sT rLG) 1 0 3 rLG oB := ⟨rfl, rfl, rfl, rfl, rfl, Or.inl rfl⟩
theorem cLV : Completes (sT rLV) 1 0 3 rLV oV := ⟨rfl, rfl, rfl, rfl, rfl, Or.inl rfl⟩
theorem cLW : Completes (sT rLW) 1 0 3 rLW oW := ⟨rfl, rfl, rfl, rfl, rfl, Or.inl rfl⟩
theorem cLT : Completes (sT rLT) 1 0 3 rLT oT := ⟨rfl, rfl, rfl, rfl, rfl, Or.inr (by decide +kernel)⟩

theorem wit_HomeStoreFrame_1 :
 (HasAccess (sT rW0) 1 5 rW0 aW0) ∧
 (aW0.st = AccSt.travel) ∧
 (aW0.sp ≠ 1) ∧
 (aW0.sp ≠ 3) ∧
 (aW0.home = none) ∧
 (rW0.st ≠ rNone) ∧
 (rW0.st ≠ rDying) ∧
 (rW0.st ≠ rOut) ∧
 (aW0.op = MOp.write 2 { bits := 43981 : Val }) ∧
 (1 ≤ 2) ∧
 (aW0.addr % 8 + 2 ≤ 8) ∧
 (mustPrecede (sT rW0) rW0 5 aW0 aW0.rel = true) ∧
 (State.deferredAll (sT rW0) = []) :=
  ⟨⟨rfl, rfl⟩, rfl, (by decide), (by decide), rfl, (by decide), (by decide), (by decide), rfl, (by decide), (by decide), (by decide +kernel), (by decide +kernel)⟩

theorem wit_HomeStoreFrame_2 :
 (HasAccess (sT rW1) 1 5 rW1 aW1) ∧
 (aW1.st = AccSt.travel) ∧
 (aW1.sp = 1) ∧
 (aW1.home = none) ∧
 (rW1.st ≠ rNone) ∧
 (rW1.st ≠ rDying) ∧
 (rW1.st ≠ rOut) ∧
 (aW1.op = MOp.write 2 { bits := 43981 : Val }) ∧
 (1 ≤ 2) ∧
 (65798 % 8 + 2 ≤ 8) ∧
 (mustPrecede (sT rW1) rW1 5 aW1 aW1.rel = true) ∧
 (capRemote (capEntry rW1 aW1.capx) = false) ∧
 (pageFrozen (State.part (sT rW1) rW1.part) aW1.addr = false) ∧
 (pagePaused rW1 aW1.addr = false) ∧
 (State.xlate (sT rW1) rW1.part (clusterOf rW1 (ownerTile rW1 aW1)) aW1.addr 0 aW1.op =
  ((State.xlate (sT rW1) rW1.part (clusterOf rW1 (ownerTile rW1 aW1)) aW1.addr 0 aW1.op).fst, Except.ok (Home.dram 65798))) ∧
 (mustPrecede (State.xlate (sT rW1) rW1.part (clusterOf rW1 (ownerTile rW1 aW1)) aW1.addr 0 aW1.op).fst rW1 5
    { own := aW1.own, op := aW1.op, sp := aW1.sp, addr := aW1.addr, capx := aW1.capx, seq := aW1.seq, rel := aW1.rel, ea := aW1.ea, st := aW1.st,
      ans := aW1.ans, pa := 65798, peer := aW1.peer, via := aW1.via, back := aW1.back, remote := aW1.remote, home := aW1.home : Access }
    aW1.rel =
  true) ∧
 (State.deferredAll (State.xlate (sT rW1) rW1.part (clusterOf rW1 (ownerTile rW1 aW1)) aW1.addr 0 aW1.op).fst = []) :=
  ⟨⟨rfl, rfl⟩, rfl, rfl, rfl, (by decide), (by decide), (by decide), rfl, (by decide), (by decide), (by decide +kernel), (by decide +kernel), rfl, rfl, (prod_ok (by decide +kernel)), (by decide +kernel), (by decide +kernel)⟩

theorem wit_LongOpCompletes_1 :
 (Completes (sT rLA) 1 0 3 rLA oA) ∧
 (¬oA.code ∈ [218, 219, 220, 240]) ∧
 (oA.ph = 0) :=
  ⟨(by exact cLA), (by decide), rfl⟩

theorem wit_LongOpCompletes_2 :
 (Completes (sT rLB) 1 0 3 rLB oB) ∧
 (¬oB.code ∈ [218, 219, 220, 240]) ∧
 (oB.ph = 4) ∧
 (oB.accs = [5]) ∧
 (tfind rLB.flight 5 =
  some
    { own := (accW 0 256 (MOp.read 8)).own, op := (accW 0 256 (MOp.read 8)).op, sp := (accW 0 256 (MOp.read 8)).sp,
      addr := (accW 0 256 (MOp.read 8)).addr, capx := (accW 0 256 (MOp.read 8)).capx, seq := (accW 0 256 (MOp.read 8)).seq,
      rel := (accW 0 256 (MOp.read 8)).rel, ea := (accW 0 256 (MOp.read 8)).ea, st := AccSt.done, ans := { bits := 9 : Val },
      pa := (accW 0 256 (MOp.read 8)).pa, peer := (accW 0 256 (MOp.read 8)).peer, via := (accW 0 256 (MOp.read 8)).via,
      back := (accW 0 256 (MOp.read 8)).back, remote := (accW 0 256 (MOp.read 8)).remote, home := (accW 0 256 (MOp.read 8)).home : Access }) ∧
 ({ own := (accW 0 256 (MOp.read 8)).own, op := (accW 0 256 (MOp.read 8)).op, sp := (accW 0 256 (MOp.read 8)).sp,
      addr := (accW 0 256 (MOp.read 8)).addr, capx := (accW 0 256 (MOp.read 8)).capx, seq := (accW 0 256 (MOp.read 8)).seq,
      rel := (accW 0 256 (MOp.read 8)).rel, ea := (accW 0 256 (MOp.read 8)).ea, st := AccSt.done, ans := { bits := 9 : Val },
      pa := (accW 0 256 (MOp.read 8)).pa, peer := (accW 0 256 (MOp.read 8)).peer, via := (accW 0 256 (MOp.read 8)).via,
      back := (accW 0 256 (MOp.read 8)).back, remote := (accW 0 256 (MOp.read 8)).remote, home := (accW 0 256 (MOp.read 8)).home : Access }.st =
  AccSt.done) ∧
 (memValue rLB.rid oB
    { own := (accW 0 256 (MOp.read 8)).own, op := (accW 0 256 (MOp.read 8)).op, sp := (accW 0 256 (MOp.read 8)).sp,
        addr := (accW 0 256 (MOp.read 8)).addr, capx := (accW 0 256 (MOp.read 8)).capx, seq := (accW 0 256 (MOp.read 8)).seq,
        rel := (accW 0 256 (MOp.read 8)).rel, ea := (accW 0 256 (MOp.read 8)).ea, st := AccSt.done, ans := { bits := 9 : Val },
        pa := (accW 0 256 (MOp.read 8)).pa, peer := (accW 0 256 (MOp.read 8)).peer, via := (accW 0 256 (MOp.read 8)).via,
        back := (accW 0 256 (MOp.read 8)).back, remote := (accW 0 256 (MOp.read 8)).remote, home := (accW 0 256 (MOp.read 8)).home : Access }.ans =
  some
    ({ own := (accW 0 256 (MOp.read 8)).own, op := (accW 0 256 (MOp.read 8)).op, sp := (accW 0 256 (MOp.read 8)).sp,
          addr := (accW 0 256 (MOp.read 8)).addr, capx := (accW 0 256 (MOp.read 8)).capx, seq := (accW 0 256 (MOp.read 8)).seq,
          rel := (accW 0 256 (MOp.read 8)).rel, ea := (accW 0 256 (MOp.read 8)).ea, st := AccSt.done, ans := { bits := 9 : Val },
          pa := (accW 0 256 (MOp.read 8)).pa, peer := (accW 0 256 (MOp.read 8)).peer, via := (accW 0 256 (MOp.read 8)).via,
          back := (accW 0 256 (MOp.read 8)).back, remote := (accW 0 256 (MOp.read 8)).remote, home := (accW 0 256 (MOp.read 8)).home : Access }.ans,
      { own := (accW 0 256 (MOp.read 8)).own, op := (accW 0 256 (MOp.read 8)).op, sp := (accW 0 256 (MOp.read 8)).sp,
              addr := (accW 0 256 (MOp.read 8)).addr, capx := (accW 0 256 (MOp.read 8)).capx, seq := (accW 0 256 (MOp.read 8)).seq,
              rel := (accW 0 256 (MOp.read 8)).rel, ea := (accW 0 256 (MOp.read 8)).ea, st := AccSt.done, ans := { bits := 9 : Val },
              pa := (accW 0 256 (MOp.read 8)).pa, peer := (accW 0 256 (MOp.read 8)).peer, via := (accW 0 256 (MOp.read 8)).via,
              back := (accW 0 256 (MOp.read 8)).back, remote := (accW 0 256 (MOp.read 8)).remote, home := (accW 0 256 (MOp.read 8)).home :
              Access }.ans.bits !=
        0)) :=
  ⟨(by exact cLB), (by decide), rfl, rfl, rfl, rfl, rfl⟩

theorem wit_LongOpCompletes_3 :
 (Completes (sT rLF) 1 0 3 rLF oB) ∧
 (¬oB.code ∈ [218, 219, 220, 240]) ∧
 (oB.ph = 4) ∧
 (∀ (x : Access), x ∈ opAccs rLF oB → x.st = AccSt.done ∨ ∃ (k : Nat), x.st = AccSt.failed k) ∧
 (accsFail rLF oB =
  some
    (32,
      { own := (accW 0 256 (MOp.read 8)).own, op := (accW 0 256 (MOp.read 8)).op, sp := (accW 0 256 (MOp.read 8)).sp,
        addr := (accW 0 256 (MOp.read 8)).addr, capx := (accW 0 256 (MOp.read 8)).capx, seq := (accW 0 256 (MOp.read 8)).seq,
        rel := (accW 0 256 (MOp.read 8)).rel, ea := (accW 0 256 (MOp.read 8)).ea, st := AccSt.failed 32, ans := { bits := 9 : Val },
        pa := (accW 0 256 (MOp.read 8)).pa, peer := (accW 0 256 (MOp.read 8)).peer, via := (accW 0 256 (MOp.read 8)).via,
        back := (accW 0 256 (MOp.read 8)).back, remote := (accW 0 256 (MOp.read 8)).remote, home := (accW 0 256 (MOp.read 8)).home : Access })) ∧
 (32 < 16 ∨ 18 < 32) :=
  ⟨(by exact cLF), (by decide), rfl, (fun x hx => by cases hx with | head => exact Or.inr ⟨_, rfl⟩ | tail _ h => cases h), rfl, (by decide)⟩

theorem wit_LongOpCompletes_4 :
 (Completes (sT rLG) 1 0 3 rLG oB) ∧
 (¬oB.code ∈ [218, 219, 220, 240]) ∧
 (oB.ph = 4) ∧
 (∀ (x : Access), x ∈ opAccs rLG oB → x.st = AccSt.done ∨ ∃ (k : Nat), x.st = AccSt.failed k) ∧
 (accsFail rLG oB =
  some
    (16,
      { own := (accW 0 256 (MOp.read 8)).own, op := (accW 0 256 (MOp.read 8)).op, sp := (accW 0 256 (MOp.read 8)).sp,
        addr := (accW 0 256 (MOp.read 8)).addr, capx := (accW 0 256 (MOp.read 8)).capx, seq := (accW 0 256 (MOp.read 8)).seq,
        rel := (accW 0 256 (MOp.read 8)).rel, ea := (accW 0 256 (MOp.read 8)).ea, st := AccSt.failed 16, ans := { bits := 9 : Val },
        pa := (accW 0 256 (MOp.read 8)).pa, peer := (accW 0 256 (MOp.read 8)).peer, via := (accW 0 256 (MOp.read 8)).via,
        back := (accW 0 256 (MOp.read 8)).back, remote := (accW 0 256 (MOp.read 8)).remote, home := (accW 0 256 (MOp.read 8)).home : Access })) ∧
 (16 ≤ 16 ∧ 16 ≤ 18) :=
  ⟨(by exact cLG), (by decide), rfl, (fun x hx => by cases hx with | head => exact Or.inr ⟨_, rfl⟩ | tail _ h => cases h), rfl, (by decide)⟩

theorem wit_LongOpCompletes_5 :
 (Completes (sT rLV) 1 0 3 rLV oV) ∧
 (¬oV.code ∈ [218, 219, 220, 240]) ∧
 (oV.ph = 4) ∧
 (oV.code = 131) ∧
 (∀ (x : Access), x ∈ opAccs rLV oV → x.st = AccSt.done) :=
  ⟨(by exact cLV), (by decide), rfl, rfl, (by decide)⟩

theorem wit_LongOpCompletes_6 :
 (Completes (sT rLW) 1 0 3 rLW oW) ∧
 (¬oW.code ∈ [218, 219, 220, 240]) ∧
 (oW.ph = 4) ∧
 (oW.code = 132) ∧
 (∀ (x : Access), x ∈ opAccs rLW oW → x.st = AccSt.done) :=
  ⟨(by exact cLW), (by decide), rfl, rfl, (by decide)⟩

theorem wit_LongOpCompletes_7 :
 (Completes (sT rLT) 1 0 3 rLT oT) ∧
 (oT.ph = 3) ∧
 (slotFirst (sT rLT).fc rLT 0 oT = true) :=
  ⟨(by exact cLT), rfl, (by decide +kernel)⟩

end WitStores

/-! ### Waits -/

namespace WitWaits

def cPool : Cause := causeOf 6 (objPool 1)
def ctH (n : Nat) : Ct := { ct0 with slots := [(3, 0x8000001c09f00000)], hold := [(3, (6, cPool.tag, n))] }
def rHo : Region := { rC (ctH 33) with pool := [] }
def rHu : Region := { rC { ctH 33 with untr := [3] } with pool := [] }
def sHu : State := { sP rHu with parts := [(1, { desc := [0, 0] })] }
def sHo (w0 w1 : Nat) : State := { sP rHo with parts := [(1, { desc := [BitVec.ofNat 64 w0, BitVec.ofNat 64 w1] })] }
def es1 : Wfe := { id := 1, part := 1, rid := 1, hv := true, hrid := 3, obj := 5 }
def sCy (rpt : Bool) (n : Nat) : State := { sP rP with cycles := [{ ents := [1, 2], part := 1 }], wft := [(0, { es1 with rpt := rpt })] ++ (if n = 2 then [(1, { es1 with id := 2, rpt := rpt })] else []) }
def e1z : Wfe := { es1 with hrid := 2 }
def e2z : Wfe := { es1 with id := 2, rid := 2, hrid := 1 }
def sCz : State := { sP rP with regions := [(1, rP), (2, { rP with rid := 2 })], cycles := [{ ents := [1, 2], part := 1 }], wft := [(0, e1z), (1, e2z)] }
def rHt : Region := { rP with strms := [(2, {})], heatP := [(1, 7)] }
def rHt2 : Region := { rP with strms := [(2, { hstay := 4096, hpg := 2, hcnt := 7 })] }
def sEp : State := { sP rP with parts := [(1, { desc := ([2 ^ 63] ++ List.replicate 13 0 ++ [2 ^ 52] : List Nat).map (BitVec.ofNat 64), slice := BitVec.ofNat 64 (2 ^ 20) })] }

theorem wit_WaitSteps_1 :
 (HasRegion (sHo 0 (10 * 2 ^ 50)) 1 rHo) ∧
 (tfind (Region.ct rHo 0).hold 3 = some (cPool.kind, cPool.tag, 33)) ∧
 (causeAt (sHo 0 (10 * 2 ^ 50)) rHo 0 3 = some cPool) ∧
 (cPool.obj = some (objPool 1)) ∧
 (Cause.due cPool ≤ 33) ∧
 ((List.any (State.entries (sHo 0 (10 * 2 ^ 50))) fun (e : Wfe) => slotEntry 1 0 3 e && e.kind == cPool.kind && e.obj == objPool 1) = false) ∧
 (State.register (sHo 0 (10 * 2 ^ 50)) 1 0 3 cPool.kind (objPool 1) false =
  ((State.register (sHo 0 (10 * 2 ^ 50)) 1 0 3 cPool.kind (objPool 1) false).fst, 1)) :=
  ⟨rfl, rfl, (by decide +kernel), rfl, (by decide), rfl, (prod_snd (by decide +kernel))⟩

theorem wit_WaitSteps_2 :
 (HasRegion (sHo 0 0) 1 rHo) ∧
 (tfind (Region.ct rHo 0).hold 3 = some (cPool.kind, cPool.tag, 33)) ∧
 (causeAt (sHo 0 0) rHo 0 3 = some cPool) ∧
 (cPool.obj = some (objPool 1)) ∧
 (Cause.due cPool ≤ 33) ∧
 ((List.any (State.entries (sHo 0 0)) fun (e : Wfe) => slotEntry 1 0 3 e && e.kind == cPool.kind && e.obj == objPool 1) = false) ∧
 (State.register (sHo 0 0) 1 0 3 cPool.kind (objPool 1) false = ((State.register (sHo 0 0) 1 0 3 cPool.kind (objPool 1) false).fst, 0)) ∧
 (hasUntracked (Region.ct rHo 0) 3 = false) :=
  ⟨rfl, rfl, (by decide +kernel), rfl, (by decide), rfl, (prod_snd (by decide +kernel)), rfl⟩

theorem wit_WaitSteps_3 :
 (HasRegion sHu 1 rHu) ∧
 (tfind (Region.ct rHu 0).hold 3 = some (cPool.kind, cPool.tag, 33)) ∧
 (causeAt sHu rHu 0 3 = some cPool) ∧
 (cPool.obj = some (objPool 1)) ∧
 (Cause.due cPool ≤ 33) ∧
 ((List.any (State.entries sHu) fun (e : Wfe) => slotEntry 1 0 3 e && e.kind == cPool.kind && e.obj == objPool 1) = false) ∧
 (State.register sHu 1 0 3 cPool.kind (objPool 1) false = ((State.register sHu 1 0 3 cPool.kind (objPool 1) false).fst, 0)) ∧
 (hasUntracked (Region.ct rHu 0) 3 = true) :=
  ⟨rfl, rfl, (by decide +kernel), rfl, (by decide), rfl, (prod_snd (by decide +kernel)), rfl⟩

theorem wit_WaitSteps_4 :
 (HasRegion (sHo (2 ^ 53) 0) 1 rHo) ∧
 (tfind (Region.ct rHo 0).hold 3 = some (cPool.kind, cPool.tag, 33)) ∧
 (causeAt (sHo (2 ^ 53) 0) rHo 0 3 = some cPool) ∧
 (cPool.obj = some (objPool 1)) ∧
 (Cause.due cPool ≤ 33) ∧
 ((List.any (State.entries (sHo (2 ^ 53) 0)) fun (e : Wfe) => slotEntry 1 0 3 e && e.kind == cPool.kind && e.obj == objPool 1) = false) ∧
 (State.register (sHo (2 ^ 53) 0) 1 0 3 cPool.kind (objPool 1) false = ((State.register (sHo (2 ^ 53) 0) 1 0 3 cPool.kind (objPool 1) false).fst, 2)) :=
  ⟨rfl, rfl, (by decide +kernel), rfl, (by decide), rfl, (prod_snd (by decide +kernel))⟩

theorem wit_WaitSteps_5 :
 ((sCy true 2).cycles[0]? = some { ents := [1, 2], part := 1 : Cycle }) ∧
 ({ ents := [1, 2], part := 1 : Cycle }.due ≤ BitVec.toNat (State.part (sCy true 2) { ents := [1, 2], part := 1 : Cycle }.part).slice) ∧
 (List.filterMap (fun (i : Nat) => List.find? (fun (e : Wfe) => e.id == i) (State.entries (sCy true 2))) { ents := [1, 2], part := 1 : Cycle }.ents =
  [{ id := es1.id, exp := es1.exp, rpt := true, part := es1.part, rid := es1.rid, page := es1.page, pos := es1.pos, slot := es1.slot,
      prio := es1.prio, kind := es1.kind, hv := es1.hv, hrid := es1.hrid, obj := es1.obj, treg := es1.treg : Wfe },
    { id := 2, exp := es1.exp, rpt := true, part := es1.part, rid := es1.rid, page := es1.page, pos := es1.pos, slot := es1.slot, prio := es1.prio,
      kind := es1.kind, hv := es1.hv, hrid := es1.hrid, obj := es1.obj, treg := es1.treg : Wfe }]) ∧
 (List.length
      [{ id := es1.id, exp := es1.exp, rpt := true, part := es1.part, rid := es1.rid, page := es1.page, pos := es1.pos, slot := es1.slot,
          prio := es1.prio, kind := es1.kind, hv := es1.hv, hrid := es1.hrid, obj := es1.obj, treg := es1.treg : Wfe },
        { id := 2, exp := es1.exp, rpt := true, part := es1.part, rid := es1.rid, page := es1.page, pos := es1.pos, slot := es1.slot,
          prio := es1.prio, kind := es1.kind, hv := es1.hv, hrid := es1.hrid, obj := es1.obj, treg := es1.treg : Wfe }] ≠
    List.length { ents := [1, 2], part := 1 : Cycle }.ents ∨
  (List.all
      [{ id := es1.id, exp := es1.exp, rpt := true, part := es1.part, rid := es1.rid, page := es1.page, pos := es1.pos, slot := es1.slot,
          prio := es1.prio, kind := es1.kind, hv := es1.hv, hrid := es1.hrid, obj := es1.obj, treg := es1.treg : Wfe },
        { id := 2, exp := es1.exp, rpt := true, part := es1.part, rid := es1.rid, page := es1.page, pos := es1.pos, slot := es1.slot,
          prio := es1.prio, kind := es1.kind, hv := es1.hv, hrid := es1.hrid, obj := es1.obj, treg := es1.treg : Wfe }]
      fun (e : Wfe) => e.rpt) =
    true) :=
  ⟨rfl, (by decide), rfl, (Or.inr rfl)⟩

theorem wit_WaitSteps_6 :
 ((sCy false 1).cycles[0]? = some { ents := [1, 2], part := 1 : Cycle }) ∧
 ({ ents := [1, 2], part := 1 : Cycle }.due ≤ BitVec.toNat (State.part (sCy false 1) { ents := [1, 2], part := 1 : Cycle }.part).slice) ∧
 (List.filterMap (fun (i : Nat) => List.find? (fun (e : Wfe) => e.id == i) (State.entries (sCy false 1))) { ents := [1, 2], part := 1 : Cycle }.ents =
  [es1]) ∧
 (List.length [es1] ≠ List.length { ents := [1, 2], part := 1 : Cycle }.ents ∨ (List.all [es1] fun (e : Wfe) => e.rpt) = true) :=
  ⟨rfl, (by decide), rfl, (Or.inl (by decide))⟩

theorem wit_WaitSteps_7 :
 ((sCy false 2).cycles[0]? = some { ents := [1, 2], part := 1 : Cycle }) ∧
 ({ ents := [1, 2], part := 1 : Cycle }.due ≤ BitVec.toNat (State.part (sCy false 2) { ents := [1, 2], part := 1 : Cycle }.part).slice) ∧
 (List.filterMap (fun (i : Nat) => List.find? (fun (e : Wfe) => e.id == i) (State.entries (sCy false 2))) { ents := [1, 2], part := 1 : Cycle }.ents =
  [es1,
    { id := 2, exp := es1.exp, rpt := es1.rpt, part := es1.part, rid := es1.rid, page := es1.page, pos := es1.pos, slot := es1.slot, prio := es1.prio,
      kind := es1.kind, hv := es1.hv, hrid := es1.hrid, obj := es1.obj, treg := es1.treg : Wfe }]) ∧
 (List.length
    [es1,
      { id := 2, exp := es1.exp, rpt := es1.rpt, part := es1.part, rid := es1.rid, page := es1.page, pos := es1.pos, slot := es1.slot,
        prio := es1.prio, kind := es1.kind, hv := es1.hv, hrid := es1.hrid, obj := es1.obj, treg := es1.treg : Wfe }] =
  List.length { ents := [1, 2], part := 1 : Cycle }.ents) ∧
 (∃ (e : Wfe),
  e ∈
      [es1,
        { id := 2, exp := es1.exp, rpt := es1.rpt, part := es1.part, rid := es1.rid, page := es1.page, pos := es1.pos, slot := es1.slot,
          prio := es1.prio, kind := es1.kind, hv := es1.hv, hrid := es1.hrid, obj := es1.obj, treg := es1.treg : Wfe }] ∧
    ∃ (x : Wfe × Wfe),
      x ∈
          List.zip
            [es1,
              { id := 2, exp := es1.exp, rpt := es1.rpt, part := es1.part, rid := es1.rid, page := es1.page, pos := es1.pos, slot := es1.slot,
                prio := es1.prio, kind := es1.kind, hv := es1.hv, hrid := es1.hrid, obj := es1.obj, treg := es1.treg : Wfe }]
            (List.drop 1
                [es1,
                  { id := 2, exp := es1.exp, rpt := es1.rpt, part := es1.part, rid := es1.rid, page := es1.page, pos := es1.pos, slot := es1.slot,
                    prio := es1.prio, kind := es1.kind, hv := es1.hv, hrid := es1.hrid, obj := es1.obj, treg := es1.treg : Wfe }] ++
              List.take 1
                [es1,
                  { id := 2, exp := es1.exp, rpt := es1.rpt, part := es1.part, rid := es1.rid, page := es1.page, pos := es1.pos, slot := es1.slot,
                    prio := es1.prio, kind := es1.kind, hv := es1.hv, hrid := es1.hrid, obj := es1.obj, treg := es1.treg : Wfe }]) ∧
        e = x.fst ∧ (x.fst.hv = false ∨ x.fst.hrid ≠ x.snd.rid)) :=
  ⟨rfl, (by decide), rfl, rfl, ⟨{ es1 with id := 2 }, by decide +kernel, ({ es1 with id := 2 }, es1), by decide +kernel, rfl, Or.inr (by decide +kernel)⟩⟩

theorem wit_WaitSteps_8 :
 (sCz.cycles[0]? = some { ents := [1, 2], part := 1 : Cycle }) ∧
 ({ ents := [1, 2], part := 1 : Cycle }.due ≤ BitVec.toNat (State.part sCz { ents := [1, 2], part := 1 : Cycle }.part).slice) ∧
 (List.filterMap (fun (i : Nat) => List.find? (fun (e : Wfe) => e.id == i) (State.entries sCz)) { ents := [1, 2], part := 1 : Cycle }.ents = [e1z, e2z]) ∧
 (e2z ∈ List.take 16 [e1z, e2z]) ∧
 (List.length [e1z, e2z] = List.length { ents := [1, 2], part := 1 : Cycle }.ents) ∧
 ((List.all [e1z, e2z] fun (e : Wfe) => e.rpt) = false) ∧
 (∀ (x : Wfe × Wfe), x ∈ List.zip [e1z, e2z] (List.drop 1 [e1z, e2z] ++ List.take 1 [e1z, e2z]) → x.fst.hv = true ∧ x.fst.hrid = x.snd.rid) ∧
 (∀ (w : Wfe),
  w ∈ List.take 16 [e1z, e2z] →
    w ≠ e2z →
      effPrio (State.region sCz w.rid) < effPrio (State.region sCz e2z.rid) ∨
        effPrio (State.region sCz w.rid) = effPrio (State.region sCz e2z.rid) ∧ w.rid < e2z.rid) :=
  ⟨rfl, (by decide), rfl, (by decide +kernel), rfl, (by decide +kernel), (by decide +kernel), (by decide +kernel)⟩

theorem wit_WaitSteps_9 :
 (HasRegion (sM rHt) 1 rHt) ∧
 (1 < 2 ^ 26) ∧
 (partData (State.part (sM rHt) rHt.part) (1 * 2 ^ 16) = true) ∧
 (rHt.heatP = [(0 * 2 ^ 26 + 1, 7)] ∧ (Region.strm rHt 2).hstay < 4096 ∨
  rHt.heatP = [] ∧
    hasStrm rHt 2 = true ∧ 4096 ≤ (Region.strm rHt 2).hstay ∧ (Region.strm rHt 2).hpg = 0 * 2 ^ 26 + 1 + 1 ∧ (Region.strm rHt 2).hcnt = 7 ∧ 7 ≠ 0) :=
  ⟨rfl, (by decide), (by decide +kernel), (Or.inl ⟨rfl, by decide⟩)⟩

theorem wit_WaitSteps_10 :
 (HasRegion (sM rHt2) 1 rHt2) ∧
 (1 < 2 ^ 26) ∧
 (partData (State.part (sM rHt2) rHt2.part) (1 * 2 ^ 16) = true) ∧
 (rHt2.heatP = [(0 * 2 ^ 26 + 1, 7)] ∧ (Region.strm rHt2 2).hstay < 4096 ∨
  rHt2.heatP = [] ∧
    hasStrm rHt2 2 = true ∧ 4096 ≤ (Region.strm rHt2 2).hstay ∧ (Region.strm rHt2 2).hpg = 0 * 2 ^ 26 + 1 + 1 ∧ (Region.strm rHt2 2).hcnt = 7 ∧ 7 ≠ 0) :=
  ⟨rfl, (by decide), (by decide +kernel), (Or.inr ⟨rfl, rfl, by decide, rfl, rfl, by decide⟩)⟩

theorem wit_WaitSteps_11 :
 (partValid (State.part sEp 1) = true) ∧
 ((State.part sEp 1).epoch < BitVec.toNat (State.part sEp 1).slice / 2 ^ 20) ∧
 (bitOf (partWord (State.part sEp 1) 0) 52 = false) :=
  ⟨(by decide +kernel), (by decide +kernel), (by decide +kernel)⟩

end WitWaits

/-! ### Slices -/

namespace WitSlices

def sl2 (r p : Region) : State := { sP r with regions := [(1, r), (2, p)] }
def rSl : Region := { rC ct0 with partner := some 2, spent := 5 }
def pSl : Region := { rC ct0 with rid := 2, partner := some 1, active := false, parked := true, settled := true, res := false }
def pSlI : Region := { pSl with st := rIdle }
def rYi : Region := { rSl with tiles := [(0, { act := { ct := ct0 } }), (1, { act := { mode := [BitVec.ofNat 64 (2 ^ 60 + 64 * 2 ^ 21 + 2 ^ 20)] } })], quiet := 32 }
def rCt : Region := { rSl with drain := some 2048, drainSl := true }
def rSo : Region := { rSl with parked := true, settled := true }
def rDy : Region := { rSl with st := rDying, active := true }
def sL (s : State) : State := exOk (s.loadIssue {} 0x30000 false) s
def sLg : State := sL sC
def sLb : State := sL { sC with mem := memT (wsAt 0x30000 (rcbW 7 0 0x20000 true)) }
def imgD : Img := { w := 0, h := 0, done := 0, par := [], recs := [] }
def rLg : Region := sLg.region 7
def rLb : Region := sLb.region 7
def sShG : State := { sLg with regions := [(7, { rLg with host := some 1, st := rShadow, lop := some { f7 := 2 } }), (1, { rC ct0 with shp := false })] }
def sShB : State := { sShG with mem := [] }

theorem wit_SliceSteps_1 :
 (HasRegion (sl2 rSl pSl) 1 rSl) ∧
 (rSl.partner = some 2) ∧
 (sliceable rSl = true) ∧
 (mayTake (State.region (sl2 rSl pSl) 2) = true) ∧
 (State.urgent (sl2 rSl pSl) rSl (State.region (sl2 rSl pSl) 2) = true ∨ effCyc rSl ≤ rSl.spent + 2048) :=
  ⟨rfl, rfl, rfl, rfl, (Or.inr (by decide))⟩

theorem wit_SliceSteps_2 :
 (HasRegion (sl2 rSl pSlI) 1 rSl) ∧
 (rSl.partner = some 2) ∧
 (sliceable rSl = true) ∧
 (mayTake (State.region (sl2 rSl pSlI) 2) = false) ∧
 (effCyc rSl ≤ rSl.spent) :=
  ⟨rfl, rfl, rfl, rfl, (by decide)⟩

theorem wit_SliceSteps_3 :
 (HasRegion (sl2 rYi pSl) 1 rYi) ∧
 (rYi.partner = some 2) ∧
 (sliceable rYi = true) ∧
 (yields rYi = true) ∧
 (mayTake (State.region (sl2 rYi pSl) 2) = true) :=
  ⟨rfl, rfl, rfl, (by decide +kernel), rfl⟩

theorem wit_SliceSteps_4 :
 (HasRegion (sl2 rYi pSlI) 1 rYi) ∧
 (rYi.partner = some 2) ∧
 (sliceable rYi = true) ∧
 (yields rYi = true) ∧
 (mayTake (State.region (sl2 rYi pSlI) 2) = false) :=
  ⟨rfl, rfl, rfl, (by decide +kernel), rfl⟩

theorem wit_SliceSteps_5 :
 (HasRegion (sP rCt) 1 rCt) ∧
 (rCt.drain = some 2048) ∧
 (2048 ≤ 2048) ∧
 (rCt.drainSl = true) :=
  ⟨rfl, rfl, (by decide), rfl⟩

theorem wit_SliceSteps_6 :
 (HasRegion (sl2 rSo pSl) 1 rSo) ∧
 (HasRegion (sl2 rSo pSl) 2 pSl) ∧
 (2 ≠ 1) ∧
 (rSo.partner = some 2) ∧
 (rSo.active = true) ∧
 (stoppedFor rSo = true) ∧
 (mayTake pSl = true) ∧
 (pSl.active = false) :=
  ⟨rfl, rfl, (by decide), rfl, rfl, rfl, rfl, rfl⟩

theorem wit_SliceSteps_7 :
 (HasRegion (sl2 rDy pSl) 1 rDy) ∧
 (HasRegion (sl2 rDy pSl) 2 pSl) ∧
 (2 ≠ 1) ∧
 (rDy.partner = some 2) ∧
 (rDy.st = rDying ∨ rDy.st = rOut) ∧
 (rDy.active = false ∨ pSl.settled = true) :=
  ⟨rfl, rfl, (by decide), rfl, (Or.inl rfl), (Or.inr rfl)⟩

set_option maxRecDepth 16384 in
theorem wit_LoadSteps_1 :
 (HasRegion sLb 7 (State.region sLb 7)) ∧
 ((State.region sLb 7).lop = some (Option.getD (State.region sLb 7).lop { : LongOp })) ∧
 ((Option.getD (State.region sLb 7).lop { : LongOp }).f7 = 0) ∧
 (State.ckptOn sLb = false) ∧
 (checkImage
    (State.imgWord sLb
      { hart := (Option.getD (State.region sLb 7).lop { : LongOp }).hart, vs := (Option.getD (State.region sLb 7).lop { : LongOp }).vs : Issuer }
      (State.region sLb 7).image)
    (if bitOf (partWord (State.part sLb (State.region sLb 7).part) 0) 35 = true then Config.mtHalf else Config.mtBytes) =
  Except.error
    (exErr
      (checkImage
        (State.imgWord sLb
          { hart := (Option.getD (State.region sLb 7).lop { : LongOp }).hart, vs := (Option.getD (State.region sLb 7).lop { : LongOp }).vs : Issuer }
          (State.region sLb 7).image)
        (if bitOf (partWord (State.part sLb (State.region sLb 7).part) 0) 35 = true then Config.mtHalf else Config.mtBytes))
      { code := 9, ix := 0 : Bad })) ∧
 ((Option.getD (State.region sLb 7).lop { : LongOp }).addr = 0) :=
  ⟨(hasReg (by decide +kernel)), (by decide +kernel), (by decide +kernel), (by decide +kernel), (err_get ⟨9, 0, 0, 0, 0⟩ (by decide +kernel)), (by decide +kernel)⟩

set_option maxRecDepth 16384 in
theorem wit_LoadSteps_2 :
 (HasRegion sLg 7 (State.region sLg 7)) ∧
 ((State.region sLg 7).lop = some (Option.getD (State.region sLg 7).lop { : LongOp })) ∧
 ((Option.getD (State.region sLg 7).lop { : LongOp }).f7 = 0) ∧
 (State.ckptOn sLg = false) ∧
 (checkImage
    (State.imgWord sLg
      { hart := (Option.getD (State.region sLg 7).lop { : LongOp }).hart, vs := (Option.getD (State.region sLg 7).lop { : LongOp }).vs : Issuer }
      (State.region sLg 7).image)
    (if bitOf (partWord (State.part sLg (State.region sLg 7).part) 0) 35 = true then Config.mtHalf else Config.mtBytes) =
  Except.ok
    (exOk
      (checkImage
        (State.imgWord sLg
          { hart := (Option.getD (State.region sLg 7).lop { : LongOp }).hart, vs := (Option.getD (State.region sLg 7).lop { : LongOp }).vs : Issuer }
          (State.region sLg 7).image)
        (if bitOf (partWord (State.part sLg (State.region sLg 7).part) 0) 35 = true then Config.mtHalf else Config.mtBytes))
      imgD)) ∧
 ((Option.getD (State.region sLg 7).lop { : LongOp }).vs = false) ∧
 (framesFit
    (buildRegion
      (exOk
        (checkImage
          (State.imgWord sLg
            { hart := (Option.getD (State.region sLg 7).lop { : LongOp }).hart, vs := (Option.getD (State.region sLg 7).lop { : LongOp }).vs :
              Issuer }
            (State.region sLg 7).image)
          (if bitOf (partWord (State.part sLg (State.region sLg 7).part) 0) 35 = true then Config.mtHalf else Config.mtBytes))
        imgD)
      (fld (State.region sLg 7).eff3 39 30) (State.region sLg 7))
    (if bitOf (partWord (State.part sLg (State.region sLg 7).part) 0) 35 = true then Config.mtHalf else Config.mtBytes) =
  true) ∧
 (State.place sLg
    (buildRegion
      (exOk
        (checkImage
          (State.imgWord sLg
            { hart := (Option.getD (State.region sLg 7).lop { : LongOp }).hart, vs := (Option.getD (State.region sLg 7).lop { : LongOp }).vs :
              Issuer }
            (State.region sLg 7).image)
          (if bitOf (partWord (State.part sLg (State.region sLg 7).part) 0) 35 = true then Config.mtHalf else Config.mtBytes))
        imgD)
      (fld (State.region sLg 7).eff3 39 30) (State.region sLg 7)) =
  Except.ok
    (exOk
      (State.place sLg
        (buildRegion
          (exOk
            (checkImage
              (State.imgWord sLg
                { hart := (Option.getD (State.region sLg 7).lop { : LongOp }).hart, vs := (Option.getD (State.region sLg 7).lop { : LongOp }).vs :
                  Issuer }
                (State.region sLg 7).image)
              (if bitOf (partWord (State.part sLg (State.region sLg 7).part) 0) 35 = true then Config.mtHalf else Config.mtBytes))
            imgD)
          (fld (State.region sLg 7).eff3 39 30) (State.region sLg 7)))
      { : Region })) ∧
 ((Option.getD (State.region sLg 7).lop { : LongOp }).start = false) :=
  ⟨(hasReg (by decide +kernel)), (by decide +kernel), (by decide +kernel), (by decide +kernel), (ok_get imgD (by decide +kernel)), (by decide +kernel), (by decide +kernel), (by exact ok_get ({} : Region) (by decide +kernel)), (by decide +kernel)⟩

set_option maxRecDepth 16384 in
theorem wit_LoadSteps_3 :
 (HasRegion sShB 7 (State.region sShB 7)) ∧
 ((State.region sShB 7).lop = some { f7 := 2 : LongOp }) ∧
 ({ f7 := 2 : LongOp }.f7 = 2) ∧
 (State.ckptOn sShB = false) ∧
 (checkImage (State.imgWord sShB { hart := { f7 := 2 : LongOp }.hart : Issuer } (State.region sShB 7).image) Config.mtHalf =
  Except.error
    (exErr (checkImage (State.imgWord sShB { hart := { f7 := 2 : LongOp }.hart : Issuer } (State.region sShB 7).image) Config.mtHalf)
      { code := 9, ix := 0 : Bad })) ∧
 ({ f7 := 2 : LongOp }.addr = 0) :=
  ⟨(hasReg (by decide +kernel)), (by decide +kernel), rfl, (by decide +kernel), (err_get ⟨9, 0, 0, 0, 0⟩ (by decide +kernel)), rfl⟩

theorem wit_LoadSteps_4 :
 (HasRegion sShG 7 (State.region sShG 7)) ∧
 ((State.region sShG 7).lop = some { f7 := 2 : LongOp }) ∧
 ({ f7 := 2 : LongOp }.f7 = 2) ∧
 (State.ckptOn sShG = false) ∧
 (checkImage (State.imgWord sShG { hart := { f7 := 2 : LongOp }.hart : Issuer } (State.region sShG 7).image) Config.mtHalf =
  Except.ok (exOk (checkImage (State.imgWord sShG { hart := { f7 := 2 : LongOp }.hart : Issuer } (State.region sShG 7).image) Config.mtHalf) imgD)) ∧
 ((State.region sShG 7).host = some 1) ∧
 (State.region? sShG 1 = some (State.region sShG 1)) ∧
 ((exOk (checkImage (State.imgWord sShG { hart := { f7 := 2 : LongOp }.hart : Issuer } (State.region sShG 7).image) Config.mtHalf) imgD).w =
  (State.region sShG 1).w) ∧
 ((exOk (checkImage (State.imgWord sShG { hart := { f7 := 2 : LongOp }.hart : Issuer } (State.region sShG 7).image) Config.mtHalf) imgD).h =
  (State.region sShG 1).h) ∧
 ({ f7 := 2 : LongOp }.vs = false) ∧
 ((buildRegion (exOk (checkImage (State.imgWord sShG { hart := { f7 := 2 : LongOp }.hart : Issuer } (State.region sShG 7).image) Config.mtHalf) imgD)
      (fld (State.region sShG 7).eff3 39 30) (State.region sShG 7)).shp =
  false) ∧
 (State.weltBusy sShG
    (buildRegion
      (exOk (checkImage (State.imgWord sShG { hart := { f7 := 2 : LongOp }.hart : Issuer } (State.region sShG 7).image) Config.mtHalf) imgD)
      (fld (State.region sShG 7).eff3 39 30) (State.region sShG 7)) =
  false) ∧
 (State.weltOk sShG
    (buildRegion
      (exOk (checkImage (State.imgWord sShG { hart := { f7 := 2 : LongOp }.hart : Issuer } (State.region sShG 7).image) Config.mtHalf) imgD)
      (fld (State.region sShG 7).eff3 39 30) (State.region sShG 7)) =
  true) ∧
 (State.shadowFits sShG
    (buildRegion
      (exOk (checkImage (State.imgWord sShG { hart := { f7 := 2 : LongOp }.hart : Issuer } (State.region sShG 7).image) Config.mtHalf) imgD)
      (fld (State.region sShG 7).eff3 39 30) (State.region sShG 7))
    (State.region sShG 1) =
  true) :=
  ⟨(hasReg (by decide +kernel)), (by decide +kernel), rfl, (by decide +kernel), (ok_get imgD (by decide +kernel)), (by decide +kernel), (by decide +kernel), (by decide +kernel), (by decide +kernel), (by decide +kernel), (by decide +kernel), (by decide +kernel), (by decide +kernel), (by decide +kernel)⟩

end WitSlices

/-! ### Saves -/

namespace WitSaves

def pDH : List Word := pD2.set 15 0
/-- A region with a long operation, settled. -/
def rLop (l : LongOp) (st : Nat) : Region := { rC ct0 with st := st, settled := true, lop := some l, part := 1 }
def rSc : Region := rLop { f7 := 7, addr := 0x40000 } rFrozen
def rRs : Region := rLop { f7 := 8, addr := 0x40000 } rOut
def rMv : Region := rLop { f7 := 9, b := 5 } rFrozen
def rMn : Region := rLop { f7 := 9, b := 1000 } rFrozen
def sC2 (r : Region) : State := { sC with regions := [(1, r)], fc := 9 }
def rDy : Region := { rC ct0 with st := rDying }
def rAm : Region := { rC ct0 with st := rIdle, origin := 40 }
def rAm2 : Region := { rAm with caps := [(0, capT)], rheat := [(0, 100)], origin := 700 }
/-- A region as the image of a page of unconfigured tiles describes it, OUT and waiting for its restore. -/
def rGd : Region := { rid := 1, part := 1, w := 1, h := 1, st := rOut, res := false, busy := true, tiles := (List.range 16).map (fun k => (k, {})), lop := some { f7 := 8, addr := 0x1000000 } }
def sGd : State := { State.reset with parts := [(1, { desc := pD2 })], regions := [(1, rGd)] }
theorem test_restoreConfigGood : configCheck rGd = none := by decide +kernel
theorem test_restorePlaceGood : framesFit rGd (mtLimit rGd) = true ∧ (match sGd.place rGd with | .ok r => r.origin == 0 | .error _ => false) = true := by decide +kernel

theorem wit_SaveSteps_1 :
 (HasRegion (sC2 rSc) 1 rSc) ∧
 (rSc.lop = some { f7 := 7, addr := 262144 : LongOp }) ∧
 ({ f7 := 7, addr := 262144 : LongOp }.f7 = 7) ∧
 (scanReady rSc = true) ∧
 (recalled (State.region (State.withdraw (sC2 rSc) 1 fun (x : Nat) => true) 1) = false) :=
  ⟨rfl, rfl, rfl, rfl, (by decide +kernel)⟩

theorem wit_SaveSteps_2 :
 (HasRegion (sC2 rRs) 1 rRs) ∧
 (rRs.lop = some { f7 := 8, addr := 262144 : LongOp }) ∧
 ({ f7 := 8, addr := 262144 : LongOp }.f7 = 8) ∧
 (State.ckptOn (sC2 rRs) = false) ∧
 ({ f7 := 8, addr := 262144 : LongOp }.vs = false) ∧
 ({ f7 := 8, addr := 262144 : LongOp }.start = false) :=
  ⟨rfl, rfl, rfl, rfl, rfl, rfl⟩

theorem wit_SaveSteps_3 :
 (HasRegion (sC2 rMv) 1 rMv) ∧
 (rMv.lop = some { f7 := 9, b := 5 : LongOp }) ∧
 ({ f7 := 9, b := 5 : LongOp }.f7 = 9) ∧
 ({ f7 := 9, b := 5 : LongOp }.hart ≠ 209) ∧
 (rMv.settled = true) ∧
 (State.moveSet (sC2 rMv) 1 = [1]) ∧
 (BitVec.toNat { f7 := 9, b := 5 : LongOp }.b ≠ 1023) ∧
 (recalled (State.region (State.withdraw (sC2 rMv) 1 fun (x : Nat) => true) 1) = false) :=
  ⟨rfl, rfl, rfl, (by decide), rfl, (by decide +kernel), (by decide), (by decide +kernel)⟩

theorem wit_SaveSteps_4 :
 (HasRegion (sC2 rDy) 1 rDy) ∧
 (rDy.st = rDying) ∧
 (rDy.partner = none) ∧
 (rDy.flight = []) :=
  ⟨rfl, rfl, rfl, rfl⟩

theorem wit_SaveSteps_5 :
 (HasRegion (sC2 rAm2) 1 rAm2) ∧
 (rAm2.st = rIdle) ∧
 (State.movable (sC2 rAm2) 1 = true) ∧
 (State.moveBest (sC2 rAm2) rAm2 = some 0) ∧
 (2 * placeCost rAm2 0 < placeCost rAm2 rAm2.origin) :=
  ⟨rfl, rfl, (by decide +kernel), (by decide +kernel), (by decide +kernel)⟩

end WitSaves

/-! ### Launches -/

namespace WitLaunches

def pDq (pages : Nat) : List Word := (([2 ^ 63 + 5 * 2 ^ 36, 10 * 2 ^ 50, pages] ++ List.replicate 11 0 ++ [2 ^ 52, 0] ++ List.replicate 3 (2 ^ 64 - 1) ++ List.replicate 9 0 ++ [0x50020]) : List Nat).map (BitVec.ofNat 64)
def sQ (e : List Nat) (img : List Nat) (pages : Nat) : State :=
  { sC with mem := memT (wsAt 0x20000 img ++ wsAt 0x30000 (rcbW 7 0 0x20000 true) ++ wsAt 0x50000 [0, 1, 1] ++ wsAt 0x50040 e), parts := [(1, { desc := pDq pages, root := 0x30000 })] }
def sQf : State := sQ [5 * 2 ^ 60] img0 7
def sQg : State := sQ [0, 0x30000] img0 7
def sQb : State := sQ [0, 0x30008] img0 7
def sQc : State := { sQ [0, 0x30000] [0x4B434C310001 * 2 ^ 16, 0x0201, 0, 0, 64, 0, 0, 0] 7 with regions := [(8, { rC ct0 with rid := 8, st := rIdle, origin := 1, eprio := 1 })] }
def pk1 (s : State) : Nat × List Word × Option Int := ((s.lqLook 1).lqPick 1).getD (0, [], none)
def cpH : Region := ((sQc.lqNote 1).compHead 1).getD {}
def cpP : List (Nat × Nat) × Nat := ((sQc.lqNote 1).bestPlan cpH).getD ([], 0)

theorem wit_LaunchSteps_1 :
 (0 < 16) ∧
 (partValid (State.part sQg 1) = true) ∧
 (lqValid (State.part sQg 1) 0 = true) :=
  ⟨(by decide), (by decide +kernel), (by decide +kernel)⟩

theorem wit_LaunchSteps_2 :
 (State.ckptOn sQf = false) ∧
 (Option.any (fun (x : Rst) => x.pid == 1) sQf.rst = false) ∧
 (State.lqPick (State.lqLook sQf 1) 1 = some (0, (pk1 sQf).snd.fst, some (-1))) :=
  ⟨rfl, rfl, (by decide +kernel)⟩

theorem wit_LaunchSteps_3 :
 (State.ckptOn sQg = false) ∧
 (Option.any (fun (x : Rst) => x.pid == 1) sQg.rst = false) ∧
 (State.lqPick (State.lqLook sQg 1) 1 = some (0, (pk1 sQg).snd.fst, none)) ∧
 (State.leIssue (State.lqLook sQg 1) 1 (pk1 sQg).snd.fst = ((State.leIssue (State.lqLook sQg 1) 1 (pk1 sQg).snd.fst).fst, 0)) ∧
 (0 ≤ 0) :=
  ⟨rfl, rfl, (by decide +kernel), (prod_snd (by decide +kernel)), (by decide)⟩

theorem wit_LaunchSteps_4 :
 (State.ckptOn sQb = false) ∧
 (Option.any (fun (x : Rst) => x.pid == 1) sQb.rst = false) ∧
 (State.lqPick (State.lqLook sQb 1) 1 = some (0, (pk1 sQb).snd.fst, none)) ∧
 (State.leIssue (State.lqLook sQb 1) 1 (pk1 sQb).snd.fst = ((State.leIssue (State.lqLook sQb 1) 1 (pk1 sQb).snd.fst).fst, -1)) ∧
 (-1 < 0) :=
  ⟨rfl, rfl, (by decide +kernel), (prod_snd (by decide +kernel)), (by decide)⟩

theorem wit_LaunchSteps_5 :
 (Option.any (fun (x : Rst) => x.pid == 1) sQc.rst = false) ∧
 (State.compHead (State.lqNote sQc 1) 1 = some cpH) ∧
 (cpH.w * cpH.h ≤ State.freePages (State.lqNote sQc 1) 1) ∧
 (State.bestPlan (State.lqNote sQc 1) cpH = some (cpP.fst, cpP.snd)) :=
  ⟨rfl, (by decide +kernel), (by decide +kernel), (by decide +kernel)⟩

end WitLaunches

/-! ### Faults -/

namespace WitFaults

def recA : Rec := { w := List.replicate 8 5 }
def sFq (f : Fctx) : State := { sP rP with harts := [(0, { fh := f })] }
def fA : Fctx := { frec := 0x60001, queue := [recA] }
def fO : Fctx := { frec := 0x60001, queue := [recA], prod := 16 }
def sFi (h : Hart) : State := { sP rP with harts := [(0, h)] }
def hH : Hart := { priv := .u, hs := { enab := BitVec.ofNat 64 (2 ^ 17 + 2 ^ 16) }, fh := { prod := 1, tvec := 0x1001, frec := 0x60001, foc := true } }
def hV : Hart := { priv := .vu, hideleg := BitVec.ofNat 64 (2 ^ 17), vs := { enab := BitVec.ofNat 64 (2 ^ 17) }, fv := { prod := 1, tvec := 0x1000, frec := 0x60001 } }
def sPo : State := { sP rP with dpois := [0x100 / 8] }
def rEx : Region := { rC ct0 with tiles := [(1, { act := { mode := [BitVec.ofNat 64 (7 * 2 ^ 60)], u := { ents := [{ w0 := { bits := 1 } }] } } })] }
def hVU : Hart := { priv := .vu, pc := 0x1000, hs := { tvec := 0x2001 } }
def csC (f3 : BitVec 3) (rs1 : BitVec 5) : CsrOp := { f3 := f3, rs1 := rs1, rd := 3, csr := 0x5C0 }
def csD : CsrOp := { f3 := 1, rs1 := 2, rd := 3, csr := 0x6C0 }
def sHp (p : Priv) : State := { sP rP with harts := [(0, { priv := p, x := [(2, 77), (1, 0x30000)] })] }
def xA : Xr := { rd := 3, rs1 := 1, rs2 := 2 }
def sSv : State := { sHp .hs with curHart := 192 }
def sCk : State := { sHp .hs with ckpt := { st := 1 } }

theorem wit_FaultDelivery_1 :
 ((State.fctx (sFq fA) 0 false).queue = [recA]) ∧
 (recA.more = []) ∧
 (List.length recA.w = 8) ∧
 (fEn (State.fctx (sFq fA) 0 false) = true) ∧
 (BitVec.toNat ((State.fctx (sFq fA) 0 false).prod - (State.fctx (sFq fA) 0 false).cons) + 1 ≤ fSize (State.fctx (sFq fA) 0 false)) ∧
 (isDram (fBase (State.fctx (sFq fA) 0 false)) = true) ∧
 (isDram (fBase (State.fctx (sFq fA) 0 false) + 64 + fSize (State.fctx (sFq fA) 0 false) * 64) = true) :=
  ⟨rfl, rfl, rfl, rfl, (by decide +kernel), (by decide +kernel), (by decide +kernel)⟩

theorem wit_FaultDelivery_2 :
 ((State.fctx (sFq fO) 0 false).queue = [recA]) ∧
 (recA.more = []) ∧
 (List.length recA.w = 8) ∧
 (fSize (State.fctx (sFq fO) 0 false) < BitVec.toNat ((State.fctx (sFq fO) 0 false).prod - (State.fctx (sFq fO) 0 false).cons) + 1) :=
  ⟨rfl, rfl, rfl, (by decide +kernel)⟩

theorem wit_FaultDelivery_3 :
 ((State.hart (sFi hH) 0).stopped = false) ∧
 (fPend (State.hart (sFi hH) 0).fh = true) ∧
 (intTaken (State.hart (sFi hH) 0) Level.hs 17 = true) :=
  ⟨rfl, rfl, (by decide +kernel)⟩

theorem wit_FaultDelivery_4 :
 ((State.hart (sFi hV) 0).stopped = false) ∧
 (fPend (State.hart (sFi hV) 0).fh = false) ∧
 (fPend (State.hart (sFi hV) 0).fv = true) ∧
 (BitVec.getLsbD (State.hart (sFi hV) 0).hideleg 17 = true) ∧
 (intTaken (State.hart (sFi hV) 0) Level.vs 17 = true) :=
  ⟨rfl, rfl, rfl, (by decide +kernel), (by decide +kernel)⟩

theorem wit_FaultDelivery_5 :
 ((State.hart (sFi hH) 0).stopped = false) ∧
 ((State.hart (sFi hH) 0).fh.foc = true) ∧
 (intTaken (State.hart (sFi hH) 0) Level.hs 16 = true) :=
  ⟨rfl, rfl, (by decide +kernel)⟩

theorem wit_SoftErrors_1 :
 isDram 256 = true :=
  (by decide +kernel)

theorem wit_SoftErrors_2 :
 HasRegion (sP rP) 1 rP :=
  rfl

theorem wit_SoftErrors_3 :
 (HasRegion (sP rP) 1 rP) ∧
 (planeMode (Region.tile rP (mtAddrKey 256)).act ≠ 7) ∧
 (planeMode (Region.tile rP (mtAddrKey 256)).ins ≠ 7) ∧
 (planeMode (Region.tile rP (mtAddrKey 256)).act ≠ 8) ∧
 (planeMode (Region.tile rP (mtAddrKey 256)).ins ≠ 8) :=
  ⟨rfl, (by decide), (by decide), (by decide), (by decide)⟩

theorem wit_SoftErrors_4 :
 (HasRegion (sP rEx) 1 rEx) ∧
 (planeMode (Region.tile rEx (mtAddrKey (mtAddr 1 8))).act = 7) ∧
 (mtAddr 1 8 % 2 ^ 19 < 32768) ∧
 ((Region.tile rEx (mtAddrKey (mtAddr 1 8))).act.u.ents[mtAddr 1 8 % 2 ^ 19 / 16]? = some { w0 := { bits := 1 : Val } : QEnt }) :=
  ⟨rfl, (by decide +kernel), (by decide +kernel), (by decide +kernel)⟩

theorem wit_SoftErrors_5 :
 (HasRegion (sP rP) 1 rP) ∧
 (13 < 14) :=
  ⟨rfl, (by decide)⟩

theorem wit_SoftErrors_6 :
 (HasRegion (sP rP) 1 rP) ∧
 (rP.st ≠ rNone) ∧
 (2 < 3) :=
  ⟨rfl, (by decide), (by decide)⟩

theorem wit_SoftErrors_7 :
 (isDram 256 = true) ∧
 ((State.rd8 sPo 256).pois = true) ∧
 (hTrans sPo (State.hart sPo 0) (accPriv (State.hart sPo 0)) (BitVec.toNat (256 : Word)) HKind.load false = Except.ok 256) :=
  ⟨(by decide +kernel), (by decide +kernel), rfl⟩

theorem wit_SoftErrors_8 :
 (isDram 256 = true) ∧
 ((State.rd8 sPo 256).pois = true) ∧
 (hTrans sPo (State.hart sPo 0) (State.hart sPo 0).priv (BitVec.toNat (256 : Word)) HKind.fetch false = Except.ok 256) :=
  ⟨(by decide +kernel), (by decide +kernel), rfl⟩

theorem wit_SoftErrors_9 :
 (isDram 256 = true) ∧
 ((State.rd8 sPo 256).pois = true) ∧
 (hTrans sPo (State.hart sPo 0) (accPriv (State.hart sPo 0)) (BitVec.toNat (256 : Word)) HKind.store false = Except.ok 256) :=
  ⟨(by decide +kernel), (by decide +kernel), rfl⟩

theorem wit_SoftErrors_10 :
 (isDram 256 = true) ∧
 ((State.rd8 sPo 256).pois = true) ∧
 (hTrans sPo (State.hart sPo 0) (accPriv (State.hart sPo 0)) (BitVec.toNat (256 : Word)) HKind.store false = Except.ok 256) ∧
 (256 % 8 = 0) :=
  ⟨(by decide +kernel), (by decide +kernel), rfl, (by decide)⟩

theorem wit_HartTraps_1 :
 63 < 64 :=
  (by decide)

theorem wit_HartTraps_2 :
 hVU.priv ≠ Priv.m :=
  (by decide)

theorem wit_HartTraps_3 :
 isVirt hVU.priv = true :=
  rfl

theorem wit_CsrSteps_1 :
 (Instr.csrWrite (csC 1 2) = Instr.csrWrite (csC 1 2) ∨
  Instr.csrWrite (csC 1 2) = Instr.crnfrecWrite (csC 1 2) ∨ Instr.csrWrite (csC 1 2) = Instr.hcrnpmapWrite (csC 1 2)) ∧
 (isUser (State.hart (sHp Priv.u) (sHp Priv.u).curHart).priv = true) :=
  ⟨(Or.inl rfl), rfl⟩

theorem wit_CsrSteps_2 :
 (Instr.hcrnpmapWrite csD = Instr.csrWrite csD ∨ Instr.hcrnpmapWrite csD = Instr.crnfrecWrite csD ∨ Instr.hcrnpmapWrite csD = Instr.hcrnpmapWrite csD) ∧
 ((State.hart (sHp Priv.vs) (sHp Priv.vs).curHart).priv = Priv.vs) ∧
 (1728 ≤ BitVec.toNat csD.csr) :=
  ⟨(Or.inr (Or.inr rfl)), rfl, (by decide)⟩

theorem wit_CsrSteps_3 :
 (Instr.hcrnpmapWrite csD = Instr.csrWrite csD ∨ Instr.hcrnpmapWrite csD = Instr.crnfrecWrite csD ∨ Instr.hcrnpmapWrite csD = Instr.hcrnpmapWrite csD) ∧
 (isUser (State.hart (sHp Priv.hs) (sHp Priv.hs).curHart).priv = false) ∧
 ((State.hart (sHp Priv.hs) (sHp Priv.hs).curHart).priv = Priv.vs → BitVec.toNat csD.csr < 1728) ∧
 (BitVec.toNat csD.f3 % 4 = 1) :=
  ⟨(Or.inr (Or.inr rfl)), rfl, (by decide), rfl⟩

theorem wit_CsrSteps_4 :
 (Instr.csrWrite (csC 2 2) = Instr.csrWrite (csC 2 2) ∨
  Instr.csrWrite (csC 2 2) = Instr.crnfrecWrite (csC 2 2) ∨ Instr.csrWrite (csC 2 2) = Instr.hcrnpmapWrite (csC 2 2)) ∧
 (isUser (State.hart (sHp Priv.vs) (sHp Priv.vs).curHart).priv = false) ∧
 ((State.hart (sHp Priv.vs) (sHp Priv.vs).curHart).priv = Priv.vs → BitVec.toNat (csC 2 2).csr < 1728) ∧
 (BitVec.toNat (csC 2 2).f3 % 4 = 2) ∧
 ((csC 2 2).rs1 ≠ 0) :=
  ⟨(Or.inl rfl), rfl, (by decide), rfl, (by decide)⟩

theorem wit_CsrSteps_5 :
 (Instr.csrWrite (csC 7 2) = Instr.csrWrite (csC 7 2) ∨
  Instr.csrWrite (csC 7 2) = Instr.crnfrecWrite (csC 7 2) ∨ Instr.csrWrite (csC 7 2) = Instr.hcrnpmapWrite (csC 7 2)) ∧
 (isUser (State.hart (sHp Priv.hs) (sHp Priv.hs).curHart).priv = false) ∧
 ((State.hart (sHp Priv.hs) (sHp Priv.hs).curHart).priv = Priv.vs → BitVec.toNat (csC 7 2).csr < 1728) ∧
 (BitVec.toNat (csC 7 2).f3 % 4 = 3) ∧
 ((csC 7 2).rs1 ≠ 0) :=
  ⟨(Or.inl rfl), rfl, (by decide), rfl, (by decide)⟩

theorem wit_CsrSteps_6 :
 (Instr.crnfrecWrite (csC 2 0) = Instr.csrWrite (csC 2 0) ∨
  Instr.crnfrecWrite (csC 2 0) = Instr.crnfrecWrite (csC 2 0) ∨ Instr.crnfrecWrite (csC 2 0) = Instr.hcrnpmapWrite (csC 2 0)) ∧
 (isUser (State.hart (sHp Priv.hs) (sHp Priv.hs).curHart).priv = false) ∧
 ((State.hart (sHp Priv.hs) (sHp Priv.hs).curHart).priv = Priv.vs → BitVec.toNat (csC 2 0).csr < 1728) ∧
 (BitVec.toNat (csC 2 0).f3 % 4 = 2 ∨ BitVec.toNat (csC 2 0).f3 % 4 = 3) ∧
 ((csC 2 0).rs1 = 0) :=
  ⟨(Or.inr (Or.inl rfl)), rfl, (by decide), (Or.inl rfl), rfl⟩

theorem wit_CrnPrivilege_1 :
 (crnRow (Instr.crnFload xA) = some (0, xA)) ∧
 (isUser (State.hart (sHp Priv.vu) (sHp Priv.vu).curHart).priv = true) :=
  ⟨rfl, rfl⟩

theorem wit_CrnPrivilege_2 :
 (crnRow (Instr.crnFrun xA) = some (4, xA)) ∧
 (isUser (State.hart sSv sSv.curHart).priv = false) ∧
 (192 ≤ sSv.curHart) ∧
 (4 ≠ 14) ∧
 (4 ≠ 16) :=
  ⟨rfl, rfl, (by decide), (by decide), (by decide)⟩

theorem wit_CrnPrivilege_3 :
 (crnRow (Instr.crnFkill xA) = some (1, xA)) ∧
 ((State.hart (sHp Priv.vs) (sHp Priv.vs).curHart).priv = Priv.vs) ∧
 ((sHp Priv.vs).curHart < 192) ∧
 (BitVec.getLsbD (State.hart (sHp Priv.vs) (sHp Priv.vs).curHart).policy 1 = false) :=
  ⟨rfl, rfl, (by decide), rfl⟩

theorem wit_CrnPrivilege_4 :
 (crnRow (Instr.crnFrest xA) = some (8, xA)) ∧
 (isUser (State.hart sCk sCk.curHart).priv = false) ∧
 (sCk.curHart < 192 ∨ 8 = 14 ∨ 8 = 16) ∧
 ((State.hart sCk sCk.curHart).priv ≠ Priv.vs) ∧
 (State.ckptOn sCk = true) ∧
 (8 = 0 ∨ 8 = 2 ∨ 8 = 8) :=
  ⟨rfl, rfl, (Or.inl (by decide)), (by decide), (by decide), (Or.inr (Or.inr rfl))⟩

end WitFaults

/-! ### Cobblers -/

namespace WitCobblers

def xA : Xr := { rd := 3, rs1 := 1, rs2 := 2 }
def sCr (a b : Nat) (r : Region) : State :=
  { sC with regions := [(1, r)], harts := [(0, { x := [(1, BitVec.ofNat 64 a), (2, BitVec.ofNat 64 b)] })], fc := 9 }
theorem mayHs {s : State} {f : Nat} (h0 : (s.hart s.curHart).priv = .m) (h1 : s.curHart < 192) (h2 : s.ckptOn = false) : CrnMay s f :=
  ⟨by rw [h0]; rfl, .inl h1, fun h => (by rw [h0] at h; cases h), fun h => (by rw [h2] at h; cases h)⟩
def rRdy : Region := { rC ct0 with st := rReady, chain := [(0x30000, 0)], rcb := 0x30000 }
def rRun : Region := rC ct0
def rFzn : Region := { rC ct0 with st := rFrozen, settled := true, chain := [(0x30000, 0)], rcb := 0x30000 }
def rIdl : Region := { rC ct0 with st := rIdle }
def sRy : State := sCr 1 0 rRdy
def sRu : State := sCr 1 0 rRun
def sFz : State := sCr 1 0 rFzn
def sId : State := sCr 1 0 rIdl
def sSt : State := sCr 1 4 rRun
def eW : Wfe := { id := 9, part := 1, rid := 1 }
def sWt : State := { sCr 1 0x60000 rRun with wft := [(1, eW)] }
def ptrAt (s : State) (i : Issuer) (a : Nat) : Nat := match s.trOf i a with | some pa => (s.rdW pa).toNat | none => 0
theorem ancB {s : State} {i : Issuer} {r : Region} (h : (!nodeOk true { pa := r.rcb, w := s.rdWs r.rcb 8 } || nRoot { pa := r.rcb, w := s.rdWs r.rcb 8 }) = true)
    (f : State → State) : s.withAncestors i r f = f s := if_pos h
/-- A chain ends at its first block. -/
def chainStop (s : State) (i : Issuer) (a : Nat) : Bool :=
  match s.trOf i a with
  | none => true
  | some pa => !nodeOk true { pa := pa, w := s.rdWs pa 8 } || nRoot { pa := pa, w := s.rdWs pa 8 }
theorem withB {s : State} {a n : Nat} {wr : Bool} (f : List (Nat × Nat) → State) (h : exIsOk (s.hBlock a n wr) = true) :
    s.withBlock a n wr f = f (exOk (s.hBlock a n wr) []) := by
  unfold State.withBlock
  rw [ok_get [] h]
  rfl
theorem chainB {s : State} {i : Issuer} {a : Nat} (h1 : exIsOk (s.hBlock a 128 false) = true) (h2 : chainStop s i a = true) (f : State → State) :
    s.withChain 16 i a true f = f s := by
  show s.withBlock a 128 false _ = f s
  rw [withB _ h1]
  unfold chainStop at h2
  split
  · rfl
  · rename_i e
    rw [e] at h2
    exact if_pos h2
theorem loadB {s : State} {i : Issuer} {a : Nat} (h0 : exIsOk (s.hBlock a 128 false) = true) (h1 : chainStop s i a = true)
    (h2 : exIsOk (s.hBlock (ptrAt s i (a + 48)) 64 false) = true)
    (h3 : exIsOk (s.hBlock (ptrAt s i (a + 48)) (s.imgBytes i (ptrAt s i (a + 48))) false) = true) (h4 : ptrAt s i (a + 56) = 0) (f : State → State) :
    s.loadBlocks i a f = f s := by
  unfold State.loadBlocks
  rw [chainB h0 h1]
  show s.withBlock (ptrAt s i (a + 48)) 64 false (fun _ =>
      s.withBlock (ptrAt s i (a + 48)) (s.imgBytes i (ptrAt s i (a + 48))) false (fun _ =>
        if ptrAt s i (a + 56) = 0 ∨ ptrAt s i (a + 56) % 16 ≠ 0 then f s else s.withBlock (ptrAt s i (a + 56)) 16 true (fun _ => f s))) = f s
  rw [withB _ h2, withB _ h3, h4]
  rfl
def sFl : State := { sCr 0x30000 1 {} with regions := [] }
def rPr : Region := { rFzn with pair := true, rcb := 0x3F000 }
def sSh : State := sCr 0x30000 1 rPr
def rF0 : Region := { rid := 1, part := 1, st := rFrozen, settled := true }
def sSc0 : State := sCr 1 0x80000 rF0
def sRs : State := { sCr 0x30000 0x80000 {} with regions := [], mem := memT (wsAt 0x30000 (rcbW 7 0 0x20000 true) ++ [(0x80010, 4625088)]) }
def psOf (s : State) (a n : Nat) (wr : Bool) : List (Nat × Nat) := exOk (s.hBlock a n wr) []
def rShp : Region := { rFzn with shp := true }
def sSp : State := sCr 1 1 rShp
def rQs : Region := { rC ct0 with rid := 2, st := rShadow, host := some 1 }
def sSq : State := { sCr 1 2 rFzn with regions := [(1, rFzn), (2, rQs)] }
def sMv : State := sCr 1 5 rFzn

theorem wit_CrnControls_1 :
 (CrnMay sRy 4) ∧
 (CrnOn sRy (State.opA sRy xA) rRdy) ∧
 (State.region sRy rRdy.rid = rRdy) ∧
 (rRdy.mcheck = false) ∧
 (State.recWaits sRy rRdy.rid = false) ∧
 (∀ (f : State → State), State.withAncestors sRy (State.issuer sRy) rRdy f = f sRy) ∧
 (State.rechain sRy (State.issuer sRy) rRdy.rid = some (Option.get (State.rechain sRy (State.issuer sRy) rRdy.rid) (by decide +kernel))) ∧
 (rRdy.st = rReady) :=
  ⟨(mayHs rfl (by decide) rfl), rfl, rfl, rfl, rfl, (ancB (by decide +kernel)), (Option.some_get (by decide +kernel)).symm, rfl⟩

theorem wit_CrnControls_2 :
 (CrnMay sFz 4) ∧
 (CrnOn sFz (State.opA sFz xA) rFzn) ∧
 (State.region sFz rFzn.rid = rFzn) ∧
 (rFzn.mcheck = false) ∧
 (State.recWaits sFz rFzn.rid = false) ∧
 (∀ (f : State → State), State.withAncestors sFz (State.issuer sFz) rFzn f = f sFz) ∧
 (State.rechain sFz (State.issuer sFz) rFzn.rid = some (Option.get (State.rechain sFz (State.issuer sFz) rFzn.rid) (by decide +kernel))) ∧
 (rFzn.st = rFrozen) :=
  ⟨(mayHs rfl (by decide) rfl), rfl, rfl, rfl, rfl, (ancB (by decide +kernel)), (Option.some_get (by decide +kernel)).symm, rfl⟩

theorem wit_CrnControls_3 :
 (CrnMay sRu 5) ∧
 (CrnOn sRu (State.opA sRu xA) rRun) ∧
 (State.region sRu rRun.rid = rRun) ∧
 (rRun.st = rRunning) :=
  ⟨(mayHs rfl (by decide) rfl), rfl, rfl, rfl⟩

theorem wit_CrnControls_4 :
 (CrnMay sFz 5) ∧
 (CrnOn sFz (State.opA sFz xA) rFzn) ∧
 (State.region sFz rFzn.rid = rFzn) ∧
 (rFzn.st = rFrozen) :=
  ⟨(mayHs rfl (by decide) rfl), rfl, rfl, rfl⟩

theorem wit_CrnControls_5 :
 (CrnMay sRu 6) ∧
 (CrnOn sRu (State.opA sRu xA) rRun) ∧
 (State.region sRu rRun.rid = rRun) ∧
 (rRun.st = rRunning) ∧
 (rRun.parked = false) ∧
 (rRun.drain = none) ∧
 (State.longFull sRu (State.issuer sRu) = false) :=
  ⟨(mayHs rfl (by decide) rfl), rfl, rfl, rfl, rfl, rfl, (by decide +kernel)⟩

theorem wit_CrnControls_6 :
 (CrnMay sRu 1) ∧
 (State.ridOp sRu (State.issuer sRu) (State.opA sRu xA) true = Except.ok rRun) ∧
 (rRun.st ≠ rDying) :=
  ⟨(mayHs rfl (by decide) rfl), rfl, (by decide)⟩

theorem wit_CrnControls_7 :
 (CrnMay sId 15) ∧
 (CrnOn sId (State.opA sId xA) rIdl) ∧
 (State.region sId rIdl.rid = rIdl) ∧
 (State.opB sId xA = 0) ∧
 (rIdl.st = rIdle) :=
  ⟨(mayHs rfl (by decide) rfl), rfl, rfl, rfl, rfl⟩

theorem wit_CrnControls_8 :
 (CrnMay sRu 15) ∧
 (CrnOn sRu (State.opA sRu xA) rRun) ∧
 (State.region sRu rRun.rid = rRun) ∧
 (State.opB sRu xA = 0) ∧
 (rRun.st = rRunning ∨ rRun.st = rFrozen) ∧
 (rRun.rpq = false) :=
  ⟨(mayHs rfl (by decide) rfl), rfl, rfl, rfl, (Or.inl rfl), rfl⟩

theorem wit_CrnControls_9 :
 (CrnMay sRu 14) ∧
 (BitVec.toNat (State.opA sRu xA) < 4096) ∧
 (State.region? sRu (BitVec.toNat (State.opA sRu xA)) = some rRun) ∧
 (State.foreign sRu (State.issuer sRu) rRun.part = false) ∧
 (BitVec.toNat (State.opB sRu xA) ≤ 7) ∧
 (State.opB sRu xA ≠ 4) :=
  ⟨(mayHs rfl (by decide) rfl), (by decide), rfl, rfl, (by decide), (by decide)⟩

theorem wit_CrnControls_10 :
 (CrnMay sSt 14) ∧
 (BitVec.toNat (State.opA sSt xA) < 4096) ∧
 (State.region? sSt (BitVec.toNat (State.opA sSt xA)) = some rRun) ∧
 (State.foreign sSt (State.issuer sSt) rRun.part = false) ∧
 (BitVec.toNat (State.opB sSt xA) ≤ 7) ∧
 (State.opB sSt xA = 4) :=
  ⟨(mayHs rfl (by decide) rfl), (by decide), rfl, rfl, (by decide), rfl⟩

theorem wit_CrnControls_11 :
 (CrnMay sWt 16) ∧
 (BitVec.toNat (State.opA sWt xA) < Config.wftEntries) ∧
 (BitVec.toNat (State.opB sWt xA) % 32 = 0) ∧
 (tfind sWt.wft (BitVec.toNat (State.opA sWt xA)) = some eW) ∧
 (State.foreign sWt (State.issuer sWt) eW.part = false) ∧
 (Reach sWt (State.opB sWt xA) 32 true [(393216, 32)]) :=
  ⟨(mayHs rfl (by decide) rfl), (by decide), (by decide), rfl, rfl, (okIs_eq (by decide +kernel))⟩

theorem wit_CrnControls_12 :
 (CrnMay sWt 17) ∧
 (BitVec.toNat (State.opA sWt xA) < Config.wftEntries) ∧
 (tfind sWt.wft (BitVec.toNat (State.opA sWt xA)) = some eW) ∧
 (State.foreign sWt (State.issuer sWt) eW.part = false) ∧
 ((State.region sWt eW.rid).busy = false) :=
  ⟨(mayHs rfl (by decide) rfl), (by decide), rfl, rfl, rfl⟩

set_option maxRecDepth 16384 in
theorem wit_CrnPlacements_1 :
 (CrnMay sFl 0) ∧
 (BitVec.toNat (State.opA sFl xA) % 128 = 0) ∧
 (BitVec.toNat (State.opB sFl xA) < 2) ∧
 (∀ (f : State → State), State.loadBlocks sFl (State.issuer sFl) (BitVec.toNat (State.opA sFl xA)) f = f sFl) ∧
 (State.loadIssue sFl (State.issuer sFl) (BitVec.toNat (State.opA sFl xA)) (BitVec.getLsbD (State.opB sFl xA) 0) =
  Except.ok (exOk (State.loadIssue sFl (State.issuer sFl) (BitVec.toNat (State.opA sFl xA)) (BitVec.getLsbD (State.opB sFl xA) 0)) { : State })) :=
  ⟨(mayHs rfl (by decide) rfl), (by decide), (by decide), (loadB (by decide +kernel) (by decide +kernel) (by decide +kernel) (by decide +kernel) (by decide +kernel)), (ok_get {} (by decide +kernel))⟩

set_option maxRecDepth 16384 in
theorem wit_CrnPlacements_2 :
 (CrnMay sSh 2) ∧
 (BitVec.toNat (State.opA sSh xA) % 128 = 0) ∧
 (CrnOn sSh (State.opB sSh xA) rPr) ∧
 (∀ (f : State → State), State.loadBlocks sSh (State.issuer sSh) (BitVec.toNat (State.opA sSh xA)) f = f sSh) ∧
 (State.shadowIssue sSh (State.issuer sSh) (BitVec.toNat (State.opA sSh xA)) rPr =
  Except.ok (exOk (State.shadowIssue sSh (State.issuer sSh) (BitVec.toNat (State.opA sSh xA)) rPr) { : State })) :=
  ⟨(mayHs rfl (by decide) rfl), (by decide), rfl, (loadB (by decide +kernel) (by decide +kernel) (by decide +kernel) (by decide +kernel) (by decide +kernel)), (ok_get {} (by decide +kernel))⟩

theorem wit_CrnPlacements_3 :
 (CrnMay sSp 3) ∧
 (CrnOn sSp (State.opA sSp xA) rShp) ∧
 (CrnOn sSp (State.opB sSp xA) rShp) ∧
 (rShp.st = rFrozen) ∧
 (rShp.mcheck = false) ∧
 (rShp.settled = true) ∧
 (rShp.rid = rShp.rid) ∧
 (rShp.shp = true) :=
  ⟨(mayHs rfl (by decide) rfl), rfl, rfl, rfl, rfl, rfl, rfl, rfl⟩

theorem wit_CrnPlacements_4 :
 (CrnMay sSq 3) ∧
 (CrnOn sSq (State.opA sSq xA) rFzn) ∧
 (CrnOn sSq (State.opB sSq xA) rQs) ∧
 (rFzn.st = rFrozen) ∧
 (rFzn.mcheck = false) ∧
 (rFzn.settled = true) ∧
 (rQs.rid ≠ rFzn.rid) ∧
 (rQs.st = rShadow) ∧
 (rQs.host = some rFzn.rid) :=
  ⟨(mayHs rfl (by decide) rfl), rfl, rfl, rfl, rfl, rfl, (by decide), rfl, rfl⟩

theorem wit_CrnPlacements_5 :
 (CrnMay sSc0 7) ∧
 (CrnOn sSc0 (State.opA sSc0 xA) rF0) ∧
 (rF0.st ∈ [rReady, rFrozen, rIdle, rShadow]) ∧
 (rF0.mcheck = false) ∧
 (BitVec.toNat (State.opB sSc0 xA) % 4096 = 0) ∧
 (State.longFull sSc0 (State.issuer sSc0) = false) ∧
 (Reach sSc0 (State.opB sSc0 xA) (8 * List.length (State.rsiWords sSc0 rF0)) true (psOf sSc0 524288 (8 * List.length (State.rsiWords sSc0 rF0)) true)) :=
  ⟨(mayHs rfl (by decide) rfl), rfl, (by decide), rfl, (by decide), (by decide +kernel), (ok_get [] (by decide +kernel))⟩

theorem wit_CrnPlacements_6 :
 (CrnMay sRs 8) ∧
 (BitVec.toNat (State.opA sRs xA) % 128 = 0) ∧
 (BitVec.toNat (State.opB sRs xA) % 4096 = 0) ∧
 (∀ (f : State → State), State.withChain 16 sRs (State.issuer sRs) (BitVec.toNat (State.opA sRs xA)) true f = f sRs) ∧
 (Reach sRs (State.opB sRs xA) 512 false (psOf sRs 524288 512 false)) ∧
 (BitVec.toNat (State.imgWord sRs (State.issuer sRs) (BitVec.toNat (State.opB sRs xA)) 16) < 2 ^ 40) ∧
 (Reach sRs (State.opB sRs xA) (BitVec.toNat (State.imgWord sRs (State.issuer sRs) (BitVec.toNat (State.opB sRs xA)) 16)) false
  (psOf sRs 524288 4625088 false)) ∧
 (State.trOf sRs (State.issuer sRs) (BitVec.toNat (State.opA sRs xA) + 56) = some 196664) ∧
 (State.rdW sRs 196664 = 0) ∧
 (State.restIssue sRs (State.issuer sRs) (BitVec.toNat (State.opA sRs xA)) (BitVec.toNat (State.opB sRs xA)) false =
  Except.ok (exOk (State.restIssue sRs (State.issuer sRs) (BitVec.toNat (State.opA sRs xA)) (BitVec.toNat (State.opB sRs xA)) false) { : State })) :=
  ⟨(mayHs rfl (by decide) rfl), (by decide), (by decide), (chainB (by decide +kernel) (by decide +kernel)), (ok_get [] (by decide +kernel)), (by decide +kernel), (ok_get [] (by decide +kernel)), (by decide +kernel), (by decide +kernel), (ok_get {} (by decide +kernel))⟩

theorem wit_CrnPlacements_7 :
 (CrnMay sMv 9) ∧
 (CrnOn sMv (State.opA sMv xA) rFzn) ∧
 (rFzn.st ∈ [rReady, rRunning, rFrozen, rIdle]) ∧
 (BitVec.toNat (State.opB sMv xA) % 1024 < 768 ∨ BitVec.toNat (State.opB sMv xA) % 1024 = 1023) ∧
 (State.longFull sMv (State.issuer sMv) = false) ∧
 (∀ (q : Nat), q ∈ State.moveSet sMv rFzn.rid → (State.region sMv q).busy = false ∧ (State.region sMv q).st ≠ rDying) :=
  ⟨(mayHs rfl (by decide) rfl), rfl, (by decide), (Or.inl (by decide)), (by decide +kernel), (by decide +kernel)⟩

end WitCobblers

/-! ### Pages -/

namespace WitPages

def xA : Xr := { rd := 3, rs1 := 1, rs2 := 2 }
theorem mayHs {s : State} {f : Nat} (h0 : (s.hart s.curHart).priv = .m) (h1 : s.curHart < 192) (h2 : s.ckptOn = false) : CrnMay s f :=
  ⟨by rw [h0]; rfl, .inl h1, fun h => (by rw [h0] at h; cases h), fun h => (by rw [h2] at h; cases h)⟩
def rTk : Region := { rC ct0 [(0, { buf := [tkD 7] })] with st := rFrozen, settled := true }
def sTk (m : List (Nat × Nat)) : State := { sC with mem := memT m, regions := [(1, rTk)], harts := [(0, { x := [(1, BitVec.ofNat 64 (2 ^ 52)), (2, 0x60000)] })], fc := 9 }
def sRg (w : List Nat) : State := { sC with mem := memT (wsAt 0x60000 w), regions := [(1, rTk)], harts := [(0, { x := [(1, 1), (2, 0x60000)] })], fc := 9 }
def sTk0 : State := sTk [(0x60010, 5)]
def sTkH : State := sTk (wsAt 0x60000 [3, 0, 0xF1])
def sRg0 : State := sRg [0, 1]
def qW (kind : Nat) : List Word := [0, BitVec.ofNat 64 (kind * 2 ^ 60), 0x30000, 0x60000]
def ptM : List (Nat × Nat) := [(0, 2 ^ 63 + 0x1000), (0x1000, 2 ^ 63 + 0x2000), (0x2000, 2 ^ 63 + 0x3000), (0x3000, 2 ^ 63 + 0x4000), (0x4000, 2 ^ 63 + 2 ^ 62 + 0x1000E)]
def pM : List Word := (([2 ^ 63 + 5 * 2 ^ 36] ++ List.replicate 13 0 ++ [2 ^ 52] ++ List.replicate 11 0 ++ [0x50000]) : List Nat).map (BitVec.ofNat 64)
def sMg (q : List Word) (m : Option Mig) (pt : List (Nat × Nat)) : State := { sP rP with mem := memT pt, parts := [(1, { desc := pM, migq := if q = [] then [] else [q], mig := m })] }
def sMgR : State := sMg [] none (wsAt 0x50000 [0, 1, 1] ++ wsAt 0x50040 [1, 2, 3, 4])
def sMgB : State := sMg (qW 5) none ptM
def sMgE : State := sMg (qW 2) none []
def sMgG : State := sMg (qW 2) none ptM
def mA : Mig := { kind := 2, l0 := BitVec.ofNat 64 (2 ^ 63 + 2 ^ 62 + 0x1000E), leaf := 0x4000, tgt := 0x30000 }
def mB : Mig := { mA with step := 3 }
def sMg1 : State := sMg [] (some mA) ptM
def sMg3 : State := sMg [] (some mB) ptM
def sMgS : State := sMg [] (some mB) []
/-- A leaf of a peer's page. -/
def leafP : Word := BitVec.ofNat 64 (2 ^ 63 + 2 ^ 62 + 2 ^ 42 + 0x1000E)
def sMgA : State := sMg (qW 1 ++ [0]) none ((0x4000, leafP.toNat) :: ptM.take 4)
def mP : Mig := { mA with step := 3, l0 := leafP }
def mQ : Mig := { mA with step := 4, l0 := leafP }
def mT : Mig := { mA with step := 6, kind := 3 }
def sMgP : State := sMg [] (some mP) ptM
def sMgQ : State := sMg [] (some mQ) ptM
def sMgT : State := sMg [] (some mT) ptM

theorem wit_CrnTokensExtents_1 :
 (fld (State.opA sTk0 xA) 51 22 = 0) ∧
 (fld (State.opA sTk0 xA) 15 13 = 0) ∧
 (fld (State.opA sTk0 xA) 7 2 = 0) ∧
 (BitVec.toNat (State.opB sTk0 xA) % 8 = 0) ∧
 (CrnOn sTk0 (BitVec.ofNat 64 (fld (State.opA sTk0 xA) 63 52)) rTk) ∧
 (rTk.st = rFrozen) ∧
 (rowTile rTk sTk0.curHart (fld (State.opA sTk0 xA) 21 16) = some 0) ∧
 (chOf 0 (fld (State.opA sTk0 xA) 12 8) = some 0) ∧
 (CrnMay sTk0 12) ∧
 (Reach sTk0 (State.opB sTk0 xA) 96 true [(393216, 96)]) ∧
 ((Region.chan rTk 0 0).buf[BitVec.toNat (State.opA sTk0 xA) % 4]? = some (tkD 7)) ∧
 (0 < 8) :=
  ⟨(by decide), (by decide), (by decide), (by decide), rfl, rfl, (by decide +kernel), rfl, (mayHs rfl (by decide) rfl), (okIs_eq (by decide +kernel)), (by decide +kernel), (by decide)⟩

theorem wit_CrnTokensExtents_2 :
 (fld (State.opA sTkH xA) 51 22 = 0) ∧
 (fld (State.opA sTkH xA) 15 13 = 0) ∧
 (fld (State.opA sTkH xA) 7 2 = 0) ∧
 (BitVec.toNat (State.opB sTkH xA) % 8 = 0) ∧
 (CrnOn sTkH (BitVec.ofNat 64 (fld (State.opA sTkH xA) 63 52)) rTk) ∧
 (rTk.st = rFrozen) ∧
 (rowTile rTk sTkH.curHart (fld (State.opA sTkH xA) 21 16) = some 0) ∧
 (chOf 0 (fld (State.opA sTkH xA) 12 8) = some 0) ∧
 (CrnMay sTkH 13) ∧
 (Reach sTkH (State.opB sTkH xA) 96 false [(393216, 96)]) ∧
 (State.rdWs sTkH 393216 12 = [3, 0, 241, 0, 0, 0, 0, 0, 0, 0, 0, 0]) ∧
 (0 < 8) ∧
 (fld 3 63 13 = 0) ∧
 (tokHw
    { pay := BitVec.zeroExtend 512 (241 : Word), pois := BitVec.ofNat 8 (fld 3 12 12), mark := BitVec.ofNat 2 (fld 3 1 0),
      col := BitVec.ofNat 10 (fld 3 11 2) : Token } =
  true) :=
  ⟨(by decide), (by decide), (by decide), (by decide), rfl, rfl, (by decide +kernel), rfl, (mayHs rfl (by decide) rfl), (okIs_eq (by decide +kernel)), (by decide +kernel), (by decide), (by decide), (by decide +kernel)⟩

theorem wit_CrnTokensExtents_3 :
 (fld (State.opA sTk0 xA) 51 22 = 0) ∧
 (fld (State.opA sTk0 xA) 15 13 = 0) ∧
 (fld (State.opA sTk0 xA) 7 2 = 0) ∧
 (BitVec.toNat (State.opB sTk0 xA) % 8 = 0) ∧
 (CrnOn sTk0 (BitVec.ofNat 64 (fld (State.opA sTk0 xA) 63 52)) rTk) ∧
 (rTk.st = rFrozen) ∧
 (rowTile rTk sTk0.curHart (fld (State.opA sTk0 xA) 21 16) = some 0) ∧
 (chOf 0 (fld (State.opA sTk0 xA) 12 8) = some 0) ∧
 (CrnMay sTk0 13) ∧
 (Reach sTk0 (State.opB sTk0 xA) 96 false [(393216, 96)]) ∧
 (State.rdWs sTk0 393216 12 = [0, 0, 5, 0, 0, 0, 0, 0, 0, 0, 0, 0]) ∧
 (0 < 8) ∧
 (fld 0 63 13 = 0) ∧
 (tokHw
    { pay := BitVec.zeroExtend 512 (5 : Word), pois := BitVec.ofNat 8 (fld 0 12 12), mark := BitVec.ofNat 2 (fld 0 1 0), col := BitVec.ofNat 10 (fld 0 11 2) :
      Token } =
  false) ∧
 (List.length (Region.chan rTk 0 0).buf < Config.scalarCap) :=
  ⟨(by decide), (by decide), (by decide), (by decide), rfl, rfl, (by decide +kernel), rfl, (mayHs rfl (by decide) rfl), (okIs_eq (by decide +kernel)), (by decide +kernel), (by decide), (by decide), (by decide +kernel), (by decide +kernel)⟩

theorem wit_CrnTokensExtents_4 :
 (CrnOn sRg0 (State.opA sRg0 xA) rTk) ∧
 (rTk.st ∈ [rReady, rRunning, rFrozen, rIdle]) ∧
 (BitVec.toNat (State.opB sRg0 xA) % 32 = 0) ∧
 (Reach sRg0 (State.opB sRg0 xA) 32 false [(393216, 32)]) ∧
 (CrnMay sRg0 10) ∧
 (rangeBlock (State.pieceWords sRg0 [(393216, 32)]) false = some (0, 1)) :=
  ⟨rfl, (by decide), (by decide), (okIs_eq (by decide +kernel)), (mayHs rfl (by decide) rfl), (by decide +kernel)⟩

theorem wit_CrnTokensExtents_5 :
 (CrnOn sRg0 (State.opA sRg0 xA) rTk) ∧
 (rTk.st ∈ [rReady, rRunning, rFrozen, rIdle]) ∧
 (BitVec.toNat (State.opB sRg0 xA) % 32 = 0) ∧
 (Reach sRg0 (State.opB sRg0 xA) 32 false [(393216, 32)]) ∧
 (CrnMay sRg0 11) ∧
 (rangeBlock (State.pieceWords sRg0 [(393216, 32)]) true = some (0, 1)) ∧
 ((State.part sRg0 rTk.part).mig = none) ∧
 (bitOf (List.getD (State.pieceWords sRg0 [(393216, 32)]) 1 0) 62 = false) ∧
 (bitOf (List.getD (State.pieceWords sRg0 [(393216, 32)]) 1 0) 63 = false) ∧
 (peerLeft (State.region (State.invalPages sRg0 rTk.rid 0 1) rTk.rid) 0 1 = false) :=
  ⟨rfl, (by decide), (by decide), (okIs_eq (by decide +kernel)), (mayHs rfl (by decide) rfl), (by decide +kernel), rfl, (by decide +kernel), (by decide +kernel), (by decide +kernel)⟩

theorem wit_MigrationSteps_1 :
 State.ringTake sMgR 1 26 4 = ((State.ringTake sMgR 1 26 4).fst, some [1, 2, 3, 4]) :=
  (prod_snd (by decide +kernel))

theorem wit_MigrationSteps_2 :
 (State.ckptOn sMgB = false) ∧
 ((State.part sMgB 1).mig = none) ∧
 ((State.part sMgB 1).migq = [qW 5]) ∧
 (migBad (qW 5) = true) ∧
 (BitVec.toNat (List.getD (qW 5) 3 0) % 8 = 0) :=
  ⟨rfl, rfl, rfl, (by decide +kernel), (by decide +kernel)⟩

theorem wit_MigrationSteps_3 :
 (State.ckptOn sMgE = false) ∧
 ((State.part sMgE 1).mig = none) ∧
 ((State.part sMgE 1).migq = [qW 2]) ∧
 (migBad (qW 2) = false) ∧
 (State.walk
    (State.updPart sMgE 1 fun (p : Part) =>
      { desc := p.desc, root := p.root, slice := p.slice, tlb := p.tlb, lqStop := p.lqStop, lqSeen := p.lqSeen, untrk := p.untrk, spill := p.spill,
        holds := p.holds, calls := p.calls, arr := p.arr, files := p.files, conns := p.conns, lists := p.lists, server := p.server, mig := p.mig,
        epoch := p.epoch : Part })
    1 (fld (List.getD (qW 2) 0 0) 56 16 * 2 ^ 16) =
  Except.error
    (exErr
      (State.walk
        (State.updPart sMgE 1 fun (p : Part) =>
          { desc := p.desc, root := p.root, slice := p.slice, tlb := p.tlb, lqStop := p.lqStop, lqSeen := p.lqSeen, untrk := p.untrk,
            spill := p.spill, holds := p.holds, calls := p.calls, arr := p.arr, files := p.files, conns := p.conns, lists := p.lists,
            server := p.server, mig := p.mig, epoch := p.epoch : Part })
        1 (fld (List.getD (qW 2) 0 0) 56 16 * 2 ^ 16))
      { lvl := 9 : Miss })) :=
  ⟨rfl, rfl, rfl, (by decide +kernel), (err_get ⟨9, false⟩ (by decide +kernel))⟩

theorem wit_MigrationSteps_4 :
 (State.ckptOn sMgG = false) ∧
 ((State.part sMgG 1).mig = none) ∧
 ((State.part sMgG 1).migq = [qW 2]) ∧
 (migBad (qW 2) = false) ∧
 (State.walk
    (State.updPart sMgG 1 fun (p : Part) =>
      { desc := p.desc, root := p.root, slice := p.slice, tlb := p.tlb, lqStop := p.lqStop, lqSeen := p.lqSeen, untrk := p.untrk, spill := p.spill,
        holds := p.holds, calls := p.calls, arr := p.arr, files := p.files, conns := p.conns, lists := p.lists, server := p.server, mig := p.mig,
        epoch := p.epoch : Part })
    1 (fld (List.getD (qW 2) 0 0) 56 16 * 2 ^ 16) =
  Except.ok ((BitVec.ofNat 64 (2 ^ 63 + 2 ^ 62 + 65550), 5), 16384)) ∧
 (5 = 4 → 2 ≤ fld (List.getD (qW 2) 1 0) 63 60) ∧
 (2 ≤ fld (List.getD (qW 2) 1 0) 63 60 → (fld (List.getD (qW 2) 2 0) 41 0 % if 5 = 4 then 2 ^ 21 else 2 ^ 16) = 0) ∧
 (leafPeer (BitVec.ofNat 64 (2 ^ 63 + 2 ^ 62 + 65550)) = false) ∧
 (List.length (qW 2) = 4 ∨ 5 ≠ 4) ∧
 (State.migTarget
    (State.updPart sMgG 1 fun (p : Part) =>
      { desc := p.desc, root := p.root, slice := p.slice, tlb := p.tlb, lqStop := p.lqStop, lqSeen := p.lqSeen, untrk := p.untrk, spill := p.spill,
        holds := p.holds, calls := p.calls, arr := p.arr, files := p.files, conns := p.conns, lists := p.lists, server := p.server, mig := p.mig,
        epoch := p.epoch : Part })
    1 (qW 2) (if 5 = 4 then 2 ^ 21 else 2 ^ 16) =
  ((State.migTarget
        (State.updPart sMgG 1 fun (p : Part) =>
          { desc := p.desc, root := p.root, slice := p.slice, tlb := p.tlb, lqStop := p.lqStop, lqSeen := p.lqSeen, untrk := p.untrk,
            spill := p.spill, holds := p.holds, calls := p.calls, arr := p.arr, files := p.files, conns := p.conns, lists := p.lists,
            server := p.server, mig := p.mig, epoch := p.epoch : Part })
        1 (qW 2) (if 5 = 4 then 2 ^ 21 else 2 ^ 16)).fst,
    Except.ok 196608)) :=
  ⟨rfl, rfl, rfl, (by decide +kernel), (okIs_eq (by decide +kernel)), (by decide), (by decide +kernel), (by decide +kernel), (by decide +kernel), (prod_ok (by decide +kernel))⟩

theorem wit_MigrationSteps_5 :
 (State.ckptOn sMgA = false) ∧
 ((State.part sMgA 1).mig = none) ∧
 ((State.part sMgA 1).migq = [qW 1 ++ [0]]) ∧
 (migBad (qW 1 ++ [0]) = false) ∧
 (List.length (qW 1 ++ [0]) ≠ 4) ∧
 (State.walk
    (State.updPart sMgA 1 fun (p : Part) =>
      { desc := p.desc, root := p.root, slice := p.slice, tlb := p.tlb, lqStop := p.lqStop, lqSeen := p.lqSeen, untrk := p.untrk, spill := p.spill,
        holds := p.holds, calls := p.calls, arr := p.arr, files := p.files, conns := p.conns, lists := p.lists, server := p.server, mig := p.mig,
        epoch := p.epoch : Part })
    1 (fld (List.getD (qW 1 ++ [0]) 0 0) 56 16 * 2 ^ 16) =
  Except.ok ((leafP, 5), 16384)) ∧
 (fld (List.getD (qW 1 ++ [0]) 1 0) 63 60 < 2) ∧
 (5 ≠ 4) ∧
 (leafPeer leafP = true) :=
  ⟨rfl, rfl, rfl, (by decide +kernel), (by decide +kernel), (okIs_eq (by decide +kernel)), (by decide +kernel), (by decide), (by decide +kernel)⟩

theorem wit_MigrationSteps_6 :
 ((State.part sMg1 1).mig = some mA) ∧
 (mA.step = 1) ∧
 (State.migDrained sMg1 1 mA = true) :=
  ⟨rfl, rfl, (by decide +kernel)⟩

theorem wit_MigrationSteps_7 :
 ((State.part sMg3 1).mig = some mB) ∧
 (mB.step = 3) ∧
 (mB.tags = []) ∧
 (leafPeer mB.l0 = false) ∧
 (mB.kind ≠ 3) :=
  ⟨rfl, rfl, rfl, (by decide +kernel), (by decide)⟩

theorem wit_MigrationSteps_8 :
 ((State.part sMgP 1).mig = some mP) ∧
 (mP.step = 3) ∧
 (mP.tags = []) ∧
 (leafPeer mP.l0 = true) :=
  ⟨rfl, rfl, rfl, (by decide +kernel)⟩

theorem wit_MigrationSteps_9 :
 ((State.part sMgQ 1).mig = some mQ) ∧
 (mQ.step = 4) ∧
 (mQ.tags = []) ∧
 (leafPeer mQ.l0 = true) ∧
 (mQ.kind ≠ 3) :=
  ⟨rfl, rfl, rfl, (by decide +kernel), (by decide)⟩

theorem wit_MigrationSteps_10 :
 ((State.part sMgT 1).mig = some mT) ∧
 (mT.step = 6) ∧
 (mT.tags = []) :=
  ⟨rfl, rfl, rfl⟩

theorem wit_MigrationSteps_11 :
 (State.rd8 sMgS mB.leaf).bits ≠ mB.l0 ∨ (State.rd8 sMgS mB.leaf).pois = true :=
  (Or.inl (by decide +kernel))

end WitPages

/-! ### Calls -/

namespace WitCalls

def oSys (n : Nat) : PendOp := { slot := 3, code := 0xF0, ti := { dst := 4 }, a := gAt 0 0x200, b := { bits := BitVec.ofNat 64 n }, ph := 5 }
def rSys (n : Nat) : Region := { rC { ct0 with ops := [(3, oSys n)] } with caps := [(0, capOf 0 0x20000 0xFF)] }
def pSys : List Word := ([5 * 2 ^ 36, 2 ^ 42 + 4 * 2 ^ 30] ++ List.replicate 12 0 ++ [2 ^ 52]).map (BitVec.ofNat 64)
def sSys (n : Nat) (args : List Nat) (pm : Nat) : State :=
  { sP (rSys n) with mem := memT (pt0 ++ [(0x4008, 2 ^ 63 + 2 ^ 62 + 0x2000E)] ++ wsAt 0x10200 (args ++ List.replicate (6 - args.length) 0 ++ [pm])),
                     parts := [(1, { desc := pSys, files := [7], lists := [(5, (80, 4))], conns := [(6, { st := 3, blk := 0x1000 })] })] }
def gp (off : Nat) : Nat := 2 ^ 62 + off
def sysCallOf (x : State × SysRes) : Nat × List Word := match x.2 with | .call n a => (n, a) | _ => (0, [])
def isSysCall (x : State × SysRes) : Bool := match x.2 with | .call _ _ => true | _ => false
theorem call_ok {x : State × SysRes} {n : Nat} (h : isSysCall x = true ∧ (sysCallOf x).1 = n) : x = (x.1, .call n (sysCallOf x).2) := by
  obtain ⟨a, b⟩ := x
  cases b with
  | call m l =>
    have : m = n := h.2
    subst this; rfl
  | _ => cases h.1
theorem some_ok {α β γ : Type} {p : α × Except β (Option γ)} (d : γ) (h : (match p.2 with | .ok (some _) => true | _ => false) = true) :
    p = (p.1, .ok (some (match p.2 with | .ok (some x) => x | _ => d))) := by
  obtain ⟨a, b⟩ := p
  cases b with
  | error _ => cases h
  | ok o => cases o with
    | none => cases h
    | some x => rfl
def sy1 : State := sSys 1 [gp 0x10300, 4, 0] 1
def sy2 : State := sSys 2 [7, gp 0x10300, 8] 2
def sy3 : State := sSys 3 [7, gp 0x10300, 8] 2
def sy10 : State := sSys 0x10 [gp 0x10300, gp 0x11000, 12, 12] 3
def sy11 : State := sSys 0x11 [80, 4] 0
def sy12 : State := sSys 0x12 [5, gp 0x11000, 12, 12] 2
def sy13 : State := sSys 0x13 [6] 0
def sy20 : State := sSys 0x20 [gp 0x10300, 16] 1
def sy21 : State := sSys 0x21 [gp 0x10300] 1
def sy4 : State := sSys 4 [7] 0
def sy5 : State := sSys 5 [7] 0
def psZ (s : State) (va n : Nat) (op : MOp) : State × Except TrapInfo (Option (List (Nat × Nat))) := s.svcMap 1 (clusterOf (s.region 1) 0) va n op
def psA (s : State) (op : MOp) : State × Except TrapInfo (Option (List (Nat × Nat))) :=
  let x := s.sysTry 1 0 3
  x.1.svcMap (x.1.region 1).part (clusterOf (x.1.region 1) 0) (ptrVa (x.1.region 1) ((sysCallOf x).2.getD 0 0)) ((sysCallOf x).2.getD 1 0).toNat op

theorem wit_SystemCalls_1 :
 (State.sysTry (State.sysNote sy2 (State.region sy2 1).part) 1 0 3 =
  ((State.sysTry (State.sysNote sy2 (State.region sy2 1).part) 1 0 3).fst,
    SysRes.call 2 (sysCallOf (State.sysTry (State.sysNote sy2 (State.region sy2 1).part) 1 0 3)).snd)) ∧
 (List.length
    (State.part (State.sysTry (State.sysNote sy2 (State.region sy2 1).part) 1 0 3).fst
        (State.region (State.sysTry (State.sysNote sy2 (State.region sy2 1).part) 1 0 3).fst 1).part).calls <
  (State.arrival (State.sysTry (State.sysNote sy2 (State.region sy2 1).part) 1 0 3).fst 1 0 3).sysq) ∧
 (State.sysBehind (State.sysTry (State.sysNote sy2 (State.region sy2 1).part) 1 0 3).fst 1 0 3 2
    (sysCallOf (State.sysTry (State.sysNote sy2 (State.region sy2 1).part) 1 0 3)).snd =
  false) ∧
 (2 = 2) :=
  ⟨(call_ok (by decide +kernel)), (by decide +kernel), (by decide +kernel), rfl⟩

theorem wit_SystemCalls_2 :
 (State.sysTry (State.sysNote sy4 (State.region sy4 1).part) 1 0 3 =
  ((State.sysTry (State.sysNote sy4 (State.region sy4 1).part) 1 0 3).fst,
    SysRes.call 4 (sysCallOf (State.sysTry (State.sysNote sy4 (State.region sy4 1).part) 1 0 3)).snd)) ∧
 (List.length
    (State.part (State.sysTry (State.sysNote sy4 (State.region sy4 1).part) 1 0 3).fst
        (State.region (State.sysTry (State.sysNote sy4 (State.region sy4 1).part) 1 0 3).fst 1).part).calls <
  (State.arrival (State.sysTry (State.sysNote sy4 (State.region sy4 1).part) 1 0 3).fst 1 0 3).sysq) ∧
 (State.sysBehind (State.sysTry (State.sysNote sy4 (State.region sy4 1).part) 1 0 3).fst 1 0 3 4
    (sysCallOf (State.sysTry (State.sysNote sy4 (State.region sy4 1).part) 1 0 3)).snd =
  false) ∧
 (4 = 4) :=
  ⟨(call_ok (by decide +kernel)), (by decide +kernel), (by decide +kernel), rfl⟩

theorem wit_SystemCalls_3 :
 (State.sysTry (State.sysNote sy5 (State.region sy5 1).part) 1 0 3 =
  ((State.sysTry (State.sysNote sy5 (State.region sy5 1).part) 1 0 3).fst,
    SysRes.call 5 (sysCallOf (State.sysTry (State.sysNote sy5 (State.region sy5 1).part) 1 0 3)).snd)) ∧
 (List.length
    (State.part (State.sysTry (State.sysNote sy5 (State.region sy5 1).part) 1 0 3).fst
        (State.region (State.sysTry (State.sysNote sy5 (State.region sy5 1).part) 1 0 3).fst 1).part).calls <
  (State.arrival (State.sysTry (State.sysNote sy5 (State.region sy5 1).part) 1 0 3).fst 1 0 3).sysq) ∧
 (State.sysBehind (State.sysTry (State.sysNote sy5 (State.region sy5 1).part) 1 0 3).fst 1 0 3 5
    (sysCallOf (State.sysTry (State.sysNote sy5 (State.region sy5 1).part) 1 0 3)).snd =
  false) ∧
 (5 = 5) :=
  ⟨(call_ok (by decide +kernel)), (by decide +kernel), (by decide +kernel), rfl⟩

theorem wit_SystemCalls_4 :
 (State.sysTry (State.sysNote sy1 (State.region sy1 1).part) 1 0 3 =
  ((State.sysTry (State.sysNote sy1 (State.region sy1 1).part) 1 0 3).fst,
    SysRes.call 1 (sysCallOf (State.sysTry (State.sysNote sy1 (State.region sy1 1).part) 1 0 3)).snd)) ∧
 (List.length
    (State.part (State.sysTry (State.sysNote sy1 (State.region sy1 1).part) 1 0 3).fst
        (State.region (State.sysTry (State.sysNote sy1 (State.region sy1 1).part) 1 0 3).fst 1).part).calls <
  (State.arrival (State.sysTry (State.sysNote sy1 (State.region sy1 1).part) 1 0 3).fst 1 0 3).sysq) ∧
 (State.sysBehind (State.sysTry (State.sysNote sy1 (State.region sy1 1).part) 1 0 3).fst 1 0 3 1
    (sysCallOf (State.sysTry (State.sysNote sy1 (State.region sy1 1).part) 1 0 3)).snd =
  false) ∧
 (State.poisPieces
    (State.svcMap (State.sysTry (State.sysNote sy1 (State.region sy1 1).part) 1 0 3).fst
        (State.region (State.sysTry (State.sysNote sy1 (State.region sy1 1).part) 1 0 3).fst 1).part
        (clusterOf (State.region (State.sysTry (State.sysNote sy1 (State.region sy1 1).part) 1 0 3).fst 1) 0)
        (ptrVa (State.region (State.sysTry (State.sysNote sy1 (State.region sy1 1).part) 1 0 3).fst 1)
          (List.getD (sysCallOf (State.sysTry (State.sysNote sy1 (State.region sy1 1).part) 1 0 3)).snd 0 0))
        (BitVec.toNat (List.getD (sysCallOf (State.sysTry (State.sysNote sy1 (State.region sy1 1).part) 1 0 3)).snd 1 0)) (MOp.read 8)).fst
    [(131840, 4)] =
  false) ∧
 (1 = 1) ∧
 (State.svcHeld (State.sysTry (State.sysNote sy1 (State.region sy1 1).part) 1 0 3).fst
    (State.region (State.sysTry (State.sysNote sy1 (State.region sy1 1).part) 1 0 3).fst 1)
    (List.getD (sysCallOf (State.sysTry (State.sysNote sy1 (State.region sy1 1).part) 1 0 3)).snd 0 0)
    (BitVec.toNat (List.getD (sysCallOf (State.sysTry (State.sysNote sy1 (State.region sy1 1).part) 1 0 3)).snd 1 0)) =
  false) ∧
 (State.svcMap (State.sysTry (State.sysNote sy1 (State.region sy1 1).part) 1 0 3).fst
    (State.region (State.sysTry (State.sysNote sy1 (State.region sy1 1).part) 1 0 3).fst 1).part
    (clusterOf (State.region (State.sysTry (State.sysNote sy1 (State.region sy1 1).part) 1 0 3).fst 1) 0)
    (ptrVa (State.region (State.sysTry (State.sysNote sy1 (State.region sy1 1).part) 1 0 3).fst 1)
      (List.getD (sysCallOf (State.sysTry (State.sysNote sy1 (State.region sy1 1).part) 1 0 3)).snd 0 0))
    (BitVec.toNat (List.getD (sysCallOf (State.sysTry (State.sysNote sy1 (State.region sy1 1).part) 1 0 3)).snd 1 0)) (MOp.read 8) =
  ((State.svcMap (State.sysTry (State.sysNote sy1 (State.region sy1 1).part) 1 0 3).fst
        (State.region (State.sysTry (State.sysNote sy1 (State.region sy1 1).part) 1 0 3).fst 1).part
        (clusterOf (State.region (State.sysTry (State.sysNote sy1 (State.region sy1 1).part) 1 0 3).fst 1) 0)
        (ptrVa (State.region (State.sysTry (State.sysNote sy1 (State.region sy1 1).part) 1 0 3).fst 1)
          (List.getD (sysCallOf (State.sysTry (State.sysNote sy1 (State.region sy1 1).part) 1 0 3)).snd 0 0))
        (BitVec.toNat (List.getD (sysCallOf (State.sysTry (State.sysNote sy1 (State.region sy1 1).part) 1 0 3)).snd 1 0)) (MOp.read 8)).fst,
    Except.ok (some [(131840, 4)]))) :=
  ⟨(call_ok (by decide +kernel)), (by decide +kernel), (by decide +kernel), (by decide +kernel), rfl, (by decide +kernel), (prod_ok (by decide +kernel))⟩

theorem wit_SystemCalls_5 :
 (State.sysTry (State.sysNote sy3 (State.region sy3 1).part) 1 0 3 =
  ((State.sysTry (State.sysNote sy3 (State.region sy3 1).part) 1 0 3).fst,
    SysRes.call 3 (sysCallOf (State.sysTry (State.sysNote sy3 (State.region sy3 1).part) 1 0 3)).snd)) ∧
 (List.length
    (State.part (State.sysTry (State.sysNote sy3 (State.region sy3 1).part) 1 0 3).fst
        (State.region (State.sysTry (State.sysNote sy3 (State.region sy3 1).part) 1 0 3).fst 1).part).calls <
  (State.arrival (State.sysTry (State.sysNote sy3 (State.region sy3 1).part) 1 0 3).fst 1 0 3).sysq) ∧
 (State.sysBehind (State.sysTry (State.sysNote sy3 (State.region sy3 1).part) 1 0 3).fst 1 0 3 3
    (sysCallOf (State.sysTry (State.sysNote sy3 (State.region sy3 1).part) 1 0 3)).snd =
  false) ∧
 (State.poisPieces
    (State.svcMap (State.sysTry (State.sysNote sy3 (State.region sy3 1).part) 1 0 3).fst
        (State.region (State.sysTry (State.sysNote sy3 (State.region sy3 1).part) 1 0 3).fst 1).part
        (clusterOf (State.region (State.sysTry (State.sysNote sy3 (State.region sy3 1).part) 1 0 3).fst 1) 0)
        (ptrVa (State.region (State.sysTry (State.sysNote sy3 (State.region sy3 1).part) 1 0 3).fst 1)
          (List.getD (sysCallOf (State.sysTry (State.sysNote sy3 (State.region sy3 1).part) 1 0 3)).snd 1 0))
        (BitVec.toNat (List.getD (sysCallOf (State.sysTry (State.sysNote sy3 (State.region sy3 1).part) 1 0 3)).snd 2 0)) (MOp.read 8)).fst
    [(131840, 8)] =
  false) ∧
 (3 = 3) ∧
 (State.svcHeld (State.sysTry (State.sysNote sy3 (State.region sy3 1).part) 1 0 3).fst
    (State.region (State.sysTry (State.sysNote sy3 (State.region sy3 1).part) 1 0 3).fst 1)
    (List.getD (sysCallOf (State.sysTry (State.sysNote sy3 (State.region sy3 1).part) 1 0 3)).snd 1 0)
    (BitVec.toNat (List.getD (sysCallOf (State.sysTry (State.sysNote sy3 (State.region sy3 1).part) 1 0 3)).snd 2 0)) =
  false) ∧
 (State.svcMap (State.sysTry (State.sysNote sy3 (State.region sy3 1).part) 1 0 3).fst
    (State.region (State.sysTry (State.sysNote sy3 (State.region sy3 1).part) 1 0 3).fst 1).part
    (clusterOf (State.region (State.sysTry (State.sysNote sy3 (State.region sy3 1).part) 1 0 3).fst 1) 0)
    (ptrVa (State.region (State.sysTry (State.sysNote sy3 (State.region sy3 1).part) 1 0 3).fst 1)
      (List.getD (sysCallOf (State.sysTry (State.sysNote sy3 (State.region sy3 1).part) 1 0 3)).snd 1 0))
    (BitVec.toNat (List.getD (sysCallOf (State.sysTry (State.sysNote sy3 (State.region sy3 1).part) 1 0 3)).snd 2 0)) (MOp.read 8) =
  ((State.svcMap (State.sysTry (State.sysNote sy3 (State.region sy3 1).part) 1 0 3).fst
        (State.region (State.sysTry (State.sysNote sy3 (State.region sy3 1).part) 1 0 3).fst 1).part
        (clusterOf (State.region (State.sysTry (State.sysNote sy3 (State.region sy3 1).part) 1 0 3).fst 1) 0)
        (ptrVa (State.region (State.sysTry (State.sysNote sy3 (State.region sy3 1).part) 1 0 3).fst 1)
          (List.getD (sysCallOf (State.sysTry (State.sysNote sy3 (State.region sy3 1).part) 1 0 3)).snd 1 0))
        (BitVec.toNat (List.getD (sysCallOf (State.sysTry (State.sysNote sy3 (State.region sy3 1).part) 1 0 3)).snd 2 0)) (MOp.read 8)).fst,
    Except.ok (some [(131840, 8)]))) :=
  ⟨(call_ok (by decide +kernel)), (by decide +kernel), (by decide +kernel), (by decide +kernel), rfl, (by decide +kernel), (prod_ok (by decide +kernel))⟩

theorem wit_SystemCalls_6 :
 (State.sysTry (State.sysNote sy10 (State.region sy10 1).part) 1 0 3 =
  ((State.sysTry (State.sysNote sy10 (State.region sy10 1).part) 1 0 3).fst,
    SysRes.call 16 (sysCallOf (State.sysTry (State.sysNote sy10 (State.region sy10 1).part) 1 0 3)).snd)) ∧
 (List.length
    (State.part (State.sysTry (State.sysNote sy10 (State.region sy10 1).part) 1 0 3).fst
        (State.region (State.sysTry (State.sysNote sy10 (State.region sy10 1).part) 1 0 3).fst 1).part).calls <
  (State.arrival (State.sysTry (State.sysNote sy10 (State.region sy10 1).part) 1 0 3).fst 1 0 3).sysq) ∧
 (State.sysBehind (State.sysTry (State.sysNote sy10 (State.region sy10 1).part) 1 0 3).fst 1 0 3 16
    (sysCallOf (State.sysTry (State.sysNote sy10 (State.region sy10 1).part) 1 0 3)).snd =
  false) ∧
 (State.poisPieces
    (State.svcMap (State.sysTry (State.sysNote sy10 (State.region sy10 1).part) 1 0 3).fst
        (State.region (State.sysTry (State.sysNote sy10 (State.region sy10 1).part) 1 0 3).fst 1).part
        (clusterOf (State.region (State.sysTry (State.sysNote sy10 (State.region sy10 1).part) 1 0 3).fst 1) 0)
        (ptrVa (State.region (State.sysTry (State.sysNote sy10 (State.region sy10 1).part) 1 0 3).fst 1)
          (List.getD (sysCallOf (State.sysTry (State.sysNote sy10 (State.region sy10 1).part) 1 0 3)).snd 0 0))
        18 (MOp.read 8)).fst
    [(131840, 18)] =
  false) ∧
 (16 = 16) ∧
 (State.svcHeld (State.sysTry (State.sysNote sy10 (State.region sy10 1).part) 1 0 3).fst
    (State.region (State.sysTry (State.sysNote sy10 (State.region sy10 1).part) 1 0 3).fst 1)
    (List.getD (sysCallOf (State.sysTry (State.sysNote sy10 (State.region sy10 1).part) 1 0 3)).snd 0 0) 18 =
  false) ∧
 (State.svcMap (State.sysTry (State.sysNote sy10 (State.region sy10 1).part) 1 0 3).fst
    (State.region (State.sysTry (State.sysNote sy10 (State.region sy10 1).part) 1 0 3).fst 1).part
    (clusterOf (State.region (State.sysTry (State.sysNote sy10 (State.region sy10 1).part) 1 0 3).fst 1) 0)
    (ptrVa (State.region (State.sysTry (State.sysNote sy10 (State.region sy10 1).part) 1 0 3).fst 1)
      (List.getD (sysCallOf (State.sysTry (State.sysNote sy10 (State.region sy10 1).part) 1 0 3)).snd 0 0))
    18 (MOp.read 8) =
  ((State.svcMap (State.sysTry (State.sysNote sy10 (State.region sy10 1).part) 1 0 3).fst
        (State.region (State.sysTry (State.sysNote sy10 (State.region sy10 1).part) 1 0 3).fst 1).part
        (clusterOf (State.region (State.sysTry (State.sysNote sy10 (State.region sy10 1).part) 1 0 3).fst 1) 0)
        (ptrVa (State.region (State.sysTry (State.sysNote sy10 (State.region sy10 1).part) 1 0 3).fst 1)
          (List.getD (sysCallOf (State.sysTry (State.sysNote sy10 (State.region sy10 1).part) 1 0 3)).snd 0 0))
        18 (MOp.read 8)).fst,
    Except.ok (some [(131840, 18)]))) :=
  ⟨(call_ok (by decide +kernel)), (by decide +kernel), (by decide +kernel), (by decide +kernel), rfl, (by decide +kernel), (prod_ok (by decide +kernel))⟩

theorem wit_SystemCalls_7 :
 (State.sysTry (State.sysNote sy20 (State.region sy20 1).part) 1 0 3 =
  ((State.sysTry (State.sysNote sy20 (State.region sy20 1).part) 1 0 3).fst,
    SysRes.call 32 (sysCallOf (State.sysTry (State.sysNote sy20 (State.region sy20 1).part) 1 0 3)).snd)) ∧
 (List.length
    (State.part (State.sysTry (State.sysNote sy20 (State.region sy20 1).part) 1 0 3).fst
        (State.region (State.sysTry (State.sysNote sy20 (State.region sy20 1).part) 1 0 3).fst 1).part).calls <
  (State.arrival (State.sysTry (State.sysNote sy20 (State.region sy20 1).part) 1 0 3).fst 1 0 3).sysq) ∧
 (State.sysBehind (State.sysTry (State.sysNote sy20 (State.region sy20 1).part) 1 0 3).fst 1 0 3 32
    (sysCallOf (State.sysTry (State.sysNote sy20 (State.region sy20 1).part) 1 0 3)).snd =
  false) ∧
 (32 = 32) ∧
 (State.svcHeld (State.sysTry (State.sysNote sy20 (State.region sy20 1).part) 1 0 3).fst
    (State.region (State.sysTry (State.sysNote sy20 (State.region sy20 1).part) 1 0 3).fst 1)
    (List.getD (sysCallOf (State.sysTry (State.sysNote sy20 (State.region sy20 1).part) 1 0 3)).snd 0 0)
    (BitVec.toNat (List.getD (sysCallOf (State.sysTry (State.sysNote sy20 (State.region sy20 1).part) 1 0 3)).snd 1 0)) =
  false) ∧
 (State.svcMap (State.sysTry (State.sysNote sy20 (State.region sy20 1).part) 1 0 3).fst
    (State.region (State.sysTry (State.sysNote sy20 (State.region sy20 1).part) 1 0 3).fst 1).part
    (clusterOf (State.region (State.sysTry (State.sysNote sy20 (State.region sy20 1).part) 1 0 3).fst 1) 0)
    (ptrVa (State.region (State.sysTry (State.sysNote sy20 (State.region sy20 1).part) 1 0 3).fst 1)
      (List.getD (sysCallOf (State.sysTry (State.sysNote sy20 (State.region sy20 1).part) 1 0 3)).snd 0 0))
    (BitVec.toNat (List.getD (sysCallOf (State.sysTry (State.sysNote sy20 (State.region sy20 1).part) 1 0 3)).snd 1 0)) (MOp.write 8 { : Val }) =
  ((State.svcMap (State.sysTry (State.sysNote sy20 (State.region sy20 1).part) 1 0 3).fst
        (State.region (State.sysTry (State.sysNote sy20 (State.region sy20 1).part) 1 0 3).fst 1).part
        (clusterOf (State.region (State.sysTry (State.sysNote sy20 (State.region sy20 1).part) 1 0 3).fst 1) 0)
        (ptrVa (State.region (State.sysTry (State.sysNote sy20 (State.region sy20 1).part) 1 0 3).fst 1)
          (List.getD (sysCallOf (State.sysTry (State.sysNote sy20 (State.region sy20 1).part) 1 0 3)).snd 0 0))
        (BitVec.toNat (List.getD (sysCallOf (State.sysTry (State.sysNote sy20 (State.region sy20 1).part) 1 0 3)).snd 1 0))
        (MOp.write 8 { : Val })).fst,
    Except.ok (some [(131840, 16)]))) :=
  ⟨(call_ok (by decide +kernel)), (by decide +kernel), (by decide +kernel), rfl, (by decide +kernel), (prod_ok (by decide +kernel))⟩

theorem wit_SystemCalls_8 :
 (State.sysTry (State.sysNote sy21 (State.region sy21 1).part) 1 0 3 =
  ((State.sysTry (State.sysNote sy21 (State.region sy21 1).part) 1 0 3).fst,
    SysRes.call 33 (sysCallOf (State.sysTry (State.sysNote sy21 (State.region sy21 1).part) 1 0 3)).snd)) ∧
 (List.length
    (State.part (State.sysTry (State.sysNote sy21 (State.region sy21 1).part) 1 0 3).fst
        (State.region (State.sysTry (State.sysNote sy21 (State.region sy21 1).part) 1 0 3).fst 1).part).calls <
  (State.arrival (State.sysTry (State.sysNote sy21 (State.region sy21 1).part) 1 0 3).fst 1 0 3).sysq) ∧
 (State.sysBehind (State.sysTry (State.sysNote sy21 (State.region sy21 1).part) 1 0 3).fst 1 0 3 33
    (sysCallOf (State.sysTry (State.sysNote sy21 (State.region sy21 1).part) 1 0 3)).snd =
  false) ∧
 (33 = 33) ∧
 (State.svcHeld (State.sysTry (State.sysNote sy21 (State.region sy21 1).part) 1 0 3).fst
    (State.region (State.sysTry (State.sysNote sy21 (State.region sy21 1).part) 1 0 3).fst 1)
    (List.getD (sysCallOf (State.sysTry (State.sysNote sy21 (State.region sy21 1).part) 1 0 3)).snd 0 0) 1 =
  false) ∧
 (State.svcMap (State.sysTry (State.sysNote sy21 (State.region sy21 1).part) 1 0 3).fst
    (State.region (State.sysTry (State.sysNote sy21 (State.region sy21 1).part) 1 0 3).fst 1).part
    (clusterOf (State.region (State.sysTry (State.sysNote sy21 (State.region sy21 1).part) 1 0 3).fst 1) 0)
    (ptrVa (State.region (State.sysTry (State.sysNote sy21 (State.region sy21 1).part) 1 0 3).fst 1)
      (List.getD (sysCallOf (State.sysTry (State.sysNote sy21 (State.region sy21 1).part) 1 0 3)).snd 0 0))
    1 (MOp.read 1) =
  ((State.svcMap (State.sysTry (State.sysNote sy21 (State.region sy21 1).part) 1 0 3).fst
        (State.region (State.sysTry (State.sysNote sy21 (State.region sy21 1).part) 1 0 3).fst 1).part
        (clusterOf (State.region (State.sysTry (State.sysNote sy21 (State.region sy21 1).part) 1 0 3).fst 1) 0)
        (ptrVa (State.region (State.sysTry (State.sysNote sy21 (State.region sy21 1).part) 1 0 3).fst 1)
          (List.getD (sysCallOf (State.sysTry (State.sysNote sy21 (State.region sy21 1).part) 1 0 3)).snd 0 0))
        1 (MOp.read 1)).fst,
    Except.ok (some [(131840, 1)]))) :=
  ⟨(call_ok (by decide +kernel)), (by decide +kernel), (by decide +kernel), rfl, (by decide +kernel), (prod_ok (by decide +kernel))⟩

theorem wit_SystemCalls_9 :
 (State.sysTry (State.sysNote sy11 (State.region sy11 1).part) 1 0 3 =
  ((State.sysTry (State.sysNote sy11 (State.region sy11 1).part) 1 0 3).fst,
    SysRes.call 17 (sysCallOf (State.sysTry (State.sysNote sy11 (State.region sy11 1).part) 1 0 3)).snd)) ∧
 (List.length
    (State.part (State.sysTry (State.sysNote sy11 (State.region sy11 1).part) 1 0 3).fst
        (State.region (State.sysTry (State.sysNote sy11 (State.region sy11 1).part) 1 0 3).fst 1).part).calls <
  (State.arrival (State.sysTry (State.sysNote sy11 (State.region sy11 1).part) 1 0 3).fst 1 0 3).sysq) ∧
 (State.sysBehind (State.sysTry (State.sysNote sy11 (State.region sy11 1).part) 1 0 3).fst 1 0 3 17
    (sysCallOf (State.sysTry (State.sysNote sy11 (State.region sy11 1).part) 1 0 3)).snd =
  false) ∧
 (17 = 17) :=
  ⟨(call_ok (by decide +kernel)), (by decide +kernel), (by decide +kernel), rfl⟩

theorem wit_SystemCalls_10 :
 (State.sysTry (State.sysNote sy12 (State.region sy12 1).part) 1 0 3 =
  ((State.sysTry (State.sysNote sy12 (State.region sy12 1).part) 1 0 3).fst,
    SysRes.call 18 (sysCallOf (State.sysTry (State.sysNote sy12 (State.region sy12 1).part) 1 0 3)).snd)) ∧
 (List.length
    (State.part (State.sysTry (State.sysNote sy12 (State.region sy12 1).part) 1 0 3).fst
        (State.region (State.sysTry (State.sysNote sy12 (State.region sy12 1).part) 1 0 3).fst 1).part).calls <
  (State.arrival (State.sysTry (State.sysNote sy12 (State.region sy12 1).part) 1 0 3).fst 1 0 3).sysq) ∧
 (State.sysBehind (State.sysTry (State.sysNote sy12 (State.region sy12 1).part) 1 0 3).fst 1 0 3 18
    (sysCallOf (State.sysTry (State.sysNote sy12 (State.region sy12 1).part) 1 0 3)).snd =
  false) ∧
 (18 = 18) ∧
 (Option.isSome
    (tfind
      (State.part (State.sysTry (State.sysNote sy12 (State.region sy12 1).part) 1 0 3).fst
          (State.region (State.sysTry (State.sysNote sy12 (State.region sy12 1).part) 1 0 3).fst 1).part).lists
      (BitVec.toNat (List.getD (sysCallOf (State.sysTry (State.sysNote sy12 (State.region sy12 1).part) 1 0 3)).snd 0 0))) =
  true) :=
  ⟨(call_ok (by decide +kernel)), (by decide +kernel), (by decide +kernel), rfl, (by decide +kernel)⟩

theorem wit_SystemCalls_11 :
 (State.sysTry (State.sysNote sy13 (State.region sy13 1).part) 1 0 3 =
  ((State.sysTry (State.sysNote sy13 (State.region sy13 1).part) 1 0 3).fst,
    SysRes.call 19 (sysCallOf (State.sysTry (State.sysNote sy13 (State.region sy13 1).part) 1 0 3)).snd)) ∧
 (List.length
    (State.part (State.sysTry (State.sysNote sy13 (State.region sy13 1).part) 1 0 3).fst
        (State.region (State.sysTry (State.sysNote sy13 (State.region sy13 1).part) 1 0 3).fst 1).part).calls <
  (State.arrival (State.sysTry (State.sysNote sy13 (State.region sy13 1).part) 1 0 3).fst 1 0 3).sysq) ∧
 (State.sysBehind (State.sysTry (State.sysNote sy13 (State.region sy13 1).part) 1 0 3).fst 1 0 3 19
    (sysCallOf (State.sysTry (State.sysNote sy13 (State.region sy13 1).part) 1 0 3)).snd =
  false) ∧
 (19 = 19) ∧
 (tfind
    (State.part (State.sysTry (State.sysNote sy13 (State.region sy13 1).part) 1 0 3).fst
        (State.region (State.sysTry (State.sysNote sy13 (State.region sy13 1).part) 1 0 3).fst 1).part).conns
    (BitVec.toNat (List.getD (sysCallOf (State.sysTry (State.sysNote sy13 (State.region sy13 1).part) 1 0 3)).snd 0 0)) =
  some { blk := 4096, st := 3 : Conn }) ∧
 ({ blk := 4096, st := 3 : Conn }.st = 3 ∨ { blk := 4096, st := 3 : Conn }.finTx = true) :=
  ⟨(call_ok (by decide +kernel)), (by decide +kernel), (by decide +kernel), rfl, (by decide +kernel), (Or.inl rfl)⟩

end WitCalls

/-! ### Links -/

namespace WitLinks

def pkA (op : MOp) : PeerReq := { tag := 4, src := 3, part := 1, op := op, addr := 0x10100 }
def rPe : Region := { rid := 4096 }
def sLk (l : Link) : State := { sP rP with links := [(2, l)], regions := [(1, rP), (4096, rPe)] }
def sLk1 : State := sLk { tags := [(3, 4, .ok {} true)] }
def pkB : PeerReq := { pkA (.read 8) with back := true }
def pkD : PeerReq := { pkA (.read 8) with desc := some (List.replicate 8 0) }
def sLk2 : State := sLk { trained := true, up := true }
def aPe : Access := { own := .pe 0 3 0, op := .read 8, sp := 1, addr := 0x100, peer := some 9 }
def rPa : Region := { rP with flight := [(5, aPe)] }
def sLk3 : State := { sP rPa with links := [(2, { trained := true, up := true, switched := true })] }
def cA : Conn := { blk := 0, txl := 12, rxl := 12 }
def sCn (c : Conn) (m : List (Nat × Nat)) : State := { sT rP m with parts := [(1, { desc := pD, conns := [(6, c)], calls := [(8, { rid := 1, op := 3, num := 3 }), (9, { rid := 1, op := 3, num := 0x10, args := [0, 0, 12, 12] })] })] }
def sCn0 : State := sCn cA []
def cB : Conn := { cA with txtail := 5 }
def sCnB : State := sCn cB []
def cU : Conn := { cA with blk := 0x100000000 }
def sCnU : State := sCn cU []

theorem wit_LinkSteps_1 :
 { tag := (pkA (MOp.read 8)).tag, src := (pkA (MOp.read 8)).src, part := (pkA (MOp.read 8)).part, rid := (pkA (MOp.read 8)).rid,
      cap := (pkA (MOp.read 8)).cap, addr := (pkA (MOp.read 8)).addr, n := (pkA (MOp.read 8)).n, op := (pkA (MOp.read 8)).op,
      desc := (pkA (MOp.read 8)).desc, ctx := (pkA (MOp.read 8)).ctx, back := (pkA (MOp.read 8)).back, copy := (pkA (MOp.read 8)).copy, dst := 1 :
      PeerReq }.dst ≠
  BitVec.toNat sLk1.dev.devId :=
  (by decide)

theorem wit_LinkSteps_2 :
 ((pkA (MOp.read 8)).dst = BitVec.toNat sLk1.dev.devId) ∧
 (State.tagDone sLk1 (pkA (MOp.read 8)) = some (PeerAns.ok { : Val } true)) :=
  ⟨rfl, rfl⟩

theorem wit_LinkSteps_3 :
 (pkB.dst = BitVec.toNat sLk2.dev.devId) ∧
 (State.tagDone sLk2 pkB = none) ∧
 (State.tagPend sLk2 pkB = none) ∧
 ((tget sLk2.links { : Link } 2).trained = true) ∧
 ((tget sLk2.links { : Link } 2).up = true) ∧
 (pkB.back = true) :=
  ⟨rfl, rfl, rfl, rfl, rfl, rfl⟩

theorem wit_LinkSteps_4 :
 (pkD.dst = BitVec.toNat sLk2.dev.devId) ∧
 (State.tagDone sLk2 pkD = none) ∧
 (State.tagPend sLk2 pkD = none) ∧
 ((tget sLk2.links { : Link } 2).trained = true) ∧
 ((tget sLk2.links { : Link } 2).up = true) ∧
 (pkD.back = false) ∧
 (pkD.desc = some (List.replicate 8 0)) ∧
 (fld (BitVec.ofNat 64 (BitVec.toNat (Option.getD pkD.cap 0))) 22 15 ≠ pkD.part ∨ partValid (State.part sLk2 pkD.part) = false) :=
  ⟨rfl, rfl, rfl, rfl, rfl, rfl, rfl, (Or.inl (by decide +kernel))⟩

theorem wit_LinkSteps_5 :
 (HasRegion sLk2 Config.regionIds rPe) ∧
 ((pkA (MOp.read 8)).dst = BitVec.toNat sLk2.dev.devId) ∧
 (State.tagDone sLk2 (pkA (MOp.read 8)) = none) ∧
 (State.tagPend sLk2 (pkA (MOp.read 8)) = none) ∧
 ((tget sLk2.links { : Link } 2).trained = true) ∧
 ((tget sLk2.links { : Link } 2).up = true) ∧
 ((pkA (MOp.read 8)).back = false) ∧
 ((pkA (MOp.read 8)).desc = none) ∧
 ((pkA (MOp.read 8)).ctx = none) :=
  ⟨rfl, rfl, rfl, rfl, rfl, rfl, rfl, rfl, rfl⟩

theorem wit_LinkSteps_6 :
 ((tget sLk3.links { : Link } 2).trained = true) ∧
 ((tget sLk3.links { : Link } 2).up = true) ∧
 (State.accOfTag sLk3 9 = some (1, 5, aPe)) ∧
 ((State.region sLk3 1).st ≠ rDying) ∧
 (remDesc aPe.own = none) ∧
 (isQueueOp aPe.op = false) :=
  ⟨rfl, rfl, rfl, (by decide), rfl, rfl⟩

theorem wit_LinkSteps_7 :
 ((tget sLk3.links { : Link } 2).trained = true) ∧
 ((tget sLk3.links { : Link } 2).up = true) ∧
 (State.accOfTag sLk3 9 = some (1, 5, aPe)) ∧
 ((State.region sLk3 1).st ≠ rDying) ∧
 (24 = 17 ∨ 24 = 24 ∨ 24 = 25) :=
  ⟨rfl, rfl, rfl, (by decide), (Or.inr (Or.inl rfl))⟩

theorem wit_LinkSteps_8 :
 ((tget sLk3.links { : Link } 2).trained = true) ∧
 ((tget sLk3.links { : Link } 2).up = true) ∧
 (State.accOfTag sLk3 9 = some (1, 5, aPe)) ∧
 ((State.region sLk3 1).st ≠ rDying) ∧
 (32 = 16 ∨ 32 = 32 ∨ 32 = 33) :=
  ⟨rfl, rfl, rfl, (by decide), (Or.inr (Or.inl rfl))⟩

theorem wit_LinkSteps_9 :
 ((tget sLk3.links { : Link } 2).trained = true) ∧
 ((tget sLk3.links { : Link } 2).up = true) ∧
 (State.accOfTag sLk3 9 = some (1, 5, aPe)) ∧
 ((State.region sLk3 1).st ≠ rDying) ∧
 (¬128 ∈ [16, 17, 24, 25, 32, 33]) :=
  ⟨rfl, rfl, rfl, (by decide), (by decide)⟩

theorem wit_LinkSteps_10 :
 (23 < Config.links) ∧
 (sLk3.ckpt.wait = []) :=
  ⟨(by decide), rfl⟩

theorem wit_LinkSteps_11 :
 (2 < Config.links) ∧
 (Option.isSome (tfind sLk3.links 2) = true) :=
  ⟨(by decide), rfl⟩

theorem wit_LinkSteps_12 :
 (2 < Config.links) ∧
 ((tget sLk3.links { : Link } 2).trained = true) ∧
 ((tget sLk3.links { : Link } 2).switched = true) :=
  ⟨(by decide), rfl, rfl⟩

theorem wit_ConnectionSteps_1 :
 (tfind (State.part sCn0 1).calls 8 = some { rid := 1, op := 3, num := 3 : Call }) ∧
 ({ rid := 1, op := 3, num := 3 : Call }.num ≤ 5) ∧
 ({ rid := 1, op := 3, num := 3 : Call }.lst = 0) :=
  ⟨rfl, (by decide +kernel), rfl⟩

theorem wit_ConnectionSteps_2 :
 (tfind (State.part sCn0 1).calls 9 = some { rid := 1, op := 3, num := 16, args := [0, 0, 12, 12] : Call }) ∧
 ({ rid := 1, op := 3, num := 16, args := [0, 0, 12, 12] : Call }.num = 16) :=
  ⟨rfl, rfl⟩

theorem wit_ConnectionSteps_3 :
 (tfind (State.part sCn0 1).calls 9 = some { rid := 1, op := 3, num := 16, args := [0, 0, 12, 12] : Call }) ∧
 ({ rid := 1, op := 3, num := 16, args := [0, 0, 12, 12] : Call }.num = 16 ∨ { rid := 1, op := 3, num := 16, args := [0, 0, 12, 12] : Call }.num = 18) :=
  ⟨rfl, (Or.inl rfl)⟩

theorem wit_ConnectionSteps_4 :
 (tfind (State.part sCnB 1).conns 6 = some cB) ∧
 (sCnB.notes = []) ∧
 (cB.owed = 0) ∧
 (cB.bad = false) ∧
 (cB.st ≠ 3) ∧
 (Option.isSome (State.connMap sCnB 1 cB.blk (connSize cB)) = true) ∧
 (connBad cB (fld (State.connRd sCnB 1 cB 128) 62 0) (fld (State.connRd sCnB 1 cB 192) 62 0) = true) :=
  ⟨rfl, rfl, rfl, rfl, (by decide +kernel), (by decide +kernel), (by decide +kernel)⟩

theorem wit_ConnectionSteps_5 :
 (tfind (State.part sCn0 1).conns 6 = some cA) ∧
 (sCn0.notes = []) ∧
 (cA.owed = 0) ∧
 (cA.bad = false) ∧
 (cA.st ≠ 3) ∧
 (Option.isSome (State.connMap sCn0 1 cA.blk (connSize cA)) = true) ∧
 (connBad cA (fld (State.connRd sCn0 1 cA 128) 62 0) (fld (State.connRd sCn0 1 cA 192) 62 0) = false) :=
  ⟨rfl, rfl, rfl, rfl, (by decide +kernel), (by decide +kernel), (by decide +kernel)⟩

theorem wit_ConnectionSteps_6 :
 (tfind (State.part sCn0 1).conns 6 = some cA) ∧
 (sCn0.notes = []) ∧
 (cA.owed = 0) ∧
 (cA.bad = false) ∧
 (cA.st = 1) ∧
 (Option.isSome (State.connMap sCn0 1 cA.blk (connSize cA)) = true) ∧
 (connBad cA cA.txtail (fld (State.connRd sCn0 1 cA 192) 62 0) = false) :=
  ⟨rfl, rfl, rfl, rfl, rfl, (by decide +kernel), (by decide +kernel)⟩

theorem wit_ConnectionSteps_7 :
 (tfind (State.part sCn0 1).conns 6 = some cA) ∧
 (sCn0.notes = []) ∧
 (cA.owed = 0) ∧
 (cA.bad = false) ∧
 (Option.isSome (State.connMap sCn0 1 cA.blk (connSize cA)) = true) ∧
 (cA.st = 1) :=
  ⟨rfl, rfl, rfl, rfl, (by decide +kernel), rfl⟩

theorem wit_ConnectionSteps_8 :
 (tfind (State.part sCn0 1).conns 6 = some cA) ∧
 (sCn0.notes = []) ∧
 (cA.owed = 0) ∧
 (cA.bad = false) ∧
 (Option.isSome (State.connMap sCn0 1 cA.blk (connSize cA)) = true) ∧
 (cA.st ≠ 3) :=
  ⟨rfl, rfl, rfl, rfl, (by decide +kernel), (by decide +kernel)⟩

theorem wit_ConnectionSteps_9 :
 (tfind (State.part sCnU 1).conns 6 = some cU) ∧
 (sCnU.notes = []) ∧
 (cU.owed = 0) ∧
 (cU.bad = false) ∧
 (Option.isNone (State.connMap sCnU 1 cU.blk (connSize cU)) = true) ∧
 (cU.st = 1) :=
  ⟨rfl, rfl, rfl, rfl, (by decide +kernel), rfl⟩

theorem wit_ConnectionSteps_10 :
 (tfind (State.part sCnU 1).conns 6 = some cU) ∧
 (sCnU.notes = []) ∧
 (cU.owed = 0) ∧
 (cU.bad = false) ∧
 (Option.isNone (State.connMap sCnU 1 cU.blk (connSize cU)) = true) ∧
 (cU.st ≠ 3) :=
  ⟨rfl, rfl, rfl, rfl, (by decide +kernel), (by decide +kernel)⟩

end WitLinks

/-! ### Hypervisor -/

namespace WitHypervisor

def hSb (p : Priv) (a0 a1 a2 : Nat) : Hart := { priv := p, x := [(10, BitVec.ofNat 64 a0), (11, BitVec.ofNat 64 a1), (12, BitVec.ofNat 64 a2)] }
def sSb (p : Priv) (a0 a1 a2 : Nat) (m : List (Nat × Nat)) : State := { sP rP with harts := [(0, hSb p a0 a1 a2)], mem := memT m, parts := [(1, { desc := [2 ^ 63] })] }
def sU : State := sSb .u 0 0 0 []
def sV : State := sSb .vs 0 0 0 []
def sB0 : State := sSb .hs 0x200 1 0 [(0x200, 0)]
def sB1 : State := sSb .hs 0x200 2 0 [(0x200, 2 ^ 58), (0x208, 2 ^ 30)]
def sB2 : State := sSb .hs 0 1 0 []
def sB3 : State := sSb .hs 0 23 0 []
def sB4 : State := sSb .hs 0x2000 0x100 0 []
def sB6 : State := sSb .hs 6 0x100 0 []
-- .commitCheck 2 (sB1.rdWs 0x200 64)
def rstA : Rst := { pid := 1, scrub := false, who := [.hart 0] }
def rstB : Rst := { rstA with who := [.port] }
def sBr : State := { sB2 with rst := some rstA }
def sBs : State := { sB2 with rst := some rstB }
def sBd : State := { sB2 with mgrDone := [(0, (3, 1, 0, [0]))] }

theorem wit_SbiCalls_1 :
 (State.ckptOn sU = false) ∧
 (Instr.linkGet ∈ [Instr.partSet, Instr.partGet, Instr.partSeal, Instr.partReset, Instr.linkGet, Instr.attReport, Instr.attExtend]) ∧
 (isUser (State.hart sU sU.curHart).priv = true) :=
  ⟨rfl, (by decide), rfl⟩

theorem wit_SbiCalls_2 :
 (State.ckptOn sV = false) ∧
 (Instr.partSet ∈ [Instr.partSet, Instr.partGet, Instr.partSeal, Instr.partReset, Instr.linkGet, Instr.attReport, Instr.attExtend]) ∧
 (isUser (State.hart sV sV.curHart).priv = false) ∧
 ((State.hart sV sV.curHart).priv = Priv.vs ∨ 192 ≤ sV.curHart ∨ BitVec.getLsbD sV.dev.hcob sV.curHart = false) :=
  ⟨rfl, (by decide), rfl, (Or.inl rfl)⟩

theorem wit_SbiCalls_3 :
 (State.ckptOn sB0 = false) ∧
 (isUser (State.hart sB0 sB0.curHart).priv = false) ∧
 ((State.hart sB0 sB0.curHart).priv ≠ Priv.vs) ∧
 (sB0.curHart < 192) ∧
 (BitVec.getLsbD sB0.dev.hcob sB0.curHart = true) ∧
 (sB0.rst = none) ∧
 (sB0.mgrQ = []) ∧
 (tfind sB0.mgrDone sB0.curHart = none) ∧
 (BitVec.toNat (hx (State.hart sB0 sB0.curHart) 10) % 512 = 0) ∧
 (dramRange (BitVec.toNat (hx (State.hart sB0 sB0.curHart) 10)) 512 = true) ∧
 (isDram (BitVec.toNat (hx (State.hart sB0 sB0.curHart) 10)) = true) ∧
 (BitVec.toNat (hx (State.hart sB0 sB0.curHart) 11) < 64) ∧
 (hx (State.hart sB0 sB0.curHart) 12 = 0) ∧
 (State.commitCheck sB0 (BitVec.toNat (hx (State.hart sB0 sB0.curHart) 11)) (State.rdWs sB0 (BitVec.toNat (hx (State.hart sB0 sB0.curHart) 10)) 64) =
  some (-3)) :=
  ⟨rfl, rfl, (by decide), (by decide), (by decide), rfl, rfl, rfl, (by decide +kernel), (by decide +kernel), (by decide +kernel), (by decide +kernel), (by decide +kernel), (by decide +kernel)⟩

theorem wit_SbiCalls_4 :
 (State.ckptOn sB1 = false) ∧
 (isUser (State.hart sB1 sB1.curHart).priv = false) ∧
 ((State.hart sB1 sB1.curHart).priv ≠ Priv.vs) ∧
 (sB1.curHart < 192) ∧
 (BitVec.getLsbD sB1.dev.hcob sB1.curHart = true) ∧
 (sB1.rst = none) ∧
 (sB1.mgrQ = []) ∧
 (tfind sB1.mgrDone sB1.curHart = none) ∧
 (BitVec.toNat (hx (State.hart sB1 sB1.curHart) 10) % 512 = 0) ∧
 (dramRange (BitVec.toNat (hx (State.hart sB1 sB1.curHart) 10)) 512 = true) ∧
 (isDram (BitVec.toNat (hx (State.hart sB1 sB1.curHart) 10)) = true) ∧
 (BitVec.toNat (hx (State.hart sB1 sB1.curHart) 11) < 64) ∧
 (hx (State.hart sB1 sB1.curHart) 12 = 0) ∧
 (State.commitCheck sB1 (BitVec.toNat (hx (State.hart sB1 sB1.curHart) 11)) (State.rdWs sB1 (BitVec.toNat (hx (State.hart sB1 sB1.curHart) 10)) 64) =
  none) :=
  ⟨rfl, rfl, (by decide), (by decide), (by decide), rfl, rfl, rfl, (by decide +kernel), (by decide +kernel), (by decide +kernel), (by decide +kernel), (by decide +kernel), (by decide +kernel)⟩

theorem wit_SbiCalls_5 :
 (State.ckptOn sB2 = false) ∧
 (isUser (State.hart sB2 sB2.curHart).priv = false) ∧
 ((State.hart sB2 sB2.curHart).priv ≠ Priv.vs) ∧
 (sB2.curHart < 192) ∧
 (BitVec.getLsbD sB2.dev.hcob sB2.curHart = true) ∧
 (sB2.rst = none) ∧
 (sB2.mgrQ = []) ∧
 (tfind sB2.mgrDone sB2.curHart = none) ∧
 (hx (State.hart sB2 sB2.curHart) 10 = 0) ∧
 (BitVec.toNat (hx (State.hart sB2 sB2.curHart) 11) < 64) ∧
 (partValid (State.part sB2 (BitVec.toNat (hx (State.hart sB2 sB2.curHart) 11))) = true) ∧
 (hx (State.hart sB2 sB2.curHart) 12 = 0) :=
  ⟨rfl, rfl, (by decide), (by decide), (by decide), rfl, rfl, rfl, (by decide +kernel), (by decide +kernel), (by decide +kernel), (by decide +kernel)⟩

theorem wit_SbiCalls_6 :
 (State.ckptOn sB2 = false) ∧
 (isUser (State.hart sB2 sB2.curHart).priv = false) ∧
 ((State.hart sB2 sB2.curHart).priv ≠ Priv.vs) ∧
 (sB2.curHart < 192) ∧
 (BitVec.getLsbD sB2.dev.hcob sB2.curHart = true) ∧
 (sB2.rst = none) ∧
 (sB2.mgrQ = []) ∧
 (tfind sB2.mgrDone sB2.curHart = none) ∧
 (hx (State.hart sB2 sB2.curHart) 10 = 0) ∧
 (BitVec.toNat (hx (State.hart sB2 sB2.curHart) 11) < 64) ∧
 (partValid (State.part sB2 (BitVec.toNat (hx (State.hart sB2 sB2.curHart) 11))) = true) ∧
 (BitVec.toNat (hx (State.hart sB2 sB2.curHart) 12) < 2) :=
  ⟨rfl, rfl, (by decide), (by decide), (by decide), rfl, rfl, rfl, (by decide +kernel), (by decide +kernel), (by decide +kernel), (by decide +kernel)⟩

theorem wit_SbiCalls_7 :
 (State.ckptOn sB3 = false) ∧
 (isUser (State.hart sB3 sB3.curHart).priv = false) ∧
 ((State.hart sB3 sB3.curHart).priv ≠ Priv.vs) ∧
 (sB3.curHart < 192) ∧
 (BitVec.getLsbD sB3.dev.hcob sB3.curHart = true) ∧
 (sB3.rst = none) ∧
 (sB3.mgrQ = []) ∧
 (tfind sB3.mgrDone sB3.curHart = none) ∧
 (hx (State.hart sB3 sB3.curHart) 10 = 0) ∧
 (BitVec.toNat (hx (State.hart sB3 sB3.curHart) 11) < Config.links) ∧
 (hx (State.hart sB3 sB3.curHart) 12 = 0) :=
  ⟨rfl, rfl, (by decide), (by decide), (by decide), rfl, rfl, rfl, (by decide +kernel), (by decide +kernel), (by decide +kernel)⟩

theorem wit_SbiCalls_8 :
 (State.ckptOn sBr = false) ∧
 (isUser (State.hart sBr sBr.curHart).priv = false) ∧
 ((State.hart sBr sBr.curHart).priv ≠ Priv.vs) ∧
 (sBr.curHart < 192) ∧
 (BitVec.getLsbD sBr.dev.hcob sBr.curHart = true) ∧
 (sBr.rst = some rstA) ∧
 (tfind sBr.mgrDone sBr.curHart = none) ∧
 (MgrSrc.hart sBr.curHart ∈ rstA.who) :=
  ⟨rfl, rfl, (by decide), (by decide), (by decide), rfl, rfl, (by decide +kernel)⟩

theorem wit_SbiCalls_9 :
 (State.ckptOn sBs = false) ∧
 (isUser (State.hart sBs sBs.curHart).priv = false) ∧
 ((State.hart sBs sBs.curHart).priv ≠ Priv.vs) ∧
 (sBs.curHart < 192) ∧
 (BitVec.getLsbD sBs.dev.hcob sBs.curHart = true) ∧
 (sBs.rst = some rstB) ∧
 (tfind sBs.mgrDone sBs.curHart = none) ∧
 (¬MgrSrc.hart sBs.curHart ∈ rstB.who) ∧
 (∀ (q : MgrOp), q ∈ sBs.mgrQ → q.src ≠ MgrSrc.hart sBs.curHart) ∧
 (hx (State.hart sBs sBs.curHart) 10 = 0) ∧
 (BitVec.toNat (hx (State.hart sBs sBs.curHart) 11) = rstB.pid) ∧
 (rstB.pid < 64) ∧
 (BitVec.toNat (hx (State.hart sBs sBs.curHart) 12) < 2) ∧
 (partValid (State.part sBs rstB.pid) = true) :=
  ⟨rfl, rfl, (by decide), (by decide), (by decide), rfl, rfl, (by decide +kernel), (by decide +kernel), (by decide +kernel), (by decide +kernel), (by decide +kernel), (by decide +kernel), (by decide +kernel)⟩

theorem wit_SbiCalls_10 :
 (State.ckptOn sBd = false) ∧
 (isUser (State.hart sBd sBd.curHart).priv = false) ∧
 ((State.hart sBd sBd.curHart).priv ≠ Priv.vs) ∧
 (sBd.curHart < 192) ∧
 (BitVec.getLsbD sBd.dev.hcob sBd.curHart = true) ∧
 (tfind sBd.mgrDone sBd.curHart = some (3, BitVec.toNat (hx (State.hart sBd sBd.curHart) 11), 0, [0])) :=
  ⟨rfl, rfl, (by decide), (by decide), (by decide), rfl⟩

theorem wit_SbiCalls_11 :
 (State.ckptOn sBr = false) ∧
 (isUser (State.hart sBr sBr.curHart).priv = false) ∧
 ((State.hart sBr sBr.curHart).priv ≠ Priv.vs) ∧
 (sBr.curHart < 192) ∧
 (BitVec.getLsbD sBr.dev.hcob sBr.curHart = true) ∧
 (sBr.rst = some rstA) ∧
 (sBr.mgrQ = []) ∧
 (rstA.who = [MgrSrc.hart sBr.curHart]) ∧
 (∀ (c : Nat × Conn), c ∈ (State.part sBr rstA.pid).conns → c.snd.st = 3 ∨ State.connHeld sBr rstA.pid c.snd = false) ∧
 ((State.vfReset sBr rstA.pid rstA.scrub []).mgrQ = []) :=
  ⟨rfl, rfl, (by decide), (by decide), (by decide), rfl, rfl, rfl, (fun c hc => nomatch hc), (by decide +kernel)⟩

theorem wit_SbiCalls_12 :
 (State.ckptOn sB4 = false) ∧
 (isUser (State.hart sB4 sB4.curHart).priv = false) ∧
 ((State.hart sB4 sB4.curHart).priv ≠ Priv.vs) ∧
 (sB4.curHart < 192) ∧
 (BitVec.getLsbD sB4.dev.hcob sB4.curHart = true) ∧
 (BitVec.toNat (hx (State.hart sB4 sB4.curHart) 10) % 64 = 0) ∧
 (isDram (BitVec.toNat (hx (State.hart sB4 sB4.curHart) 10)) = true) ∧
 (dramRange (BitVec.toNat (hx (State.hart sB4 sB4.curHart) 10)) 5376 = true) ∧
 (isDram (BitVec.toNat (hx (State.hart sB4 sB4.curHart) 11)) = true) ∧
 (dramRange (BitVec.toNat (hx (State.hart sB4 sB4.curHart) 11)) 64 = true) :=
  ⟨rfl, rfl, (by decide), (by decide), (by decide), (by decide +kernel), (by decide +kernel), (by decide +kernel), (by decide +kernel), (by decide +kernel)⟩

theorem wit_SbiCalls_13 :
 (State.ckptOn sB6 = false) ∧
 (isUser (State.hart sB6 sB6.curHart).priv = false) ∧
 ((State.hart sB6 sB6.curHart).priv ≠ Priv.vs) ∧
 (sB6.curHart < 192) ∧
 (BitVec.getLsbD sB6.dev.hcob sB6.curHart = true) ∧
 (hx (State.hart sB6 sB6.curHart) 10 = 6 ∨ hx (State.hart sB6 sB6.curHart) 10 = 7) ∧
 (isDram (BitVec.toNat (hx (State.hart sB6 sB6.curHart) 11)) = true) ∧
 (dramRange (BitVec.toNat (hx (State.hart sB6 sB6.curHart) 11)) 64 = true) :=
  ⟨rfl, rfl, (by decide), (by decide), (by decide), (Or.inl (by decide +kernel)), (by decide +kernel), (by decide +kernel)⟩

end WitHypervisor

/-! ### Management -/

namespace WitManagement

def sPw (p : Power) : State := { sP rP with dev := { power := p, hep := 5, cap := 2000 }, parts := [(1, { desc := [2 ^ 63] })] }
def sOn : State := sPw .on
def sOff : State := sPw .off
def sStb : State := sPw .standby
def fwG : FwImage := { main := true, svn := 3 }
def sFg : State := { sOn with dev := { sOn.dev with staged := [fwG], floorF := 4 } }
def sOk : State := { sOn with ckpt := { st := 1 } }
theorem fwBad : fwOk sFg.dev fwG = false := by simp only [fwOk, show decide ((if fwG.main then sFg.dev.floorF else sFg.dev.floorM).toNat ≤ fwG.svn.toNat) = false by decide, Bool.and_false]
def sFf : State := { sStb with dev := { sStb.dev with fwFault := true } }
def sRi : State := { sStb with dev := { sStb.dev with rise := true } }
def sKh : State := { sP rP with dev := { hep := 5 }, sess := [(3, { ep := 64, src := 1, port := 2, last := 4, cache := [(4, 0, [9])] })], parts := [(1, { desc := [2 ^ 63] })] }
def kA (seq : BitVec 32) (body : List Word) : Khr := { src := 1, port := 2, dst := 5, sess := 3, seq := seq, body := body }
def kO : Khr := { src := 1, port := 2, dst := 5, seq := 1 }
def x3 : Sess := { ep := 64, src := 1, port := 2, last := 4, cache := [(4, 0, [9])] }
def pKh : List Word := ([2 ^ 63 + 5 * 2 ^ 36] ++ List.replicate 13 0 ++ [2 ^ 52] ++ List.replicate 46 0 ++ [6]).map (BitVec.ofNat 64)
def cFl : Call := { rid := 1, op := 3, num := 3, args := [7] }
def xF : Sess := { ep := 1, src := 1, port := 2 }
def kF : Khr := { src := 1, port := 2, dst := 6, sess := 3 }
def sKf : State := { sP rP with sess := [(3, xF)], parts := [(1, { desc := pKh, calls := [(8, cFl)], server := some 3 })] }
def sKp : State := { sKf with dpois := [0x100 / 8] }
def sKc : State := { sKf with ckpt := { st := 1 } }
def echoF : List Byte := icmpFrame [1, 2, 3, 4, 5, 6] [6, 5, 4, 3, 2, 1] 64 (addrBytes 9) (addrBytes 5) 128 [1, 2, 3, 4, 5]
/-- A UDP datagram to port 29,440 in an IPv6 frame, its checksum right. -/
def udpF (pl : List Byte) : List Byte :=
  let u := fun (c : Nat) => toBe16 2 ++ toBe16 29440 ++ toBe16 (8 + pl.length) ++ toBe16 c ++ pl
  [1, 2, 3, 4, 5, 6, 6, 5, 4, 3, 2, 1] ++ toBe16 0x86DD ++ [0x60, 0, 0, 0] ++ toBe16 (8 + pl.length) ++ [17, 64] ++ addrBytes 1 ++ addrBytes 5
    ++ u (65535 - ipSum 17 (addrBytes 1) (addrBytes 5) (u 0))
def fOpen : List Byte := udpF (khrBytes 0x01 false 0 1 0 [])
def fClose : List Byte := udpF (khrBytes 0x02 false 3 5 0 [])
def fRsp : List Byte := udpF (khrBytes 0x02 true 3 5 0 [])
def fBad : List Byte := fOpen.set 70 9
def kFr (f : List Byte) : Khr := { kA 5 [] with frame := f }
def sKr : State := { sKf with rst := some { pid := 1 } }
/-- A session of an endpoint, one datagram to it, and the state that has both; a partition that has a launch queue. -/
def kB (body : List Word) : Khr := { kA 1 body with dst := 6 }
def xB : Sess := { ep := 1, src := 1, port := 2 }
def kHv (body : List Word) : Khr := { kA 1 body with dst := 5 }
def xHv : Sess := { ep := 64, src := 1, port := 2 }
def sHv : State := { sKh with sess := [(3, xHv)] }
def dLq : List Word := lset pKh 28 (BitVec.ofNat 64 (0x20000 + 32))
def sLq (t : Nat) : State := { sP rP with sess := [(3, xB)], mem := memT [(0x20008, t), (0x20010, 1)], parts := [(1, { desc := dLq })], dev := { hep := 5 } }
def sLq0 : State := sLq 0
def sLq2 : State := sLq 2
def kLq : Khr := kB [0, 1, 2, 3, 4, 5, 6, 7, 8]
def rI0 : Region := { rC ct0 with st := rIdle }
def rI1 : Region := { rI0 with rpq := true }
def sRp (r : Region) : State := { sHv with regions := [(1, r)] }
def sRp0 : State := sRp rI0
def sRp1 : State := sRp rI1
def sRpR : State := sRp (rC ct0)
def dsc : List Word := (([2 ^ 58, 2 ^ 30] ++ List.replicate 62 0) : List Nat).map (BitVec.ofNat 64)
/-- A plan of one page, its slots and bitmaps elsewhere, of a given length. -/
def planOf (len : Nat) : List Word :=
  (([1 * 2 ^ 16, 9, len, 0x1000000, 0x2000000, 0x3000000, 0x4000000, 0x5000000, 0x6000000, 1, 0x8000000, 1] ++ List.replicate 52 0) : List Nat).map (BitVec.ofNat 64)
def sCkp (c : Ckpt) : State := { sHv with regions := [], parts := [], ckpt := c }
def sCk0 : State := sCkp {}
def sCk2 : State := sCkp { has := true, plan := planOf (2 ^ 21) }
def sCk3 : State := sCkp { has := true, plan := planOf (2 ^ 21), st := 1 }
theorem fit_len (n : Nat) (ws : List Word) : (fit n ws).length = n := by simp [fit, zeros]
theorem hartWords_len (m : BitVec 512) (h : Hart) (r : Option Nat) : (hartWords m h r).length = 1024 := by simp [hartWords, fit_len]
theorem flat_len {α β : Type} (f : α → List β) (c : Nat) (l : List α) (h : ∀ x, (f x).length = c) : (l.map f).flatten.length = l.length * c := by
  induction l with
  | nil => simp
  | cons a l ih => simp only [List.map_cons, List.flatten_cons, List.length_append, h, ih, List.length_cons]; rw [Nat.add_mul]; omega
theorem ckp (s : State) (n b d : Nat) (hb : ((s.live.filter hasRsi).map s.rsiWords).flatten.length = b) (hd : (blockWords s.devBlocks).length = d) :
    (ckPlaces s.ckSections n).getD 4 (0, 0) = (512 + up512 4096 + up512 b + up512 212992 + up512 d, n * 8448) := by
  have h0 : (((List.range 64).map (fun i => descOf (s.part i))).flatten).length = 4096 :=
    (flat_len _ 64 _ (fun i => by simp [descOf])).trans (by rw [List.length_range])
  have h2 : (((List.range Config.harts).map (fun h => hartWords (tget s.dev.mr 0 2) (s.hart h) (tfind s.rsv h))).flatten).length = 212992 :=
    (flat_len _ 1024 _ (fun i => hartWords_len _ _ _)).trans (by rw [List.length_range]; rfl)
  show ((_ : Nat), n * 8448) = _
  show (512 + up512 (((List.range 64).map (fun i => descOf (s.part i))).flatten).length + up512 ((s.live.filter hasRsi).map s.rsiWords).flatten.length
    + up512 (((List.range Config.harts).map (fun h => hartWords (tget s.dev.mr 0 2) (s.hart h) (tfind s.rsv h))).flatten).length + up512 (blockWords s.devBlocks).length, n * 8448) = _
  rw [h0, h2, hb, hd]
theorem ckB (p : List Word) (h : 213504 * 8 + 16896 * 8 + 4096 * 8 ≤ ckLen p) (hp : (ckPages p).length = 1) :
    8 * (((ckPlaces sCk0.ckSections (ckPages p).length).getD 4 (0, 0)).1 + ((ckPlaces sCk0.ckSections (ckPages p).length).getD 4 (0, 0)).2) ≤ ckLen p := by
  rw [ckp sCk0 _ 0 (blockWords sCk0.devBlocks).length (by decide +kernel) rfl, hp]
  have : up512 (blockWords sCk0.devBlocks).length ≤ 512 := by decide +kernel
  have e : up512 4096 = 4096 ∧ up512 0 = 0 ∧ up512 212992 = 212992 := by decide +kernel
  rw [e.1, e.2.1, e.2.2]
  revert this h
  generalize up512 (blockWords sCk0.devBlocks).length = z
  generalize ckLen p = c
  intro h this
  dsimp only
  simp only [Nat.reduceMul, Nat.reduceAdd, Nat.add_zero] at *
  exact Nat.le_trans (Nat.mul_le_mul_left 8 (Nat.add_le_add_right (Nat.add_le_add_left this 217600) 8448)) (Nat.le_trans (show 8 * (217600 + 512 + 8448) ≤ 1875968 by decide) h)
theorem ckS (p : List Word) (h : ckLen p < 213504 * 8) :
    ckLen p < 8 * (((ckPlaces sCk0.ckSections (ckPages p).length).getD 4 (0, 0)).1 + ((ckPlaces sCk0.ckSections (ckPages p).length).getD 4 (0, 0)).2) := by
  rw [ckp sCk0 _ 0 (blockWords sCk0.devBlocks).length (by decide +kernel) rfl]
  have e : up512 212992 = 212992 := by decide +kernel
  rw [e]
  revert h
  generalize up512 (blockWords sCk0.devBlocks).length = z
  generalize ckLen p = c
  intro h
  dsimp only
  simp only [Nat.reduceMul, Nat.reduceAdd, Nat.add_zero] at *
  omega

theorem wit_ManagementPower_1 :
 (sStb.dev.power ≠ Power.off) ∧
 (63 < 64) :=
  ⟨(by decide), (by decide)⟩

theorem wit_ManagementPower_2 :
 (sOn.dev.power ≠ Power.off) ∧
 (1200 ≤ 3300) ∧
 (3300 ≤ 3300) :=
  ⟨(by decide), (by decide), (by decide)⟩

theorem wit_ManagementPower_3 :
 (sOn.dev.power ≠ Power.off) ∧
 (1199 < 1200 ∨ 3300 < 1199) :=
  ⟨(by decide), (Or.inl (by decide))⟩

theorem wit_ManagementPower_4 :
 sOn.dev.power ≠ Power.off :=
  (by decide)

theorem wit_ManagementPower_5 :
 sOn.dev.staged = [] :=
  rfl

theorem wit_ManagementPower_6 :
 (sFg.dev.staged = [fwG]) ∧
 (fwOk sFg.dev fwG = false) :=
  ⟨rfl, (by exact fwBad)⟩

theorem wit_ManagementPower_7 :
 (sOn.dev.power = Power.on) ∧
 (sOn.rst = none) ∧
 (1 < 64) ∧
 (partValid (State.part sOn 1) = true) ∧
 (State.ckptOn sOn = false) ∧
 (sOn.mgrQ = []) :=
  ⟨rfl, rfl, (by decide), (by decide +kernel), rfl, rfl⟩

theorem wit_ManagementPower_8 :
 (sOk.dev.power = Power.on) ∧
 (sOk.rst = none) ∧
 (1 < 64) ∧
 (partValid (State.part sOk 1) = true) ∧
 (State.ckptOn sOk = true) :=
  ⟨rfl, rfl, (by decide), (by decide +kernel), (by decide)⟩

theorem wit_ManagementPower_9 :
 sOn.dev.power = Power.on :=
  rfl

theorem wit_ManagementPower_10 :
 sOff.dev.power = Power.off :=
  rfl

theorem wit_ManagementPower_11 :
 (sStb.dev.power = Power.standby) ∧
 (sStb.dev.rise = false) :=
  ⟨rfl, rfl⟩

theorem wit_ManagementPower_12 :
 (sStb.dev.power = Power.standby) ∧
 (sStb.dev.rise = false) ∧
 (sStb.dev.fwFault = false) :=
  ⟨rfl, rfl, rfl⟩

theorem wit_ManagementPower_13 :
 (sFf.dev.power = Power.standby) ∧
 (sFf.dev.rise = false) ∧
 (sFf.dev.fwFault = true) :=
  ⟨rfl, rfl, rfl⟩

theorem wit_ManagementPower_14 :
 (sRi.dev.rise = true) ∧
 (sRi.dev.power ≠ Power.on) :=
  ⟨rfl, (by decide)⟩

theorem wit_ManagementPower_15 :
 sOn.dev.power = Power.on ∨ sOn.dev.rise = true :=
  (Or.inl rfl)

theorem wit_ManagementPower_16 :
 sRi.dev.power = Power.on ∨ sRi.dev.rise = true :=
  (Or.inr rfl)

theorem wit_KhrSteps_1 :
 (khrReq (Instr.khrCopyout (kA 5 [256, 8])) = some (33, kA 5 [256, 8], none)) ∧
 ((kA 5 [256, 8]).frame = []) ∧
 (∀ (n : Word), none = some n → List.head? (kA 5 [256, 8]).body = some n) ∧
 (State.sessOf sKh (kA 5 [256, 8]) = some (3, x3)) ∧
 (BitVec.toNat (kA 5 [256, 8]).seq = x3.last + 1) :=
  ⟨rfl, rfl, (fun n e => nomatch e), (by decide +kernel), (by decide)⟩

theorem wit_KhrSteps_2 :
 (khrReq (Instr.ckptStatus (kA 4 [5])) = some (96, kA 4 [5], some 5)) ∧
 ((kA 4 [5]).frame = []) ∧
 (∀ (n : Word), some 5 = some n → List.head? (kA 4 [5]).body = some n) ∧
 (State.sessOf sKh (kA 4 [5]) = some (3, x3)) ∧
 (BitVec.toNat (kA 4 [5]).seq ≤ x3.last) ∧
 (List.find? (fun (c : Nat × Int × List Word) => c.fst == BitVec.toNat (kA 4 [5]).seq) x3.cache = some (4, 0, [9])) :=
  ⟨rfl, rfl, (fun n e => e), (by decide +kernel), (by decide), (by decide +kernel)⟩

theorem wit_KhrSteps_3 :
 (khrReq (Instr.khrClose (kA 68 [])) = some (2, kA 68 [], none)) ∧
 ((kA 68 []).frame = []) ∧
 (∀ (n : Word), none = some n → List.head? (kA 68 []).body = some n) ∧
 (State.sessOf sKh (kA 68 []) = some (3, x3)) ∧
 (x3.last + 1 < BitVec.toNat (kA 68 []).seq) ∧
 (BitVec.toNat (kA 68 []).seq ≤ x3.last + 64) ∧
 ((List.any x3.held fun (h : Nat × Khr) => h.snd.seq == (kA 68 []).seq) = false) :=
  ⟨rfl, rfl, (fun n e => nomatch e), (by decide +kernel), (by decide), (by decide), (by decide +kernel)⟩

theorem wit_KhrSteps_4 :
 (khrReq (Instr.khrClose (kFr fBad)) = some (2, kFr fBad, none)) ∧
 ((kFr fBad).frame ≠ []) ∧
 (khrParse (kFr fBad).frame = none) :=
  ⟨rfl, (by decide +kernel), (by decide +kernel)⟩

theorem wit_KhrSteps_5 :
 (khrReq (Instr.khrClose (kFr fOpen)) = some (2, kFr fOpen, none)) ∧
 ((kFr fOpen).frame ≠ []) ∧
 (khrParse (kFr fOpen).frame = some (Option.get (khrParse (kFr fOpen).frame) (by decide +kernel))) ∧
 ((Option.get (khrParse (kFr fOpen).frame) (by decide +kernel)).rsp = false) ∧
 ((Option.get (khrParse (kFr fOpen).frame) (by decide +kernel)).typ = 1) :=
  ⟨rfl, (by decide +kernel), (Option.some_get (by decide +kernel)).symm, (by decide +kernel), (by decide +kernel)⟩

theorem wit_KhrSteps_6 :
 (khrReq (Instr.khrClose (kFr fClose)) = some (2, kFr fClose, none)) ∧
 ((kFr fClose).frame ≠ []) ∧
 (khrParse (kFr fClose).frame = some (Option.get (khrParse (kFr fClose).frame) (by decide +kernel))) ∧
 ((Option.get (khrParse (kFr fClose).frame) (by decide +kernel)).rsp = false) ∧
 ((Option.get (khrParse (kFr fClose).frame) (by decide +kernel)).typ ≠ 1) :=
  ⟨rfl, (by decide +kernel), (Option.some_get (by decide +kernel)).symm, (by decide +kernel), (by decide +kernel)⟩

theorem wit_KhrSteps_7 :
 (khrReq (Instr.khrClose (kFr fRsp)) = some (2, kFr fRsp, none)) ∧
 ((kFr fRsp).frame ≠ []) ∧
 (khrParse (kFr fRsp).frame = some (Option.get (khrParse (kFr fRsp).frame) (by decide +kernel))) ∧
 ((Option.get (khrParse (kFr fRsp).frame) (by decide +kernel)).rsp = true) ∧
 ((Option.get (khrParse (kFr fRsp).frame) (by decide +kernel)).typ ≠ 65) :=
  ⟨rfl, (by decide +kernel), (Option.some_get (by decide +kernel)).symm, (by decide +kernel), (by decide +kernel)⟩

theorem wit_KhrSteps_8 :
 khrParse fClose = some (Option.get (khrParse fClose) (by decide +kernel)) :=
  (Option.some_get (by decide +kernel)).symm

theorem wit_KhrSteps_9 :
 (kO.frame = []) ∧
 (kO.odd = false) ∧
 (Option.any (fun (r : Rst) => r.pid == 64) sKh.rst = false) ∧
 (State.endpoint sKh kO.dst = some 64) ∧
 (kO.sess = 0) ∧
 (State.ckptOn sKh = false) ∧
 (kO.body = []) ∧
 (List.length (List.filter (fun (x : Nat × Sess) => x.snd.ep == 64) sKh.sess) < 64) :=
  ⟨rfl, rfl, (by decide +kernel), (by decide +kernel), rfl, rfl, rfl, (by decide +kernel)⟩

theorem wit_KhrSteps_10 :
 (kF.frame = []) ∧
 (State.sessOf sKf kF = some (3, xF)) ∧
 (tfind (State.part sKf xF.ep).calls 8 = some cFl) ∧
 ((State.part sKf xF.ep).server = some 3) ∧
 (cFl.lst = 0) :=
  ⟨rfl, (by decide +kernel), (by decide +kernel), (by decide +kernel), (by decide +kernel)⟩

theorem wit_KhrSteps_11 :
 (1 < 2) ∧
 (List.length echoF ≤ 9216) ∧
 (54 + be16 echoF 18 ≤ List.length echoF) ∧
 (8 ≤ be16 echoF 18) ∧
 (be16 echoF 12 = 34525) ∧
 (BitVec.toNat (List.getD echoF 14 0) / 16 = 6) ∧
 (List.getD echoF 20 0 = 58) ∧
 (ipSum 58 (List.take 16 (List.drop 22 echoF)) (List.take 16 (List.drop 38 echoF)) (List.take (be16 echoF 18) (List.drop 54 echoF)) = 65535) ∧
 (List.getD echoF 54 0 = 128) ∧
 (List.getD echoF 55 0 = 0) ∧
 (Option.isSome (State.endpoint sKh (addrOf echoF 38)) = true) :=
  ⟨(by decide), (by decide +kernel), (by decide +kernel), (by decide +kernel), (by decide +kernel), (by decide +kernel), (by decide +kernel), (by decide +kernel), (by decide +kernel), (by decide +kernel), (by decide +kernel)⟩

theorem wit_KhrSteps_b_1 :
 (State.ckptOn sKr = false) ∧
 (Option.any (fun (r : Rst) => r.pid == 1) sKr.rst = true) ∧
 (16 ≠ 2) :=
  ⟨rfl, (by decide +kernel), (by decide)⟩

theorem wit_KhrSteps_b_2 :
 (Option.any (fun (r : Rst) => r.pid == 1) sKf.rst = false) ∧
 (State.ckptOn sKf = false) ∧
 (¬119 ∈ [2, 16, 17, 32, 33, 48, 64, 80, 81, 96]) :=
  ⟨rfl, rfl, (by decide)⟩

theorem wit_KhrSteps_b_3 :
 (Option.any (fun (r : Rst) => r.pid == 1) sKf.rst = false) ∧
 (State.ckptOn sKf = false) ∧
 (List.length [7] ≤ 1023) ∧
 (State.khrAddr sKf 1 (BitVec.toNat (256 : Word)) (8 * List.length [7]) = none) :=
  ⟨rfl, rfl, (by decide), (by decide +kernel)⟩

theorem wit_KhrSteps_b_4 :
 (Option.any (fun (r : Rst) => r.pid == 1) sKp.rst = false) ∧
 (BitVec.toNat (8 : Word) ≤ 8192) ∧
 (State.khrAddr sKp 1 (BitVec.toNat (256 : Word)) (BitVec.toNat (8 : Word)) = none) ∧
 (State.anyPois sKp (BitVec.toNat (256 : Word)) (BitVec.toNat (8 : Word)) = true) :=
  ⟨rfl, (by decide), (by decide +kernel), (by decide +kernel)⟩

theorem wit_KhrSteps_b_5 :
 (Option.any (fun (r : Rst) => r.pid == 1) sKf.rst = false) ∧
 (BitVec.toNat (8192 : Word) ≤ 8192) ∧
 (State.khrAddr sKf 1 (BitVec.toNat (256 : Word)) (BitVec.toNat (8192 : Word)) = none) ∧
 (State.anyPois sKf (BitVec.toNat (256 : Word)) (BitVec.toNat (8192 : Word)) = false) :=
  ⟨rfl, (by decide), (by decide +kernel), (by decide +kernel)⟩

theorem wit_KhrSteps_b_6 :
 (Option.any (fun (r : Rst) => r.pid == 1) sKf.rst = false) ∧
 (State.ckptOn sKf = false) ∧
 (State.khrAddr sKf 1 (BitVec.toNat (256 : Word)) 8 = none) ∧
 (List.contains (tget sKf.sess { : Sess } 3).subs (BitVec.toNat (256 : Word)) = false) ∧
 (List.length (tget sKf.sess { : Sess } 3).subs < 256) :=
  ⟨rfl, rfl, (by decide +kernel), (by decide +kernel), (by decide +kernel)⟩

theorem wit_KhrSteps_b_7 :
 (Option.any (fun (r : Rst) => r.pid == 63) sKf.rst = false) ∧
 (63 < 64) ∧
 (State.ckptOn sKf = false) :=
  ⟨rfl, (by decide), rfl⟩

theorem wit_KhrSteps_b_8 :
 (Option.any (fun (r : Rst) => r.pid == 1) sKc.rst = false) ∧
 (State.ckptOn sKc = true) ∧
 (16 ≠ 96) ∧
 (16 ≠ 33) ∧
 (16 ≠ 2) :=
  ⟨rfl, rfl, (by decide), (by decide), (by decide)⟩

theorem wit_KhrSteps_b_9 :
 (Option.any (fun (r : Rst) => r.pid == 1) sKf.rst = false) ∧
 (1 ≠ 64) :=
  ⟨rfl, (by decide)⟩

theorem wit_KhrSteps_b_10 :
 (Option.any (fun (r : Rst) => r.pid == 64) sKc.rst = false) ∧
 (64 = 64) ∧
 (sKc.ckpt.st = 1 ∨ sKc.ckpt.st = 3) ∧
 (sKc.ckpt.busy = none) ∧
 (sKc.ckpt.held = []) ∧
 (sKc.ckpt.wd = []) :=
  ⟨rfl, rfl, (Or.inl rfl), rfl, rfl, rfl⟩

theorem wit_KhrSteps_c_1 :
 (State.sessOf sHv (kHv []) = some (3, xHv)) ∧
 ((kHv []).frame = []) ∧
 ((kHv []).odd = false) ∧
 (BitVec.toNat (kHv []).seq = xHv.last + 1) :=
  ⟨(by decide +kernel), rfl, rfl, rfl⟩

theorem wit_KhrSteps_c_2 :
 (State.sessOf sHv (kHv []) = some (3, xHv)) ∧
 ((kHv []).frame = []) ∧
 ((kHv []).odd = false) ∧
 (BitVec.toNat (kHv []).seq = xHv.last + 1) ∧
 (∀ (y : Sess), tfind sHv.sess 3 = some y → y.held = []) :=
  ⟨(by decide +kernel), rfl, rfl, rfl, (fun y e => by cases e; rfl)⟩

theorem wit_KhrSteps_c_3 :
 (State.sessOf sLq0 kLq = some (3, xB)) ∧
 (kLq.frame = []) ∧
 (kLq.odd = false) ∧
 (BitVec.toNat kLq.seq = xB.last + 1) ∧
 (Option.any (fun (r : Rst) => r.pid == xB.ep) sLq0.rst = false) ∧
 (State.ckptOn sLq0 = false) ∧
 (xB.ep ≠ 64) ∧
 (List.length kLq.body = 9) ∧
 (BitVec.toNat (List.getD kLq.body 0 0) < 16) ∧
 (lqValid (State.part sLq0 xB.ep) (BitVec.toNat (List.getD kLq.body 0 0)) = true) ∧
 (State.lqOk sLq0 (lqBase (State.part sLq0 xB.ep) (BitVec.toNat (List.getD kLq.body 0 0))) = true) ∧
 (State.lqCount sLq0 (lqBase (State.part sLq0 xB.ep) (BitVec.toNat (List.getD kLq.body 0 0))) <
  State.lqN sLq0 (lqBase (State.part sLq0 xB.ep) (BitVec.toNat (List.getD kLq.body 0 0)))) :=
  ⟨(by decide +kernel), rfl, rfl, rfl, (by decide +kernel), rfl, (by decide), rfl, (by decide), (by decide +kernel), (by decide +kernel), (by decide +kernel)⟩

theorem wit_KhrSteps_c_4 :
 (State.sessOf sLq2 kLq = some (3, xB)) ∧
 (kLq.frame = []) ∧
 (kLq.odd = false) ∧
 (BitVec.toNat kLq.seq = xB.last + 1) ∧
 (Option.any (fun (r : Rst) => r.pid == xB.ep) sLq2.rst = false) ∧
 (State.ckptOn sLq2 = false) ∧
 (xB.ep ≠ 64) ∧
 (List.length kLq.body = 9) ∧
 (BitVec.toNat (List.getD kLq.body 0 0) < 16) ∧
 (lqValid (State.part sLq2 xB.ep) (BitVec.toNat (List.getD kLq.body 0 0)) = true) ∧
 (State.lqOk sLq2 (lqBase (State.part sLq2 xB.ep) (BitVec.toNat (List.getD kLq.body 0 0))) = true) ∧
 (State.lqN sLq2 (lqBase (State.part sLq2 xB.ep) (BitVec.toNat (List.getD kLq.body 0 0))) ≤
  State.lqCount sLq2 (lqBase (State.part sLq2 xB.ep) (BitVec.toNat (List.getD kLq.body 0 0)))) :=
  ⟨(by decide +kernel), rfl, rfl, rfl, (by decide +kernel), rfl, (by decide), rfl, (by decide), (by decide +kernel), (by decide +kernel), (by decide +kernel)⟩

theorem wit_KhrSteps_c_5 :
 (State.sessOf sRp0 (kHv [1, 0]) = some (3, xHv)) ∧
 ((kHv [1, 0]).frame = []) ∧
 ((kHv [1, 0]).odd = false) ∧
 (BitVec.toNat (kHv [1, 0]).seq = xHv.last + 1) ∧
 (Option.any (fun (r : Rst) => r.pid == xHv.ep) sRp0.rst = false) ∧
 (State.ckptOn sRp0 = false) ∧
 (List.length (kHv [1, 0]).body = 2) ∧
 (State.ridOp sRp0 { : Issuer } (List.getD (kHv [1, 0]).body 0 0) false = Except.ok rI0) ∧
 (xHv.ep = 64 ∨ rI0.part = xHv.ep) ∧
 (List.getD (kHv [1, 0]).body 1 0 = 0) ∧
 (rI0 = State.region sRp0 rI0.rid) ∧
 (rI0.st = rIdle) ∧
 (rI0.rpq = false) :=
  ⟨(by decide +kernel), rfl, rfl, rfl, (by decide +kernel), rfl, rfl, (okIs_eq (by decide +kernel)), (Or.inl rfl), rfl, (by decide +kernel), rfl, rfl⟩

theorem wit_KhrSteps_c_6 :
 (State.sessOf sRpR (kHv [1, 0]) = some (3, xHv)) ∧
 ((kHv [1, 0]).frame = []) ∧
 ((kHv [1, 0]).odd = false) ∧
 (BitVec.toNat (kHv [1, 0]).seq = xHv.last + 1) ∧
 (Option.any (fun (r : Rst) => r.pid == xHv.ep) sRpR.rst = false) ∧
 (State.ckptOn sRpR = false) ∧
 (List.length (kHv [1, 0]).body = 2) ∧
 (State.ridOp sRpR { : Issuer } (List.getD (kHv [1, 0]).body 0 0) false = Except.ok (rC ct0)) ∧
 (xHv.ep = 64 ∨ (rC ct0).part = xHv.ep) ∧
 (List.getD (kHv [1, 0]).body 1 0 = 0) ∧
 (rC ct0 = State.region sRpR (rC ct0).rid) ∧
 ((rC ct0).st = rRunning ∨ (rC ct0).st = rFrozen) ∧
 ((rC ct0).rpq = false) :=
  ⟨(by decide +kernel), rfl, rfl, rfl, (by decide +kernel), rfl, rfl, (okIs_eq (by decide +kernel)), (Or.inl rfl), rfl, (by decide +kernel), (Or.inl rfl), rfl⟩

theorem wit_KhrSteps_c_7 :
 (State.sessOf sRp1 (kHv [1, 0]) = some (3, xHv)) ∧
 ((kHv [1, 0]).frame = []) ∧
 ((kHv [1, 0]).odd = false) ∧
 (BitVec.toNat (kHv [1, 0]).seq = xHv.last + 1) ∧
 (Option.any (fun (r : Rst) => r.pid == xHv.ep) sRp1.rst = false) ∧
 (State.ckptOn sRp1 = false) ∧
 (List.length (kHv [1, 0]).body = 2) ∧
 (State.ridOp sRp1 { : Issuer } (List.getD (kHv [1, 0]).body 0 0) false = Except.ok rI1) ∧
 (xHv.ep = 64 ∨ rI1.part = xHv.ep) ∧
 (List.getD (kHv [1, 0]).body 1 0 = 0) ∧
 (rI1 = State.region sRp1 rI1.rid) ∧
 (rI1.st = rRunning ∨ rI1.st = rFrozen ∨ rI1.st = rIdle) ∧
 (rI1.rpq = true) :=
  ⟨(by decide +kernel), rfl, rfl, rfl, (by decide +kernel), rfl, rfl, (okIs_eq (by decide +kernel)), (Or.inl rfl), rfl, (by decide +kernel), (Or.inr (Or.inr rfl)), rfl⟩

theorem wit_KhrSteps_c_8 :
 (State.sessOf sRp0 (kHv [1, 131072]) = some (3, xHv)) ∧
 ((kHv [1, 131072]).frame = []) ∧
 ((kHv [1, 131072]).odd = false) ∧
 (BitVec.toNat (kHv [1, 131072]).seq = xHv.last + 1) ∧
 (Option.any (fun (r : Rst) => r.pid == xHv.ep) sRp0.rst = false) ∧
 (State.ckptOn sRp0 = false) ∧
 (List.length (kHv [1, 131072]).body = 2) ∧
 (State.ridOp sRp0 { : Issuer } (List.getD (kHv [1, 131072]).body 0 0) false = Except.ok rI0) ∧
 (xHv.ep = 64 ∨ rI0.part = xHv.ep) ∧
 (List.getD (kHv [1, 131072]).body 1 0 ≠ 0) ∧
 (BitVec.toNat (List.getD (kHv [1, 131072]).body 1 0) % 4096 = 0) ∧
 (State.khrAddr sRp0 xHv.ep (BitVec.toNat (List.getD (kHv [1, 131072]).body 1 0)) 4096 = none) :=
  ⟨(by decide +kernel), rfl, rfl, rfl, (by decide +kernel), rfl, rfl, (okIs_eq (by decide +kernel)), (Or.inl rfl), (by decide), (by decide +kernel), (by decide +kernel)⟩

theorem wit_KhrSteps_c_9 :
 (State.sessOf sHv (kHv ([0, 1, 0] ++ dsc)) = some (3, xHv)) ∧
 ((kHv ([0, 1, 0] ++ dsc)).frame = []) ∧
 ((kHv ([0, 1, 0] ++ dsc)).odd = false) ∧
 (BitVec.toNat (kHv ([0, 1, 0] ++ dsc)).seq = xHv.last + 1) ∧
 (Option.any (fun (r : Rst) => r.pid == xHv.ep) sHv.rst = false) ∧
 (State.ckptOn sHv = false) ∧
 (sHv.rst = none) ∧
 (sHv.mgrQ = []) ∧
 (xHv.ep = 64) ∧
 (BitVec.toNat (List.getD (kHv ([0, 1, 0] ++ dsc)).body 1 0) < 64) ∧
 (List.getD (kHv ([0, 1, 0] ++ dsc)).body 0 0 = 0) ∧
 (List.getD (kHv ([0, 1, 0] ++ dsc)).body 2 0 = 0) ∧
 (List.length (kHv ([0, 1, 0] ++ dsc)).body = 67) ∧
 (State.commitCheck
    { agenda := sHv.agenda, curRid := sHv.curRid, curKey := sHv.curKey, curSlot := sHv.curSlot, curHart := sHv.curHart, fc := sHv.fc,
      ending := sHv.ending, freeC := sHv.freeC, fresh := sHv.fresh, mem := sHv.mem, dpois := sHv.dpois, dord := sHv.dord, regions := sHv.regions,
      parts := sHv.parts, wft := sHv.wft, cycles := sHv.cycles, harts := sHv.harts, rsv := sHv.rsv, txQ := sHv.txQ, crnAt := sHv.crnAt,
      recQ := sHv.recQ, links := sHv.links, ports := sHv.ports,
      sess :=
        tset sHv.sess 3
          { ep := xHv.ep, src := xHv.src, port := xHv.port, last := BitVec.toNat (kHv ([0, 1, 0] ++ dsc)).seq, held := xHv.held, cache := xHv.cache,
            subs := xHv.subs : Sess },
      rst := sHv.rst, mgrQ := sHv.mgrQ, mgrDone := sHv.mgrDone, notes := sHv.notes, ckpt := sHv.ckpt, dev := sHv.dev, out := sHv.out : State }
    (BitVec.toNat (List.getD (kHv ([0, 1, 0] ++ dsc)).body 1 0)) (List.drop 3 (kHv ([0, 1, 0] ++ dsc)).body) =
  some (-3)) ∧
 (-3 ≠ 0) :=
  ⟨(by decide +kernel), rfl, rfl, rfl, (by decide +kernel), rfl, rfl, rfl, rfl, (by decide), (by decide), (by decide), rfl, (by decide +kernel), (by decide)⟩

theorem wit_KhrSteps_c_10 :
 (State.sessOf sHv (kHv ([0, 2, 0] ++ dsc)) = some (3, xHv)) ∧
 ((kHv ([0, 2, 0] ++ dsc)).frame = []) ∧
 ((kHv ([0, 2, 0] ++ dsc)).odd = false) ∧
 (BitVec.toNat (kHv ([0, 2, 0] ++ dsc)).seq = xHv.last + 1) ∧
 (Option.any (fun (r : Rst) => r.pid == xHv.ep) sHv.rst = false) ∧
 (State.ckptOn sHv = false) ∧
 (sHv.rst = none) ∧
 (sHv.mgrQ = []) ∧
 (xHv.ep = 64) ∧
 (BitVec.toNat (List.getD (kHv ([0, 2, 0] ++ dsc)).body 1 0) < 64) ∧
 (List.getD (kHv ([0, 2, 0] ++ dsc)).body 0 0 = 0) ∧
 (List.getD (kHv ([0, 2, 0] ++ dsc)).body 2 0 = 0) ∧
 (List.length (kHv ([0, 2, 0] ++ dsc)).body = 67) ∧
 (State.commitCheck
    { agenda := sHv.agenda, curRid := sHv.curRid, curKey := sHv.curKey, curSlot := sHv.curSlot, curHart := sHv.curHart, fc := sHv.fc,
      ending := sHv.ending, freeC := sHv.freeC, fresh := sHv.fresh, mem := sHv.mem, dpois := sHv.dpois, dord := sHv.dord, regions := sHv.regions,
      parts := sHv.parts, wft := sHv.wft, cycles := sHv.cycles, harts := sHv.harts, rsv := sHv.rsv, txQ := sHv.txQ, crnAt := sHv.crnAt,
      recQ := sHv.recQ, links := sHv.links, ports := sHv.ports,
      sess :=
        tset sHv.sess 3
          { ep := xHv.ep, src := xHv.src, port := xHv.port, last := BitVec.toNat (kHv ([0, 2, 0] ++ dsc)).seq, held := xHv.held, cache := xHv.cache,
            subs := xHv.subs : Sess },
      rst := sHv.rst, mgrQ := sHv.mgrQ, mgrDone := sHv.mgrDone, notes := sHv.notes, ckpt := sHv.ckpt, dev := sHv.dev, out := sHv.out : State }
    (BitVec.toNat (List.getD (kHv ([0, 2, 0] ++ dsc)).body 1 0)) (List.drop 3 (kHv ([0, 2, 0] ++ dsc)).body) =
  none) :=
  ⟨(by decide +kernel), rfl, rfl, rfl, (by decide +kernel), rfl, rfl, rfl, rfl, (by decide), (by decide), (by decide), rfl, (by decide +kernel)⟩

theorem wit_KhrSteps_c_11 :
 (State.sessOf sHv (kHv [1, 1, 0]) = some (3, xHv)) ∧
 ((kHv [1, 1, 0]).frame = []) ∧
 ((kHv [1, 1, 0]).odd = false) ∧
 (BitVec.toNat (kHv [1, 1, 0]).seq = xHv.last + 1) ∧
 (Option.any (fun (r : Rst) => r.pid == xHv.ep) sHv.rst = false) ∧
 (State.ckptOn sHv = false) ∧
 (sHv.rst = none) ∧
 (sHv.mgrQ = []) ∧
 (xHv.ep = 64) ∧
 (BitVec.toNat (List.getD (kHv [1, 1, 0]).body 1 0) < 64) ∧
 (List.getD (kHv [1, 1, 0]).body 0 0 = 1) ∧
 (List.getD (kHv [1, 1, 0]).body 2 0 = 0) ∧
 (List.length (kHv [1, 1, 0]).body = 3) :=
  ⟨(by decide +kernel), rfl, rfl, rfl, (by decide +kernel), rfl, rfl, rfl, rfl, (by decide), (by decide), (by decide), rfl⟩

theorem wit_KhrSteps_c_12 :
 (State.sessOf sHv (kHv [2, 1, 0]) = some (3, xHv)) ∧
 ((kHv [2, 1, 0]).frame = []) ∧
 ((kHv [2, 1, 0]).odd = false) ∧
 (BitVec.toNat (kHv [2, 1, 0]).seq = xHv.last + 1) ∧
 (Option.any (fun (r : Rst) => r.pid == xHv.ep) sHv.rst = false) ∧
 (State.ckptOn sHv = false) ∧
 (sHv.rst = none) ∧
 (sHv.mgrQ = []) ∧
 (xHv.ep = 64) ∧
 (BitVec.toNat (List.getD (kHv [2, 1, 0]).body 1 0) < 64) ∧
 (List.getD (kHv [2, 1, 0]).body 0 0 = 2) ∧
 (List.getD (kHv [2, 1, 0]).body 2 0 = 0) ∧
 (List.length (kHv [2, 1, 0]).body = 3) ∧
 (partValid (State.part sHv (BitVec.toNat (List.getD (kHv [2, 1, 0]).body 1 0))) = true) :=
  ⟨(by decide +kernel), rfl, rfl, rfl, (by decide +kernel), rfl, rfl, rfl, rfl, (by decide), (by decide), (by decide), rfl, (by decide +kernel)⟩

theorem wit_KhrSteps_c_13 :
 (State.sessOf sHv (kHv [3, 1, 1]) = some (3, xHv)) ∧
 ((kHv [3, 1, 1]).frame = []) ∧
 ((kHv [3, 1, 1]).odd = false) ∧
 (BitVec.toNat (kHv [3, 1, 1]).seq = xHv.last + 1) ∧
 (Option.any (fun (r : Rst) => r.pid == xHv.ep) sHv.rst = false) ∧
 (State.ckptOn sHv = false) ∧
 (sHv.rst = none) ∧
 (sHv.mgrQ = []) ∧
 (xHv.ep = 64) ∧
 (BitVec.toNat (List.getD (kHv [3, 1, 1]).body 1 0) < 64) ∧
 (List.getD (kHv [3, 1, 1]).body 0 0 = 3) ∧
 (BitVec.toNat (List.getD (kHv [3, 1, 1]).body 2 0) < 2) ∧
 (List.length (kHv [3, 1, 1]).body = 3) ∧
 (partValid (State.part sHv (BitVec.toNat (List.getD (kHv [3, 1, 1]).body 1 0))) = true) :=
  ⟨(by decide +kernel), rfl, rfl, rfl, (by decide +kernel), rfl, rfl, rfl, rfl, (by decide), (by decide), (by decide), rfl, (by decide +kernel)⟩

theorem wit_KhrSteps_c_14 :
 (State.sessOf sHv (kHv [1, 1]) = some (3, xHv)) ∧
 ((kHv [1, 1]).frame = []) ∧
 ((kHv [1, 1]).odd = false) ∧
 (BitVec.toNat (kHv [1, 1]).seq = xHv.last + 1) ∧
 (Option.any (fun (r : Rst) => r.pid == xHv.ep) sHv.rst = false) ∧
 (State.ckptOn sHv = false) ∧
 (sHv.rst = none) ∧
 (sHv.mgrQ = []) ∧
 (List.length (kHv [1, 1]).body = 2) ∧
 (xHv.ep = 64 ∨ xHv.ep = BitVec.toNat (List.getD (kHv [1, 1]).body 0 0)) ∧
 (BitVec.toNat (List.getD (kHv [1, 1]).body 0 0) < 64) ∧
 (BitVec.toNat (List.getD (kHv [1, 1]).body 1 0) < 2) ∧
 (partValid (State.part sHv (BitVec.toNat (List.getD (kHv [1, 1]).body 0 0))) = true) :=
  ⟨(by decide +kernel), rfl, rfl, rfl, (by decide +kernel), rfl, rfl, rfl, rfl, (Or.inl rfl), (by decide), (by decide), (by decide +kernel)⟩

theorem wit_KhrSteps_d_1 :
 (State.sessOf sCk2 (kHv [2, 0]) = some (3, xHv)) ∧
 ((kHv [2, 0]).frame = []) ∧
 ((kHv [2, 0]).odd = false) ∧
 (BitVec.toNat (kHv [2, 0]).seq = xHv.last + 1) ∧
 (Option.any (fun (r : Rst) => r.pid == xHv.ep) sCk2.rst = false) ∧
 (xHv.ep = 64) ∧
 ((kHv [2, 0]).body = [2, 0]) ∧
 (sCk2.ckpt.has = true) ∧
 (sCk2.ckpt.st = 0) ∧
 (sCk2.ckpt.busy = none) ∧
 (BitVec.toNat (0 : Word) = Option.getD (Option.map (fun (x : Nat) => x + 1) sCk2.ckpt.last) 0) :=
  ⟨(by decide +kernel), rfl, rfl, rfl, (by decide +kernel), rfl, rfl, rfl, rfl, rfl, rfl⟩

theorem wit_KhrSteps_d_2 :
 (State.sessOf sCk2 (kHv [2, 0]) = some (3, xHv)) ∧
 ((kHv [2, 0]).frame = []) ∧
 ((kHv [2, 0]).odd = false) ∧
 (BitVec.toNat (kHv [2, 0]).seq = xHv.last + 1) ∧
 (Option.any (fun (r : Rst) => r.pid == xHv.ep) sCk2.rst = false) ∧
 (xHv.ep = 64) ∧
 ((kHv [2, 0]).body = [2, 0]) ∧
 (sCk2.ckpt.has = true) ∧
 (sCk2.ckpt.st = 0) ∧
 (sCk2.ckpt.busy = none) ∧
 (BitVec.toNat (0 : Word) = Option.getD (Option.map (fun (x : Nat) => x + 1) sCk2.ckpt.last) 0) ∧
 (xHv.held = []) ∧
 (sCk2.regions = []) ∧
 (sCk2.rst = none) ∧
 ((List.all sCk2.parts fun (p : Nat × Part) => List.isEmpty p.snd.calls && Option.isNone p.snd.mig) = true) :=
  ⟨(by decide +kernel), rfl, rfl, rfl, (by decide +kernel), rfl, rfl, rfl, rfl, rfl, rfl, rfl, rfl, rfl, (by decide +kernel)⟩

theorem wit_KhrSteps_d_3 :
 (State.sessOf sCk3 (kHv [3, 0]) = some (3, xHv)) ∧
 ((kHv [3, 0]).frame = []) ∧
 ((kHv [3, 0]).odd = false) ∧
 (BitVec.toNat (kHv [3, 0]).seq = xHv.last + 1) ∧
 (Option.any (fun (r : Rst) => r.pid == xHv.ep) sCk3.rst = false) ∧
 (xHv.ep = 64) ∧
 ((kHv [3, 0]).body = [3, 0]) ∧
 (sCk3.ckpt.st = 1) ∧
 (sCk3.ckpt.busy = none) ∧
 (BitVec.toNat (0 : Word) = Option.getD (Option.map (fun (x : Nat) => x + 1) sCk3.ckpt.last) 0) :=
  ⟨(by decide +kernel), rfl, rfl, rfl, (by decide +kernel), rfl, rfl, rfl, rfl, rfl⟩

theorem wit_KhrSteps_d_4 :
 (State.sessOf sCk2 (kHv [6, 4, 0]) = some (3, xHv)) ∧
 ((kHv [6, 4, 0]).frame = []) ∧
 ((kHv [6, 4, 0]).odd = false) ∧
 (BitVec.toNat (kHv [6, 4, 0]).seq = xHv.last + 1) ∧
 (Option.any (fun (r : Rst) => r.pid == xHv.ep) sCk2.rst = false) ∧
 (xHv.ep = 64) ∧
 (sCk2.ckpt.has = true) ∧
 ((kHv [6, 4, 0]).body = [6, 4, 0]) ∧
 (State.slotOk
    { agenda := sCk2.agenda, curRid := sCk2.curRid, curKey := sCk2.curKey, curSlot := sCk2.curSlot, curHart := sCk2.curHart, fc := sCk2.fc,
      ending := sCk2.ending, freeC := sCk2.freeC, fresh := sCk2.fresh, mem := sCk2.mem, dpois := sCk2.dpois, dord := sCk2.dord,
      regions := sCk2.regions, parts := sCk2.parts, wft := sCk2.wft, cycles := sCk2.cycles, harts := sCk2.harts, rsv := sCk2.rsv, txQ := sCk2.txQ,
      crnAt := sCk2.crnAt, recQ := sCk2.recQ, links := sCk2.links, ports := sCk2.ports,
      sess :=
        tset sCk2.sess 3
          { ep := xHv.ep, src := xHv.src, port := xHv.port, last := BitVec.toNat (kHv [6, 4, 0]).seq, held := xHv.held, cache := xHv.cache,
            subs := xHv.subs : Sess },
      rst := sCk2.rst, mgrQ := sCk2.mgrQ, mgrDone := sCk2.mgrDone, notes := sCk2.notes, ckpt := sCk2.ckpt, dev := sCk2.dev, out := sCk2.out : State }
    (fun (o : Nat) =>
      State.rdW
        { agenda := sCk2.agenda, curRid := sCk2.curRid, curKey := sCk2.curKey, curSlot := sCk2.curSlot, curHart := sCk2.curHart, fc := sCk2.fc,
          ending := sCk2.ending, freeC := sCk2.freeC, fresh := sCk2.fresh, mem := sCk2.mem, dpois := sCk2.dpois, dord := sCk2.dord,
          regions := sCk2.regions, parts := sCk2.parts, wft := sCk2.wft, cycles := sCk2.cycles, harts := sCk2.harts, rsv := sCk2.rsv, txQ := sCk2.txQ,
          crnAt := sCk2.crnAt, recQ := sCk2.recQ, links := sCk2.links, ports := sCk2.ports,
          sess :=
            tset sCk2.sess 3
              { ep := xHv.ep, src := xHv.src, port := xHv.port, last := BitVec.toNat (kHv [6, 4, 0]).seq, held := xHv.held, cache := xHv.cache,
                subs := xHv.subs : Sess },
          rst := sCk2.rst, mgrQ := sCk2.mgrQ, mgrDone := sCk2.mgrDone, notes := sCk2.notes, ckpt := sCk2.ckpt, dev := sCk2.dev, out := sCk2.out :
          State }
        (ckSlot sCk2.ckpt.plan (BitVec.toNat (4 : Word)) 5 + o))
    (BitVec.toNat (4 : Word)) =
  false) :=
  ⟨(by decide +kernel), rfl, rfl, rfl, (by decide +kernel), rfl, rfl, rfl, (by decide +kernel)⟩

theorem wit_KhrSteps_d_5 :
 (State.sessOf sCk2 (kHv [6, 4, 1]) = some (3, xHv)) ∧
 ((kHv [6, 4, 1]).frame = []) ∧
 ((kHv [6, 4, 1]).odd = false) ∧
 (BitVec.toNat (kHv [6, 4, 1]).seq = xHv.last + 1) ∧
 (Option.any (fun (r : Rst) => r.pid == xHv.ep) sCk2.rst = false) ∧
 (xHv.ep = 64) ∧
 (sCk2.ckpt.has = true) ∧
 ((kHv [6, 4, 1]).body = [6, 4, 1]) :=
  ⟨(by decide +kernel), rfl, rfl, rfl, (by decide +kernel), rfl, rfl, rfl⟩

theorem wit_KhrSteps_e_1 :
 (State.sessOf sCk0 (kHv (1 :: planOf (2 ^ 21))) = some (3, xHv)) ∧
 ((kHv (1 :: planOf (2 ^ 21))).frame = []) ∧
 ((kHv (1 :: planOf (2 ^ 21))).odd = false) ∧
 (BitVec.toNat (kHv (1 :: planOf (2 ^ 21))).seq = xHv.last + 1) ∧
 (Option.any (fun (r : Rst) => r.pid == xHv.ep) sCk0.rst = false) ∧
 (xHv.ep = 64) ∧
 ((kHv (1 :: planOf (2 ^ 21))).body = 1 :: planOf (2 ^ 21)) ∧
 (List.length (planOf (2 ^ 21)) = 64) ∧
 (State.planBad sCk0 (planOf (2 ^ 21)) = false) ∧
 (sCk0.ckpt.st = 0) ∧
 (sCk0.ckpt.busy = none) ∧
 (8 *
    ((List.getD (ckPlaces (State.ckSections sCk0) (List.length (ckPages (planOf (2 ^ 21))))) 4 (0, 0)).fst +
      (List.getD (ckPlaces (State.ckSections sCk0) (List.length (ckPages (planOf (2 ^ 21))))) 4 (0, 0)).snd) ≤
  ckLen (planOf (2 ^ 21))) :=
  ⟨(by decide +kernel), rfl, rfl, rfl, (by decide +kernel), rfl, rfl, rfl, (by decide +kernel), rfl, rfl, (by exact ckB _ (by decide +kernel) (by decide +kernel))⟩

theorem wit_KhrSteps_e_2 :
 (State.sessOf sCk0 (kHv (1 :: planOf (2 ^ 16))) = some (3, xHv)) ∧
 ((kHv (1 :: planOf (2 ^ 16))).frame = []) ∧
 ((kHv (1 :: planOf (2 ^ 16))).odd = false) ∧
 (BitVec.toNat (kHv (1 :: planOf (2 ^ 16))).seq = xHv.last + 1) ∧
 (Option.any (fun (r : Rst) => r.pid == xHv.ep) sCk0.rst = false) ∧
 (xHv.ep = 64) ∧
 ((kHv (1 :: planOf (2 ^ 16))).body = 1 :: planOf (2 ^ 16)) ∧
 (List.length (planOf (2 ^ 16)) = 64) ∧
 (State.planBad sCk0 (planOf (2 ^ 16)) = false) ∧
 (sCk0.ckpt.st = 0) ∧
 (sCk0.ckpt.busy = none) ∧
 (ckLen (planOf (2 ^ 16)) <
  8 *
    ((List.getD (ckPlaces (State.ckSections sCk0) (List.length (ckPages (planOf (2 ^ 16))))) 4 (0, 0)).fst +
      (List.getD (ckPlaces (State.ckSections sCk0) (List.length (ckPages (planOf (2 ^ 16))))) 4 (0, 0)).snd)) :=
  ⟨(by decide +kernel), rfl, rfl, rfl, (by decide +kernel), rfl, rfl, rfl, (by decide +kernel), rfl, rfl, (by exact ckS _ (by decide +kernel))⟩

end WitManagement

/-! ### Steps -/

namespace WitSteps

def tMv : Ti := { sa := 1, sb := 15, dst := 4 }
def wMv : Word := 0x8000000085e40000
def rRn : Region := rC { ct0 with slots := [(3, wMv)] }
def sRn : State := { sP rRn with agenda := [.tile 1 0] }
def sHt (w : Nat) (p : Priv) : State := { sP rP with agenda := [.hart 0], ending := true, mem := memT [(0x1000, w)], harts := [(0, { pc := 0x1000, priv := p, x := [(17, eidPart), (16, 4)] })] }
def sEv : State := { sP rP with agenda := [.event .resetN], ending := true }
def sEnd : State := { sP rP with ending := true }
def xI : Xr := { rd := 10, rs1 := 11, rs2 := 12 }
def csI : CsrOp := { f3 := 1, rd := 5, rs1 := 6, csr := 0x5C1 }
/-- Words of a kill, of a CSR write, and of a CSR word with a field out of place. -/
def hwW (k : Nat) : Nat :=
  if k = 1 then 0b00000010110001011000010100001011 else if k = 2 then 0b01011100000100110001001011110011 else 0b01011100011000110001001011110011
def sHg : State := sHt (hwW 2) .hs
def sH1 : State := { sHt (hwW 1) .hs with harts := [(0, { pc := 0x1000, priv := .hs, x := [(11, 1)] })] }
def sH2 : State := sHt (hwW 3) .hs
def sH3 : State := sHt 0x10200073 .hs
def sH4 : State := sHt 0x30200073 .m
def sH5 : State := sHt 0x73 .hs
def sHc : State := sHt 0x4501 .hs
def sHx : State := { sHt 0 .hs with harts := [(0, { pc := 0x1002, priv := .hs, csr := [(0x180, BitVec.ofNat 64 (8 * 2 ^ 60 + 0x60))] })] }
def sHe : State := { sHt 0 .hs with harts := [(0, { pc := 0x1000, priv := .u, hs := { enab := BitVec.ofNat 64 (2 ^ 1) }, mideleg := BitVec.ofNat 64 (2 ^ 1), ip := BitVec.ofNat 64 (2 ^ 1) })] }
theorem prod_eq {α β : Type} {p : α × β} {b : β} (h : p.2 = b) : p = (p.1, b) := by rw [← h]
def rCl : Region := rC { ct0 with pg := 16 }
def sCl : State := sP rCl
def oY (code ph imm : Nat) (due : Option Nat := some 9) (accs : List Nat := []) (a : Val := {}) : PendOp :=
  { slot := 3, code := code, ti := { dst := 14, imm := BitVec.ofNat 8 imm, puo := 1, pui := 2 }, ph := ph, due := due, a := a, accs := accs, res := { bits := 6 }, cond := true }
def ctY (o : PendOp) (more : List (Nat × PendOp) := []) : Ct := { ct0 with ops := more ++ [(7, o)] }
def rY (o : PendOp) (more : List (Nat × PendOp) := []) (a b : BitVec 2 := hFull) : Region :=
  { rC (ctY o more) with tiles := [(0, { act := { ct := ctY o more, routes := [(0, [0])] } }), (1, { act := { hs := [(0, { st := a, grant := some 3 }), (1, { st := b })] } })] }
def yF : PendOp := oY 0xD9 5 8
def yH : PendOp := oY 0xD7 5 9
def yR : PendOp := oY 0xD5 5 8
def yX : PendOp := oY 0xD7 5 8
def y6 : PendOp := oY 0xEB 6 0
def y8 (n : Nat) : PendOp := oY 0xEA 8 0 (some 9) [] { bits := BitVec.ofNat 64 n }
def rYF : Region := rY yF
def rYG : Region := rY yF [(3, { code := 0xC0, ph := 4 })]
def rYH : Region := rY yH [] hFull hFilling
def rYR : Region := rY yR
def rYX : Region := rY yX
def rY6 : Region := rY y6
def rY80 : Region := { rY (y8 5) with cpyid := 5 }
def rY81 : Region := { rY (y8 5) with cpyid := 69, copies := [(2, { cid := 5, desc := [0] })] }
def rY82 : Region := { rY (y8 5) with cpyid := 6, cstat := [(5, (BitVec.ofNat 64 (2 ^ 63 + 3), 0))] }
theorem cmp {r : Region} {o : PendOp} (h0 : tfind (r.ct 0).ops 7 = some o) (h1 : tfind (r.tile 0).ins.ct.ops 7 = none) (h2 : opsRun r = true)
    (h3 : opDue 9 o = true) (h4 : o.due = none ∨ slotFirst 9 r 0 o = true) : Completes (sP r) 1 0 7 r o := ⟨rfl, h0, h1, h2, h3, h4⟩
def yQ (code : Nat) : PendOp := { oY code 9 1 none [5] with b := { bits := 2 } }
def aY (st : AccSt) (sp : Nat := 3) : Access := { own := .pe 0 7 0, op := .read 8, sp := sp, addr := 16 * 8, seq := 7, st := st }
def rQ (code : Nat) (st : AccSt) : Region :=
  { rC (ctY (yQ code)) with flight := [(5, aY st)], tiles := [(0, { act := { ct := ctY (yQ code), routes := [(0, [0])] } }),
      (1, { act := { mode := ([7 * 2 ^ 60, 0, 2 ^ 56 + 2 ^ 48] : List Nat).map (BitVec.ofNat 64), u := { ents := [{ w0 := { bits := 1 } }] } } })] }
def yW (code imm : Nat) : PendOp := oY code 6 imm none [5]
def rW (code imm : Nat) : Region := { rC (ctY (yW code imm)) with flight := [(5, aY .done 2)] }
def sW (code imm : Nat) (p : List Nat) (wft : Tab Wfe := []) : State :=
  { sP (rW code imm) with parts := [(1, { desc := p.map (BitVec.ofNat 64) })], wft := wft }
def wY : Wfe := { exp := true, rid := 1, slot := 3, obj := objMt 1 128 }
def ySy : PendOp := { oY 0xF0 5 0 none with a := gAt 0 0x200, b := { bits := 2 } }
def sysTrapOf (x : State × SysRes) : TrapInfo := match x.2 with | .stall t => t | _ => { code := 0 }
theorem stat_ok {x : State × SysRes} {i : Int} (h : (match x.2 with | .stat j => decide (j = i) | _ => false) = true) : x = (x.1, .stat i) := by
  obtain ⟨a, b⟩ := x
  cases b with
  | stat j => exact congrArg (fun k => (a, SysRes.stat k)) (of_decide_eq_true h)
  | _ => cases h
theorem stall_ok {x : State × SysRes} (h : (match x.2 with | .stall _ => true | _ => false) = true) : x = (x.1, .stall (sysTrapOf x)) := by
  obtain ⟨a, b⟩ := x
  cases b with
  | stall j => rfl
  | _ => cases h
def rSy : Region := { rC (ctY ySy) with caps := [(0, capOf 0 0x20000 0xFF)] }
def sYs (l : Nat) : State :=
  { sP rSy with mem := memT (if l = 0 then [] else [(0, 2 ^ 63 + 0x1000), (0x1000, 2 ^ 63 + 0x2000), (0x2000, 2 ^ 63 + 0x3000), (0x3000, 2 ^ 63 + 0x4000), (0x4008, 2 ^ 63 + 2 ^ 62 + 0x2000E)]), parts := [(1, { desc := ([5 * 2 ^ 36, 2 ^ 42 * (1 - l) + 4 * 2 ^ 30] ++ List.replicate 12 0 ++ [2 ^ 52] : List Nat).map (BitVec.ofNat 64) })] }

theorem wit_MemCanonStep_1 :
 (MemInv State.reset) ∧
 (step State.reset = Host.Outcome.next (State.tick (State.commits State.reset))) :=
  ⟨rfl, rfl⟩

theorem wit_RoundTrip_1 :
 (Instr.wf (Instr.mov tMv) = true) ∧
 (encode (Instr.mov tMv) = some (Enc.ti wMv)) :=
  ⟨(by decide), (by decide)⟩

theorem wit_WordsHaveOneMeaning_1 :
 decodeEnc (Enc.ti wMv) = Except.ok (Instr.mov tMv) :=
  okIs_eq (by decide)

theorem wit_StepRuns_1 :
 (sRn.agenda = [Mover.tile 1 0]) ∧
 (sRn.ending = false) ∧
 (State.region? sRn 1 = some rRn) ∧
 (tileLive rRn 0 = true) ∧
 (arbiter rRn 0 = some 3) ∧
 (decodeSlot (tget (Region.ct rRn 0).slots 0 3) = Except.ok (Instr.mov tMv)) :=
  ⟨rfl, rfl, rfl, rfl, (by decide +kernel), (okIs_eq (by decide +kernel))⟩

/-- The state at a hart's turn, and after its look at standard interrupts. -/
def hs1 (s : State) : State := ({ s with agenda := [] } : State).commits
def hs2 (s : State) : State := (({ hs1 s with curHart := 0 } : State).stdInt 0).1

theorem wit_StepRuns_2 :
 sHe.agenda = [.hart 0] ∧
 (hs1 sHe).dev.power = .on ∧
 0 < 208 ∧
 ((hs1 sHe).hart 0).stopped = false ∧
 ({ hs1 sHe with curHart := 0 } : State).stdInt 0 = (hs2 sHe, true) :=
  ⟨rfl, rfl, (by decide), rfl, (prod_eq (by decide +kernel))⟩

theorem wit_StepRuns_3 :
 sHx.agenda = [.hart 0] ∧
 (hs1 sHx).dev.power = .on ∧
 0 < 208 ∧
 ((hs1 sHx).hart 0).stopped = false ∧
 ({ hs1 sHx with curHart := 0 } : State).stdInt 0 = (hs2 sHx, false) ∧
 (hs2 sHx).fetch ((hs1 sHx).hart 0) = .error (12, 0x1002, 0) :=
  ⟨rfl, rfl, (by decide), rfl, (prod_eq (by decide +kernel)), (errIs_eq (by decide +kernel))⟩

theorem wit_StepRuns_4 :
 sHg.agenda = [.hart 0] ∧
 (hs1 sHg).dev.power = .on ∧
 0 < 208 ∧
 ((hs1 sHg).hart 0).stopped = false ∧
 ({ hs1 sHg with curHart := 0 } : State).stdInt 0 = (hs2 sHg, false) ∧
 (hs2 sHg).fetch ((hs1 sHg).hart 0) = .ok (hwW 2, 4) ∧
 decodeHart (BitVec.ofNat 32 (hwW 2)) = .ok (.csrWrite csI) ∧
 crnCode (.csrWrite csI) = none :=
  ⟨rfl, rfl, (by decide), rfl, (prod_eq (by decide +kernel)), (okIs_eq (by decide +kernel)), (okIs_eq (by decide +kernel)), rfl⟩

theorem wit_StepRuns_5 :
 sH1.agenda = [.hart 0] ∧
 (hs1 sH1).dev.power = .on ∧
 0 < 208 ∧
 ((hs1 sH1).hart 0).stopped = false ∧
 ({ hs1 sH1 with curHart := 0 } : State).stdInt 0 = (hs2 sH1, false) ∧
 (hs2 sH1).fetch ((hs1 sH1).hart 0) = .ok (hwW 1, 4) ∧
 decodeHart (BitVec.ofNat 32 (hwW 1)) = .ok (.crnFkill xI) ∧
 crnCode (.crnFkill xI) = some (1, xI) ∧
 ∀ rid ∈ (hs2 sH1).crnRids 1 xI, (hs2 sH1).crnLate 0 rid = false :=
  ⟨rfl, rfl, (by decide), rfl, (prod_eq (by decide +kernel)), (okIs_eq (by decide +kernel)), (okIs_eq (by decide +kernel)), rfl, (by decide +kernel)⟩

theorem wit_StepRuns_6 :
 sH2.agenda = [.hart 0] ∧
 (hs1 sH2).dev.power = .on ∧
 0 < 208 ∧
 ((hs1 sH2).hart 0).stopped = false ∧
 ({ hs1 sH2 with curHart := 0 } : State).stdInt 0 = (hs2 sH2, false) ∧
 (hs2 sH2).fetch ((hs1 sH2).hart 0) = .ok (hwW 3, 4) ∧
 decodeHart (BitVec.ofNat 32 (hwW 3)) = .error .illegal :=
  ⟨rfl, rfl, (by decide), rfl, (prod_eq (by decide +kernel)), (okIs_eq (by decide +kernel)), (errIs_eq (by decide +kernel))⟩

theorem wit_StepRuns_7 :
 sH3.agenda = [.hart 0] ∧
 (hs1 sH3).dev.power = .on ∧
 0 < 208 ∧
 ((hs1 sH3).hart 0).stopped = false ∧
 ({ hs1 sH3 with curHart := 0 } : State).stdInt 0 = (hs2 sH3, false) ∧
 (hs2 sH3).fetch ((hs1 sH3).hart 0) = .ok (0x10200073, 4) ∧
 denyTrap ((hs2 sH3).hart 0) 22 22 = none :=
  ⟨rfl, rfl, (by decide), rfl, (prod_eq (by decide +kernel)), (okIs_eq (by decide +kernel)), rfl⟩

theorem wit_StepRuns_8 :
 sH4.agenda = [.hart 0] ∧
 (hs1 sH4).dev.power = .on ∧
 0 < 208 ∧
 ((hs1 sH4).hart 0).stopped = false ∧
 ({ hs1 sH4 with curHart := 0 } : State).stdInt 0 = (hs2 sH4, false) ∧
 (hs2 sH4).fetch ((hs1 sH4).hart 0) = .ok (0x30200073, 4) ∧
 ((hs2 sH4).hart 0).priv = .m :=
  ⟨rfl, rfl, (by decide), rfl, (prod_eq (by decide +kernel)), (okIs_eq (by decide +kernel)), rfl⟩

theorem wit_StepRuns_9 :
 sH5.agenda = [.hart 0] ∧
 (hs1 sH5).dev.power = .on ∧
 0 < 208 ∧
 ((hs1 sH5).hart 0).stopped = false ∧
 ({ hs1 sH5 with curHart := 0 } : State).stdInt 0 = (hs2 sH5, false) ∧
 (hs2 sH5).fetch ((hs1 sH5).hart 0) = .ok (0x73, 4) ∧
 ((hs2 sH5).hart 0).priv ≠ .m ∧
 callOf ((hs2 sH5).hart 0) = some .linkGet :=
  ⟨rfl, rfl, (by decide), rfl, (prod_eq (by decide +kernel)), (okIs_eq (by decide +kernel)), (by decide), (by decide +kernel)⟩

theorem wit_StepRuns_10 :
 sHc.agenda = [.hart 0] ∧
 (hs1 sHc).dev.power = .on ∧
 0 < 208 ∧
 ((hs1 sHc).hart 0).stopped = false ∧
 ({ hs1 sHc with curHart := 0 } : State).stdInt 0 = (hs2 sHc, false) ∧
 (hs2 sHc).fetch ((hs1 sHc).hart 0) = .ok (0x4501, 2) ∧
 expandC 0x4501 = some (Option.get (expandC 0x4501) (by decide +kernel)) :=
  ⟨rfl, rfl, (by decide), rfl, (prod_eq (by decide +kernel)), (okIs_eq (by decide +kernel)), (Option.some_get (by decide +kernel)).symm⟩

theorem wit_StepRuns_11 :
 (sEv.agenda = [Mover.event Instr.resetN]) ∧
 (isEvent Instr.resetN = true) ∧
 (isMgmt Instr.resetN = true ∨
  (State.commits
            ({ sEv with agenda := [], out := sEv.out : State } : State)).dev.power =
      Power.on ∨
    (State.commits
              ({ sEv with agenda := [], out := sEv.out : State } : State)).dev.rise =
        true ∧
      isTrain Instr.resetN = true) :=
  ⟨rfl, rfl, (Or.inl rfl)⟩

theorem wit_StepRuns_12 :
 ({ agenda := [Mover.event (Instr.heatEpochEnd 1)], curRid := sEv.curRid, curKey := sEv.curKey, curSlot := sEv.curSlot, curHart := sEv.curHart,
      fc := sEv.fc, ending := sEv.ending, freeC := sEv.freeC, fresh := sEv.fresh, mem := sEv.mem, dpois := sEv.dpois, dord := sEv.dord,
      regions := sEv.regions, parts := sEv.parts, wft := sEv.wft, cycles := sEv.cycles, harts := sEv.harts, rsv := sEv.rsv, txQ := sEv.txQ,
      crnAt := sEv.crnAt, recQ := sEv.recQ, links := sEv.links, ports := sEv.ports, sess := sEv.sess, rst := sEv.rst, mgrQ := sEv.mgrQ,
      mgrDone := sEv.mgrDone, notes := sEv.notes, ckpt := sEv.ckpt, dev := sEv.dev, out := sEv.out : State }.agenda =
  [Mover.event (Instr.heatEpochEnd 1)]) ∧
 (isEvent (Instr.heatEpochEnd 1) = true) ∧
 (isMgmt (Instr.heatEpochEnd 1) = true ∨
  (State.commits
            {
              curRid :=
                { agenda := [Mover.event (Instr.heatEpochEnd 1)], curRid := sEv.curRid, curKey := sEv.curKey, curSlot := sEv.curSlot,
                    curHart := sEv.curHart, fc := sEv.fc, ending := sEv.ending, freeC := sEv.freeC, fresh := sEv.fresh, mem := sEv.mem,
                    dpois := sEv.dpois, dord := sEv.dord, regions := sEv.regions, parts := sEv.parts, wft := sEv.wft, cycles := sEv.cycles,
                    harts := sEv.harts, rsv := sEv.rsv, txQ := sEv.txQ, crnAt := sEv.crnAt, recQ := sEv.recQ, links := sEv.links, ports := sEv.ports,
                    sess := sEv.sess, rst := sEv.rst, mgrQ := sEv.mgrQ, mgrDone := sEv.mgrDone, notes := sEv.notes, ckpt := sEv.ckpt, dev := sEv.dev,
                    out := sEv.out : State }.curRid,
              curKey :=
                { agenda := [Mover.event (Instr.heatEpochEnd 1)], curRid := sEv.curRid, curKey := sEv.curKey, curSlot := sEv.curSlot,
                    curHart := sEv.curHart, fc := sEv.fc, ending := sEv.ending, freeC := sEv.freeC, fresh := sEv.fresh, mem := sEv.mem,
                    dpois := sEv.dpois, dord := sEv.dord, regions := sEv.regions, parts := sEv.parts, wft := sEv.wft, cycles := sEv.cycles,
                    harts := sEv.harts, rsv := sEv.rsv, txQ := sEv.txQ, crnAt := sEv.crnAt, recQ := sEv.recQ, links := sEv.links, ports := sEv.ports,
                    sess := sEv.sess, rst := sEv.rst, mgrQ := sEv.mgrQ, mgrDone := sEv.mgrDone, notes := sEv.notes, ckpt := sEv.ckpt, dev := sEv.dev,
                    out := sEv.out : State }.curKey,
              curSlot :=
                { agenda := [Mover.event (Instr.heatEpochEnd 1)], curRid := sEv.curRid, curKey := sEv.curKey, curSlot := sEv.curSlot,
                    curHart := sEv.curHart, fc := sEv.fc, ending := sEv.ending, freeC := sEv.freeC, fresh := sEv.fresh, mem := sEv.mem,
                    dpois := sEv.dpois, dord := sEv.dord, regions := sEv.regions, parts := sEv.parts, wft := sEv.wft, cycles := sEv.cycles,
                    harts := sEv.harts, rsv := sEv.rsv, txQ := sEv.txQ, crnAt := sEv.crnAt, recQ := sEv.recQ, links := sEv.links, ports := sEv.ports,
                    sess := sEv.sess, rst := sEv.rst, mgrQ := sEv.mgrQ, mgrDone := sEv.mgrDone, notes := sEv.notes, ckpt := sEv.ckpt, dev := sEv.dev,
                    out := sEv.out : State }.curSlot,
              curHart :=
                { agenda := [Mover.event (Instr.heatEpochEnd 1)], curRid := sEv.curRid, curKey := sEv.curKey, curSlot := sEv.curSlot,
                    curHart := sEv.curHart, fc := sEv.fc, ending := sEv.ending, freeC := sEv.freeC, fresh := sEv.fresh, mem := sEv.mem,
                    dpois := sEv.dpois, dord := sEv.dord, regions := sEv.regions, parts := sEv.parts, wft := sEv.wft, cycles := sEv.cycles,
                    harts := sEv.harts, rsv := sEv.rsv, txQ := sEv.txQ, crnAt := sEv.crnAt, recQ := sEv.recQ, links := sEv.links, ports := sEv.ports,
                    sess := sEv.sess, rst := sEv.rst, mgrQ := sEv.mgrQ, mgrDone := sEv.mgrDone, notes := sEv.notes, ckpt := sEv.ckpt, dev := sEv.dev,
                    out := sEv.out : State }.curHart,
              fc :=
                { agenda := [Mover.event (Instr.heatEpochEnd 1)], curRid := sEv.curRid, curKey := sEv.curKey, curSlot := sEv.curSlot,
                    curHart := sEv.curHart, fc := sEv.fc, ending := sEv.ending, freeC := sEv.freeC, fresh := sEv.fresh, mem := sEv.mem,
                    dpois := sEv.dpois, dord := sEv.dord, regions := sEv.regions, parts := sEv.parts, wft := sEv.wft, cycles := sEv.cycles,
                    harts := sEv.harts, rsv := sEv.rsv, txQ := sEv.txQ, crnAt := sEv.crnAt, recQ := sEv.recQ, links := sEv.links, ports := sEv.ports,
                    sess := sEv.sess, rst := sEv.rst, mgrQ := sEv.mgrQ, mgrDone := sEv.mgrDone, notes := sEv.notes, ckpt := sEv.ckpt, dev := sEv.dev,
                    out := sEv.out : State }.fc,
              ending :=
                { agenda := [Mover.event (Instr.heatEpochEnd 1)], curRid := sEv.curRid, curKey := sEv.curKey, curSlot := sEv.curSlot,
                    curHart := sEv.curHart, fc := sEv.fc, ending := sEv.ending, freeC := sEv.freeC, fresh := sEv.fresh, mem := sEv.mem,
                    dpois := sEv.dpois, dord := sEv.dord, regions := sEv.regions, parts := sEv.parts, wft := sEv.wft, cycles := sEv.cycles,
                    harts := sEv.harts, rsv := sEv.rsv, txQ := sEv.txQ, crnAt := sEv.crnAt, recQ := sEv.recQ, links := sEv.links, ports := sEv.ports,
                    sess := sEv.sess, rst := sEv.rst, mgrQ := sEv.mgrQ, mgrDone := sEv.mgrDone, notes := sEv.notes, ckpt := sEv.ckpt, dev := sEv.dev,
                    out := sEv.out : State }.ending,
              freeC :=
                { agenda := [Mover.event (Instr.heatEpochEnd 1)], curRid := sEv.curRid, curKey := sEv.curKey, curSlot := sEv.curSlot,
                    curHart := sEv.curHart, fc := sEv.fc, ending := sEv.ending, freeC := sEv.freeC, fresh := sEv.fresh, mem := sEv.mem,
                    dpois := sEv.dpois, dord := sEv.dord, regions := sEv.regions, parts := sEv.parts, wft := sEv.wft, cycles := sEv.cycles,
                    harts := sEv.harts, rsv := sEv.rsv, txQ := sEv.txQ, crnAt := sEv.crnAt, recQ := sEv.recQ, links := sEv.links, ports := sEv.ports,
                    sess := sEv.sess, rst := sEv.rst, mgrQ := sEv.mgrQ, mgrDone := sEv.mgrDone, notes := sEv.notes, ckpt := sEv.ckpt, dev := sEv.dev,
                    out := sEv.out : State }.freeC,
              fresh :=
                { agenda := [Mover.event (Instr.heatEpochEnd 1)], curRid := sEv.curRid, curKey := sEv.curKey, curSlot := sEv.curSlot,
                    curHart := sEv.curHart, fc := sEv.fc, ending := sEv.ending, freeC := sEv.freeC, fresh := sEv.fresh, mem := sEv.mem,
                    dpois := sEv.dpois, dord := sEv.dord, regions := sEv.regions, parts := sEv.parts, wft := sEv.wft, cycles := sEv.cycles,
                    harts := sEv.harts, rsv := sEv.rsv, txQ := sEv.txQ, crnAt := sEv.crnAt, recQ := sEv.recQ, links := sEv.links, ports := sEv.ports,
                    sess := sEv.sess, rst := sEv.rst, mgrQ := sEv.mgrQ, mgrDone := sEv.mgrDone, notes := sEv.notes, ckpt := sEv.ckpt, dev := sEv.dev,
                    out := sEv.out : State }.fresh,
              mem :=
                { agenda := [Mover.event (Instr.heatEpochEnd 1)], curRid := sEv.curRid, curKey := sEv.curKey, curSlot := sEv.curSlot,
                    curHart := sEv.curHart, fc := sEv.fc, ending := sEv.ending, freeC := sEv.freeC, fresh := sEv.fresh, mem := sEv.mem,
                    dpois := sEv.dpois, dord := sEv.dord, regions := sEv.regions, parts := sEv.parts, wft := sEv.wft, cycles := sEv.cycles,
                    harts := sEv.harts, rsv := sEv.rsv, txQ := sEv.txQ, crnAt := sEv.crnAt, recQ := sEv.recQ, links := sEv.links, ports := sEv.ports,
                    sess := sEv.sess, rst := sEv.rst, mgrQ := sEv.mgrQ, mgrDone := sEv.mgrDone, notes := sEv.notes, ckpt := sEv.ckpt, dev := sEv.dev,
                    out := sEv.out : State }.mem,
              dpois :=
                { agenda := [Mover.event (Instr.heatEpochEnd 1)], curRid := sEv.curRid, curKey := sEv.curKey, curSlot := sEv.curSlot,
                    curHart := sEv.curHart, fc := sEv.fc, ending := sEv.ending, freeC := sEv.freeC, fresh := sEv.fresh, mem := sEv.mem,
                    dpois := sEv.dpois, dord := sEv.dord, regions := sEv.regions, parts := sEv.parts, wft := sEv.wft, cycles := sEv.cycles,
                    harts := sEv.harts, rsv := sEv.rsv, txQ := sEv.txQ, crnAt := sEv.crnAt, recQ := sEv.recQ, links := sEv.links, ports := sEv.ports,
                    sess := sEv.sess, rst := sEv.rst, mgrQ := sEv.mgrQ, mgrDone := sEv.mgrDone, notes := sEv.notes, ckpt := sEv.ckpt, dev := sEv.dev,
                    out := sEv.out : State }.dpois,
              dord :=
                { agenda := [Mover.event (Instr.heatEpochEnd 1)], curRid := sEv.curRid, curKey := sEv.curKey, curSlot := sEv.curSlot,
                    curHart := sEv.curHart, fc := sEv.fc, ending := sEv.ending, freeC := sEv.freeC, fresh := sEv.fresh, mem := sEv.mem,
                    dpois := sEv.dpois, dord := sEv.dord, regions := sEv.regions, parts := sEv.parts, wft := sEv.wft, cycles := sEv.cycles,
                    harts := sEv.harts, rsv := sEv.rsv, txQ := sEv.txQ, crnAt := sEv.crnAt, recQ := sEv.recQ, links := sEv.links, ports := sEv.ports,
                    sess := sEv.sess, rst := sEv.rst, mgrQ := sEv.mgrQ, mgrDone := sEv.mgrDone, notes := sEv.notes, ckpt := sEv.ckpt, dev := sEv.dev,
                    out := sEv.out : State }.dord,
              regions :=
                { agenda := [Mover.event (Instr.heatEpochEnd 1)], curRid := sEv.curRid, curKey := sEv.curKey, curSlot := sEv.curSlot,
                    curHart := sEv.curHart, fc := sEv.fc, ending := sEv.ending, freeC := sEv.freeC, fresh := sEv.fresh, mem := sEv.mem,
                    dpois := sEv.dpois, dord := sEv.dord, regions := sEv.regions, parts := sEv.parts, wft := sEv.wft, cycles := sEv.cycles,
                    harts := sEv.harts, rsv := sEv.rsv, txQ := sEv.txQ, crnAt := sEv.crnAt, recQ := sEv.recQ, links := sEv.links, ports := sEv.ports,
                    sess := sEv.sess, rst := sEv.rst, mgrQ := sEv.mgrQ, mgrDone := sEv.mgrDone, notes := sEv.notes, ckpt := sEv.ckpt, dev := sEv.dev,
                    out := sEv.out : State }.regions,
              parts :=
                { agenda := [Mover.event (Instr.heatEpochEnd 1)], curRid := sEv.curRid, curKey := sEv.curKey, curSlot := sEv.curSlot,
                    curHart := sEv.curHart, fc := sEv.fc, ending := sEv.ending, freeC := sEv.freeC, fresh := sEv.fresh, mem := sEv.mem,
                    dpois := sEv.dpois, dord := sEv.dord, regions := sEv.regions, parts := sEv.parts, wft := sEv.wft, cycles := sEv.cycles,
                    harts := sEv.harts, rsv := sEv.rsv, txQ := sEv.txQ, crnAt := sEv.crnAt, recQ := sEv.recQ, links := sEv.links, ports := sEv.ports,
                    sess := sEv.sess, rst := sEv.rst, mgrQ := sEv.mgrQ, mgrDone := sEv.mgrDone, notes := sEv.notes, ckpt := sEv.ckpt, dev := sEv.dev,
                    out := sEv.out : State }.parts,
              wft :=
                { agenda := [Mover.event (Instr.heatEpochEnd 1)], curRid := sEv.curRid, curKey := sEv.curKey, curSlot := sEv.curSlot,
                    curHart := sEv.curHart, fc := sEv.fc, ending := sEv.ending, freeC := sEv.freeC, fresh := sEv.fresh, mem := sEv.mem,
                    dpois := sEv.dpois, dord := sEv.dord, regions := sEv.regions, parts := sEv.parts, wft := sEv.wft, cycles := sEv.cycles,
                    harts := sEv.harts, rsv := sEv.rsv, txQ := sEv.txQ, crnAt := sEv.crnAt, recQ := sEv.recQ, links := sEv.links, ports := sEv.ports,
                    sess := sEv.sess, rst := sEv.rst, mgrQ := sEv.mgrQ, mgrDone := sEv.mgrDone, notes := sEv.notes, ckpt := sEv.ckpt, dev := sEv.dev,
                    out := sEv.out : State }.wft,
              cycles :=
                { agenda := [Mover.event (Instr.heatEpochEnd 1)], curRid := sEv.curRid, curKey := sEv.curKey, curSlot := sEv.curSlot,
                    curHart := sEv.curHart, fc := sEv.fc, ending := sEv.ending, freeC := sEv.freeC, fresh := sEv.fresh, mem := sEv.mem,
                    dpois := sEv.dpois, dord := sEv.dord, regions := sEv.regions, parts := sEv.parts, wft := sEv.wft, cycles := sEv.cycles,
                    harts := sEv.harts, rsv := sEv.rsv, txQ := sEv.txQ, crnAt := sEv.crnAt, recQ := sEv.recQ, links := sEv.links, ports := sEv.ports,
                    sess := sEv.sess, rst := sEv.rst, mgrQ := sEv.mgrQ, mgrDone := sEv.mgrDone, notes := sEv.notes, ckpt := sEv.ckpt, dev := sEv.dev,
                    out := sEv.out : State }.cycles,
              harts :=
                { agenda := [Mover.event (Instr.heatEpochEnd 1)], curRid := sEv.curRid, curKey := sEv.curKey, curSlot := sEv.curSlot,
                    curHart := sEv.curHart, fc := sEv.fc, ending := sEv.ending, freeC := sEv.freeC, fresh := sEv.fresh, mem := sEv.mem,
                    dpois := sEv.dpois, dord := sEv.dord, regions := sEv.regions, parts := sEv.parts, wft := sEv.wft, cycles := sEv.cycles,
                    harts := sEv.harts, rsv := sEv.rsv, txQ := sEv.txQ, crnAt := sEv.crnAt, recQ := sEv.recQ, links := sEv.links, ports := sEv.ports,
                    sess := sEv.sess, rst := sEv.rst, mgrQ := sEv.mgrQ, mgrDone := sEv.mgrDone, notes := sEv.notes, ckpt := sEv.ckpt, dev := sEv.dev,
                    out := sEv.out : State }.harts,
              rsv :=
                { agenda := [Mover.event (Instr.heatEpochEnd 1)], curRid := sEv.curRid, curKey := sEv.curKey, curSlot := sEv.curSlot,
                    curHart := sEv.curHart, fc := sEv.fc, ending := sEv.ending, freeC := sEv.freeC, fresh := sEv.fresh, mem := sEv.mem,
                    dpois := sEv.dpois, dord := sEv.dord, regions := sEv.regions, parts := sEv.parts, wft := sEv.wft, cycles := sEv.cycles,
                    harts := sEv.harts, rsv := sEv.rsv, txQ := sEv.txQ, crnAt := sEv.crnAt, recQ := sEv.recQ, links := sEv.links, ports := sEv.ports,
                    sess := sEv.sess, rst := sEv.rst, mgrQ := sEv.mgrQ, mgrDone := sEv.mgrDone, notes := sEv.notes, ckpt := sEv.ckpt, dev := sEv.dev,
                    out := sEv.out : State }.rsv,
              txQ :=
                { agenda := [Mover.event (Instr.heatEpochEnd 1)], curRid := sEv.curRid, curKey := sEv.curKey, curSlot := sEv.curSlot,
                    curHart := sEv.curHart, fc := sEv.fc, ending := sEv.ending, freeC := sEv.freeC, fresh := sEv.fresh, mem := sEv.mem,
                    dpois := sEv.dpois, dord := sEv.dord, regions := sEv.regions, parts := sEv.parts, wft := sEv.wft, cycles := sEv.cycles,
                    harts := sEv.harts, rsv := sEv.rsv, txQ := sEv.txQ, crnAt := sEv.crnAt, recQ := sEv.recQ, links := sEv.links, ports := sEv.ports,
                    sess := sEv.sess, rst := sEv.rst, mgrQ := sEv.mgrQ, mgrDone := sEv.mgrDone, notes := sEv.notes, ckpt := sEv.ckpt, dev := sEv.dev,
                    out := sEv.out : State }.txQ,
              crnAt :=
                { agenda := [Mover.event (Instr.heatEpochEnd 1)], curRid := sEv.curRid, curKey := sEv.curKey, curSlot := sEv.curSlot,
                    curHart := sEv.curHart, fc := sEv.fc, ending := sEv.ending, freeC := sEv.freeC, fresh := sEv.fresh, mem := sEv.mem,
                    dpois := sEv.dpois, dord := sEv.dord, regions := sEv.regions, parts := sEv.parts, wft := sEv.wft, cycles := sEv.cycles,
                    harts := sEv.harts, rsv := sEv.rsv, txQ := sEv.txQ, crnAt := sEv.crnAt, recQ := sEv.recQ, links := sEv.links, ports := sEv.ports,
                    sess := sEv.sess, rst := sEv.rst, mgrQ := sEv.mgrQ, mgrDone := sEv.mgrDone, notes := sEv.notes, ckpt := sEv.ckpt, dev := sEv.dev,
                    out := sEv.out : State }.crnAt,
              recQ :=
                { agenda := [Mover.event (Instr.heatEpochEnd 1)], curRid := sEv.curRid, curKey := sEv.curKey, curSlot := sEv.curSlot,
                    curHart := sEv.curHart, fc := sEv.fc, ending := sEv.ending, freeC := sEv.freeC, fresh := sEv.fresh, mem := sEv.mem,
                    dpois := sEv.dpois, dord := sEv.dord, regions := sEv.regions, parts := sEv.parts, wft := sEv.wft, cycles := sEv.cycles,
                    harts := sEv.harts, rsv := sEv.rsv, txQ := sEv.txQ, crnAt := sEv.crnAt, recQ := sEv.recQ, links := sEv.links, ports := sEv.ports,
                    sess := sEv.sess, rst := sEv.rst, mgrQ := sEv.mgrQ, mgrDone := sEv.mgrDone, notes := sEv.notes, ckpt := sEv.ckpt, dev := sEv.dev,
                    out := sEv.out : State }.recQ,
              links :=
                { agenda := [Mover.event (Instr.heatEpochEnd 1)], curRid := sEv.curRid, curKey := sEv.curKey, curSlot := sEv.curSlot,
                    curHart := sEv.curHart, fc := sEv.fc, ending := sEv.ending, freeC := sEv.freeC, fresh := sEv.fresh, mem := sEv.mem,
                    dpois := sEv.dpois, dord := sEv.dord, regions := sEv.regions, parts := sEv.parts, wft := sEv.wft, cycles := sEv.cycles,
                    harts := sEv.harts, rsv := sEv.rsv, txQ := sEv.txQ, crnAt := sEv.crnAt, recQ := sEv.recQ, links := sEv.links, ports := sEv.ports,
                    sess := sEv.sess, rst := sEv.rst, mgrQ := sEv.mgrQ, mgrDone := sEv.mgrDone, notes := sEv.notes, ckpt := sEv.ckpt, dev := sEv.dev,
                    out := sEv.out : State }.links,
              ports :=
                { agenda := [Mover.event (Instr.heatEpochEnd 1)], curRid := sEv.curRid, curKey := sEv.curKey, curSlot := sEv.curSlot,
                    curHart := sEv.curHart, fc := sEv.fc, ending := sEv.ending, freeC := sEv.freeC, fresh := sEv.fresh, mem := sEv.mem,
                    dpois := sEv.dpois, dord := sEv.dord, regions := sEv.regions, parts := sEv.parts, wft := sEv.wft, cycles := sEv.cycles,
                    harts := sEv.harts, rsv := sEv.rsv, txQ := sEv.txQ, crnAt := sEv.crnAt, recQ := sEv.recQ, links := sEv.links, ports := sEv.ports,
                    sess := sEv.sess, rst := sEv.rst, mgrQ := sEv.mgrQ, mgrDone := sEv.mgrDone, notes := sEv.notes, ckpt := sEv.ckpt, dev := sEv.dev,
                    out := sEv.out : State }.ports,
              sess :=
                { agenda := [Mover.event (Instr.heatEpochEnd 1)], curRid := sEv.curRid, curKey := sEv.curKey, curSlot := sEv.curSlot,
                    curHart := sEv.curHart, fc := sEv.fc, ending := sEv.ending, freeC := sEv.freeC, fresh := sEv.fresh, mem := sEv.mem,
                    dpois := sEv.dpois, dord := sEv.dord, regions := sEv.regions, parts := sEv.parts, wft := sEv.wft, cycles := sEv.cycles,
                    harts := sEv.harts, rsv := sEv.rsv, txQ := sEv.txQ, crnAt := sEv.crnAt, recQ := sEv.recQ, links := sEv.links, ports := sEv.ports,
                    sess := sEv.sess, rst := sEv.rst, mgrQ := sEv.mgrQ, mgrDone := sEv.mgrDone, notes := sEv.notes, ckpt := sEv.ckpt, dev := sEv.dev,
                    out := sEv.out : State }.sess,
              rst :=
                { agenda := [Mover.event (Instr.heatEpochEnd 1)], curRid := sEv.curRid, curKey := sEv.curKey, curSlot := sEv.curSlot,
                    curHart := sEv.curHart, fc := sEv.fc, ending := sEv.ending, freeC := sEv.freeC, fresh := sEv.fresh, mem := sEv.mem,
                    dpois := sEv.dpois, dord := sEv.dord, regions := sEv.regions, parts := sEv.parts, wft := sEv.wft, cycles := sEv.cycles,
                    harts := sEv.harts, rsv := sEv.rsv, txQ := sEv.txQ, crnAt := sEv.crnAt, recQ := sEv.recQ, links := sEv.links, ports := sEv.ports,
                    sess := sEv.sess, rst := sEv.rst, mgrQ := sEv.mgrQ, mgrDone := sEv.mgrDone, notes := sEv.notes, ckpt := sEv.ckpt, dev := sEv.dev,
                    out := sEv.out : State }.rst,
              mgrQ :=
                { agenda := [Mover.event (Instr.heatEpochEnd 1)], curRid := sEv.curRid, curKey := sEv.curKey, curSlot := sEv.curSlot,
                    curHart := sEv.curHart, fc := sEv.fc, ending := sEv.ending, freeC := sEv.freeC, fresh := sEv.fresh, mem := sEv.mem,
                    dpois := sEv.dpois, dord := sEv.dord, regions := sEv.regions, parts := sEv.parts, wft := sEv.wft, cycles := sEv.cycles,
                    harts := sEv.harts, rsv := sEv.rsv, txQ := sEv.txQ, crnAt := sEv.crnAt, recQ := sEv.recQ, links := sEv.links, ports := sEv.ports,
                    sess := sEv.sess, rst := sEv.rst, mgrQ := sEv.mgrQ, mgrDone := sEv.mgrDone, notes := sEv.notes, ckpt := sEv.ckpt, dev := sEv.dev,
                    out := sEv.out : State }.mgrQ,
              mgrDone :=
                { agenda := [Mover.event (Instr.heatEpochEnd 1)], curRid := sEv.curRid, curKey := sEv.curKey, curSlot := sEv.curSlot,
                    curHart := sEv.curHart, fc := sEv.fc, ending := sEv.ending, freeC := sEv.freeC, fresh := sEv.fresh, mem := sEv.mem,
                    dpois := sEv.dpois, dord := sEv.dord, regions := sEv.regions, parts := sEv.parts, wft := sEv.wft, cycles := sEv.cycles,
                    harts := sEv.harts, rsv := sEv.rsv, txQ := sEv.txQ, crnAt := sEv.crnAt, recQ := sEv.recQ, links := sEv.links, ports := sEv.ports,
                    sess := sEv.sess, rst := sEv.rst, mgrQ := sEv.mgrQ, mgrDone := sEv.mgrDone, notes := sEv.notes, ckpt := sEv.ckpt, dev := sEv.dev,
                    out := sEv.out : State }.mgrDone,
              notes :=
                { agenda := [Mover.event (Instr.heatEpochEnd 1)], curRid := sEv.curRid, curKey := sEv.curKey, curSlot := sEv.curSlot,
                    curHart := sEv.curHart, fc := sEv.fc, ending := sEv.ending, freeC := sEv.freeC, fresh := sEv.fresh, mem := sEv.mem,
                    dpois := sEv.dpois, dord := sEv.dord, regions := sEv.regions, parts := sEv.parts, wft := sEv.wft, cycles := sEv.cycles,
                    harts := sEv.harts, rsv := sEv.rsv, txQ := sEv.txQ, crnAt := sEv.crnAt, recQ := sEv.recQ, links := sEv.links, ports := sEv.ports,
                    sess := sEv.sess, rst := sEv.rst, mgrQ := sEv.mgrQ, mgrDone := sEv.mgrDone, notes := sEv.notes, ckpt := sEv.ckpt, dev := sEv.dev,
                    out := sEv.out : State }.notes,
              ckpt :=
                { agenda := [Mover.event (Instr.heatEpochEnd 1)], curRid := sEv.curRid, curKey := sEv.curKey, curSlot := sEv.curSlot,
                    curHart := sEv.curHart, fc := sEv.fc, ending := sEv.ending, freeC := sEv.freeC, fresh := sEv.fresh, mem := sEv.mem,
                    dpois := sEv.dpois, dord := sEv.dord, regions := sEv.regions, parts := sEv.parts, wft := sEv.wft, cycles := sEv.cycles,
                    harts := sEv.harts, rsv := sEv.rsv, txQ := sEv.txQ, crnAt := sEv.crnAt, recQ := sEv.recQ, links := sEv.links, ports := sEv.ports,
                    sess := sEv.sess, rst := sEv.rst, mgrQ := sEv.mgrQ, mgrDone := sEv.mgrDone, notes := sEv.notes, ckpt := sEv.ckpt, dev := sEv.dev,
                    out := sEv.out : State }.ckpt,
              dev :=
                { agenda := [Mover.event (Instr.heatEpochEnd 1)], curRid := sEv.curRid, curKey := sEv.curKey, curSlot := sEv.curSlot,
                    curHart := sEv.curHart, fc := sEv.fc, ending := sEv.ending, freeC := sEv.freeC, fresh := sEv.fresh, mem := sEv.mem,
                    dpois := sEv.dpois, dord := sEv.dord, regions := sEv.regions, parts := sEv.parts, wft := sEv.wft, cycles := sEv.cycles,
                    harts := sEv.harts, rsv := sEv.rsv, txQ := sEv.txQ, crnAt := sEv.crnAt, recQ := sEv.recQ, links := sEv.links, ports := sEv.ports,
                    sess := sEv.sess, rst := sEv.rst, mgrQ := sEv.mgrQ, mgrDone := sEv.mgrDone, notes := sEv.notes, ckpt := sEv.ckpt, dev := sEv.dev,
                    out := sEv.out : State }.dev,
              out :=
                { agenda := [Mover.event (Instr.heatEpochEnd 1)], curRid := sEv.curRid, curKey := sEv.curKey, curSlot := sEv.curSlot,
                    curHart := sEv.curHart, fc := sEv.fc, ending := sEv.ending, freeC := sEv.freeC, fresh := sEv.fresh, mem := sEv.mem,
                    dpois := sEv.dpois, dord := sEv.dord, regions := sEv.regions, parts := sEv.parts, wft := sEv.wft, cycles := sEv.cycles,
                    harts := sEv.harts, rsv := sEv.rsv, txQ := sEv.txQ, crnAt := sEv.crnAt, recQ := sEv.recQ, links := sEv.links, ports := sEv.ports,
                    sess := sEv.sess, rst := sEv.rst, mgrQ := sEv.mgrQ, mgrDone := sEv.mgrDone, notes := sEv.notes, ckpt := sEv.ckpt, dev := sEv.dev,
                    out := sEv.out : State }.out :
              State }).dev.power =
      Power.on ∨
    (State.commits
              {
                curRid :=
                  { agenda := [Mover.event (Instr.heatEpochEnd 1)], curRid := sEv.curRid, curKey := sEv.curKey, curSlot := sEv.curSlot,
                      curHart := sEv.curHart, fc := sEv.fc, ending := sEv.ending, freeC := sEv.freeC, fresh := sEv.fresh, mem := sEv.mem,
                      dpois := sEv.dpois, dord := sEv.dord, regions := sEv.regions, parts := sEv.parts, wft := sEv.wft, cycles := sEv.cycles,
                      harts := sEv.harts, rsv := sEv.rsv, txQ := sEv.txQ, crnAt := sEv.crnAt, recQ := sEv.recQ, links := sEv.links,
                      ports := sEv.ports, sess := sEv.sess, rst := sEv.rst, mgrQ := sEv.mgrQ, mgrDone := sEv.mgrDone, notes := sEv.notes,
                      ckpt := sEv.ckpt, dev := sEv.dev, out := sEv.out : State }.curRid,
                curKey :=
                  { agenda := [Mover.event (Instr.heatEpochEnd 1)], curRid := sEv.curRid, curKey := sEv.curKey, curSlot := sEv.curSlot,
                      curHart := sEv.curHart, fc := sEv.fc, ending := sEv.ending, freeC := sEv.freeC, fresh := sEv.fresh, mem := sEv.mem,
                      dpois := sEv.dpois, dord := sEv.dord, regions := sEv.regions, parts := sEv.parts, wft := sEv.wft, cycles := sEv.cycles,
                      harts := sEv.harts, rsv := sEv.rsv, txQ := sEv.txQ, crnAt := sEv.crnAt, recQ := sEv.recQ, links := sEv.links,
                      ports := sEv.ports, sess := sEv.sess, rst := sEv.rst, mgrQ := sEv.mgrQ, mgrDone := sEv.mgrDone, notes := sEv.notes,
                      ckpt := sEv.ckpt, dev := sEv.dev, out := sEv.out : State }.curKey,
                curSlot :=
                  { agenda := [Mover.event (Instr.heatEpochEnd 1)], curRid := sEv.curRid, curKey := sEv.curKey, curSlot := sEv.curSlot,
                      curHart := sEv.curHart, fc := sEv.fc, ending := sEv.ending, freeC := sEv.freeC, fresh := sEv.fresh, mem := sEv.mem,
                      dpois := sEv.dpois, dord := sEv.dord, regions := sEv.regions, parts := sEv.parts, wft := sEv.wft, cycles := sEv.cycles,
                      harts := sEv.harts, rsv := sEv.rsv, txQ := sEv.txQ, crnAt := sEv.crnAt, recQ := sEv.recQ, links := sEv.links,
                      ports := sEv.ports, sess := sEv.sess, rst := sEv.rst, mgrQ := sEv.mgrQ, mgrDone := sEv.mgrDone, notes := sEv.notes,
                      ckpt := sEv.ckpt, dev := sEv.dev, out := sEv.out : State }.curSlot,
                curHart :=
                  { agenda := [Mover.event (Instr.heatEpochEnd 1)], curRid := sEv.curRid, curKey := sEv.curKey, curSlot := sEv.curSlot,
                      curHart := sEv.curHart, fc := sEv.fc, ending := sEv.ending, freeC := sEv.freeC, fresh := sEv.fresh, mem := sEv.mem,
                      dpois := sEv.dpois, dord := sEv.dord, regions := sEv.regions, parts := sEv.parts, wft := sEv.wft, cycles := sEv.cycles,
                      harts := sEv.harts, rsv := sEv.rsv, txQ := sEv.txQ, crnAt := sEv.crnAt, recQ := sEv.recQ, links := sEv.links,
                      ports := sEv.ports, sess := sEv.sess, rst := sEv.rst, mgrQ := sEv.mgrQ, mgrDone := sEv.mgrDone, notes := sEv.notes,
                      ckpt := sEv.ckpt, dev := sEv.dev, out := sEv.out : State }.curHart,
                fc :=
                  { agenda := [Mover.event (Instr.heatEpochEnd 1)], curRid := sEv.curRid, curKey := sEv.curKey, curSlot := sEv.curSlot,
                      curHart := sEv.curHart, fc := sEv.fc, ending := sEv.ending, freeC := sEv.freeC, fresh := sEv.fresh, mem := sEv.mem,
                      dpois := sEv.dpois, dord := sEv.dord, regions := sEv.regions, parts := sEv.parts, wft := sEv.wft, cycles := sEv.cycles,
                      harts := sEv.harts, rsv := sEv.rsv, txQ := sEv.txQ, crnAt := sEv.crnAt, recQ := sEv.recQ, links := sEv.links,
                      ports := sEv.ports, sess := sEv.sess, rst := sEv.rst, mgrQ := sEv.mgrQ, mgrDone := sEv.mgrDone, notes := sEv.notes,
                      ckpt := sEv.ckpt, dev := sEv.dev, out := sEv.out : State }.fc,
                ending :=
                  { agenda := [Mover.event (Instr.heatEpochEnd 1)], curRid := sEv.curRid, curKey := sEv.curKey, curSlot := sEv.curSlot,
                      curHart := sEv.curHart, fc := sEv.fc, ending := sEv.ending, freeC := sEv.freeC, fresh := sEv.fresh, mem := sEv.mem,
                      dpois := sEv.dpois, dord := sEv.dord, regions := sEv.regions, parts := sEv.parts, wft := sEv.wft, cycles := sEv.cycles,
                      harts := sEv.harts, rsv := sEv.rsv, txQ := sEv.txQ, crnAt := sEv.crnAt, recQ := sEv.recQ, links := sEv.links,
                      ports := sEv.ports, sess := sEv.sess, rst := sEv.rst, mgrQ := sEv.mgrQ, mgrDone := sEv.mgrDone, notes := sEv.notes,
                      ckpt := sEv.ckpt, dev := sEv.dev, out := sEv.out : State }.ending,
                freeC :=
                  { agenda := [Mover.event (Instr.heatEpochEnd 1)], curRid := sEv.curRid, curKey := sEv.curKey, curSlot := sEv.curSlot,
                      curHart := sEv.curHart, fc := sEv.fc, ending := sEv.ending, freeC := sEv.freeC, fresh := sEv.fresh, mem := sEv.mem,
                      dpois := sEv.dpois, dord := sEv.dord, regions := sEv.regions, parts := sEv.parts, wft := sEv.wft, cycles := sEv.cycles,
                      harts := sEv.harts, rsv := sEv.rsv, txQ := sEv.txQ, crnAt := sEv.crnAt, recQ := sEv.recQ, links := sEv.links,
                      ports := sEv.ports, sess := sEv.sess, rst := sEv.rst, mgrQ := sEv.mgrQ, mgrDone := sEv.mgrDone, notes := sEv.notes,
                      ckpt := sEv.ckpt, dev := sEv.dev, out := sEv.out : State }.freeC,
                fresh :=
                  { agenda := [Mover.event (Instr.heatEpochEnd 1)], curRid := sEv.curRid, curKey := sEv.curKey, curSlot := sEv.curSlot,
                      curHart := sEv.curHart, fc := sEv.fc, ending := sEv.ending, freeC := sEv.freeC, fresh := sEv.fresh, mem := sEv.mem,
                      dpois := sEv.dpois, dord := sEv.dord, regions := sEv.regions, parts := sEv.parts, wft := sEv.wft, cycles := sEv.cycles,
                      harts := sEv.harts, rsv := sEv.rsv, txQ := sEv.txQ, crnAt := sEv.crnAt, recQ := sEv.recQ, links := sEv.links,
                      ports := sEv.ports, sess := sEv.sess, rst := sEv.rst, mgrQ := sEv.mgrQ, mgrDone := sEv.mgrDone, notes := sEv.notes,
                      ckpt := sEv.ckpt, dev := sEv.dev, out := sEv.out : State }.fresh,
                mem :=
                  { agenda := [Mover.event (Instr.heatEpochEnd 1)], curRid := sEv.curRid, curKey := sEv.curKey, curSlot := sEv.curSlot,
                      curHart := sEv.curHart, fc := sEv.fc, ending := sEv.ending, freeC := sEv.freeC, fresh := sEv.fresh, mem := sEv.mem,
                      dpois := sEv.dpois, dord := sEv.dord, regions := sEv.regions, parts := sEv.parts, wft := sEv.wft, cycles := sEv.cycles,
                      harts := sEv.harts, rsv := sEv.rsv, txQ := sEv.txQ, crnAt := sEv.crnAt, recQ := sEv.recQ, links := sEv.links,
                      ports := sEv.ports, sess := sEv.sess, rst := sEv.rst, mgrQ := sEv.mgrQ, mgrDone := sEv.mgrDone, notes := sEv.notes,
                      ckpt := sEv.ckpt, dev := sEv.dev, out := sEv.out : State }.mem,
                dpois :=
                  { agenda := [Mover.event (Instr.heatEpochEnd 1)], curRid := sEv.curRid, curKey := sEv.curKey, curSlot := sEv.curSlot,
                      curHart := sEv.curHart, fc := sEv.fc, ending := sEv.ending, freeC := sEv.freeC, fresh := sEv.fresh, mem := sEv.mem,
                      dpois := sEv.dpois, dord := sEv.dord, regions := sEv.regions, parts := sEv.parts, wft := sEv.wft, cycles := sEv.cycles,
                      harts := sEv.harts, rsv := sEv.rsv, txQ := sEv.txQ, crnAt := sEv.crnAt, recQ := sEv.recQ, links := sEv.links,
                      ports := sEv.ports, sess := sEv.sess, rst := sEv.rst, mgrQ := sEv.mgrQ, mgrDone := sEv.mgrDone, notes := sEv.notes,
                      ckpt := sEv.ckpt, dev := sEv.dev, out := sEv.out : State }.dpois,
                dord :=
                  { agenda := [Mover.event (Instr.heatEpochEnd 1)], curRid := sEv.curRid, curKey := sEv.curKey, curSlot := sEv.curSlot,
                      curHart := sEv.curHart, fc := sEv.fc, ending := sEv.ending, freeC := sEv.freeC, fresh := sEv.fresh, mem := sEv.mem,
                      dpois := sEv.dpois, dord := sEv.dord, regions := sEv.regions, parts := sEv.parts, wft := sEv.wft, cycles := sEv.cycles,
                      harts := sEv.harts, rsv := sEv.rsv, txQ := sEv.txQ, crnAt := sEv.crnAt, recQ := sEv.recQ, links := sEv.links,
                      ports := sEv.ports, sess := sEv.sess, rst := sEv.rst, mgrQ := sEv.mgrQ, mgrDone := sEv.mgrDone, notes := sEv.notes,
                      ckpt := sEv.ckpt, dev := sEv.dev, out := sEv.out : State }.dord,
                regions :=
                  { agenda := [Mover.event (Instr.heatEpochEnd 1)], curRid := sEv.curRid, curKey := sEv.curKey, curSlot := sEv.curSlot,
                      curHart := sEv.curHart, fc := sEv.fc, ending := sEv.ending, freeC := sEv.freeC, fresh := sEv.fresh, mem := sEv.mem,
                      dpois := sEv.dpois, dord := sEv.dord, regions := sEv.regions, parts := sEv.parts, wft := sEv.wft, cycles := sEv.cycles,
                      harts := sEv.harts, rsv := sEv.rsv, txQ := sEv.txQ, crnAt := sEv.crnAt, recQ := sEv.recQ, links := sEv.links,
                      ports := sEv.ports, sess := sEv.sess, rst := sEv.rst, mgrQ := sEv.mgrQ, mgrDone := sEv.mgrDone, notes := sEv.notes,
                      ckpt := sEv.ckpt, dev := sEv.dev, out := sEv.out : State }.regions,
                parts :=
                  { agenda := [Mover.event (Instr.heatEpochEnd 1)], curRid := sEv.curRid, curKey := sEv.curKey, curSlot := sEv.curSlot,
                      curHart := sEv.curHart, fc := sEv.fc, ending := sEv.ending, freeC := sEv.freeC, fresh := sEv.fresh, mem := sEv.mem,
                      dpois := sEv.dpois, dord := sEv.dord, regions := sEv.regions, parts := sEv.parts, wft := sEv.wft, cycles := sEv.cycles,
                      harts := sEv.harts, rsv := sEv.rsv, txQ := sEv.txQ, crnAt := sEv.crnAt, recQ := sEv.recQ, links := sEv.links,
                      ports := sEv.ports, sess := sEv.sess, rst := sEv.rst, mgrQ := sEv.mgrQ, mgrDone := sEv.mgrDone, notes := sEv.notes,
                      ckpt := sEv.ckpt, dev := sEv.dev, out := sEv.out : State }.parts,
                wft :=
                  { agenda := [Mover.event (Instr.heatEpochEnd 1)], curRid := sEv.curRid, curKey := sEv.curKey, curSlot := sEv.curSlot,
                      curHart := sEv.curHart, fc := sEv.fc, ending := sEv.ending, freeC := sEv.freeC, fresh := sEv.fresh, mem := sEv.mem,
                      dpois := sEv.dpois, dord := sEv.dord, regions := sEv.regions, parts := sEv.parts, wft := sEv.wft, cycles := sEv.cycles,
                      harts := sEv.harts, rsv := sEv.rsv, txQ := sEv.txQ, crnAt := sEv.crnAt, recQ := sEv.recQ, links := sEv.links,
                      ports := sEv.ports, sess := sEv.sess, rst := sEv.rst, mgrQ := sEv.mgrQ, mgrDone := sEv.mgrDone, notes := sEv.notes,
                      ckpt := sEv.ckpt, dev := sEv.dev, out := sEv.out : State }.wft,
                cycles :=
                  { agenda := [Mover.event (Instr.heatEpochEnd 1)], curRid := sEv.curRid, curKey := sEv.curKey, curSlot := sEv.curSlot,
                      curHart := sEv.curHart, fc := sEv.fc, ending := sEv.ending, freeC := sEv.freeC, fresh := sEv.fresh, mem := sEv.mem,
                      dpois := sEv.dpois, dord := sEv.dord, regions := sEv.regions, parts := sEv.parts, wft := sEv.wft, cycles := sEv.cycles,
                      harts := sEv.harts, rsv := sEv.rsv, txQ := sEv.txQ, crnAt := sEv.crnAt, recQ := sEv.recQ, links := sEv.links,
                      ports := sEv.ports, sess := sEv.sess, rst := sEv.rst, mgrQ := sEv.mgrQ, mgrDone := sEv.mgrDone, notes := sEv.notes,
                      ckpt := sEv.ckpt, dev := sEv.dev, out := sEv.out : State }.cycles,
                harts :=
                  { agenda := [Mover.event (Instr.heatEpochEnd 1)], curRid := sEv.curRid, curKey := sEv.curKey, curSlot := sEv.curSlot,
                      curHart := sEv.curHart, fc := sEv.fc, ending := sEv.ending, freeC := sEv.freeC, fresh := sEv.fresh, mem := sEv.mem,
                      dpois := sEv.dpois, dord := sEv.dord, regions := sEv.regions, parts := sEv.parts, wft := sEv.wft, cycles := sEv.cycles,
                      harts := sEv.harts, rsv := sEv.rsv, txQ := sEv.txQ, crnAt := sEv.crnAt, recQ := sEv.recQ, links := sEv.links,
                      ports := sEv.ports, sess := sEv.sess, rst := sEv.rst, mgrQ := sEv.mgrQ, mgrDone := sEv.mgrDone, notes := sEv.notes,
                      ckpt := sEv.ckpt, dev := sEv.dev, out := sEv.out : State }.harts,
                rsv :=
                  { agenda := [Mover.event (Instr.heatEpochEnd 1)], curRid := sEv.curRid, curKey := sEv.curKey, curSlot := sEv.curSlot,
                      curHart := sEv.curHart, fc := sEv.fc, ending := sEv.ending, freeC := sEv.freeC, fresh := sEv.fresh, mem := sEv.mem,
                      dpois := sEv.dpois, dord := sEv.dord, regions := sEv.regions, parts := sEv.parts, wft := sEv.wft, cycles := sEv.cycles,
                      harts := sEv.harts, rsv := sEv.rsv, txQ := sEv.txQ, crnAt := sEv.crnAt, recQ := sEv.recQ, links := sEv.links,
                      ports := sEv.ports, sess := sEv.sess, rst := sEv.rst, mgrQ := sEv.mgrQ, mgrDone := sEv.mgrDone, notes := sEv.notes,
                      ckpt := sEv.ckpt, dev := sEv.dev, out := sEv.out : State }.rsv,
                txQ :=
                  { agenda := [Mover.event (Instr.heatEpochEnd 1)], curRid := sEv.curRid, curKey := sEv.curKey, curSlot := sEv.curSlot,
                      curHart := sEv.curHart, fc := sEv.fc, ending := sEv.ending, freeC := sEv.freeC, fresh := sEv.fresh, mem := sEv.mem,
                      dpois := sEv.dpois, dord := sEv.dord, regions := sEv.regions, parts := sEv.parts, wft := sEv.wft, cycles := sEv.cycles,
                      harts := sEv.harts, rsv := sEv.rsv, txQ := sEv.txQ, crnAt := sEv.crnAt, recQ := sEv.recQ, links := sEv.links,
                      ports := sEv.ports, sess := sEv.sess, rst := sEv.rst, mgrQ := sEv.mgrQ, mgrDone := sEv.mgrDone, notes := sEv.notes,
                      ckpt := sEv.ckpt, dev := sEv.dev, out := sEv.out : State }.txQ,
                crnAt :=
                  { agenda := [Mover.event (Instr.heatEpochEnd 1)], curRid := sEv.curRid, curKey := sEv.curKey, curSlot := sEv.curSlot,
                      curHart := sEv.curHart, fc := sEv.fc, ending := sEv.ending, freeC := sEv.freeC, fresh := sEv.fresh, mem := sEv.mem,
                      dpois := sEv.dpois, dord := sEv.dord, regions := sEv.regions, parts := sEv.parts, wft := sEv.wft, cycles := sEv.cycles,
                      harts := sEv.harts, rsv := sEv.rsv, txQ := sEv.txQ, crnAt := sEv.crnAt, recQ := sEv.recQ, links := sEv.links,
                      ports := sEv.ports, sess := sEv.sess, rst := sEv.rst, mgrQ := sEv.mgrQ, mgrDone := sEv.mgrDone, notes := sEv.notes,
                      ckpt := sEv.ckpt, dev := sEv.dev, out := sEv.out : State }.crnAt,
                recQ :=
                  { agenda := [Mover.event (Instr.heatEpochEnd 1)], curRid := sEv.curRid, curKey := sEv.curKey, curSlot := sEv.curSlot,
                      curHart := sEv.curHart, fc := sEv.fc, ending := sEv.ending, freeC := sEv.freeC, fresh := sEv.fresh, mem := sEv.mem,
                      dpois := sEv.dpois, dord := sEv.dord, regions := sEv.regions, parts := sEv.parts, wft := sEv.wft, cycles := sEv.cycles,
                      harts := sEv.harts, rsv := sEv.rsv, txQ := sEv.txQ, crnAt := sEv.crnAt, recQ := sEv.recQ, links := sEv.links,
                      ports := sEv.ports, sess := sEv.sess, rst := sEv.rst, mgrQ := sEv.mgrQ, mgrDone := sEv.mgrDone, notes := sEv.notes,
                      ckpt := sEv.ckpt, dev := sEv.dev, out := sEv.out : State }.recQ,
                links :=
                  { agenda := [Mover.event (Instr.heatEpochEnd 1)], curRid := sEv.curRid, curKey := sEv.curKey, curSlot := sEv.curSlot,
                      curHart := sEv.curHart, fc := sEv.fc, ending := sEv.ending, freeC := sEv.freeC, fresh := sEv.fresh, mem := sEv.mem,
                      dpois := sEv.dpois, dord := sEv.dord, regions := sEv.regions, parts := sEv.parts, wft := sEv.wft, cycles := sEv.cycles,
                      harts := sEv.harts, rsv := sEv.rsv, txQ := sEv.txQ, crnAt := sEv.crnAt, recQ := sEv.recQ, links := sEv.links,
                      ports := sEv.ports, sess := sEv.sess, rst := sEv.rst, mgrQ := sEv.mgrQ, mgrDone := sEv.mgrDone, notes := sEv.notes,
                      ckpt := sEv.ckpt, dev := sEv.dev, out := sEv.out : State }.links,
                ports :=
                  { agenda := [Mover.event (Instr.heatEpochEnd 1)], curRid := sEv.curRid, curKey := sEv.curKey, curSlot := sEv.curSlot,
                      curHart := sEv.curHart, fc := sEv.fc, ending := sEv.ending, freeC := sEv.freeC, fresh := sEv.fresh, mem := sEv.mem,
                      dpois := sEv.dpois, dord := sEv.dord, regions := sEv.regions, parts := sEv.parts, wft := sEv.wft, cycles := sEv.cycles,
                      harts := sEv.harts, rsv := sEv.rsv, txQ := sEv.txQ, crnAt := sEv.crnAt, recQ := sEv.recQ, links := sEv.links,
                      ports := sEv.ports, sess := sEv.sess, rst := sEv.rst, mgrQ := sEv.mgrQ, mgrDone := sEv.mgrDone, notes := sEv.notes,
                      ckpt := sEv.ckpt, dev := sEv.dev, out := sEv.out : State }.ports,
                sess :=
                  { agenda := [Mover.event (Instr.heatEpochEnd 1)], curRid := sEv.curRid, curKey := sEv.curKey, curSlot := sEv.curSlot,
                      curHart := sEv.curHart, fc := sEv.fc, ending := sEv.ending, freeC := sEv.freeC, fresh := sEv.fresh, mem := sEv.mem,
                      dpois := sEv.dpois, dord := sEv.dord, regions := sEv.regions, parts := sEv.parts, wft := sEv.wft, cycles := sEv.cycles,
                      harts := sEv.harts, rsv := sEv.rsv, txQ := sEv.txQ, crnAt := sEv.crnAt, recQ := sEv.recQ, links := sEv.links,
                      ports := sEv.ports, sess := sEv.sess, rst := sEv.rst, mgrQ := sEv.mgrQ, mgrDone := sEv.mgrDone, notes := sEv.notes,
                      ckpt := sEv.ckpt, dev := sEv.dev, out := sEv.out : State }.sess,
                rst :=
                  { agenda := [Mover.event (Instr.heatEpochEnd 1)], curRid := sEv.curRid, curKey := sEv.curKey, curSlot := sEv.curSlot,
                      curHart := sEv.curHart, fc := sEv.fc, ending := sEv.ending, freeC := sEv.freeC, fresh := sEv.fresh, mem := sEv.mem,
                      dpois := sEv.dpois, dord := sEv.dord, regions := sEv.regions, parts := sEv.parts, wft := sEv.wft, cycles := sEv.cycles,
                      harts := sEv.harts, rsv := sEv.rsv, txQ := sEv.txQ, crnAt := sEv.crnAt, recQ := sEv.recQ, links := sEv.links,
                      ports := sEv.ports, sess := sEv.sess, rst := sEv.rst, mgrQ := sEv.mgrQ, mgrDone := sEv.mgrDone, notes := sEv.notes,
                      ckpt := sEv.ckpt, dev := sEv.dev, out := sEv.out : State }.rst,
                mgrQ :=
                  { agenda := [Mover.event (Instr.heatEpochEnd 1)], curRid := sEv.curRid, curKey := sEv.curKey, curSlot := sEv.curSlot,
                      curHart := sEv.curHart, fc := sEv.fc, ending := sEv.ending, freeC := sEv.freeC, fresh := sEv.fresh, mem := sEv.mem,
                      dpois := sEv.dpois, dord := sEv.dord, regions := sEv.regions, parts := sEv.parts, wft := sEv.wft, cycles := sEv.cycles,
                      harts := sEv.harts, rsv := sEv.rsv, txQ := sEv.txQ, crnAt := sEv.crnAt, recQ := sEv.recQ, links := sEv.links,
                      ports := sEv.ports, sess := sEv.sess, rst := sEv.rst, mgrQ := sEv.mgrQ, mgrDone := sEv.mgrDone, notes := sEv.notes,
                      ckpt := sEv.ckpt, dev := sEv.dev, out := sEv.out : State }.mgrQ,
                mgrDone :=
                  { agenda := [Mover.event (Instr.heatEpochEnd 1)], curRid := sEv.curRid, curKey := sEv.curKey, curSlot := sEv.curSlot,
                      curHart := sEv.curHart, fc := sEv.fc, ending := sEv.ending, freeC := sEv.freeC, fresh := sEv.fresh, mem := sEv.mem,
                      dpois := sEv.dpois, dord := sEv.dord, regions := sEv.regions, parts := sEv.parts, wft := sEv.wft, cycles := sEv.cycles,
                      harts := sEv.harts, rsv := sEv.rsv, txQ := sEv.txQ, crnAt := sEv.crnAt, recQ := sEv.recQ, links := sEv.links,
                      ports := sEv.ports, sess := sEv.sess, rst := sEv.rst, mgrQ := sEv.mgrQ, mgrDone := sEv.mgrDone, notes := sEv.notes,
                      ckpt := sEv.ckpt, dev := sEv.dev, out := sEv.out : State }.mgrDone,
                notes :=
                  { agenda := [Mover.event (Instr.heatEpochEnd 1)], curRid := sEv.curRid, curKey := sEv.curKey, curSlot := sEv.curSlot,
                      curHart := sEv.curHart, fc := sEv.fc, ending := sEv.ending, freeC := sEv.freeC, fresh := sEv.fresh, mem := sEv.mem,
                      dpois := sEv.dpois, dord := sEv.dord, regions := sEv.regions, parts := sEv.parts, wft := sEv.wft, cycles := sEv.cycles,
                      harts := sEv.harts, rsv := sEv.rsv, txQ := sEv.txQ, crnAt := sEv.crnAt, recQ := sEv.recQ, links := sEv.links,
                      ports := sEv.ports, sess := sEv.sess, rst := sEv.rst, mgrQ := sEv.mgrQ, mgrDone := sEv.mgrDone, notes := sEv.notes,
                      ckpt := sEv.ckpt, dev := sEv.dev, out := sEv.out : State }.notes,
                ckpt :=
                  { agenda := [Mover.event (Instr.heatEpochEnd 1)], curRid := sEv.curRid, curKey := sEv.curKey, curSlot := sEv.curSlot,
                      curHart := sEv.curHart, fc := sEv.fc, ending := sEv.ending, freeC := sEv.freeC, fresh := sEv.fresh, mem := sEv.mem,
                      dpois := sEv.dpois, dord := sEv.dord, regions := sEv.regions, parts := sEv.parts, wft := sEv.wft, cycles := sEv.cycles,
                      harts := sEv.harts, rsv := sEv.rsv, txQ := sEv.txQ, crnAt := sEv.crnAt, recQ := sEv.recQ, links := sEv.links,
                      ports := sEv.ports, sess := sEv.sess, rst := sEv.rst, mgrQ := sEv.mgrQ, mgrDone := sEv.mgrDone, notes := sEv.notes,
                      ckpt := sEv.ckpt, dev := sEv.dev, out := sEv.out : State }.ckpt,
                dev :=
                  { agenda := [Mover.event (Instr.heatEpochEnd 1)], curRid := sEv.curRid, curKey := sEv.curKey, curSlot := sEv.curSlot,
                      curHart := sEv.curHart, fc := sEv.fc, ending := sEv.ending, freeC := sEv.freeC, fresh := sEv.fresh, mem := sEv.mem,
                      dpois := sEv.dpois, dord := sEv.dord, regions := sEv.regions, parts := sEv.parts, wft := sEv.wft, cycles := sEv.cycles,
                      harts := sEv.harts, rsv := sEv.rsv, txQ := sEv.txQ, crnAt := sEv.crnAt, recQ := sEv.recQ, links := sEv.links,
                      ports := sEv.ports, sess := sEv.sess, rst := sEv.rst, mgrQ := sEv.mgrQ, mgrDone := sEv.mgrDone, notes := sEv.notes,
                      ckpt := sEv.ckpt, dev := sEv.dev, out := sEv.out : State }.dev,
                out :=
                  { agenda := [Mover.event (Instr.heatEpochEnd 1)], curRid := sEv.curRid, curKey := sEv.curKey, curSlot := sEv.curSlot,
                      curHart := sEv.curHart, fc := sEv.fc, ending := sEv.ending, freeC := sEv.freeC, fresh := sEv.fresh, mem := sEv.mem,
                      dpois := sEv.dpois, dord := sEv.dord, regions := sEv.regions, parts := sEv.parts, wft := sEv.wft, cycles := sEv.cycles,
                      harts := sEv.harts, rsv := sEv.rsv, txQ := sEv.txQ, crnAt := sEv.crnAt, recQ := sEv.recQ, links := sEv.links,
                      ports := sEv.ports, sess := sEv.sess, rst := sEv.rst, mgrQ := sEv.mgrQ, mgrDone := sEv.mgrDone, notes := sEv.notes,
                      ckpt := sEv.ckpt, dev := sEv.dev, out := sEv.out : State }.out :
                State }).dev.rise =
        true ∧
      isTrain (Instr.heatEpochEnd 1) = true) :=
  ⟨rfl, rfl, (Or.inr (Or.inl rfl))⟩

theorem wit_StepRuns_13 :
 ({ agenda := [Mover.event (Instr.linkTrain 2 true 5)], curRid := sEv.curRid, curKey := sEv.curKey, curSlot := sEv.curSlot, curHart := sEv.curHart,
      fc := sEv.fc, ending := sEv.ending, freeC := sEv.freeC, fresh := sEv.fresh, mem := sEv.mem, dpois := sEv.dpois, dord := sEv.dord,
      regions := sEv.regions, parts := sEv.parts, wft := sEv.wft, cycles := sEv.cycles, harts := sEv.harts, rsv := sEv.rsv, txQ := sEv.txQ,
      crnAt := sEv.crnAt, recQ := sEv.recQ, links := sEv.links, ports := sEv.ports, sess := sEv.sess, rst := sEv.rst, mgrQ := sEv.mgrQ,
      mgrDone := sEv.mgrDone, notes := sEv.notes, ckpt := sEv.ckpt, dev := { power := Power.standby, rise := true : Device }, out := sEv.out :
      State }.agenda =
  [Mover.event (Instr.linkTrain 2 true 5)]) ∧
 (isEvent (Instr.linkTrain 2 true 5) = true) ∧
 (isMgmt (Instr.linkTrain 2 true 5) = true ∨
  (State.commits
            {
              curRid :=
                { agenda := [Mover.event (Instr.linkTrain 2 true 5)], curRid := sEv.curRid, curKey := sEv.curKey, curSlot := sEv.curSlot,
                    curHart := sEv.curHart, fc := sEv.fc, ending := sEv.ending, freeC := sEv.freeC, fresh := sEv.fresh, mem := sEv.mem,
                    dpois := sEv.dpois, dord := sEv.dord, regions := sEv.regions, parts := sEv.parts, wft := sEv.wft, cycles := sEv.cycles,
                    harts := sEv.harts, rsv := sEv.rsv, txQ := sEv.txQ, crnAt := sEv.crnAt, recQ := sEv.recQ, links := sEv.links, ports := sEv.ports,
                    sess := sEv.sess, rst := sEv.rst, mgrQ := sEv.mgrQ, mgrDone := sEv.mgrDone, notes := sEv.notes, ckpt := sEv.ckpt,
                    dev := { power := Power.standby, rise := true : Device }, out := sEv.out : State }.curRid,
              curKey :=
                { agenda := [Mover.event (Instr.linkTrain 2 true 5)], curRid := sEv.curRid, curKey := sEv.curKey, curSlot := sEv.curSlot,
                    curHart := sEv.curHart, fc := sEv.fc, ending := sEv.ending, freeC := sEv.freeC, fresh := sEv.fresh, mem := sEv.mem,
                    dpois := sEv.dpois, dord := sEv.dord, regions := sEv.regions, parts := sEv.parts, wft := sEv.wft, cycles := sEv.cycles,
                    harts := sEv.harts, rsv := sEv.rsv, txQ := sEv.txQ, crnAt := sEv.crnAt, recQ := sEv.recQ, links := sEv.links, ports := sEv.ports,
                    sess := sEv.sess, rst := sEv.rst, mgrQ := sEv.mgrQ, mgrDone := sEv.mgrDone, notes := sEv.notes, ckpt := sEv.ckpt,
                    dev := { power := Power.standby, rise := true : Device }, out := sEv.out : State }.curKey,
              curSlot :=
                { agenda := [Mover.event (Instr.linkTrain 2 true 5)], curRid := sEv.curRid, curKey := sEv.curKey, curSlot := sEv.curSlot,
                    curHart := sEv.curHart, fc := sEv.fc, ending := sEv.ending, freeC := sEv.freeC, fresh := sEv.fresh, mem := sEv.mem,
                    dpois := sEv.dpois, dord := sEv.dord, regions := sEv.regions, parts := sEv.parts, wft := sEv.wft, cycles := sEv.cycles,
                    harts := sEv.harts, rsv := sEv.rsv, txQ := sEv.txQ, crnAt := sEv.crnAt, recQ := sEv.recQ, links := sEv.links, ports := sEv.ports,
                    sess := sEv.sess, rst := sEv.rst, mgrQ := sEv.mgrQ, mgrDone := sEv.mgrDone, notes := sEv.notes, ckpt := sEv.ckpt,
                    dev := { power := Power.standby, rise := true : Device }, out := sEv.out : State }.curSlot,
              curHart :=
                { agenda := [Mover.event (Instr.linkTrain 2 true 5)], curRid := sEv.curRid, curKey := sEv.curKey, curSlot := sEv.curSlot,
                    curHart := sEv.curHart, fc := sEv.fc, ending := sEv.ending, freeC := sEv.freeC, fresh := sEv.fresh, mem := sEv.mem,
                    dpois := sEv.dpois, dord := sEv.dord, regions := sEv.regions, parts := sEv.parts, wft := sEv.wft, cycles := sEv.cycles,
                    harts := sEv.harts, rsv := sEv.rsv, txQ := sEv.txQ, crnAt := sEv.crnAt, recQ := sEv.recQ, links := sEv.links, ports := sEv.ports,
                    sess := sEv.sess, rst := sEv.rst, mgrQ := sEv.mgrQ, mgrDone := sEv.mgrDone, notes := sEv.notes, ckpt := sEv.ckpt,
                    dev := { power := Power.standby, rise := true : Device }, out := sEv.out : State }.curHart,
              fc :=
                { agenda := [Mover.event (Instr.linkTrain 2 true 5)], curRid := sEv.curRid, curKey := sEv.curKey, curSlot := sEv.curSlot,
                    curHart := sEv.curHart, fc := sEv.fc, ending := sEv.ending, freeC := sEv.freeC, fresh := sEv.fresh, mem := sEv.mem,
                    dpois := sEv.dpois, dord := sEv.dord, regions := sEv.regions, parts := sEv.parts, wft := sEv.wft, cycles := sEv.cycles,
                    harts := sEv.harts, rsv := sEv.rsv, txQ := sEv.txQ, crnAt := sEv.crnAt, recQ := sEv.recQ, links := sEv.links, ports := sEv.ports,
                    sess := sEv.sess, rst := sEv.rst, mgrQ := sEv.mgrQ, mgrDone := sEv.mgrDone, notes := sEv.notes, ckpt := sEv.ckpt,
                    dev := { power := Power.standby, rise := true : Device }, out := sEv.out : State }.fc,
              ending :=
                { agenda := [Mover.event (Instr.linkTrain 2 true 5)], curRid := sEv.curRid, curKey := sEv.curKey, curSlot := sEv.curSlot,
                    curHart := sEv.curHart, fc := sEv.fc, ending := sEv.ending, freeC := sEv.freeC, fresh := sEv.fresh, mem := sEv.mem,
                    dpois := sEv.dpois, dord := sEv.dord, regions := sEv.regions, parts := sEv.parts, wft := sEv.wft, cycles := sEv.cycles,
                    harts := sEv.harts, rsv := sEv.rsv, txQ := sEv.txQ, crnAt := sEv.crnAt, recQ := sEv.recQ, links := sEv.links, ports := sEv.ports,
                    sess := sEv.sess, rst := sEv.rst, mgrQ := sEv.mgrQ, mgrDone := sEv.mgrDone, notes := sEv.notes, ckpt := sEv.ckpt,
                    dev := { power := Power.standby, rise := true : Device }, out := sEv.out : State }.ending,
              freeC :=
                { agenda := [Mover.event (Instr.linkTrain 2 true 5)], curRid := sEv.curRid, curKey := sEv.curKey, curSlot := sEv.curSlot,
                    curHart := sEv.curHart, fc := sEv.fc, ending := sEv.ending, freeC := sEv.freeC, fresh := sEv.fresh, mem := sEv.mem,
                    dpois := sEv.dpois, dord := sEv.dord, regions := sEv.regions, parts := sEv.parts, wft := sEv.wft, cycles := sEv.cycles,
                    harts := sEv.harts, rsv := sEv.rsv, txQ := sEv.txQ, crnAt := sEv.crnAt, recQ := sEv.recQ, links := sEv.links, ports := sEv.ports,
                    sess := sEv.sess, rst := sEv.rst, mgrQ := sEv.mgrQ, mgrDone := sEv.mgrDone, notes := sEv.notes, ckpt := sEv.ckpt,
                    dev := { power := Power.standby, rise := true : Device }, out := sEv.out : State }.freeC,
              fresh :=
                { agenda := [Mover.event (Instr.linkTrain 2 true 5)], curRid := sEv.curRid, curKey := sEv.curKey, curSlot := sEv.curSlot,
                    curHart := sEv.curHart, fc := sEv.fc, ending := sEv.ending, freeC := sEv.freeC, fresh := sEv.fresh, mem := sEv.mem,
                    dpois := sEv.dpois, dord := sEv.dord, regions := sEv.regions, parts := sEv.parts, wft := sEv.wft, cycles := sEv.cycles,
                    harts := sEv.harts, rsv := sEv.rsv, txQ := sEv.txQ, crnAt := sEv.crnAt, recQ := sEv.recQ, links := sEv.links, ports := sEv.ports,
                    sess := sEv.sess, rst := sEv.rst, mgrQ := sEv.mgrQ, mgrDone := sEv.mgrDone, notes := sEv.notes, ckpt := sEv.ckpt,
                    dev := { power := Power.standby, rise := true : Device }, out := sEv.out : State }.fresh,
              mem :=
                { agenda := [Mover.event (Instr.linkTrain 2 true 5)], curRid := sEv.curRid, curKey := sEv.curKey, curSlot := sEv.curSlot,
                    curHart := sEv.curHart, fc := sEv.fc, ending := sEv.ending, freeC := sEv.freeC, fresh := sEv.fresh, mem := sEv.mem,
                    dpois := sEv.dpois, dord := sEv.dord, regions := sEv.regions, parts := sEv.parts, wft := sEv.wft, cycles := sEv.cycles,
                    harts := sEv.harts, rsv := sEv.rsv, txQ := sEv.txQ, crnAt := sEv.crnAt, recQ := sEv.recQ, links := sEv.links, ports := sEv.ports,
                    sess := sEv.sess, rst := sEv.rst, mgrQ := sEv.mgrQ, mgrDone := sEv.mgrDone, notes := sEv.notes, ckpt := sEv.ckpt,
                    dev := { power := Power.standby, rise := true : Device }, out := sEv.out : State }.mem,
              dpois :=
                { agenda := [Mover.event (Instr.linkTrain 2 true 5)], curRid := sEv.curRid, curKey := sEv.curKey, curSlot := sEv.curSlot,
                    curHart := sEv.curHart, fc := sEv.fc, ending := sEv.ending, freeC := sEv.freeC, fresh := sEv.fresh, mem := sEv.mem,
                    dpois := sEv.dpois, dord := sEv.dord, regions := sEv.regions, parts := sEv.parts, wft := sEv.wft, cycles := sEv.cycles,
                    harts := sEv.harts, rsv := sEv.rsv, txQ := sEv.txQ, crnAt := sEv.crnAt, recQ := sEv.recQ, links := sEv.links, ports := sEv.ports,
                    sess := sEv.sess, rst := sEv.rst, mgrQ := sEv.mgrQ, mgrDone := sEv.mgrDone, notes := sEv.notes, ckpt := sEv.ckpt,
                    dev := { power := Power.standby, rise := true : Device }, out := sEv.out : State }.dpois,
              dord :=
                { agenda := [Mover.event (Instr.linkTrain 2 true 5)], curRid := sEv.curRid, curKey := sEv.curKey, curSlot := sEv.curSlot,
                    curHart := sEv.curHart, fc := sEv.fc, ending := sEv.ending, freeC := sEv.freeC, fresh := sEv.fresh, mem := sEv.mem,
                    dpois := sEv.dpois, dord := sEv.dord, regions := sEv.regions, parts := sEv.parts, wft := sEv.wft, cycles := sEv.cycles,
                    harts := sEv.harts, rsv := sEv.rsv, txQ := sEv.txQ, crnAt := sEv.crnAt, recQ := sEv.recQ, links := sEv.links, ports := sEv.ports,
                    sess := sEv.sess, rst := sEv.rst, mgrQ := sEv.mgrQ, mgrDone := sEv.mgrDone, notes := sEv.notes, ckpt := sEv.ckpt,
                    dev := { power := Power.standby, rise := true : Device }, out := sEv.out : State }.dord,
              regions :=
                { agenda := [Mover.event (Instr.linkTrain 2 true 5)], curRid := sEv.curRid, curKey := sEv.curKey, curSlot := sEv.curSlot,
                    curHart := sEv.curHart, fc := sEv.fc, ending := sEv.ending, freeC := sEv.freeC, fresh := sEv.fresh, mem := sEv.mem,
                    dpois := sEv.dpois, dord := sEv.dord, regions := sEv.regions, parts := sEv.parts, wft := sEv.wft, cycles := sEv.cycles,
                    harts := sEv.harts, rsv := sEv.rsv, txQ := sEv.txQ, crnAt := sEv.crnAt, recQ := sEv.recQ, links := sEv.links, ports := sEv.ports,
                    sess := sEv.sess, rst := sEv.rst, mgrQ := sEv.mgrQ, mgrDone := sEv.mgrDone, notes := sEv.notes, ckpt := sEv.ckpt,
                    dev := { power := Power.standby, rise := true : Device }, out := sEv.out : State }.regions,
              parts :=
                { agenda := [Mover.event (Instr.linkTrain 2 true 5)], curRid := sEv.curRid, curKey := sEv.curKey, curSlot := sEv.curSlot,
                    curHart := sEv.curHart, fc := sEv.fc, ending := sEv.ending, freeC := sEv.freeC, fresh := sEv.fresh, mem := sEv.mem,
                    dpois := sEv.dpois, dord := sEv.dord, regions := sEv.regions, parts := sEv.parts, wft := sEv.wft, cycles := sEv.cycles,
                    harts := sEv.harts, rsv := sEv.rsv, txQ := sEv.txQ, crnAt := sEv.crnAt, recQ := sEv.recQ, links := sEv.links, ports := sEv.ports,
                    sess := sEv.sess, rst := sEv.rst, mgrQ := sEv.mgrQ, mgrDone := sEv.mgrDone, notes := sEv.notes, ckpt := sEv.ckpt,
                    dev := { power := Power.standby, rise := true : Device }, out := sEv.out : State }.parts,
              wft :=
                { agenda := [Mover.event (Instr.linkTrain 2 true 5)], curRid := sEv.curRid, curKey := sEv.curKey, curSlot := sEv.curSlot,
                    curHart := sEv.curHart, fc := sEv.fc, ending := sEv.ending, freeC := sEv.freeC, fresh := sEv.fresh, mem := sEv.mem,
                    dpois := sEv.dpois, dord := sEv.dord, regions := sEv.regions, parts := sEv.parts, wft := sEv.wft, cycles := sEv.cycles,
                    harts := sEv.harts, rsv := sEv.rsv, txQ := sEv.txQ, crnAt := sEv.crnAt, recQ := sEv.recQ, links := sEv.links, ports := sEv.ports,
                    sess := sEv.sess, rst := sEv.rst, mgrQ := sEv.mgrQ, mgrDone := sEv.mgrDone, notes := sEv.notes, ckpt := sEv.ckpt,
                    dev := { power := Power.standby, rise := true : Device }, out := sEv.out : State }.wft,
              cycles :=
                { agenda := [Mover.event (Instr.linkTrain 2 true 5)], curRid := sEv.curRid, curKey := sEv.curKey, curSlot := sEv.curSlot,
                    curHart := sEv.curHart, fc := sEv.fc, ending := sEv.ending, freeC := sEv.freeC, fresh := sEv.fresh, mem := sEv.mem,
                    dpois := sEv.dpois, dord := sEv.dord, regions := sEv.regions, parts := sEv.parts, wft := sEv.wft, cycles := sEv.cycles,
                    harts := sEv.harts, rsv := sEv.rsv, txQ := sEv.txQ, crnAt := sEv.crnAt, recQ := sEv.recQ, links := sEv.links, ports := sEv.ports,
                    sess := sEv.sess, rst := sEv.rst, mgrQ := sEv.mgrQ, mgrDone := sEv.mgrDone, notes := sEv.notes, ckpt := sEv.ckpt,
                    dev := { power := Power.standby, rise := true : Device }, out := sEv.out : State }.cycles,
              harts :=
                { agenda := [Mover.event (Instr.linkTrain 2 true 5)], curRid := sEv.curRid, curKey := sEv.curKey, curSlot := sEv.curSlot,
                    curHart := sEv.curHart, fc := sEv.fc, ending := sEv.ending, freeC := sEv.freeC, fresh := sEv.fresh, mem := sEv.mem,
                    dpois := sEv.dpois, dord := sEv.dord, regions := sEv.regions, parts := sEv.parts, wft := sEv.wft, cycles := sEv.cycles,
                    harts := sEv.harts, rsv := sEv.rsv, txQ := sEv.txQ, crnAt := sEv.crnAt, recQ := sEv.recQ, links := sEv.links, ports := sEv.ports,
                    sess := sEv.sess, rst := sEv.rst, mgrQ := sEv.mgrQ, mgrDone := sEv.mgrDone, notes := sEv.notes, ckpt := sEv.ckpt,
                    dev := { power := Power.standby, rise := true : Device }, out := sEv.out : State }.harts,
              rsv :=
                { agenda := [Mover.event (Instr.linkTrain 2 true 5)], curRid := sEv.curRid, curKey := sEv.curKey, curSlot := sEv.curSlot,
                    curHart := sEv.curHart, fc := sEv.fc, ending := sEv.ending, freeC := sEv.freeC, fresh := sEv.fresh, mem := sEv.mem,
                    dpois := sEv.dpois, dord := sEv.dord, regions := sEv.regions, parts := sEv.parts, wft := sEv.wft, cycles := sEv.cycles,
                    harts := sEv.harts, rsv := sEv.rsv, txQ := sEv.txQ, crnAt := sEv.crnAt, recQ := sEv.recQ, links := sEv.links, ports := sEv.ports,
                    sess := sEv.sess, rst := sEv.rst, mgrQ := sEv.mgrQ, mgrDone := sEv.mgrDone, notes := sEv.notes, ckpt := sEv.ckpt,
                    dev := { power := Power.standby, rise := true : Device }, out := sEv.out : State }.rsv,
              txQ :=
                { agenda := [Mover.event (Instr.linkTrain 2 true 5)], curRid := sEv.curRid, curKey := sEv.curKey, curSlot := sEv.curSlot,
                    curHart := sEv.curHart, fc := sEv.fc, ending := sEv.ending, freeC := sEv.freeC, fresh := sEv.fresh, mem := sEv.mem,
                    dpois := sEv.dpois, dord := sEv.dord, regions := sEv.regions, parts := sEv.parts, wft := sEv.wft, cycles := sEv.cycles,
                    harts := sEv.harts, rsv := sEv.rsv, txQ := sEv.txQ, crnAt := sEv.crnAt, recQ := sEv.recQ, links := sEv.links, ports := sEv.ports,
                    sess := sEv.sess, rst := sEv.rst, mgrQ := sEv.mgrQ, mgrDone := sEv.mgrDone, notes := sEv.notes, ckpt := sEv.ckpt,
                    dev := { power := Power.standby, rise := true : Device }, out := sEv.out : State }.txQ,
              crnAt :=
                { agenda := [Mover.event (Instr.linkTrain 2 true 5)], curRid := sEv.curRid, curKey := sEv.curKey, curSlot := sEv.curSlot,
                    curHart := sEv.curHart, fc := sEv.fc, ending := sEv.ending, freeC := sEv.freeC, fresh := sEv.fresh, mem := sEv.mem,
                    dpois := sEv.dpois, dord := sEv.dord, regions := sEv.regions, parts := sEv.parts, wft := sEv.wft, cycles := sEv.cycles,
                    harts := sEv.harts, rsv := sEv.rsv, txQ := sEv.txQ, crnAt := sEv.crnAt, recQ := sEv.recQ, links := sEv.links, ports := sEv.ports,
                    sess := sEv.sess, rst := sEv.rst, mgrQ := sEv.mgrQ, mgrDone := sEv.mgrDone, notes := sEv.notes, ckpt := sEv.ckpt,
                    dev := { power := Power.standby, rise := true : Device }, out := sEv.out : State }.crnAt,
              recQ :=
                { agenda := [Mover.event (Instr.linkTrain 2 true 5)], curRid := sEv.curRid, curKey := sEv.curKey, curSlot := sEv.curSlot,
                    curHart := sEv.curHart, fc := sEv.fc, ending := sEv.ending, freeC := sEv.freeC, fresh := sEv.fresh, mem := sEv.mem,
                    dpois := sEv.dpois, dord := sEv.dord, regions := sEv.regions, parts := sEv.parts, wft := sEv.wft, cycles := sEv.cycles,
                    harts := sEv.harts, rsv := sEv.rsv, txQ := sEv.txQ, crnAt := sEv.crnAt, recQ := sEv.recQ, links := sEv.links, ports := sEv.ports,
                    sess := sEv.sess, rst := sEv.rst, mgrQ := sEv.mgrQ, mgrDone := sEv.mgrDone, notes := sEv.notes, ckpt := sEv.ckpt,
                    dev := { power := Power.standby, rise := true : Device }, out := sEv.out : State }.recQ,
              links :=
                { agenda := [Mover.event (Instr.linkTrain 2 true 5)], curRid := sEv.curRid, curKey := sEv.curKey, curSlot := sEv.curSlot,
                    curHart := sEv.curHart, fc := sEv.fc, ending := sEv.ending, freeC := sEv.freeC, fresh := sEv.fresh, mem := sEv.mem,
                    dpois := sEv.dpois, dord := sEv.dord, regions := sEv.regions, parts := sEv.parts, wft := sEv.wft, cycles := sEv.cycles,
                    harts := sEv.harts, rsv := sEv.rsv, txQ := sEv.txQ, crnAt := sEv.crnAt, recQ := sEv.recQ, links := sEv.links, ports := sEv.ports,
                    sess := sEv.sess, rst := sEv.rst, mgrQ := sEv.mgrQ, mgrDone := sEv.mgrDone, notes := sEv.notes, ckpt := sEv.ckpt,
                    dev := { power := Power.standby, rise := true : Device }, out := sEv.out : State }.links,
              ports :=
                { agenda := [Mover.event (Instr.linkTrain 2 true 5)], curRid := sEv.curRid, curKey := sEv.curKey, curSlot := sEv.curSlot,
                    curHart := sEv.curHart, fc := sEv.fc, ending := sEv.ending, freeC := sEv.freeC, fresh := sEv.fresh, mem := sEv.mem,
                    dpois := sEv.dpois, dord := sEv.dord, regions := sEv.regions, parts := sEv.parts, wft := sEv.wft, cycles := sEv.cycles,
                    harts := sEv.harts, rsv := sEv.rsv, txQ := sEv.txQ, crnAt := sEv.crnAt, recQ := sEv.recQ, links := sEv.links, ports := sEv.ports,
                    sess := sEv.sess, rst := sEv.rst, mgrQ := sEv.mgrQ, mgrDone := sEv.mgrDone, notes := sEv.notes, ckpt := sEv.ckpt,
                    dev := { power := Power.standby, rise := true : Device }, out := sEv.out : State }.ports,
              sess :=
                { agenda := [Mover.event (Instr.linkTrain 2 true 5)], curRid := sEv.curRid, curKey := sEv.curKey, curSlot := sEv.curSlot,
                    curHart := sEv.curHart, fc := sEv.fc, ending := sEv.ending, freeC := sEv.freeC, fresh := sEv.fresh, mem := sEv.mem,
                    dpois := sEv.dpois, dord := sEv.dord, regions := sEv.regions, parts := sEv.parts, wft := sEv.wft, cycles := sEv.cycles,
                    harts := sEv.harts, rsv := sEv.rsv, txQ := sEv.txQ, crnAt := sEv.crnAt, recQ := sEv.recQ, links := sEv.links, ports := sEv.ports,
                    sess := sEv.sess, rst := sEv.rst, mgrQ := sEv.mgrQ, mgrDone := sEv.mgrDone, notes := sEv.notes, ckpt := sEv.ckpt,
                    dev := { power := Power.standby, rise := true : Device }, out := sEv.out : State }.sess,
              rst :=
                { agenda := [Mover.event (Instr.linkTrain 2 true 5)], curRid := sEv.curRid, curKey := sEv.curKey, curSlot := sEv.curSlot,
                    curHart := sEv.curHart, fc := sEv.fc, ending := sEv.ending, freeC := sEv.freeC, fresh := sEv.fresh, mem := sEv.mem,
                    dpois := sEv.dpois, dord := sEv.dord, regions := sEv.regions, parts := sEv.parts, wft := sEv.wft, cycles := sEv.cycles,
                    harts := sEv.harts, rsv := sEv.rsv, txQ := sEv.txQ, crnAt := sEv.crnAt, recQ := sEv.recQ, links := sEv.links, ports := sEv.ports,
                    sess := sEv.sess, rst := sEv.rst, mgrQ := sEv.mgrQ, mgrDone := sEv.mgrDone, notes := sEv.notes, ckpt := sEv.ckpt,
                    dev := { power := Power.standby, rise := true : Device }, out := sEv.out : State }.rst,
              mgrQ :=
                { agenda := [Mover.event (Instr.linkTrain 2 true 5)], curRid := sEv.curRid, curKey := sEv.curKey, curSlot := sEv.curSlot,
                    curHart := sEv.curHart, fc := sEv.fc, ending := sEv.ending, freeC := sEv.freeC, fresh := sEv.fresh, mem := sEv.mem,
                    dpois := sEv.dpois, dord := sEv.dord, regions := sEv.regions, parts := sEv.parts, wft := sEv.wft, cycles := sEv.cycles,
                    harts := sEv.harts, rsv := sEv.rsv, txQ := sEv.txQ, crnAt := sEv.crnAt, recQ := sEv.recQ, links := sEv.links, ports := sEv.ports,
                    sess := sEv.sess, rst := sEv.rst, mgrQ := sEv.mgrQ, mgrDone := sEv.mgrDone, notes := sEv.notes, ckpt := sEv.ckpt,
                    dev := { power := Power.standby, rise := true : Device }, out := sEv.out : State }.mgrQ,
              mgrDone :=
                { agenda := [Mover.event (Instr.linkTrain 2 true 5)], curRid := sEv.curRid, curKey := sEv.curKey, curSlot := sEv.curSlot,
                    curHart := sEv.curHart, fc := sEv.fc, ending := sEv.ending, freeC := sEv.freeC, fresh := sEv.fresh, mem := sEv.mem,
                    dpois := sEv.dpois, dord := sEv.dord, regions := sEv.regions, parts := sEv.parts, wft := sEv.wft, cycles := sEv.cycles,
                    harts := sEv.harts, rsv := sEv.rsv, txQ := sEv.txQ, crnAt := sEv.crnAt, recQ := sEv.recQ, links := sEv.links, ports := sEv.ports,
                    sess := sEv.sess, rst := sEv.rst, mgrQ := sEv.mgrQ, mgrDone := sEv.mgrDone, notes := sEv.notes, ckpt := sEv.ckpt,
                    dev := { power := Power.standby, rise := true : Device }, out := sEv.out : State }.mgrDone,
              notes :=
                { agenda := [Mover.event (Instr.linkTrain 2 true 5)], curRid := sEv.curRid, curKey := sEv.curKey, curSlot := sEv.curSlot,
                    curHart := sEv.curHart, fc := sEv.fc, ending := sEv.ending, freeC := sEv.freeC, fresh := sEv.fresh, mem := sEv.mem,
                    dpois := sEv.dpois, dord := sEv.dord, regions := sEv.regions, parts := sEv.parts, wft := sEv.wft, cycles := sEv.cycles,
                    harts := sEv.harts, rsv := sEv.rsv, txQ := sEv.txQ, crnAt := sEv.crnAt, recQ := sEv.recQ, links := sEv.links, ports := sEv.ports,
                    sess := sEv.sess, rst := sEv.rst, mgrQ := sEv.mgrQ, mgrDone := sEv.mgrDone, notes := sEv.notes, ckpt := sEv.ckpt,
                    dev := { power := Power.standby, rise := true : Device }, out := sEv.out : State }.notes,
              ckpt :=
                { agenda := [Mover.event (Instr.linkTrain 2 true 5)], curRid := sEv.curRid, curKey := sEv.curKey, curSlot := sEv.curSlot,
                    curHart := sEv.curHart, fc := sEv.fc, ending := sEv.ending, freeC := sEv.freeC, fresh := sEv.fresh, mem := sEv.mem,
                    dpois := sEv.dpois, dord := sEv.dord, regions := sEv.regions, parts := sEv.parts, wft := sEv.wft, cycles := sEv.cycles,
                    harts := sEv.harts, rsv := sEv.rsv, txQ := sEv.txQ, crnAt := sEv.crnAt, recQ := sEv.recQ, links := sEv.links, ports := sEv.ports,
                    sess := sEv.sess, rst := sEv.rst, mgrQ := sEv.mgrQ, mgrDone := sEv.mgrDone, notes := sEv.notes, ckpt := sEv.ckpt,
                    dev := { power := Power.standby, rise := true : Device }, out := sEv.out : State }.ckpt,
              dev :=
                { agenda := [Mover.event (Instr.linkTrain 2 true 5)], curRid := sEv.curRid, curKey := sEv.curKey, curSlot := sEv.curSlot,
                    curHart := sEv.curHart, fc := sEv.fc, ending := sEv.ending, freeC := sEv.freeC, fresh := sEv.fresh, mem := sEv.mem,
                    dpois := sEv.dpois, dord := sEv.dord, regions := sEv.regions, parts := sEv.parts, wft := sEv.wft, cycles := sEv.cycles,
                    harts := sEv.harts, rsv := sEv.rsv, txQ := sEv.txQ, crnAt := sEv.crnAt, recQ := sEv.recQ, links := sEv.links, ports := sEv.ports,
                    sess := sEv.sess, rst := sEv.rst, mgrQ := sEv.mgrQ, mgrDone := sEv.mgrDone, notes := sEv.notes, ckpt := sEv.ckpt,
                    dev := { power := Power.standby, rise := true : Device }, out := sEv.out : State }.dev,
              out :=
                { agenda := [Mover.event (Instr.linkTrain 2 true 5)], curRid := sEv.curRid, curKey := sEv.curKey, curSlot := sEv.curSlot,
                    curHart := sEv.curHart, fc := sEv.fc, ending := sEv.ending, freeC := sEv.freeC, fresh := sEv.fresh, mem := sEv.mem,
                    dpois := sEv.dpois, dord := sEv.dord, regions := sEv.regions, parts := sEv.parts, wft := sEv.wft, cycles := sEv.cycles,
                    harts := sEv.harts, rsv := sEv.rsv, txQ := sEv.txQ, crnAt := sEv.crnAt, recQ := sEv.recQ, links := sEv.links, ports := sEv.ports,
                    sess := sEv.sess, rst := sEv.rst, mgrQ := sEv.mgrQ, mgrDone := sEv.mgrDone, notes := sEv.notes, ckpt := sEv.ckpt,
                    dev := { power := Power.standby, rise := true : Device }, out := sEv.out : State }.out :
              State }).dev.power =
      Power.on ∨
    (State.commits
              {
                curRid :=
                  { agenda := [Mover.event (Instr.linkTrain 2 true 5)], curRid := sEv.curRid, curKey := sEv.curKey, curSlot := sEv.curSlot,
                      curHart := sEv.curHart, fc := sEv.fc, ending := sEv.ending, freeC := sEv.freeC, fresh := sEv.fresh, mem := sEv.mem,
                      dpois := sEv.dpois, dord := sEv.dord, regions := sEv.regions, parts := sEv.parts, wft := sEv.wft, cycles := sEv.cycles,
                      harts := sEv.harts, rsv := sEv.rsv, txQ := sEv.txQ, crnAt := sEv.crnAt, recQ := sEv.recQ, links := sEv.links,
                      ports := sEv.ports, sess := sEv.sess, rst := sEv.rst, mgrQ := sEv.mgrQ, mgrDone := sEv.mgrDone, notes := sEv.notes,
                      ckpt := sEv.ckpt, dev := { power := Power.standby, rise := true : Device }, out := sEv.out : State }.curRid,
                curKey :=
                  { agenda := [Mover.event (Instr.linkTrain 2 true 5)], curRid := sEv.curRid, curKey := sEv.curKey, curSlot := sEv.curSlot,
                      curHart := sEv.curHart, fc := sEv.fc, ending := sEv.ending, freeC := sEv.freeC, fresh := sEv.fresh, mem := sEv.mem,
                      dpois := sEv.dpois, dord := sEv.dord, regions := sEv.regions, parts := sEv.parts, wft := sEv.wft, cycles := sEv.cycles,
                      harts := sEv.harts, rsv := sEv.rsv, txQ := sEv.txQ, crnAt := sEv.crnAt, recQ := sEv.recQ, links := sEv.links,
                      ports := sEv.ports, sess := sEv.sess, rst := sEv.rst, mgrQ := sEv.mgrQ, mgrDone := sEv.mgrDone, notes := sEv.notes,
                      ckpt := sEv.ckpt, dev := { power := Power.standby, rise := true : Device }, out := sEv.out : State }.curKey,
                curSlot :=
                  { agenda := [Mover.event (Instr.linkTrain 2 true 5)], curRid := sEv.curRid, curKey := sEv.curKey, curSlot := sEv.curSlot,
                      curHart := sEv.curHart, fc := sEv.fc, ending := sEv.ending, freeC := sEv.freeC, fresh := sEv.fresh, mem := sEv.mem,
                      dpois := sEv.dpois, dord := sEv.dord, regions := sEv.regions, parts := sEv.parts, wft := sEv.wft, cycles := sEv.cycles,
                      harts := sEv.harts, rsv := sEv.rsv, txQ := sEv.txQ, crnAt := sEv.crnAt, recQ := sEv.recQ, links := sEv.links,
                      ports := sEv.ports, sess := sEv.sess, rst := sEv.rst, mgrQ := sEv.mgrQ, mgrDone := sEv.mgrDone, notes := sEv.notes,
                      ckpt := sEv.ckpt, dev := { power := Power.standby, rise := true : Device }, out := sEv.out : State }.curSlot,
                curHart :=
                  { agenda := [Mover.event (Instr.linkTrain 2 true 5)], curRid := sEv.curRid, curKey := sEv.curKey, curSlot := sEv.curSlot,
                      curHart := sEv.curHart, fc := sEv.fc, ending := sEv.ending, freeC := sEv.freeC, fresh := sEv.fresh, mem := sEv.mem,
                      dpois := sEv.dpois, dord := sEv.dord, regions := sEv.regions, parts := sEv.parts, wft := sEv.wft, cycles := sEv.cycles,
                      harts := sEv.harts, rsv := sEv.rsv, txQ := sEv.txQ, crnAt := sEv.crnAt, recQ := sEv.recQ, links := sEv.links,
                      ports := sEv.ports, sess := sEv.sess, rst := sEv.rst, mgrQ := sEv.mgrQ, mgrDone := sEv.mgrDone, notes := sEv.notes,
                      ckpt := sEv.ckpt, dev := { power := Power.standby, rise := true : Device }, out := sEv.out : State }.curHart,
                fc :=
                  { agenda := [Mover.event (Instr.linkTrain 2 true 5)], curRid := sEv.curRid, curKey := sEv.curKey, curSlot := sEv.curSlot,
                      curHart := sEv.curHart, fc := sEv.fc, ending := sEv.ending, freeC := sEv.freeC, fresh := sEv.fresh, mem := sEv.mem,
                      dpois := sEv.dpois, dord := sEv.dord, regions := sEv.regions, parts := sEv.parts, wft := sEv.wft, cycles := sEv.cycles,
                      harts := sEv.harts, rsv := sEv.rsv, txQ := sEv.txQ, crnAt := sEv.crnAt, recQ := sEv.recQ, links := sEv.links,
                      ports := sEv.ports, sess := sEv.sess, rst := sEv.rst, mgrQ := sEv.mgrQ, mgrDone := sEv.mgrDone, notes := sEv.notes,
                      ckpt := sEv.ckpt, dev := { power := Power.standby, rise := true : Device }, out := sEv.out : State }.fc,
                ending :=
                  { agenda := [Mover.event (Instr.linkTrain 2 true 5)], curRid := sEv.curRid, curKey := sEv.curKey, curSlot := sEv.curSlot,
                      curHart := sEv.curHart, fc := sEv.fc, ending := sEv.ending, freeC := sEv.freeC, fresh := sEv.fresh, mem := sEv.mem,
                      dpois := sEv.dpois, dord := sEv.dord, regions := sEv.regions, parts := sEv.parts, wft := sEv.wft, cycles := sEv.cycles,
                      harts := sEv.harts, rsv := sEv.rsv, txQ := sEv.txQ, crnAt := sEv.crnAt, recQ := sEv.recQ, links := sEv.links,
                      ports := sEv.ports, sess := sEv.sess, rst := sEv.rst, mgrQ := sEv.mgrQ, mgrDone := sEv.mgrDone, notes := sEv.notes,
                      ckpt := sEv.ckpt, dev := { power := Power.standby, rise := true : Device }, out := sEv.out : State }.ending,
                freeC :=
                  { agenda := [Mover.event (Instr.linkTrain 2 true 5)], curRid := sEv.curRid, curKey := sEv.curKey, curSlot := sEv.curSlot,
                      curHart := sEv.curHart, fc := sEv.fc, ending := sEv.ending, freeC := sEv.freeC, fresh := sEv.fresh, mem := sEv.mem,
                      dpois := sEv.dpois, dord := sEv.dord, regions := sEv.regions, parts := sEv.parts, wft := sEv.wft, cycles := sEv.cycles,
                      harts := sEv.harts, rsv := sEv.rsv, txQ := sEv.txQ, crnAt := sEv.crnAt, recQ := sEv.recQ, links := sEv.links,
                      ports := sEv.ports, sess := sEv.sess, rst := sEv.rst, mgrQ := sEv.mgrQ, mgrDone := sEv.mgrDone, notes := sEv.notes,
                      ckpt := sEv.ckpt, dev := { power := Power.standby, rise := true : Device }, out := sEv.out : State }.freeC,
                fresh :=
                  { agenda := [Mover.event (Instr.linkTrain 2 true 5)], curRid := sEv.curRid, curKey := sEv.curKey, curSlot := sEv.curSlot,
                      curHart := sEv.curHart, fc := sEv.fc, ending := sEv.ending, freeC := sEv.freeC, fresh := sEv.fresh, mem := sEv.mem,
                      dpois := sEv.dpois, dord := sEv.dord, regions := sEv.regions, parts := sEv.parts, wft := sEv.wft, cycles := sEv.cycles,
                      harts := sEv.harts, rsv := sEv.rsv, txQ := sEv.txQ, crnAt := sEv.crnAt, recQ := sEv.recQ, links := sEv.links,
                      ports := sEv.ports, sess := sEv.sess, rst := sEv.rst, mgrQ := sEv.mgrQ, mgrDone := sEv.mgrDone, notes := sEv.notes,
                      ckpt := sEv.ckpt, dev := { power := Power.standby, rise := true : Device }, out := sEv.out : State }.fresh,
                mem :=
                  { agenda := [Mover.event (Instr.linkTrain 2 true 5)], curRid := sEv.curRid, curKey := sEv.curKey, curSlot := sEv.curSlot,
                      curHart := sEv.curHart, fc := sEv.fc, ending := sEv.ending, freeC := sEv.freeC, fresh := sEv.fresh, mem := sEv.mem,
                      dpois := sEv.dpois, dord := sEv.dord, regions := sEv.regions, parts := sEv.parts, wft := sEv.wft, cycles := sEv.cycles,
                      harts := sEv.harts, rsv := sEv.rsv, txQ := sEv.txQ, crnAt := sEv.crnAt, recQ := sEv.recQ, links := sEv.links,
                      ports := sEv.ports, sess := sEv.sess, rst := sEv.rst, mgrQ := sEv.mgrQ, mgrDone := sEv.mgrDone, notes := sEv.notes,
                      ckpt := sEv.ckpt, dev := { power := Power.standby, rise := true : Device }, out := sEv.out : State }.mem,
                dpois :=
                  { agenda := [Mover.event (Instr.linkTrain 2 true 5)], curRid := sEv.curRid, curKey := sEv.curKey, curSlot := sEv.curSlot,
                      curHart := sEv.curHart, fc := sEv.fc, ending := sEv.ending, freeC := sEv.freeC, fresh := sEv.fresh, mem := sEv.mem,
                      dpois := sEv.dpois, dord := sEv.dord, regions := sEv.regions, parts := sEv.parts, wft := sEv.wft, cycles := sEv.cycles,
                      harts := sEv.harts, rsv := sEv.rsv, txQ := sEv.txQ, crnAt := sEv.crnAt, recQ := sEv.recQ, links := sEv.links,
                      ports := sEv.ports, sess := sEv.sess, rst := sEv.rst, mgrQ := sEv.mgrQ, mgrDone := sEv.mgrDone, notes := sEv.notes,
                      ckpt := sEv.ckpt, dev := { power := Power.standby, rise := true : Device }, out := sEv.out : State }.dpois,
                dord :=
                  { agenda := [Mover.event (Instr.linkTrain 2 true 5)], curRid := sEv.curRid, curKey := sEv.curKey, curSlot := sEv.curSlot,
                      curHart := sEv.curHart, fc := sEv.fc, ending := sEv.ending, freeC := sEv.freeC, fresh := sEv.fresh, mem := sEv.mem,
                      dpois := sEv.dpois, dord := sEv.dord, regions := sEv.regions, parts := sEv.parts, wft := sEv.wft, cycles := sEv.cycles,
                      harts := sEv.harts, rsv := sEv.rsv, txQ := sEv.txQ, crnAt := sEv.crnAt, recQ := sEv.recQ, links := sEv.links,
                      ports := sEv.ports, sess := sEv.sess, rst := sEv.rst, mgrQ := sEv.mgrQ, mgrDone := sEv.mgrDone, notes := sEv.notes,
                      ckpt := sEv.ckpt, dev := { power := Power.standby, rise := true : Device }, out := sEv.out : State }.dord,
                regions :=
                  { agenda := [Mover.event (Instr.linkTrain 2 true 5)], curRid := sEv.curRid, curKey := sEv.curKey, curSlot := sEv.curSlot,
                      curHart := sEv.curHart, fc := sEv.fc, ending := sEv.ending, freeC := sEv.freeC, fresh := sEv.fresh, mem := sEv.mem,
                      dpois := sEv.dpois, dord := sEv.dord, regions := sEv.regions, parts := sEv.parts, wft := sEv.wft, cycles := sEv.cycles,
                      harts := sEv.harts, rsv := sEv.rsv, txQ := sEv.txQ, crnAt := sEv.crnAt, recQ := sEv.recQ, links := sEv.links,
                      ports := sEv.ports, sess := sEv.sess, rst := sEv.rst, mgrQ := sEv.mgrQ, mgrDone := sEv.mgrDone, notes := sEv.notes,
                      ckpt := sEv.ckpt, dev := { power := Power.standby, rise := true : Device }, out := sEv.out : State }.regions,
                parts :=
                  { agenda := [Mover.event (Instr.linkTrain 2 true 5)], curRid := sEv.curRid, curKey := sEv.curKey, curSlot := sEv.curSlot,
                      curHart := sEv.curHart, fc := sEv.fc, ending := sEv.ending, freeC := sEv.freeC, fresh := sEv.fresh, mem := sEv.mem,
                      dpois := sEv.dpois, dord := sEv.dord, regions := sEv.regions, parts := sEv.parts, wft := sEv.wft, cycles := sEv.cycles,
                      harts := sEv.harts, rsv := sEv.rsv, txQ := sEv.txQ, crnAt := sEv.crnAt, recQ := sEv.recQ, links := sEv.links,
                      ports := sEv.ports, sess := sEv.sess, rst := sEv.rst, mgrQ := sEv.mgrQ, mgrDone := sEv.mgrDone, notes := sEv.notes,
                      ckpt := sEv.ckpt, dev := { power := Power.standby, rise := true : Device }, out := sEv.out : State }.parts,
                wft :=
                  { agenda := [Mover.event (Instr.linkTrain 2 true 5)], curRid := sEv.curRid, curKey := sEv.curKey, curSlot := sEv.curSlot,
                      curHart := sEv.curHart, fc := sEv.fc, ending := sEv.ending, freeC := sEv.freeC, fresh := sEv.fresh, mem := sEv.mem,
                      dpois := sEv.dpois, dord := sEv.dord, regions := sEv.regions, parts := sEv.parts, wft := sEv.wft, cycles := sEv.cycles,
                      harts := sEv.harts, rsv := sEv.rsv, txQ := sEv.txQ, crnAt := sEv.crnAt, recQ := sEv.recQ, links := sEv.links,
                      ports := sEv.ports, sess := sEv.sess, rst := sEv.rst, mgrQ := sEv.mgrQ, mgrDone := sEv.mgrDone, notes := sEv.notes,
                      ckpt := sEv.ckpt, dev := { power := Power.standby, rise := true : Device }, out := sEv.out : State }.wft,
                cycles :=
                  { agenda := [Mover.event (Instr.linkTrain 2 true 5)], curRid := sEv.curRid, curKey := sEv.curKey, curSlot := sEv.curSlot,
                      curHart := sEv.curHart, fc := sEv.fc, ending := sEv.ending, freeC := sEv.freeC, fresh := sEv.fresh, mem := sEv.mem,
                      dpois := sEv.dpois, dord := sEv.dord, regions := sEv.regions, parts := sEv.parts, wft := sEv.wft, cycles := sEv.cycles,
                      harts := sEv.harts, rsv := sEv.rsv, txQ := sEv.txQ, crnAt := sEv.crnAt, recQ := sEv.recQ, links := sEv.links,
                      ports := sEv.ports, sess := sEv.sess, rst := sEv.rst, mgrQ := sEv.mgrQ, mgrDone := sEv.mgrDone, notes := sEv.notes,
                      ckpt := sEv.ckpt, dev := { power := Power.standby, rise := true : Device }, out := sEv.out : State }.cycles,
                harts :=
                  { agenda := [Mover.event (Instr.linkTrain 2 true 5)], curRid := sEv.curRid, curKey := sEv.curKey, curSlot := sEv.curSlot,
                      curHart := sEv.curHart, fc := sEv.fc, ending := sEv.ending, freeC := sEv.freeC, fresh := sEv.fresh, mem := sEv.mem,
                      dpois := sEv.dpois, dord := sEv.dord, regions := sEv.regions, parts := sEv.parts, wft := sEv.wft, cycles := sEv.cycles,
                      harts := sEv.harts, rsv := sEv.rsv, txQ := sEv.txQ, crnAt := sEv.crnAt, recQ := sEv.recQ, links := sEv.links,
                      ports := sEv.ports, sess := sEv.sess, rst := sEv.rst, mgrQ := sEv.mgrQ, mgrDone := sEv.mgrDone, notes := sEv.notes,
                      ckpt := sEv.ckpt, dev := { power := Power.standby, rise := true : Device }, out := sEv.out : State }.harts,
                rsv :=
                  { agenda := [Mover.event (Instr.linkTrain 2 true 5)], curRid := sEv.curRid, curKey := sEv.curKey, curSlot := sEv.curSlot,
                      curHart := sEv.curHart, fc := sEv.fc, ending := sEv.ending, freeC := sEv.freeC, fresh := sEv.fresh, mem := sEv.mem,
                      dpois := sEv.dpois, dord := sEv.dord, regions := sEv.regions, parts := sEv.parts, wft := sEv.wft, cycles := sEv.cycles,
                      harts := sEv.harts, rsv := sEv.rsv, txQ := sEv.txQ, crnAt := sEv.crnAt, recQ := sEv.recQ, links := sEv.links,
                      ports := sEv.ports, sess := sEv.sess, rst := sEv.rst, mgrQ := sEv.mgrQ, mgrDone := sEv.mgrDone, notes := sEv.notes,
                      ckpt := sEv.ckpt, dev := { power := Power.standby, rise := true : Device }, out := sEv.out : State }.rsv,
                txQ :=
                  { agenda := [Mover.event (Instr.linkTrain 2 true 5)], curRid := sEv.curRid, curKey := sEv.curKey, curSlot := sEv.curSlot,
                      curHart := sEv.curHart, fc := sEv.fc, ending := sEv.ending, freeC := sEv.freeC, fresh := sEv.fresh, mem := sEv.mem,
                      dpois := sEv.dpois, dord := sEv.dord, regions := sEv.regions, parts := sEv.parts, wft := sEv.wft, cycles := sEv.cycles,
                      harts := sEv.harts, rsv := sEv.rsv, txQ := sEv.txQ, crnAt := sEv.crnAt, recQ := sEv.recQ, links := sEv.links,
                      ports := sEv.ports, sess := sEv.sess, rst := sEv.rst, mgrQ := sEv.mgrQ, mgrDone := sEv.mgrDone, notes := sEv.notes,
                      ckpt := sEv.ckpt, dev := { power := Power.standby, rise := true : Device }, out := sEv.out : State }.txQ,
                crnAt :=
                  { agenda := [Mover.event (Instr.linkTrain 2 true 5)], curRid := sEv.curRid, curKey := sEv.curKey, curSlot := sEv.curSlot,
                      curHart := sEv.curHart, fc := sEv.fc, ending := sEv.ending, freeC := sEv.freeC, fresh := sEv.fresh, mem := sEv.mem,
                      dpois := sEv.dpois, dord := sEv.dord, regions := sEv.regions, parts := sEv.parts, wft := sEv.wft, cycles := sEv.cycles,
                      harts := sEv.harts, rsv := sEv.rsv, txQ := sEv.txQ, crnAt := sEv.crnAt, recQ := sEv.recQ, links := sEv.links,
                      ports := sEv.ports, sess := sEv.sess, rst := sEv.rst, mgrQ := sEv.mgrQ, mgrDone := sEv.mgrDone, notes := sEv.notes,
                      ckpt := sEv.ckpt, dev := { power := Power.standby, rise := true : Device }, out := sEv.out : State }.crnAt,
                recQ :=
                  { agenda := [Mover.event (Instr.linkTrain 2 true 5)], curRid := sEv.curRid, curKey := sEv.curKey, curSlot := sEv.curSlot,
                      curHart := sEv.curHart, fc := sEv.fc, ending := sEv.ending, freeC := sEv.freeC, fresh := sEv.fresh, mem := sEv.mem,
                      dpois := sEv.dpois, dord := sEv.dord, regions := sEv.regions, parts := sEv.parts, wft := sEv.wft, cycles := sEv.cycles,
                      harts := sEv.harts, rsv := sEv.rsv, txQ := sEv.txQ, crnAt := sEv.crnAt, recQ := sEv.recQ, links := sEv.links,
                      ports := sEv.ports, sess := sEv.sess, rst := sEv.rst, mgrQ := sEv.mgrQ, mgrDone := sEv.mgrDone, notes := sEv.notes,
                      ckpt := sEv.ckpt, dev := { power := Power.standby, rise := true : Device }, out := sEv.out : State }.recQ,
                links :=
                  { agenda := [Mover.event (Instr.linkTrain 2 true 5)], curRid := sEv.curRid, curKey := sEv.curKey, curSlot := sEv.curSlot,
                      curHart := sEv.curHart, fc := sEv.fc, ending := sEv.ending, freeC := sEv.freeC, fresh := sEv.fresh, mem := sEv.mem,
                      dpois := sEv.dpois, dord := sEv.dord, regions := sEv.regions, parts := sEv.parts, wft := sEv.wft, cycles := sEv.cycles,
                      harts := sEv.harts, rsv := sEv.rsv, txQ := sEv.txQ, crnAt := sEv.crnAt, recQ := sEv.recQ, links := sEv.links,
                      ports := sEv.ports, sess := sEv.sess, rst := sEv.rst, mgrQ := sEv.mgrQ, mgrDone := sEv.mgrDone, notes := sEv.notes,
                      ckpt := sEv.ckpt, dev := { power := Power.standby, rise := true : Device }, out := sEv.out : State }.links,
                ports :=
                  { agenda := [Mover.event (Instr.linkTrain 2 true 5)], curRid := sEv.curRid, curKey := sEv.curKey, curSlot := sEv.curSlot,
                      curHart := sEv.curHart, fc := sEv.fc, ending := sEv.ending, freeC := sEv.freeC, fresh := sEv.fresh, mem := sEv.mem,
                      dpois := sEv.dpois, dord := sEv.dord, regions := sEv.regions, parts := sEv.parts, wft := sEv.wft, cycles := sEv.cycles,
                      harts := sEv.harts, rsv := sEv.rsv, txQ := sEv.txQ, crnAt := sEv.crnAt, recQ := sEv.recQ, links := sEv.links,
                      ports := sEv.ports, sess := sEv.sess, rst := sEv.rst, mgrQ := sEv.mgrQ, mgrDone := sEv.mgrDone, notes := sEv.notes,
                      ckpt := sEv.ckpt, dev := { power := Power.standby, rise := true : Device }, out := sEv.out : State }.ports,
                sess :=
                  { agenda := [Mover.event (Instr.linkTrain 2 true 5)], curRid := sEv.curRid, curKey := sEv.curKey, curSlot := sEv.curSlot,
                      curHart := sEv.curHart, fc := sEv.fc, ending := sEv.ending, freeC := sEv.freeC, fresh := sEv.fresh, mem := sEv.mem,
                      dpois := sEv.dpois, dord := sEv.dord, regions := sEv.regions, parts := sEv.parts, wft := sEv.wft, cycles := sEv.cycles,
                      harts := sEv.harts, rsv := sEv.rsv, txQ := sEv.txQ, crnAt := sEv.crnAt, recQ := sEv.recQ, links := sEv.links,
                      ports := sEv.ports, sess := sEv.sess, rst := sEv.rst, mgrQ := sEv.mgrQ, mgrDone := sEv.mgrDone, notes := sEv.notes,
                      ckpt := sEv.ckpt, dev := { power := Power.standby, rise := true : Device }, out := sEv.out : State }.sess,
                rst :=
                  { agenda := [Mover.event (Instr.linkTrain 2 true 5)], curRid := sEv.curRid, curKey := sEv.curKey, curSlot := sEv.curSlot,
                      curHart := sEv.curHart, fc := sEv.fc, ending := sEv.ending, freeC := sEv.freeC, fresh := sEv.fresh, mem := sEv.mem,
                      dpois := sEv.dpois, dord := sEv.dord, regions := sEv.regions, parts := sEv.parts, wft := sEv.wft, cycles := sEv.cycles,
                      harts := sEv.harts, rsv := sEv.rsv, txQ := sEv.txQ, crnAt := sEv.crnAt, recQ := sEv.recQ, links := sEv.links,
                      ports := sEv.ports, sess := sEv.sess, rst := sEv.rst, mgrQ := sEv.mgrQ, mgrDone := sEv.mgrDone, notes := sEv.notes,
                      ckpt := sEv.ckpt, dev := { power := Power.standby, rise := true : Device }, out := sEv.out : State }.rst,
                mgrQ :=
                  { agenda := [Mover.event (Instr.linkTrain 2 true 5)], curRid := sEv.curRid, curKey := sEv.curKey, curSlot := sEv.curSlot,
                      curHart := sEv.curHart, fc := sEv.fc, ending := sEv.ending, freeC := sEv.freeC, fresh := sEv.fresh, mem := sEv.mem,
                      dpois := sEv.dpois, dord := sEv.dord, regions := sEv.regions, parts := sEv.parts, wft := sEv.wft, cycles := sEv.cycles,
                      harts := sEv.harts, rsv := sEv.rsv, txQ := sEv.txQ, crnAt := sEv.crnAt, recQ := sEv.recQ, links := sEv.links,
                      ports := sEv.ports, sess := sEv.sess, rst := sEv.rst, mgrQ := sEv.mgrQ, mgrDone := sEv.mgrDone, notes := sEv.notes,
                      ckpt := sEv.ckpt, dev := { power := Power.standby, rise := true : Device }, out := sEv.out : State }.mgrQ,
                mgrDone :=
                  { agenda := [Mover.event (Instr.linkTrain 2 true 5)], curRid := sEv.curRid, curKey := sEv.curKey, curSlot := sEv.curSlot,
                      curHart := sEv.curHart, fc := sEv.fc, ending := sEv.ending, freeC := sEv.freeC, fresh := sEv.fresh, mem := sEv.mem,
                      dpois := sEv.dpois, dord := sEv.dord, regions := sEv.regions, parts := sEv.parts, wft := sEv.wft, cycles := sEv.cycles,
                      harts := sEv.harts, rsv := sEv.rsv, txQ := sEv.txQ, crnAt := sEv.crnAt, recQ := sEv.recQ, links := sEv.links,
                      ports := sEv.ports, sess := sEv.sess, rst := sEv.rst, mgrQ := sEv.mgrQ, mgrDone := sEv.mgrDone, notes := sEv.notes,
                      ckpt := sEv.ckpt, dev := { power := Power.standby, rise := true : Device }, out := sEv.out : State }.mgrDone,
                notes :=
                  { agenda := [Mover.event (Instr.linkTrain 2 true 5)], curRid := sEv.curRid, curKey := sEv.curKey, curSlot := sEv.curSlot,
                      curHart := sEv.curHart, fc := sEv.fc, ending := sEv.ending, freeC := sEv.freeC, fresh := sEv.fresh, mem := sEv.mem,
                      dpois := sEv.dpois, dord := sEv.dord, regions := sEv.regions, parts := sEv.parts, wft := sEv.wft, cycles := sEv.cycles,
                      harts := sEv.harts, rsv := sEv.rsv, txQ := sEv.txQ, crnAt := sEv.crnAt, recQ := sEv.recQ, links := sEv.links,
                      ports := sEv.ports, sess := sEv.sess, rst := sEv.rst, mgrQ := sEv.mgrQ, mgrDone := sEv.mgrDone, notes := sEv.notes,
                      ckpt := sEv.ckpt, dev := { power := Power.standby, rise := true : Device }, out := sEv.out : State }.notes,
                ckpt :=
                  { agenda := [Mover.event (Instr.linkTrain 2 true 5)], curRid := sEv.curRid, curKey := sEv.curKey, curSlot := sEv.curSlot,
                      curHart := sEv.curHart, fc := sEv.fc, ending := sEv.ending, freeC := sEv.freeC, fresh := sEv.fresh, mem := sEv.mem,
                      dpois := sEv.dpois, dord := sEv.dord, regions := sEv.regions, parts := sEv.parts, wft := sEv.wft, cycles := sEv.cycles,
                      harts := sEv.harts, rsv := sEv.rsv, txQ := sEv.txQ, crnAt := sEv.crnAt, recQ := sEv.recQ, links := sEv.links,
                      ports := sEv.ports, sess := sEv.sess, rst := sEv.rst, mgrQ := sEv.mgrQ, mgrDone := sEv.mgrDone, notes := sEv.notes,
                      ckpt := sEv.ckpt, dev := { power := Power.standby, rise := true : Device }, out := sEv.out : State }.ckpt,
                dev :=
                  { agenda := [Mover.event (Instr.linkTrain 2 true 5)], curRid := sEv.curRid, curKey := sEv.curKey, curSlot := sEv.curSlot,
                      curHart := sEv.curHart, fc := sEv.fc, ending := sEv.ending, freeC := sEv.freeC, fresh := sEv.fresh, mem := sEv.mem,
                      dpois := sEv.dpois, dord := sEv.dord, regions := sEv.regions, parts := sEv.parts, wft := sEv.wft, cycles := sEv.cycles,
                      harts := sEv.harts, rsv := sEv.rsv, txQ := sEv.txQ, crnAt := sEv.crnAt, recQ := sEv.recQ, links := sEv.links,
                      ports := sEv.ports, sess := sEv.sess, rst := sEv.rst, mgrQ := sEv.mgrQ, mgrDone := sEv.mgrDone, notes := sEv.notes,
                      ckpt := sEv.ckpt, dev := { power := Power.standby, rise := true : Device }, out := sEv.out : State }.dev,
                out :=
                  { agenda := [Mover.event (Instr.linkTrain 2 true 5)], curRid := sEv.curRid, curKey := sEv.curKey, curSlot := sEv.curSlot,
                      curHart := sEv.curHart, fc := sEv.fc, ending := sEv.ending, freeC := sEv.freeC, fresh := sEv.fresh, mem := sEv.mem,
                      dpois := sEv.dpois, dord := sEv.dord, regions := sEv.regions, parts := sEv.parts, wft := sEv.wft, cycles := sEv.cycles,
                      harts := sEv.harts, rsv := sEv.rsv, txQ := sEv.txQ, crnAt := sEv.crnAt, recQ := sEv.recQ, links := sEv.links,
                      ports := sEv.ports, sess := sEv.sess, rst := sEv.rst, mgrQ := sEv.mgrQ, mgrDone := sEv.mgrDone, notes := sEv.notes,
                      ckpt := sEv.ckpt, dev := { power := Power.standby, rise := true : Device }, out := sEv.out : State }.out :
                State }).dev.rise =
        true ∧
      isTrain (Instr.linkTrain 2 true 5) = true) :=
  ⟨rfl, rfl, (Or.inr (Or.inr ⟨rfl, rfl⟩))⟩

theorem wit_StepRuns_14 :
 (sP rP).agenda = [] :=
  rfl

theorem wit_StepRuns_15 :
 sEnd.ending = true :=
  rfl

theorem wit_FirePlace_1 :
 (peCode (Instr.mov tMv) = some (1, tMv)) ∧
 (tfind sCl.regions sCl.curRid = some rCl) ∧
 (canFire (State.here sCl) 1 tMv rCl = false) :=
  ⟨rfl, rfl, (by decide +kernel)⟩

theorem wit_FireFrame_1 :
 (peCode (Instr.mov tMv) = some (1, tMv)) ∧
 (Fires (sP rP) 1 tMv rP) ∧
 (exec (Instr.mov tMv) (sP rP) =
  Host.Outcome.next
    (onRegion (sP rP) (sP rP).curRid fun (r : Region) =>
      fireScalar (State.here (sP rP)) 1 tMv (fun (x : Region) (o : Opnds) => Except.ok (o.a, condNz o.a)) r)) :=
  ⟨rfl, ⟨rfl, by decide⟩, rfl⟩

theorem wit_SyncCompletes_1 :
 (Completes (sP rYF) 1 0 7 rYF yF) ∧
 (yF.ph = 5) ∧
 (yF.code = 217) ∧
 (earlierDone rYF 0 7 = true) :=
  ⟨(by exact cmp rfl rfl rfl rfl (Or.inr (by decide +kernel))), rfl, rfl, (by decide +kernel)⟩

theorem wit_SyncCompletes_2 :
 (Completes (sP rYG) 1 0 7 rYG yF) ∧
 (yF.ph = 5) ∧
 (yF.code = 213 ∨ yF.code = 215 ∨ yF.code = 217) ∧
 (earlierDone rYG 0 7 = false) :=
  ⟨(by exact cmp rfl rfl rfl rfl (Or.inr (by decide +kernel))), rfl, (Or.inr (Or.inr rfl)), (by decide +kernel)⟩

theorem wit_SyncCompletes_3 :
 (Completes (sP rYH) 1 0 7 rYH yH) ∧
 (yH.ph = 5) ∧
 (earlierDone rYH 0 7 = true) ∧
 (hselOf rYH 0 (BitVec.toNat yH.ti.imm % 32) = some (1, 1)) ∧
 (yH.code = 215) ∧
 ((Region.hnd rYH 1 1).st = hFilling) :=
  ⟨(by exact cmp rfl rfl rfl rfl (Or.inr (by decide +kernel))), rfl, (by decide +kernel), (by decide +kernel), rfl, (by decide +kernel)⟩

theorem wit_SyncCompletes_4 :
 (Completes (sP rYR) 1 0 7 rYR yR) ∧
 (yR.ph = 5) ∧
 (earlierDone rYR 0 7 = true) ∧
 (hselOf rYR 0 (BitVec.toNat yR.ti.imm % 32) = some (1, 0)) ∧
 (yR.code = 213) ∧
 ((Region.hnd rYR 1 0).st = hFull ∨ (Region.hnd rYR 1 0).st = hDraining) :=
  ⟨(by exact cmp rfl rfl rfl rfl (Or.inr (by decide +kernel))), rfl, (by decide +kernel), (by decide +kernel), rfl, (Or.inl (by decide +kernel))⟩

theorem wit_SyncCompletes_5 :
 (Completes (sP rYX) 1 0 7 rYX yX) ∧
 (yX.ph = 5) ∧
 (earlierDone rYX 0 7 = true) ∧
 (hselOf rYX 0 (BitVec.toNat yX.ti.imm % 32) = some (1, 0)) ∧
 (yX.code = 215 ∧ (Region.hnd rYX 1 0).st ≠ hFilling ∨ yX.code = 213 ∧ (Region.hnd rYX 1 0).st ≠ hFull ∧ (Region.hnd rYX 1 0).st ≠ hDraining) :=
  ⟨(by exact cmp rfl rfl rfl rfl (Or.inr (by decide +kernel))), rfl, (by decide +kernel), (by decide +kernel), (Or.inl ⟨rfl, by decide +kernel⟩)⟩

theorem wit_SyncCompletes_6 :
 (Completes (sP rY6) 1 0 7 rY6 y6) ∧
 (y6.ph = 6) ∧
 (¬y6.code ∈ [218, 219, 220]) ∧
 (y6.code ≠ 240 ∨ rY6.st ≠ rFrozen) :=
  ⟨(by exact cmp rfl rfl rfl rfl (Or.inr (by decide +kernel))), rfl, (by decide), (Or.inl (by decide))⟩

theorem wit_SyncCompletes_7 :
 (Completes (sP rY80) 1 0 7 rY80 (y8 5)) ∧
 ((y8 5).ph = 8) ∧
 ((y8 5).code = 234) ∧
 (64 ≤ (rY80.cpyid + 2 ^ 16 - BitVec.toNat (y8 5).a.bits % 2 ^ 16 - 1) % 2 ^ 16) :=
  ⟨(by exact cmp rfl rfl rfl rfl (Or.inr (by decide +kernel))), rfl, rfl, (by decide +kernel)⟩

theorem wit_SyncCompletes_8 :
 (Completes (sP rY81) 1 0 7 rY81 (y8 5)) ∧
 ((y8 5).ph = 8) ∧
 ((y8 5).code = 234) ∧
 ((rY81.cpyid + 2 ^ 16 - BitVec.toNat (y8 5).a.bits % 2 ^ 16 - 1) % 2 ^ 16 < 64) ∧
 (List.find? (fun (c : Nat × Strm) => c.snd.cid == BitVec.toNat (y8 5).a.bits % 2 ^ 16) rY81.copies = some (2, { desc := [0], cid := 5 : Strm })) :=
  ⟨(by exact cmp rfl rfl rfl rfl (Or.inr (by decide +kernel))), rfl, rfl, (by decide +kernel), (by decide +kernel)⟩

theorem wit_SyncCompletes_9 :
 (Completes (sP rY82) 1 0 7 rY82 (y8 5)) ∧
 ((y8 5).ph = 8) ∧
 ((y8 5).code = 234) ∧
 ((rY82.cpyid + 2 ^ 16 - BitVec.toNat (y8 5).a.bits % 2 ^ 16 - 1) % 2 ^ 16 < 64) ∧
 (List.find? (fun (c : Nat × Strm) => c.snd.cid == BitVec.toNat (y8 5).a.bits % 2 ^ 16) rY82.copies = none) ∧
 (tfind rY82.cstat (BitVec.toNat (y8 5).a.bits % 2 ^ 16) = some (BitVec.ofNat 64 (2 ^ 63 + 3), 0)) :=
  ⟨(by exact cmp rfl rfl rfl rfl (Or.inr (by decide +kernel))), rfl, rfl, (by decide +kernel), (by decide +kernel), rfl⟩

theorem wit_SyncCompletes_10 :
 (Completes (sP (rQ 224 AccSt.done)) 1 0 7 (rQ 224 AccSt.done) (yQ 224)) ∧
 ((yQ 224).ph = 9) ∧
 ((yQ 224).accs = [5]) ∧
 (tfind (rQ 224 AccSt.done).flight 5 = some (aY AccSt.done)) ∧
 ((yQ 224).code = 224) ∧
 ((aY AccSt.done).st = AccSt.done) ∧
 (unitOpen (rQ 224 AccSt.done) ((aY AccSt.done).addr / 8 / 16) 7 = false) :=
  ⟨(by exact cmp rfl rfl rfl rfl (Or.inl rfl)), rfl, rfl, rfl, rfl, rfl, (by decide +kernel)⟩

theorem wit_SyncCompletes_11 :
 (Completes (sP (rQ 225 AccSt.travel)) 1 0 7 (rQ 225 AccSt.travel) (yQ 225)) ∧
 ((yQ 225).ph = 9) ∧
 ((yQ 225).accs = [5]) ∧
 (tfind (rQ 225 AccSt.travel).flight 5 = some (aY AccSt.travel)) ∧
 ((aY AccSt.travel).st = AccSt.travel) ∧
 (unitLive (rQ 225 AccSt.travel) ((aY AccSt.travel).addr / 8 / 16) = true) ∧
 (mustPrecede (sP (rQ 225 AccSt.travel)) (rQ 225 AccSt.travel) 5 (aY AccSt.travel) false = true) ∧
 ((yQ 225).code = 225) :=
  ⟨(by exact cmp rfl rfl rfl rfl (Or.inl rfl)), rfl, rfl, rfl, rfl, (by decide +kernel), (by decide +kernel), rfl⟩

theorem wit_SyncCompletes_12 :
 (Completes (sP (rQ 226 AccSt.travel)) 1 0 7 (rQ 226 AccSt.travel) (yQ 226)) ∧
 ((yQ 226).ph = 9) ∧
 ((yQ 226).accs = [5]) ∧
 (tfind (rQ 226 AccSt.travel).flight 5 = some (aY AccSt.travel)) ∧
 ((aY AccSt.travel).st = AccSt.travel) ∧
 (unitLive (rQ 226 AccSt.travel) ((aY AccSt.travel).addr / 8 / 16) = true) ∧
 (mustPrecede (sP (rQ 226 AccSt.travel)) (rQ 226 AccSt.travel) 5 (aY AccSt.travel) false = true) ∧
 ((yQ 226).code = 226) :=
  ⟨(by exact cmp rfl rfl rfl rfl (Or.inl rfl)), rfl, rfl, rfl, rfl, (by decide +kernel), (by decide +kernel), rfl⟩

theorem wit_SyncCompletes_13 :
 (Completes (sP (rQ 227 AccSt.travel)) 1 0 7 (rQ 227 AccSt.travel) (yQ 227)) ∧
 ((yQ 227).ph = 9) ∧
 ((yQ 227).accs = [5]) ∧
 (tfind (rQ 227 AccSt.travel).flight 5 = some (aY AccSt.travel)) ∧
 ((aY AccSt.travel).st = AccSt.travel) ∧
 (unitLive (rQ 227 AccSt.travel) ((aY AccSt.travel).addr / 8 / 16) = true) ∧
 (mustPrecede (sP (rQ 227 AccSt.travel)) (rQ 227 AccSt.travel) 5 (aY AccSt.travel) false = true) ∧
 ((yQ 227).code = 227) :=
  ⟨(by exact cmp rfl rfl rfl rfl (Or.inl rfl)), rfl, rfl, rfl, rfl, (by decide +kernel), (by decide +kernel), rfl⟩

theorem wit_SyncCompletes_14 :
 (Completes (sW 218 2 [0, 2 ^ 53] [(0, wY)]) 1 0 7 (rW 218 2) (yW 218 2)) ∧
 ((yW 218 2).accs = [5]) ∧
 (tfind (rW 218 2).flight 5 = some (aY AccSt.done 2)) ∧
 ((aY AccSt.done 2).st = AccSt.done) ∧
 (State.objOf (sW 218 2 [0, 2 ^ 53] [(0, wY)]) (rW 218 2) (aY AccSt.done 2) = some (objMt 1 128)) ∧
 ((yW 218 2).code = 218) ∧
 ((List.any (State.entries (sW 218 2 [0, 2 ^ 53] [(0, wY)])) fun (e : Wfe) =>
    e.exp && e.rid == 1 && e.page == keyPage 0 && e.pos == keyPos 0 && e.slot == (yW 218 2).slot && e.obj == objMt 1 128) =
  true) :=
  ⟨(by exact cmp rfl rfl rfl rfl (Or.inl rfl)), rfl, rfl, rfl, (by decide +kernel), rfl, (by decide +kernel)⟩

theorem wit_SyncCompletes_15 :
 (Completes (sW 218 2 [0, 2 ^ 53]) 1 0 7 (rW 218 2) (yW 218 2)) ∧
 ((yW 218 2).accs = [5]) ∧
 (tfind (rW 218 2).flight 5 = some (aY AccSt.done 2)) ∧
 ((aY AccSt.done 2).st = AccSt.done) ∧
 (State.objOf (sW 218 2 [0, 2 ^ 53]) (rW 218 2) (aY AccSt.done 2) = some (objMt 1 128)) ∧
 ((yW 218 2).code = 218) ∧
 ((List.any (State.entries (sW 218 2 [0, 2 ^ 53])) fun (e : Wfe) =>
    e.exp && e.rid == 1 && e.page == keyPage 0 && e.pos == keyPos 0 && e.slot == (yW 218 2).slot && e.obj == objMt 1 128) =
  false) ∧
 (State.register (sW 218 2 [0, 2 ^ 53]) 1 0 (yW 218 2).slot (BitVec.toNat (yW 218 2).ti.imm % 16) (objMt 1 128) true =
  ((State.register (sW 218 2 [0, 2 ^ 53]) 1 0 (yW 218 2).slot (BitVec.toNat (yW 218 2).ti.imm % 16) (objMt 1 128) true).fst, 1)) ∧
 (1 ≠ 2) :=
  ⟨(by exact cmp rfl rfl rfl rfl (Or.inl rfl)), rfl, rfl, rfl, (by decide +kernel), rfl, (by decide +kernel), (prod_snd (by decide +kernel)), (by decide)⟩

theorem wit_SyncCompletes_16 :
 (Completes (sW 218 2 [2 ^ 53, 0]) 1 0 7 (rW 218 2) (yW 218 2)) ∧
 ((yW 218 2).accs = [5]) ∧
 (tfind (rW 218 2).flight 5 = some (aY AccSt.done 2)) ∧
 ((aY AccSt.done 2).st = AccSt.done) ∧
 (State.objOf (sW 218 2 [2 ^ 53, 0]) (rW 218 2) (aY AccSt.done 2) = some (objMt 1 128)) ∧
 ((yW 218 2).code = 218) ∧
 ((List.any (State.entries (sW 218 2 [2 ^ 53, 0])) fun (e : Wfe) =>
    e.exp && e.rid == 1 && e.page == keyPage 0 && e.pos == keyPos 0 && e.slot == (yW 218 2).slot && e.obj == objMt 1 128) =
  false) ∧
 (State.register (sW 218 2 [2 ^ 53, 0]) 1 0 (yW 218 2).slot (BitVec.toNat (yW 218 2).ti.imm % 16) (objMt 1 128) true =
  ((State.register (sW 218 2 [2 ^ 53, 0]) 1 0 (yW 218 2).slot (BitVec.toNat (yW 218 2).ti.imm % 16) (objMt 1 128) true).fst, 2)) ∧
 (2 = 2) :=
  ⟨(by exact cmp rfl rfl rfl rfl (Or.inl rfl)), rfl, rfl, rfl, (by decide +kernel), rfl, (by decide +kernel), (prod_snd (by decide +kernel)), rfl⟩

theorem wit_SyncCompletes_17 :
 (Completes (sW 219 2 []) 1 0 7 (rW 219 2) (yW 219 2)) ∧
 ((yW 219 2).accs = [5]) ∧
 (tfind (rW 219 2).flight 5 = some (aY AccSt.done 2)) ∧
 ((aY AccSt.done 2).st = AccSt.done) ∧
 (State.objOf (sW 219 2 []) (rW 219 2) (aY AccSt.done 2) = some (objMt 1 128)) ∧
 ((yW 219 2).code = 219) :=
  ⟨(by exact cmp rfl rfl rfl rfl (Or.inl rfl)), rfl, rfl, rfl, (by decide +kernel), rfl⟩

theorem wit_SyncCompletes_18 :
 (Completes (sW 220 18 []) 1 0 7 (rW 220 18) (yW 220 18)) ∧
 ((yW 220 18).accs = [5]) ∧
 (tfind (rW 220 18).flight 5 = some (aY AccSt.done 2)) ∧
 ((aY AccSt.done 2).st = AccSt.done) ∧
 (State.objOf (sW 220 18 []) (rW 220 18) (aY AccSt.done 2) = some (objMt 1 128)) ∧
 ((yW 220 18).code = 220) ∧
 (BitVec.getLsbD (yW 220 18).ti.imm 4 = true) :=
  ⟨(by exact cmp rfl rfl rfl rfl (Or.inl rfl)), rfl, rfl, rfl, (by decide +kernel), rfl, (by decide)⟩

theorem wit_SyncCompletes_19 :
 (Completes (sW 220 2 [] [(0, wY)]) 1 0 7 (rW 220 2) (yW 220 2)) ∧
 ((yW 220 2).accs = [5]) ∧
 (tfind (rW 220 2).flight 5 = some (aY AccSt.done 2)) ∧
 ((aY AccSt.done 2).st = AccSt.done) ∧
 (State.objOf (sW 220 2 [] [(0, wY)]) (rW 220 2) (aY AccSt.done 2) = some (objMt 1 128)) ∧
 ((yW 220 2).code = 220) ∧
 (BitVec.getLsbD (yW 220 2).ti.imm 4 = false) :=
  ⟨(by exact cmp rfl rfl rfl rfl (Or.inl rfl)), rfl, rfl, rfl, (by decide +kernel), rfl, (by decide)⟩

theorem wit_SyncCompletes_20 :
 (Completes (sYs 1) 1 0 7 rSy ySy) ∧
 (ySy.code = 240) ∧
 (ySy.ph = 5) ∧
 (State.sysTry (State.sysNote (sYs 1) rSy.part) 1 0 7 = ((State.sysTry (State.sysNote (sYs 1) rSy.part) 1 0 7).fst, SysRes.stat kvEperm)) :=
  ⟨(by exact cmp rfl rfl rfl rfl (Or.inl rfl)), rfl, rfl, (stat_ok (by decide +kernel))⟩

theorem wit_SyncCompletes_21 :
 (Completes (sYs 0) 1 0 7 rSy ySy) ∧
 (ySy.code = 240) ∧
 (ySy.ph = 5) ∧
 (State.sysTry (State.sysNote (sYs 0) rSy.part) 1 0 7 =
  ((State.sysTry (State.sysNote (sYs 0) rSy.part) 1 0 7).fst, SysRes.stall (sysTrapOf (State.sysTry (State.sysNote (sYs 0) 1) 1 0 7)))) :=
  ⟨(by exact cmp rfl rfl rfl rfl (Or.inl rfl)), rfl, rfl, (stall_ok (by decide +kernel))⟩

theorem wit_SyncCompletes_22 :
 List.flatten
    (List.map
      (fun (t : Nat × Tile) =>
        List.map (fun (x : Nat × PendOp) => (t.fst, x.fst, x.snd))
          (List.filter (fun (x : Nat × PendOp) => x.snd.ph == 12) (t.snd.act.ct.ops ++ t.snd.ins.ct.ops)))
      (rC (ctY (oY 236 12 0 none))).tiles) =
  [(0, 7, oY 236 12 0 none)] :=
  (by decide +kernel)

end WitSteps

end Sys2Proof.Tests
end

section
/-! Settles O49 (R3, R430, R447, R448, R456, R457, R459, R460): what measuring, the rise of the main side, the boot ROM and a device reset change,
each said once; then the requests of the side-band port and the power states, clause by clause. -/

namespace Sys2Proof.Machine

/-! ## Measurement and the rise (R456, R459) -/

/-- A measurement changes the measurement registers and draws one free value, nothing else. -/
theorem measure_eq (s : State) (k : Nat) :
    ∃ mr, s.measure k = { s with dev := { s.dev with mr := mr }, freeC := s.freeC + 1 } := ⟨_, rfl⟩

/-- With a fault of the latest reset, a rise at most measures (R457). -/
theorem riseUp_of_fault {s : State} (h : s.dev.fwFault = true) :
    ∃ mr n, s.riseUp = { s with dev := { s.dev with mr := mr }, freeC := n } := by
  obtain ⟨mr, hm⟩ := measure_eq s 2
  unfold State.riseUp
  by_cases hb : mgmtBad s.dev = true
  · exact ⟨_, _, by rw [h, hb]; rfl⟩
  · exact ⟨mr, s.freeC + 1, by simp [hm, h, hb]⟩

/-- Without a fault, a rise measures main firmware, latches the device id and is under way (R459). -/
theorem riseUp_of_noFault {s : State} (h : s.dev.fwFault = false) :
    ∃ mr n, s.riseUp = { s with dev := { s.dev with mr := mr, rise := true, devId := s.dev.devIdN }, freeC := n } := by
  obtain ⟨mr, hm⟩ := measure_eq s 2
  exact ⟨mr, s.freeC + 1, by simp [State.riseUp, hm, h]⟩

/-- Whatever the fault, a rise changes no more than MR, RISE, the device id and the free values drawn. -/
theorem riseUp_frame (s : State) :
    ∃ mr up id n, s.riseUp = { s with dev := { s.dev with mr := mr, rise := up, devId := id }, freeC := n } := by
  cases h : s.dev.fwFault with
  | true =>
    obtain ⟨mr, n, e⟩ := riseUp_of_fault h
    exact ⟨mr, _, _, n, e⟩
  | false =>
    obtain ⟨mr, n, e⟩ := riseUp_of_noFault h
    exact ⟨mr, _, _, n, e⟩

theorem riseUp_rise {s : State} (h : s.dev.rise = false) : s.riseUp.dev.rise = !s.dev.fwFault := by
  cases hf : s.dev.fwFault with
  | true => obtain ⟨mr, n, e⟩ := riseUp_of_fault hf; simp [e, h]
  | false => obtain ⟨mr, n, e⟩ := riseUp_of_noFault hf; simp [e]

theorem riseUp_devId {s : State} (h : s.dev.fwFault = false) : s.riseUp.dev.devId = s.dev.devIdN := by
  obtain ⟨mr, n, e⟩ := riseUp_of_noFault h
  simp [e]

/-- The end of a rise: the hypervisor is measured and the device is ON. -/
theorem mainUp_of_rise {s : State} (h : s.dev.rise = true) :
    ∃ mr n, s.mainUp = { s with dev := { s.dev with mr := mr, rise := false, power := .on }, freeC := n } := by
  obtain ⟨mr, hm⟩ := measure_eq s 3
  exact ⟨mr, s.freeC + 1, by simp [State.mainUp, h, hm]⟩

/-- While the main side is off, the end of an fc does no more than go on with a rise. -/
theorem tick_of_notOn {s : State} (h : s.dev.power ≠ .on) : s.tick = { s.mainUp with fc := s.mainUp.fc + 1, ending := false } := by
  simp [State.tick, h]

/-! ## The boot ROM at a device reset (R447, R456, R457) -/

theorem fwPass_nil {d : Device} (h : d.staged = []) : fwPass d = [] := by simp [fwPass, h]

/-- A single staged image passes just when its own check does: no other image stands before it. -/
theorem fwPass_single {d : Device} {f : FwImage} (h : d.staged = [f]) : fwPass d = if fwOk d f then [f] else [] := by
  cases hm : f.main <;> cases hk : fwOk d f <;> simp [fwPass, h, hm, hk]

/-- What the boot ROM leaves in the device, but for the values measured. -/
theorem bootRom_dev (s : State) : ∃ mr, s.bootRom.dev =
    { (fwPass s.dev).foldl fwTake s.dev with
      staged := s.dev.staged.filter (fun f => !(fwPass s.dev).contains f), mr := mr, hcob := s.dev.hcobN.getD s.dev.hcob,
      hep := s.dev.hepN.getD s.dev.hep, fwFault := (fwPass s.dev).length != s.dev.staged.length } := ⟨_, rfl⟩

/-- What the boot ROM sends: to every session word of an activation, and by PLDM the fault of a rejected image. -/
theorem bootRom_out (s : State) : s.bootRom.out =
    s.out ++ (if (fwPass s.dev).isEmpty then [] else s.sess.map (fun x => Out.khr 0x31 x.1 0 0 [0, Config.freeWord s.freeC]))
      ++ (if (fwPass s.dev).length != s.dev.staged.length then [.mgmt [5, 1]] else []) := rfl

/-! ## The device reset (R448) -/

/-- A device reset up to the rise: the boot ROM has run and the main side has lost everything. -/
def State.resetDown (s : State) : State :=
  { s.bootRom.mainOff with dev := { s.bootRom.mainOff.dev with power := .standby, rise := false } }

theorem resetDown_dev (s : State) : s.resetDown.dev = { s.bootRom.dev with power := .standby, rise := false } := rfl

theorem resetDown_out (s : State) : s.resetDown.out = s.bootRom.out := rfl

/-- The main side rises again where it had power. -/
theorem deviceReset_eq (s : State) :
    s.deviceReset = if s.dev.power = .on || s.dev.rise then s.resetDown.riseUp else s.resetDown := rfl

/-- The bring-up that a reset repeats changes no more than MR, RISE, the device id and the free values drawn. -/
theorem deviceReset_frame (s : State) : ∃ mr up id n, s.deviceReset =
    { s.resetDown with dev := { s.resetDown.dev with mr := mr, rise := up, devId := id }, freeC := n } := by
  rw [deviceReset_eq]
  split
  · exact riseUp_frame _
  · exact ⟨_, _, _, _, rfl⟩

theorem deviceReset_power (s : State) : s.deviceReset.dev.power = .standby := by
  obtain ⟨mr, up, id, n, e⟩ := deviceReset_frame s
  rw [e, resetDown_dev]

/-- The settings that waited for the reset are in force after it (R447). -/
theorem deviceReset_hypervisor (s : State) :
    s.deviceReset.dev.hcob = s.dev.hcobN.getD s.dev.hcob ∧ s.deviceReset.dev.hep = s.dev.hepN.getD s.dev.hep := by
  obtain ⟨mr, up, id, n, e⟩ := deviceReset_frame s
  obtain ⟨mr', hb⟩ := bootRom_dev s
  rw [e, resetDown_dev, hb]
  exact ⟨rfl, rfl⟩

/-- What was in progress ends unperformed (R448). -/
theorem deviceReset_mainSide (s : State) :
    let t := s.deviceReset
    t.regions = [] ∧ t.parts = [] ∧ t.harts = [] ∧ t.wft = [] ∧ t.sess = [] ∧ t.links = [] ∧ t.ckpt = {} ∧ t.rst = none ∧ t.mgrQ = [] := by
  obtain ⟨mr, up, id, n, e⟩ := deviceReset_frame s
  rw [e]
  exact ⟨rfl, rfl, rfl, rfl, rfl, rfl, rfl, rfl, rfl⟩

theorem deviceReset_out (s : State) : s.deviceReset.out = s.bootRom.out := by
  obtain ⟨mr, up, id, n, e⟩ := deviceReset_frame s
  rw [e, ← resetDown_out]

/-- What a reset leaves of the firmware: what the boot ROM left. -/
theorem deviceReset_firmware (s : State) :
    let t := s.deviceReset
    t.dev.staged = s.bootRom.dev.staged ∧ t.dev.fwFault = s.bootRom.dev.fwFault ∧
      t.dev.floorF = s.bootRom.dev.floorF ∧ t.dev.floorM = s.bootRom.dev.floorM := by
  obtain ⟨mr, up, id, n, e⟩ := deviceReset_frame s
  rw [e, resetDown_dev]
  exact ⟨rfl, rfl, rfl, rfl⟩

/-- A reset starts a rise just where the main side had power and no image was rejected. -/
theorem deviceReset_rise (s : State) :
    s.deviceReset.dev.rise = ((s.dev.power = .on || s.dev.rise) && !s.bootRom.dev.fwFault) := by
  rw [deviceReset_eq]
  split
  next h => rw [riseUp_rise (by rw [resetDown_dev]), h, resetDown_dev, Bool.true_and]
  next h => rw [eq_false_of_ne_true h, resetDown_dev, Bool.false_and]

/-- The device id that a reset latches. -/
theorem deviceReset_devId {s : State} (h : s.deviceReset.dev.rise = true) : s.deviceReset.dev.devId = s.bootRom.dev.devIdN := by
  rw [deviceReset_rise, Bool.and_eq_true, Bool.not_eq_true'] at h
  obtain ⟨hup, hf⟩ := h
  have hf' : s.resetDown.dev.fwFault = false := by rw [resetDown_dev]; exact hf
  rw [deviceReset_eq, if_pos hup, riseUp_devId hf', resetDown_dev]

/-- A reset with nothing staged: no fault, and the rise where there was power. -/
theorem deviceReset_noImage {s : State} (h : s.dev.staged = []) :
    let t := s.deviceReset
    t.dev.fwFault = false ∧ (t.dev.rise = true ↔ s.dev.power = .on ∨ s.dev.rise = true) ∧ (t.dev.rise = true → t.dev.devId = s.dev.devIdN) := by
  obtain ⟨mr, hb⟩ := bootRom_dev s
  obtain ⟨-, hfault, -, -⟩ := deviceReset_firmware s
  have hok : s.bootRom.dev.fwFault = false := by simp [hb, fwPass_nil h, h]
  refine ⟨hfault.trans hok, ?_, fun hr => (deviceReset_devId hr).trans ?_⟩
  · simp [deviceReset_rise, hok]
  · simp [hb, fwPass_nil h]

/-- An image that passes is activated: its floor rises and the open sessions hear of it (R448, R457). -/
theorem deviceReset_imagePasses {s : State} {f : FwImage} (h : s.dev.staged = [f]) (hk : fwOk s.dev f = true) :
    let t := s.deviceReset
    t.dev.staged = [] ∧ t.dev.fwFault = false ∧ (if f.main then t.dev.floorF = f.svn else t.dev.floorM = f.svn) ∧
      (∀ x ∈ s.sess, ∃ w : Word, Out.khr 0x31 x.1 0 0 [0, w] ∈ t.out) := by
  obtain ⟨mr, hb⟩ := bootRom_dev s
  obtain ⟨hst, hfault, hF, hM⟩ := deviceReset_firmware s
  have hp : fwPass s.dev = [f] := by simp [fwPass_single h, hk]
  refine ⟨?_, ?_, ?_, fun x hx => ⟨Config.freeWord s.freeC, ?_⟩⟩
  · simp [hst, hb, hp, h]
  · simp [hfault, hb, hp, h]
  · rw [hF, hM, hb, hp]
    cases hm : f.main <;> simp [fwTake, hm]
  · have hx' : Out.khr 0x31 x.1 0 0 [0, Config.freeWord s.freeC] ∈
        s.sess.map (fun x => Out.khr 0x31 x.1 0 0 [0, Config.freeWord s.freeC]) := List.mem_map_of_mem hx
    rw [deviceReset_out, bootRom_out, hp]
    exact List.mem_append_left _ (List.mem_append_right _ hx')

/-- An image that is rejected stays staged, leaves the floors, keeps the main side off, and is reported (R457). -/
theorem deviceReset_imageRejected {s : State} {f : FwImage} (h : s.dev.staged = [f]) (hk : fwOk s.dev f = false) :
    let t := s.deviceReset
    t.dev.staged = [f] ∧ t.dev.fwFault = true ∧ t.dev.rise = false ∧ t.dev.floorF = s.dev.floorF ∧ t.dev.floorM = s.dev.floorM ∧
      Out.mgmt [5, 1] ∈ t.out := by
  obtain ⟨mr, hb⟩ := bootRom_dev s
  obtain ⟨hst, hfault, hF, hM⟩ := deviceReset_firmware s
  have hp : fwPass s.dev = [] := by simp [fwPass_single h, hk]
  have hbad : s.bootRom.dev.fwFault = true := by simp [hb, hp, h]
  refine ⟨?_, hfault.trans hbad, ?_, ?_, ?_, ?_⟩
  · simp [hst, hb, hp, h]
  · simp [deviceReset_rise, hbad]
  · simp [hF, hb, hp]
  · simp [hM, hb, hp]
  · simp [deviceReset_out, bootRom_out, hp, h]

/-! ## Requests on the side-band port (R430, R447, R448, R460) -/

/-- A management controller with power answers. -/
theorem mgmt_of_power {s : State} (h : s.dev.power ≠ .off) (b : List Word) : s.mgmt b = { s with out := s.out ++ [.mgmt b] } := if_neg h

/-- A cap within 1,200 to 3,300 W is taken. -/
theorem pldmPowerCap_taken {s : State} (h : s.dev.power ≠ .off) {w : Nat} (lo : 1200 ≤ w) (hi : w ≤ 3300) :
    exec (.pldmPowerCap w) s = .next { s with dev := { s.dev with cap := w }, out := s.out ++ [.mgmt [0]] } := by
  show execPldmPowerCap w s = _
  rw [execPldmPowerCap, if_neg h, if_pos ⟨lo, hi⟩]
  exact congrArg Host.Outcome.next (mgmt_of_power (by exact h) _)

/-- A cap outside these bounds is answered and leaves the device as it is. -/
theorem pldmPowerCap_refused {s : State} (h : s.dev.power ≠ .off) {w : Nat} (out : w < 1200 ∨ 3300 < w) :
    exec (.pldmPowerCap w) s =
      .next { s with freeC := s.freeC + 1, out := s.out ++ [.mgmt [Config.freeWord s.freeC]] } := by
  have hb : ¬(1200 ≤ w ∧ w ≤ 3300) := by omega
  show execPldmPowerCap w s = _
  rw [execPldmPowerCap, if_neg h, if_neg hb]
  exact congrArg Host.Outcome.next (mgmt_of_power (by exact h) _)

/-- A sensor, a FRU field and a base command are answered with the number asked for and a free word (log 27). -/
theorem pldmReads_answer {s : State} (h : s.dev.power ≠ .off) (n : Nat) :
    let t : State := { s with freeC := s.freeC + 1, out := s.out ++ [.mgmt [BitVec.ofNat 64 n, Config.freeWord s.freeC]] }
    exec (.pldmSensorRead n) s = .next t ∧ exec (.pldmFruRead n) s = .next t ∧ exec (.pldmBase n) s = .next t := by
  intro t
  have he : (.next (s.freeW.1.mgmt [BitVec.ofNat 64 n, s.freeW.2]) : Res) = .next t :=
    congrArg Host.Outcome.next (mgmt_of_power (by exact h) _)
  exact ⟨he, he, he⟩

/-- The operand of a VF reset carries SCRUB in bit 0 and nothing else. -/
theorem rstOk_scrub {s : State} {part : Nat} (hp : part < 64) (hv : partValid (s.part part) = true) (scrub : Bool) :
    s.rstOk part (if scrub then 1 else 0) = true := by
  have hf : fld (if scrub then (1 : Word) else 0) 63 1 = 0 := by cases scrub <;> decide
  simp only [State.rstOk, hp, hv, hf, decide_true, Bool.and_true, beq_self_eq_true]

/-- The reset of a valid partition is ordered at once when the manager is free. -/
theorem mgmtVfReset_ordered {s : State} (hon : s.dev.power = .on) (hr : s.rst = none) {part : Nat} (scrub : Bool) (hp : part < 64)
    (hv : partValid (s.part part) = true) (hc : s.ckptOn = false) (hq : s.mgrQ = []) :
    exec (.mgmtVfReset part scrub) s = .next { s with rst := some { pid := part, scrub := scrub, who := [.port] } } := by
  have hb : bitOf (if scrub then (1 : Word) else 0) 0 = scrub := by cases scrub <;> rfl
  have hm : s.manage .port 3 part (if scrub then 1 else 0) [] =
      ({ s with rst := some { pid := part, scrub := scrub, who := [.port] } }, none) := by
    simp only [State.manage, hr, hc, hq, List.isEmpty_nil, Bool.not_true, Bool.or_self, Bool.false_eq_true, if_false,
      State.manageNow, rstOk_scrub hp hv, if_true, hb]
  show execMgmtVfReset part scrub s = _
  simp only [execMgmtVfReset, hon, ne_eq, not_true_eq_false, if_false, hm]

/-- While a checkpoint is on, it waits in the manager's queue (R452). -/
theorem mgmtVfReset_queued {s : State} (hon : s.dev.power = .on) (hr : s.rst = none) (part : Nat) (scrub : Bool) (hc : s.ckptOn = true) :
    exec (.mgmtVfReset part scrub) s =
      .next { s with mgrQ := s.mgrQ ++ [{ src := .port, fid := 3, pid := part, a2 := if scrub then 1 else 0, desc := [] }] } := by
  have hm : s.manage .port 3 part (if scrub then 1 else 0) [] =
      ({ s with mgrQ := s.mgrQ ++ [{ src := .port, fid := 3, pid := part, a2 := if scrub then 1 else 0, desc := [] }] }, none) := by
    simp only [State.manage, hr, hc, Bool.true_or, if_true]
  show execMgmtVfReset part scrub s = _
  simp only [execMgmtVfReset, hon, ne_eq, not_true_eq_false, if_false, hm]

/-- The settings given for the hypervisor wait for the next reset (R447). -/
theorem mgmtSetHypervisor_waits {s : State} (h : s.dev.power ≠ .off) (ep : BitVec 128) (cobs : BitVec 192) :
    exec (.mgmtSetHypervisor ep cobs) s =
      .next { s with dev := { s.dev with hepN := some ep, hcobN := some cobs }, out := s.out ++ [.mgmt [0]] } := by
  show execMgmtSetHypervisor ep cobs s = _
  rw [execMgmtSetHypervisor, if_neg h]
  exact congrArg Host.Outcome.next (mgmt_of_power (by exact h) _)

theorem mgmtReadDescriptor_answers {s : State} (h : s.dev.power ≠ .off) {part : Nat} (hp : part < 64) :
    exec (.mgmtReadDescriptor part) s = .next { s with out := s.out ++ [.mgmt (descOf (s.part part))] } := by
  show execMgmtReadDescriptor part s = _
  rw [execMgmtReadDescriptor, if_pos hp, mgmt_of_power h]

/-- A new image takes the place of a staged one of its stage; the answer carries the fault of the latest reset (R457). -/
theorem pldmFirmwareUpdate_stages {s : State} (h : s.dev.power ≠ .off) (fw : FwImage) :
    exec (.pldmFirmwareUpdate fw) s =
      .next { s with dev := { s.dev with staged := s.dev.staged.filter (fun f => f.main != fw.main) ++ [fw] },
                     out := s.out ++ [.mgmt [0, if s.dev.fwFault then 1 else 0]] } := by
  have hn : (nb s.dev.fwFault : Word) = if s.dev.fwFault then 1 else 0 := by cases s.dev.fwFault <;> rfl
  show execPldmFirmwareUpdate fw s = _
  rw [execPldmFirmwareUpdate, if_neg h, hn]
  exact congrArg Host.Outcome.next (mgmt_of_power (by exact h) _)

/-- A device reset by request may name another device id, and is answered when it is over (R454, R459). -/
theorem mgmtDeviceReset_resets {s : State} (h : s.dev.power ≠ .off) (d : Option (BitVec 19)) :
    let t := ({ s with dev := { s.dev with devIdN := d.getD s.dev.devIdN } } : State).deviceReset
    exec (.mgmtDeviceReset d) s = .next ({ t with out := t.out ++ [.mgmt [0]] } : State).wake := by
  intro t
  have hoff : t.dev.power ≠ .off := by simp [t, deviceReset_power]
  show execMgmtDeviceReset d s = _
  rw [execMgmtDeviceReset, if_neg h]
  exact congrArg after (mgmt_of_power hoff _)

theorem resetN_resets {s : State} (h : s.dev.power ≠ .off) : exec .resetN s = .next s.deviceReset.wake := by
  show execResetN s = _
  rw [execResetN, if_neg h]
  rfl

/-! ## Power states and the clock (R3, R459, R460) -/

theorem clockThrottle_on {s : State} (h : s.dev.power = .on) (watts : Nat) : exec (.clockThrottle watts) s =
    .next { s with dev := { s.dev with mhz := if s.dev.cap < watts then Nat.max 600 (s.dev.mhz - 50) else Nat.min 1050 (s.dev.mhz + 50) } } := by
  show execClockThrottle watts s = _
  rw [execClockThrottle, if_neg (not_not_intro h)]

theorem power48vOn_off {s : State} (h : s.dev.power = .off) : exec .power48vOn s =
    .next ((({ s with dev := { s.dev with v48 := true, power := .standby, mr := [] } } : State).measure 0).measure 1) := by
  show execPower48vOn s = _
  rw [execPower48vOn, if_pos h]

/-- The enable of a main side that waits starts its rise; by PLDM it is answered too. -/
theorem powerEnable_standby {s : State} (h : s.dev.power = .standby) (hr : s.dev.rise = false) :
    exec (.powerEnable true) s = .next s.riseUp ∧
    exec (.powerEnable false) s = .next { s.riseUp with out := s.riseUp.out ++ [.mgmt [0]] } := by
  constructor
  · show execPowerEnable true s = _
    rw [execPowerEnable, if_pos ⟨h, hr⟩]
    simp
  · show execPowerEnable false s = _
    rw [execPowerEnable, if_pos ⟨h, hr⟩]
    rfl

/-- A rise is over at the end of the fc: the device is ON, its links as they were. -/
theorem tick_of_rise {s : State} (hr : s.dev.rise = true) (h : s.dev.power ≠ .on) :
    s.tick.dev.power = .on ∧ s.tick.dev.rise = false ∧ s.tick.links = s.links := by
  obtain ⟨mr, n, e⟩ := mainUp_of_rise hr
  rw [tick_of_notOn h, e]
  exact ⟨rfl, rfl, rfl⟩

/-- STANDBY loses what the main side held. -/
theorem powerStandby_up {s : State} (h : s.dev.power = .on ∨ s.dev.rise = true) :
    ∃ t : State, exec (.powerStandby true) s = .next t ∧ t.dev.power = .standby ∧ t.regions = [] ∧ t.parts = [] ∧ t.harts = [] ∧ t.wft = [] := by
  refine ⟨{ s.mainOff with dev := { s.dev with power := .standby, rise := false }, out := s.mainOff.out ++ [] }, ?_, rfl, rfl, rfl, rfl, rfl⟩
  show execPowerStandby true s = _
  rw [execPowerStandby, if_pos h]
  rfl

/-- Settles O49: the requests of the management controller, the device reset, the VF reset, the clock and the power states, each by its lemma. -/
theorem managementPower : Obligations.ManagementPower := by
  intro s tell
  refine ⟨?_, ?_, ?_, clockThrottle_on, power48vOn_off, ?_, tick_of_rise, powerStandby_up, _, rfl, rfl, rfl, rfl, rfl, rfl⟩
  · intro h
    exact ⟨fun part hp => mgmtReadDescriptor_answers h hp, mgmtSetHypervisor_waits h, fun n => ⟨_, pldmReads_answer h n⟩,
      fun w => pldmPowerCap_taken h, fun w out => ⟨_, pldmPowerCap_refused h out, rfl⟩, pldmFirmwareUpdate_stages h,
      mgmtDeviceReset_resets h, resetN_resets h⟩
  · obtain ⟨hcob, hep⟩ := deviceReset_hypervisor s
    obtain ⟨hreg, hpart, hhart, hwft, hsess, hlink, hck, hrst, hq⟩ := deviceReset_mainSide s
    exact ⟨deviceReset_power s, hcob, hep, hreg, hpart, hhart, hwft, hsess, hlink, hck, hrst, hq, deviceReset_noImage,
      fun f hf => ⟨deviceReset_imagePasses hf, deviceReset_imageRejected hf⟩⟩
  · exact fun hon hr part scrub hp hv =>
      ⟨mgmtVfReset_ordered hon hr scrub hp hv, mgmtVfReset_queued hon hr part scrub⟩
  · intro h hr
    obtain ⟨hpin, hpldm⟩ := powerEnable_standby h hr
    exact ⟨hpin, hpldm, fun hf => ⟨by rw [riseUp_rise hr, hf]; rfl, riseUp_devId hf⟩, fun hf => by rw [riseUp_rise hr, hf]; rfl⟩

end Sys2Proof.Machine
end

section
/-! Settles O11 (R73-R75, R79): what the checks of a global address answer, one lemma for each check in its order. -/

namespace Sys2Proof.Machine

/-! ## The checks of a capability (R79) -/

/-- The record fields that every failing check of a capability gives (R400). -/
def capTrap (r : Region) (x off n code : Nat) : TrapInfo :=
  { code := code, va := capBase (capEntry r x) + off, aux := n, capx := some x }

section
variable {r : Region} {sl x off n : Nat} {rights : List Nat}

theorem capCheck_of_badSeal (h : capSeal (capEntry r x) = 0 ∨ capSeal (capEntry r x) ≠ sl) :
    capCheck r sl x off n rights = .error (capTrap r x off n 0x12) := if_pos h

theorem capCheck_of_noRight (h0 : capSeal (capEntry r x) ≠ 0) (hs : capSeal (capEntry r x) = sl)
    (h : (capRemote (capEntry r x) = false ∧ capPart (capEntry r x) ≠ r.part) ∨ ∃ b, b ∈ rights ∧ capRight (capEntry r x) b = false) :
    capCheck r sl x off n rights = .error (capTrap r x off n 0x11) := by
  unfold capCheck
  rw [if_neg (not_or.2 ⟨h0, not_not_intro hs⟩)]
  by_cases hp : (!capRemote (capEntry r x)) = true ∧ capPart (capEntry r x) ≠ r.part
  · rw [if_pos hp]; rfl
  · rw [if_neg hp]
    obtain ⟨hrem, hpart⟩ | ⟨b, hb, hright⟩ := h
    · exact absurd ⟨by simp [hrem], hpart⟩ hp
    · have hall : (!rights.all (capRight (capEntry r x))) = true := by simpa using ⟨b, hb, hright⟩
      rw [if_pos hall]; rfl

/-- With a current seal, a part that may use it and all rights, only the bounds are left to judge. -/
theorem capCheck_of_rights (h0 : capSeal (capEntry r x) ≠ 0) (hs : capSeal (capEntry r x) = sl)
    (hp : capRemote (capEntry r x) = true ∨ capPart (capEntry r x) = r.part) (hr : ∀ b, b ∈ rights → capRight (capEntry r x) b = true) :
    capCheck r sl x off n rights =
      if capLen (capEntry r x) < off + n then .error (capTrap r x off n 0x10)
      else .ok (.glob x (capBase (capEntry r x) + off) (capRemote (capEntry r x))) := by
  have hpart : ¬ ((!capRemote (capEntry r x)) = true ∧ capPart (capEntry r x) ≠ r.part) := by
    rintro ⟨hrem, hne⟩
    obtain h | h := hp
    · simp [h] at hrem
    · exact hne h
  have hall : ¬ (!rights.all (capRight (capEntry r x))) = true := by simpa using hr
  unfold capCheck
  rw [if_neg (not_or.2 ⟨h0, not_not_intro hs⟩), if_neg hpart, if_neg hall]
  rfl

end

/-! ## A global address (R73, R75) -/

/-- A global address is checked for its alignment, then by its capability. -/
theorem locate_global {r : Region} {ea : Word} (hg : fld ea 63 62 = 1) (key sl n : Nat) (rights : List Nat) (frame wr : Bool) :
    locate r key sl ea n rights frame wr =
      if ea.toNat % n ≠ 0 then .error { code := 0x15, va := ea.toNat, aux := n }
      else capCheck r sl (fld ea 61 54) (fld ea 53 0) n rights := by
  unfold locate
  rw [hg]
  rfl

/-- Settles O11: the alignment stands before the capability, whose checks answer in the order of R79. -/
theorem capabilityChecks : Obligations.CapabilityChecks := by
  intro r key sl ea n rights frame wr hg x e va no
  have hloc := locate_global (r := r) hg key sl n rights frame wr
  have haligned (h : ea.toNat % n = 0) : locate r key sl ea n rights frame wr = capCheck r sl x (fld ea 53 0) n rights := by
    rw [hloc, if_neg (not_not_intro h)]
  refine ⟨fun h => by rw [hloc, if_pos h], fun ha hs => ?_, fun ha h0 hs h => ?_, fun ha h0 hs hp hr => ?_⟩
  · rw [haligned ha]; exact capCheck_of_badSeal hs
  · rw [haligned ha]; exact capCheck_of_noRight h0 hs h
  · have hbounds := capCheck_of_rights (off := fld ea 53 0) (n := n) h0 hs hp hr
    exact ⟨fun h => by rw [haligned ha, hbounds, if_pos h]; rfl,
      fun h => by rw [haligned ha, hbounds, if_neg (Nat.not_lt.2 h)]⟩

end Sys2Proof.Machine
end

section
/-! Settles O10 (R75, R217, R220-R227, R233-R238): the addresses and the requests of the memory instructions are the spec's; then what the memory frame
does, once for all of them. -/

namespace Sys2Proof.Machine

/-! ## Addresses (R108, R217, R222) -/

theorem eaOff_eq_eaPlus (t : Ti) (o : Opnds) : eaOff t o = eaPlus t o := by
  have himm : (t.imm.signExtend 64 : Word) = BitVec.ofInt 64 t.imm.toInt := rfl
  rw [eaOff, eaPlus, offOf, himm, BitVec.ofInt_add, BitVec.ofInt_toInt, BitVec.ofInt_mul, BitVec.mul_comm]
  rfl

theorem eaScaled_eq_eaIndex (t : Ti) (o : Opnds) : o.a.bits + o.b.bits * BitVec.ofNat 64 (2 ^ (t.imm.toNat % 4)) = eaIndex t o := by
  rw [eaIndex, BitVec.ofNat_add, BitVec.ofNat_mul, BitVec.ofNat_toNat, BitVec.ofNat_toNat, BitVec.setWidth_eq, BitVec.setWidth_eq]

/-! ## Every memory instruction goes through the memory frame (R217) -/

/-- The meaning of each memory instruction is the memory frame with its opcode, its use of b and its request. -/
theorem exec_of_memOf {i : Instr} {op : Nat} {t : Ti} {cb : Bool} {f : Opnds → MemReq} (h : memOf i = some (op, t, cb, f)) (s : State) :
    exec i s = mem s op t cb f := by
  unfold memOf at h
  split at h <;> cases h
  all_goals
    refine congrArg (mem s _ _ _) (funext fun o => ?_)
    simp only [reqOf, eaOff_eq_eaPlus, szOf, eaScaled_eq_eaIndex] <;> rfl

section
variable {s : State} {op : Nat} {t : Ti} {r : Region} {cb : Bool} {f : Opnds → MemReq}

/-- The seal that the memory frame judges by is that of the partition of the region that fires. -/
theorem sealNow_of_fires (h : Fires s op t r) : s.sealNow = sealOf s r.part := by
  rw [State.sealNow, State.cur, region_of_tfind h.1]

theorem mem_poisoned (h : Fires s op t r) (hp : ((s.opnds op t r).a.pois || (cb && (s.opnds op t r).b.pois)) = true) :
    mem s op t cb f = .next (s.trapped r { code := 0x21, va := (f (s.opnds op t r)).ea.toNat }) :=
  pe_fire_err h (if_pos hp)

/-- With a usable address, and a usable b where b is consumed, the checks of the address decide. -/
theorem mem_clean (h : Fires s op t r) (hp : ((s.opnds op t r).a.pois || (cb && (s.opnds op t r).b.pois)) = false) :
    let q := f (s.opnds op t r)
    (∀ p : Place, locate r s.curKey (sealOf s r.part) q.ea q.n q.rights q.frame q.wr = .ok p → mem s op t cb f = .next (s.issued op t r q p)) ∧
    (∀ e : TrapInfo, locate r s.curKey (sealOf s r.part) q.ea q.n q.rights q.frame q.wr = .error e → mem s op t cb f = .next (s.trapped r e)) := by
  intro q
  rw [← sealNow_of_fires h]
  have hclean := Bool.eq_false_iff.1 hp
  refine ⟨fun p hq => pe_fire_ok h ((if_neg hclean).trans ?_), fun e hq => pe_fire_err h ((if_neg hclean).trans ?_)⟩
  · split
    next e he => cases hq.symm.trans he
    next p' he => cases hq.symm.trans he; rfl
  · split
    next e' he => cases hq.symm.trans he; rfl
    next p he => cases hq.symm.trans he

end

/-- Settles O10: every memory instruction is the memory frame with its own request. -/
theorem memoryIssues : Obligations.MemoryIssues := by
  refine ⟨fun i op t cb f hi s r h ha hb => ?_, fun i op t cb f hi s r h hp => ?_⟩
  · rw [exec_of_memOf hi]
    refine mem_clean h ?_
    cases cb with
    | false => simp [ha]
    | true => simp [ha, hb rfl]
  · rw [exec_of_memOf hi]
    exact mem_poisoned h hp

end Sys2Proof.Machine
end

section
/-! Settles O15 (R98, R228-R230, R242, R245, R266, R269, R433): the scope under its partition's policy and the state of a handle first, then each
instruction's firing, case by case. -/

namespace Sys2Proof.Machine

/-! ## Scopes under a policy (R98, R433) -/

section
variable {fpol sc : Nat}

theorem scopeCheck_kept (h : sc < 3 ∨ fpol = 0) : scopeCheck fpol sc = .ok false := if_pos h

theorem scopeCheck_demoted (hs : 3 ≤ sc) (hp : fpol = 1) : scopeCheck fpol sc = .ok true := by
  unfold scopeCheck
  rw [if_neg (by omega), if_pos hp]

theorem scopeCheck_strict (hs : 3 ≤ sc) (hp : 2 ≤ fpol) : scopeCheck fpol sc = .error { code := 0x48, aux := sc } := by
  unfold scopeCheck
  rw [if_neg (by omega), if_neg (by omega)]

/-- Short of the strict policy every scope is taken. -/
theorem scopeCheck_taken (h : sc < 3 ∨ fpol ≤ 1) : ∃ dem, scopeCheck fpol sc = .ok dem := by
  by_cases hk : sc < 3 ∨ fpol = 0
  · exact ⟨_, scopeCheck_kept hk⟩
  · exact ⟨_, scopeCheck_demoted (by omega) (by omega)⟩

end

theorem fpolNow_of_fires {s : State} {op : Nat} {t : Ti} {r : Region} (h : Fires s op t r) : s.fpolNow = partFpol (s.part r.part) := by
  rw [State.fpolNow, State.cur, region_of_tfind h.1]

/-! ## HREL, HFIN and FENCE (R228-R230) -/

theorem hndMay_iff (op : Nat) (st : BitVec 2) :
    hndMay op st = true ↔ (if op = 0xD7 then st = hFilling else st = hFull ∨ st = hDraining) := by
  unfold hndMay
  split <;> simp

section
variable {s : State} {op fpol : Nat} {t : Ti} {r : Region} {dem : Bool}

theorem pe_fireHnd_starts (h : Fires s op t r) (hs : scopeCheck fpol (t.imm.toNat / 32) = .ok dem)
    (hm : hndMay op (hselState r s.curKey (t.imm.toNat % 32)) = true) :
    pe s (fun x r => fireHnd x op t fpol r) = .next (s.fired [] (startOp s.here op t { ph := 5, cond := true } (sdemSet dem r))) := by
  refine pe_fire_ok h ?_
  rw [hs]
  exact if_neg (by simpa [State.here] using hm)

theorem pe_fireHnd_scope {e : TrapInfo} (h : Fires s op t r) (hs : scopeCheck fpol (t.imm.toNat / 32) = .error e) :
    pe s (fun x r => fireHnd x op t fpol r) = .next (s.trapped r e) :=
  pe_fire_err h (by rw [hs])

theorem pe_fireHnd_state (h : Fires s op t r) (hs : scopeCheck fpol (t.imm.toNat / 32) = .ok dem)
    (hm : ¬ hndMay op (hselState r s.curKey (t.imm.toNat % 32)) = true) :
    pe s (fun x r => fireHnd x op t fpol r) =
      .next (s.trapped r (handleTrap (hselState r s.curKey (t.imm.toNat % 32)) (t.imm.toNat % 32))) := by
  refine pe_fire_err h ?_
  rw [hs]
  exact if_pos (by simpa [State.here] using hm)

theorem execFence_starts (h : Fires s 0xD9 t r) (hs : scopeCheck (partFpol (s.part r.part)) (t.imm.toNat / 4 % 8) = .ok dem) :
    exec (.fence t) s = .next (s.fired [] (startOp s.here 0xD9 t { ph := 5, cond := true } (sdemSet dem r))) := by
  rw [← fpolNow_of_fires h] at hs
  show execFence t s = _
  refine pe_fire_ok h ?_
  rw [hs]

theorem execFence_scope {e : TrapInfo} (h : Fires s 0xD9 t r) (hs : scopeCheck (partFpol (s.part r.part)) (t.imm.toNat / 4 % 8) = .error e) :
    exec (.fence t) s = .next (s.trapped r e) := by
  rw [← fpolNow_of_fires h] at hs
  show execFence t s = _
  refine pe_fire_err h ?_
  rw [hs]

/-- HREL and HFIN are one firing, each with its own opcode. -/
theorem exec_handle {i : Instr} (hi : (i = .hrel t ∧ op = 0xD5) ∨ (i = .hfin t ∧ op = 0xD7)) (h : Fires s op t r) :
    exec i s = pe s (fun x q => fireHnd x op t (partFpol (s.part r.part)) q) := by
  rw [← fpolNow_of_fires h]
  obtain ⟨rfl, rfl⟩ | ⟨rfl, rfl⟩ := hi <;> rfl

end

/-! ## SYSC (R242) -/

section
variable {s : State} {t : Ti} {r : Region}

/-- Operands that are clean do not raise POISON_USE. -/
theorem not_pois_of_clean {op : Nat} (hc : CleanAB s op t r) : ¬ ((s.opnds op t r).a.pois || (s.opnds op t r).b.pois) = true := by
  obtain ⟨ha, hb⟩ := hc
  simp [ha, hb]

/-- The record of a call: its operands, and the block still to be read. -/
def syscOp (s : State) (t : Ti) (r : Region) : PendOp :=
  { a := (s.opnds 0xF0 t r).a, b := (s.opnds 0xF0 t r).b, ph := 5, col := colourOf r s.curKey 0xF0 t }

/-- The record of a call whose block cannot be reached: it holds its answer, KV_EREACH. -/
def syscUnreached (s : State) (t : Ti) (r : Region) : PendOp :=
  { syscOp s t r with ph := 6, res := { bits := BitVec.ofInt 64 (-17) }, cond := true }

section
variable (h : Fires s 0xF0 t r) (hc : CleanAB s 0xF0 t r)
include h hc

theorem execSysc_badSpace (h3 : fld (s.opnds 0xF0 t r).a.bits 63 62 = 3) :
    exec (.sysc t) s = .next (s.trapped r { code := 0x14, va := (s.opnds 0xF0 t r).a.bits.toNat, aux := 64 }) := by
  show execSysc t s = _
  exact pe_fire_err h ((if_neg (not_pois_of_clean hc)).trans (if_pos h3))

theorem execSysc_local (hl : fld (s.opnds 0xF0 t r).a.bits 63 62 = 0 ∨ fld (s.opnds 0xF0 t r).a.bits 63 62 = 2) :
    exec (.sysc t) s = .next (s.started 0xF0 t r (syscUnreached s t r)) := by
  have h3 : ¬ fld (s.opnds 0xF0 t r).a.bits 63 62 = 3 := by omega
  show execSysc t s = _
  exact pe_fire_ok h ((if_neg (not_pois_of_clean hc)).trans ((if_neg h3).trans (if_pos hl)))

section
variable (hg : fld (s.opnds 0xF0 t r).a.bits 63 62 = 1)
include hg

theorem execSysc_misaligned (ha : (s.opnds 0xF0 t r).a.bits.toNat % 64 ≠ 0) :
    exec (.sysc t) s = .next (s.trapped r { code := 0x15, va := (s.opnds 0xF0 t r).a.bits.toNat, aux := 64 }) := by
  have h3 : ¬ fld (s.opnds 0xF0 t r).a.bits 63 62 = 3 := by omega
  have hl : ¬ (fld (s.opnds 0xF0 t r).a.bits 63 62 = 0 ∨ fld (s.opnds 0xF0 t r).a.bits 63 62 = 2) := by omega
  show execSysc t s = _
  exact pe_fire_err h ((if_neg (not_pois_of_clean hc)).trans ((if_neg h3).trans ((if_neg hl).trans (if_pos ha))))

/-- An aligned block behind a global address: one of another device is not reached, one of this device is checked. -/
theorem execSysc_aligned (ha : (s.opnds 0xF0 t r).a.bits.toNat % 64 = 0) :
    let x := fld (s.opnds 0xF0 t r).a.bits 61 54
    (capRemote (capEntry r x) = true → exec (.sysc t) s = .next (s.started 0xF0 t r (syscUnreached s t r))) ∧
    (∀ q : Place, capRemote (capEntry r x) = false → capCheck r (sealOf s r.part) x (fld (s.opnds 0xF0 t r).a.bits 53 0) 64 [bR] = .ok q →
      exec (.sysc t) s = .next (s.started 0xF0 t r (syscOp s t r))) := by
  have h3 : ¬ fld (s.opnds 0xF0 t r).a.bits 63 62 = 3 := by omega
  have hl : ¬ (fld (s.opnds 0xF0 t r).a.bits 63 62 = 0 ∨ fld (s.opnds 0xF0 t r).a.bits 63 62 = 2) := by omega
  intro x
  show (_ → execSysc t s = _) ∧ (∀ q : Place, _ → _ → execSysc t s = _)
  refine ⟨fun hr => pe_fire_ok h ?_, fun q hr hq => pe_fire_ok h ?_⟩
  · exact (if_neg (not_pois_of_clean hc)).trans ((if_neg h3).trans ((if_neg hl).trans ((if_neg (not_not_intro ha)).trans (if_pos hr))))
  · rw [← sealNow_of_fires h] at hq
    refine (if_neg (not_pois_of_clean hc)).trans ((if_neg h3).trans ((if_neg hl).trans ((if_neg (not_not_intro ha)).trans
      ((if_neg (Bool.eq_false_iff.1 hr)).trans ?_))))
    split
    next e he => cases hq.symm.trans he
    next p he => rfl

end
end
end

/-! ## HCLM and CFGSW (R228, R245) -/

section
variable {s : State} {t : Ti} {r : Region}

theorem execHclm_claims (h : Fires s 0xD6 t r) :
    exec (.hclm t) s = .next (s.fired [] ((claimAll r (hreqsOf r s.curKey 0xD6 t)).updCt s.curKey (fun c => predUpd c t true))) := by
  show execHclm t s = _
  exact pe_fire_ok h rfl

theorem execCfgsw_emits (h : Fires s 0xF3 t r) :
    exec (.cfgsw t) s = .next (s.fired [] ((r.emit s.fc s.curKey (outsOf 0xF3 t)
      { pay := 0xF1, mark := mkC, col := colourOf r s.curKey 0xF3 t }).updCt s.curKey (fun c => predUpd c t false))) := by
  show execCfgsw t s = _
  exact pe_fire_ok h rfl

/-! ## SCOPY and SCSTAT (R266, R267, R269) -/

/-- The completion word of a copy, where the instruction names one, must be one that the program may update. -/
def scopyWord (s : State) (t : Ti) (r : Region) : Except TrapInfo Place :=
  locate r s.curKey (sealOf s r.part) (s.opnds 0xE9 t r).b.bits 8 [bR, bW, bA] false true

section
variable (h : Fires s 0xE9 t r) (hp : ¬ ((s.opnds 0xE9 t r).a.pois || (t.sb != 15 && (s.opnds 0xE9 t r).b.pois)) = true)
include h hp

theorem execScopy_badSpace (hs : fld (s.opnds 0xE9 t r).a.bits 63 62 ≠ 0 ∨ fld (s.opnds 0xE9 t r).a.bits 61 32 ≠ 0) :
    exec (.scopy t) s = .next (s.trapped r { code := 0x14, va := (s.opnds 0xE9 t r).a.bits.toNat, aux := 64 }) := by
  show execScopy t s = _
  exact pe_fire_err h ((if_neg hp).trans (if_pos hs))

section
variable (hs : ¬ (fld (s.opnds 0xE9 t r).a.bits 63 62 ≠ 0 ∨ fld (s.opnds 0xE9 t r).a.bits 61 32 ≠ 0))
include hs

theorem execScopy_misaligned (ha : (s.opnds 0xE9 t r).a.bits.toNat % 64 ≠ 0) :
    exec (.scopy t) s = .next (s.trapped r { code := 0x15, va := (s.opnds 0xE9 t r).a.bits.toNat, aux := 64 }) := by
  show execScopy t s = _
  exact pe_fire_err h ((if_neg hp).trans ((if_neg hs).trans (if_pos ha)))

section
variable (ha : (s.opnds 0xE9 t r).a.bits.toNat % 64 = 0)
include ha

theorem execScopy_outOfBounds (hm : mtOk r (s.opnds 0xE9 t r).a.bits.toNat 64 = false) :
    exec (.scopy t) s = .next (s.trapped r { code := 0x13, va := (s.opnds 0xE9 t r).a.bits.toNat, aux := 64 }) := by
  have hout : (!mtOk r (s.opnds 0xE9 t r).a.bits.toNat 64) = true := by simp [hm]
  show execScopy t s = _
  exact pe_fire_err h ((if_neg hp).trans ((if_neg hs).trans ((if_neg (not_not_intro ha)).trans (if_pos hout))))

section
variable (hm : mtOk r (s.opnds 0xE9 t r).a.bits.toNat 64 = true)
include hm

theorem execScopy_starts (hw : t.sb = 15 ∨ ∃ q : Place, scopyWord s t r = .ok q) :
    exec (.scopy t) s = .next (s.started 0xE9 t r
      { a := (s.opnds 0xE9 t r).a, b := (s.opnds 0xE9 t r).b, ph := 7, col := colourOf r s.curKey 0xE9 t }) := by
  have hin : ¬ (!mtOk r (s.opnds 0xE9 t r).a.bits.toNat 64) = true := by simp [hm]
  show execScopy t s = _
  refine pe_fire_ok h ((if_neg hp).trans ((if_neg hs).trans ((if_neg (not_not_intro ha)).trans ((if_neg hin).trans ?_))))
  by_cases h15 : t.sb = 15
  · exact if_pos h15
  · obtain ⟨q, hq⟩ := hw.resolve_left h15
    rw [scopyWord, ← sealNow_of_fires h] at hq
    refine (if_neg h15).trans ?_
    split
    next e he => cases hq.symm.trans he
    next p he => rfl

theorem execScopy_badWord {e : TrapInfo} (h15 : t.sb ≠ 15) (hw : scopyWord s t r = .error e) :
    exec (.scopy t) s = .next (s.trapped r e) := by
  have hin : ¬ (!mtOk r (s.opnds 0xE9 t r).a.bits.toNat 64) = true := by simp [hm]
  rw [scopyWord, ← sealNow_of_fires h] at hw
  show execScopy t s = _
  refine pe_fire_err h ((if_neg hp).trans ((if_neg hs).trans ((if_neg (not_not_intro ha)).trans ((if_neg hin).trans ((if_neg h15).trans ?_)))))
  split
  next e' he => cases hw.symm.trans he; rfl
  next p he => cases hw.symm.trans he

end
end
end
end

theorem execScstat_starts (h : Fires s 0xEA t r) (ha : (s.opnds 0xEA t r).a.pois = false) :
    exec (.scstat t) s = .next (s.started 0xEA t r
      { a := (s.opnds 0xEA t r).a, ph := 8, due := some (s.fc + 3), col := colourOf r s.curKey 0xEA t }) := by
  show execScstat t s = _
  exact pe_fireLong_ok (lat := 4) (o := { a := (s.opnds 0xEA t r).a, ph := 8 })
    (f := fun _ _ o => if o.a.pois then .error poisonTrap else .ok { a := o.a, ph := 8 }) h (if_neg (Bool.eq_false_iff.1 ha))

end

/-- Settles O15: the handles and the fence by their scope, then the services, each by its cases. -/
theorem handlesFencesServices : Obligations.HandlesFencesServices := by
  refine ⟨⟨fun t s r i op hi h => ?_, fun t s r h => ⟨fun hs => ?_, fun hs hp => ?_, fun hs hp => ?_⟩, fun t s r h => execHclm_claims h⟩,
    fun t s r h hc => ?_, fun t s r h => execCfgsw_emits h, fun t s r h ha hb => ?_, fun t s r h ha => execScstat_starts h ha⟩
  · intro pol sc sel st may
    have hmay : may ↔ hndMay op st = true := (hndMay_iff op st).symm
    rw [exec_handle hi h]
    refine ⟨fun hs hm => ?_, fun hs hp hm => ?_, fun hs hp => ?_, fun hs hm => ?_⟩
    · exact pe_fireHnd_starts (dem := false) (r := r) h (scopeCheck_kept hs) (hmay.1 hm)
    · exact pe_fireHnd_starts (dem := true) (r := r) h (scopeCheck_demoted hs hp) (hmay.1 hm)
    · exact pe_fireHnd_scope h (scopeCheck_strict hs hp)
    · obtain ⟨dem, hdem⟩ := scopeCheck_taken hs
      exact pe_fireHnd_state h hdem (fun hm' => hm (hmay.2 hm'))
  · exact execFence_starts (dem := false) (r := r) h (scopeCheck_kept hs)
  · exact execFence_starts (dem := true) (r := r) h (scopeCheck_demoted hs hp)
  · exact execFence_scope h (scopeCheck_strict hs hp)
  · exact ⟨execSysc_badSpace h hc, execSysc_local h hc, execSysc_misaligned h hc,
      fun hg ha => (execSysc_aligned h hc hg ha).1, fun q hg ha => (execSysc_aligned h hc hg ha).2 q⟩
  · have hp : ¬ ((s.opnds 0xE9 t r).a.pois || (t.sb != 15 && (s.opnds 0xE9 t r).b.pois)) = true := by
      obtain h15 | hclean := hb
      · simp [ha, h15]
      · simp [ha, hclean]
    have hlocal {x y : Nat} (hx : x = 0) (hy : y = 0) : ¬ (x ≠ 0 ∨ y ≠ 0) := by omega
    exact ⟨execScopy_badSpace h hp, fun h0 h1 => execScopy_misaligned h hp (hlocal h0 h1),
      fun h0 h1 => execScopy_outOfBounds h hp (hlocal h0 h1),
      fun h0 h1 ha64 hm hw => execScopy_starts h hp (hlocal h0 h1) ha64 hm hw,
      fun h0 h1 ha64 hm e h15 hw => execScopy_badWord h hp (hlocal h0 h1) ha64 hm h15 hw⟩

end Sys2Proof.Machine
end

section
/-! Settles O27 (R82, R91, R220-R227, R235-R238, R260): bytes of a word and the fields of a barrier word first, then what a home does with one operation,
each kind of operation by its lemma. -/

namespace Sys2Proof.Machine

/-! ## Bytes of a word (R91) -/

@[simp] theorem subGet_word (old : Val) : subGet old 0 8 = old := by
  simp [subGet, Nat.mod_eq_of_lt old.bits.isLt]

@[simp] theorem subSet_word (old v : Val) : subSet old 0 8 v = v := by
  have hmask : (BitVec.ofNat 64 ((2 ^ (8 * 8) - 1) * 2 ^ (8 * 0)) : Word) = BitVec.allOnes 64 := by decide
  simp only [subSet, hmask, BitVec.not_allOnes, BitVec.and_zero, BitVec.and_allOnes, BitVec.zero_or, Nat.mul_zero, BitVec.shiftLeft_zero, if_true]

/-- Two words agree in a byte when they agree in its bits. -/
theorem byte_eq_of_bits {x y : Word} {i k : Nat} (h : ∀ j < 8, x.getLsbD (8 * i + j) = y.getLsbD (8 * k + j)) :
    x.toNat / 2 ^ (8 * i) % 256 = y.toNat / 2 ^ (8 * k) % 256 := by
  refine Nat.eq_of_testBit_eq fun j => ?_
  rw [show (256 : Nat) = 2 ^ 8 from rfl, Nat.testBit_mod_two_pow, Nat.testBit_mod_two_pow, Nat.testBit_div_two_pow, Nat.testBit_div_two_pow]
  by_cases hj : j < 8
  · have hbit := h j hj
    simp only [BitVec.getLsbD, Nat.add_comm (8 * _) j] at hbit
    rw [hbit]
  · simp [hj]

/-- Bit k after n bytes at offset o are replaced. -/
theorem subSet_getLsbD (old v : Val) {o n k : Nat} (hk : k < 64) :
    (subSet old o n v).bits.getLsbD k =
      if 8 * o ≤ k ∧ k < 8 * (o + n) then v.bits.getLsbD (k - 8 * o) else old.bits.getLsbD k := by
  have hmask : (BitVec.ofNat 64 ((2 ^ (8 * n) - 1) * 2 ^ (8 * o)) : Word).getLsbD k = decide (8 * o ≤ k ∧ k < 8 * (o + n)) := by
    rw [BitVec.getLsbD_ofNat, Nat.testBit_mul_two_pow, Nat.testBit_two_pow_sub_one]
    by_cases h1 : 8 * o ≤ k
    · have h2 : k - 8 * o < 8 * n ↔ k < 8 * (o + n) := by omega
      simp [hk, h1, h2]
    · simp [h1]
  simp only [subSet, BitVec.getLsbD_or, BitVec.getLsbD_and, BitVec.getLsbD_not, BitVec.getLsbD_shiftLeft, hmask, hk]
  by_cases hin : 8 * o ≤ k ∧ k < 8 * (o + n)
  · simp [hin]
  · simp [hin]

theorem subSet_byte_out (old v : Val) {o n i : Nat} (hi : i < 8) (hout : i < o ∨ o + n ≤ i) :
    (subSet old o n v).bits.toNat / 2 ^ (8 * i) % 256 = old.bits.toNat / 2 ^ (8 * i) % 256 :=
  byte_eq_of_bits fun j hj => by rw [subSet_getLsbD old v (by omega), if_neg (by omega)]

theorem subSet_byte_in (old v : Val) {o n i : Nat} (h : o + n ≤ 8) (hi : i < n) :
    (subSet old o n v).bits.toNat / 2 ^ (8 * (o + i)) % 256 = v.bits.toNat / 2 ^ (8 * i) % 256 :=
  byte_eq_of_bits fun j hj => by
    rw [subSet_getLsbD old v (by omega), if_pos (by omega), show 8 * (o + i) + j - 8 * o = 8 * i + j by omega]

theorem subSet_pois_of_narrow (old v : Val) {o n : Nat} (h : n < 8) : (subSet old o n v).pois = (v.pois || old.pois) := by
  simp [subSet, Nat.ne_of_lt h]

/-! ## Loads and stores (R220) -/

section
variable (rid : Nat) (old : Val) (pr : Bool)

theorem homeOp_write_word (v : Val) : homeOp (.write 8 v) rid 0 old pr = .done {} (some v) none := by
  simp [homeOp]

/-- A store narrower than a word changes its own bytes and no other, and poison of either stays. -/
theorem homeOp_write_narrow (v : Val) {o n : Nat} (hn : n < 8) (h : o + n ≤ 8) :
    ∃ w : Val, homeOp (.write n v) rid o old pr = .done {} (some w) none ∧ w.pois = (v.pois || old.pois) ∧
      (∀ i < 8, i < o ∨ o + n ≤ i → w.bits.toNat / 2 ^ (8 * i) % 256 = old.bits.toNat / 2 ^ (8 * i) % 256) ∧
      (∀ i < n, w.bits.toNat / 2 ^ (8 * (o + i)) % 256 = v.bits.toNat / 2 ^ (8 * i) % 256) :=
  ⟨subSet old o n v, rfl, subSet_pois_of_narrow old v hn, fun _ hi hout => subSet_byte_out old v hi hout, fun _ hi => subSet_byte_in old v h hi⟩

/-! ## Atomics and reductions of a word (R226, R227) -/

/-- All but ATXCHG consume the word: poison fails them (R91). -/
theorem homeOp_rmw_of_pois {f : Rmw} (ret : Bool) (b c : Val) (hf : f ≠ .xchg) (h : old.pois = true) :
    homeOp (.rmw f 8 ret b c) rid 0 old pr = .fail 0x21 := by
  cases f with
  | xchg => exact absurd rfl hf
  | add | min | max | and | or | xor | cas | fadd => simp [homeOp, h]

/-- All but ATXCHG and ATCAS write the function of the word and b, with the poison of b. -/
theorem homeOp_rmw_of_clean {f : Rmw} (ret : Bool) (b c : Val) (hx : f ≠ .xchg) (hc : f ≠ .cas) (h : old.pois = false) :
    homeOp (.rmw f 8 ret b c) rid 0 old pr =
      .done (if ret then { bits := old.bits } else {}) (some { bits := rmwVal f 8 old.bits b.bits, pois := b.pois }) none := by
  have hold : old = { bits := old.bits } := by rw [← h]
  cases f with
  | xchg => exact absurd rfl hx
  | cas => exact absurd rfl hc
  | add | min | max | and | or | xor | fadd => simp [homeOp, h, ← hold]

theorem homeOp_xchg (ret : Bool) (b c : Val) : homeOp (.rmw .xchg 8 ret b c) rid 0 old pr = .done old (some b) none := by
  simp [homeOp]

theorem homeOp_cas (ret : Bool) (b c : Val) (h : old.pois = false) :
    homeOp (.rmw .cas 8 ret b c) rid 0 old pr = .done old (if old.bits = b.bits then some c else none) none := by
  by_cases he : old.bits = b.bits
  · simp [homeOp, h, he]
  · simp [homeOp, h, he]

/-- The signed value of a whole word needs no extension. -/
theorem sxTo_word (w : Word) : sxTo (8 * 8) w.toNat = w := by
  refine BitVec.eq_of_toInt_eq ?_
  have hlt := w.isLt
  rw [sxTo, BitVec.toInt_ofInt, BitVec.toInt_eq_toNat_bmod]
  simp only [Nat.reduceMul, Nat.mod_eq_of_lt hlt]
  split
  · rw [Int.sub_bmod_right]
  · rfl

/-- The value that each atomic of a word writes, by the integers of R226. -/
theorem rmwVal_word {f : Rmw} {g : Word → Word → Word}
    (h : (f, g) ∈ [(Rmw.add, fun (x y : Word) => BitVec.ofNat 64 (x.toNat + y.toNat)), (Rmw.and, fun x y => x &&& y), (Rmw.or, fun x y => x ||| y),
      (Rmw.xor, fun x y => x ^^^ y), (Rmw.min, fun x y => if x.toInt ≤ y.toInt then x else y), (Rmw.max, fun x y => if y.toInt ≤ x.toInt then x else y)]) :
    f ≠ .xchg ∧ f ≠ .cas ∧ ∀ x y : Word, rmwVal f 8 x y = g x y := by
  simp only [List.mem_cons, Prod.mk.injEq, List.not_mem_nil, or_false] at h
  obtain ⟨rfl, rfl⟩ | ⟨rfl, rfl⟩ | ⟨rfl, rfl⟩ | ⟨rfl, rfl⟩ | ⟨rfl, rfl⟩ | ⟨rfl, rfl⟩ := h
  · exact ⟨by decide, by decide, fun x y => by simp [rmwVal, BitVec.ofNat_add]⟩
  · exact ⟨by decide, by decide, fun x y => rfl⟩
  · exact ⟨by decide, by decide, fun x y => rfl⟩
  · exact ⟨by decide, by decide, fun x y => rfl⟩
  · exact ⟨by decide, by decide, fun x y => by simp only [rmwVal, sxTo_word]⟩
  · exact ⟨by decide, by decide, fun x y => by simp only [rmwVal, sxTo_word]⟩

/-! ## Locks and barriers (R235-R238) -/

theorem homeOp_munlk_held (hp : old.pois = false) (hh : old.bits.getLsbD 63 = true) (hr : fld old.bits 43 32 = rid) :
    homeOp .munlk rid 0 old pr = .done old (some {}) none := by
  simp [homeOp, hp, bitOf, hh, hr]

theorem homeOp_munlk_other (hr : fld old.bits 43 32 ≠ rid) : homeOp .munlk rid 0 old pr = .done old none none := by
  simp [homeOp, hr]

/-- Fields of a barrier word: the total, the count of arrivals, and the generation in its upper half. -/
theorem barrier_total (w : Word) : fld w 15 0 = w.toNat % 2 ^ 16 := by simp [fld]
theorem barrier_count (w : Word) : fld w 31 16 = w.toNat / 2 ^ 16 % 2 ^ 16 := rfl
theorem barrier_generation (w : Word) : fld w 63 32 = w.toNat / 2 ^ 32 :=
  Nat.mod_eq_of_lt (by have := w.isLt; omega)

section
variable (w : Bool) (hp : old.pois = false)
include hp

/-- A barrier word whose count stands below its total takes an arrival. -/
theorem barrier_open (h : fld old.bits 31 16 < fld old.bits 15 0) :
    ¬ (old.pois = true ∨ fld old.bits 15 0 = 0 ∨ fld old.bits 15 0 ≤ fld old.bits 31 16) := by
  simp only [hp, Bool.false_eq_true, false_or]
  omega

theorem homeOp_barr_last (h : fld old.bits 31 16 + 1 = fld old.bits 15 0) : homeOp (.barr w) rid 0 old pr =
    .done old (some { bits := BitVec.ofNat 64 ((fld old.bits 63 32 + 1) % 2 ^ 32 * 2 ^ 32 + fld old.bits 15 0) }) none := by
  simp only [homeOp]
  rw [if_neg (barrier_open old hp (by omega)), if_pos h]

theorem homeOp_barr_early (h : fld old.bits 31 16 + 1 < fld old.bits 15 0) : homeOp (.barr w) rid 0 old pr =
    let new : Val := { bits := BitVec.ofNat 64 (fld old.bits 63 32 * 2 ^ 32 + (fld old.bits 31 16 + 1) * 2 ^ 16 + fld old.bits 15 0) }
    if w then .arrive (some new) (.barrWait old) else .done old (some new) none := by
  simp only [homeOp]
  rw [if_neg (barrier_open old hp (by omega)), if_neg (Nat.ne_of_lt h)]

end

theorem homeOp_barr_full (w : Bool) (h : fld old.bits 15 0 ≤ fld old.bits 31 16) : homeOp (.barr w) rid 0 old pr = .done old none none := by
  simp only [homeOp]
  rw [if_pos (.inr (.inr h))]

end

/-- Settles O27: each kind of operation by its lemma. -/
theorem homeOperations : Obligations.HomeOperations := by
  intro rid o old pr
  refine ⟨?_, fun n => rfl, fun v => homeOp_write_word rid old pr v, fun n v _ hn h => homeOp_write_narrow rid old pr v hn h,
    fun f ret b c hf h => homeOp_rmw_of_pois rid old pr ret b c hf h, fun f ret b c g h hg => ?_,
    fun ret b c => homeOp_xchg rid old pr ret b c, fun ret b c h => ⟨fun he => ?_, fun he => ?_⟩, rfl, fun v => rfl, rfl, fun v => ?_, fun tag => ?_,
    fun hp hh hr => homeOp_munlk_held rid old pr hp hh hr, fun hr => homeOp_munlk_other rid old pr hr, fun w hp => ?_⟩
  · simp [homeOp]
  · obtain ⟨hx, hc, hval⟩ := rmwVal_word hg
    rw [homeOp_rmw_of_clean rid old pr ret b c hx hc h, hval]
  · rw [homeOp_cas rid old pr ret b c h, if_pos he]
  · rw [homeOp_cas rid old pr ret b c h, if_neg he]
  · simp [homeOp]
  · simp [homeOp, bitOf, lockWord]
  · have ht := barrier_total old.bits
    have hc := barrier_count old.bits
    have hg := barrier_generation old.bits
    simp only [← ht, ← hc, ← hg]
    exact ⟨homeOp_barr_last rid old pr w hp, homeOp_barr_early rid old pr w hp, homeOp_barr_full rid old pr w⟩

end Sys2Proof.Machine
end

section
/-! Settles O28 (R71, R82, R83, R89, R224, R240, R241, R379, R396): an access changed in its region and its place in a deferral store, what a home makes of
an access, then the way of an access to its home and of a queue operation to its queue. -/

namespace Sys2Proof.Machine

/-! ## One access of a region -/

section
variable {s : State} {rid acc : Nat} {r : Region} {a : Access}

theorem setAcc_of (h : HasAccess s rid acc r a) (f : Access → Access) :
    setAcc s rid acc f = s.setRegion rid { r with flight := tset r.flight acc (f a) } := by
  obtain ⟨hr, ha⟩ := h
  rw [setAcc, onRegion_of _ hr, ha]

theorem accLoc_of_notGlobal (h : a.sp ≠ 1) : accLoc rid a = .mt rid (a.addr / 8 * 8) := if_neg h
theorem accOff_of_notGlobal (h : a.sp ≠ 1) : accOff a = a.addr % 8 := by rw [accOff, if_neg h]
theorem accLoc_of_global (h : a.sp = 1) : accLoc rid a = .dram (a.pa / 8 * 8) := if_pos h
theorem accOff_of_global (h : a.sp = 1) : accOff a = a.pa % 8 := by rw [accOff, if_pos h]

/-! ## Deferral stores (R83) -/

theorem deferAcc_takesPlace (h : HasAccess s rid acc r a) {l : Loc} (hk : (s.storeCount l).1 < (s.storeCount l).2) :
    s.deferAcc rid acc l a.op =
      { s.setRegion rid { r with flight := tset r.flight acc { a with st := .deferred s.dord } } with dord := s.dord + 1 } := by
  rw [State.deferAcc, setAcc_of h, setAcc_of h]
  exact if_pos hk

theorem deferAcc_waits (h : HasAccess s rid acc r a) {l : Loc} (hk : (s.storeCount l).2 ≤ (s.storeCount l).1) :
    s.deferAcc rid acc l a.op = s.setRegion rid { r with flight := tset r.flight acc { a with st := .waiting } } := by
  rw [State.deferAcc, setAcc_of h, setAcc_of h]
  exact if_neg (Nat.not_lt.2 hk)

theorem admitOne_of_room (hk : (s.storeCount (accLoc rid a)).1 < (s.storeCount (accLoc rid a)).2) :
    s.admitOne rid acc a =
      let s1 : State := { setAcc s rid acc (fun a => { a with st := .deferred s.dord }) with dord := s.dord + 1 }
      State.release (1 + (s1.deferredAt (accLoc rid a)).length) s1 (accLoc rid a) := if_pos hk

/-! ## What becomes of an access at its location (R82, R89) -/

theorem perform_done {ans : Val} {new : Option Val} {pres : Option Bool}
    (h : homeOp a.op (a.remote.getD rid) (accOff a) (s.locVal (accLoc rid a)) (s.locPres (accLoc rid a)) = .done ans new pres) :
    s.perform rid acc a = State.release (1 + (s.deferredAt (accLoc rid a)).length)
      (setAcc (s.apply (accLoc rid a) new pres) rid acc (fun a => { a with st := .done, ans := ans })) (accLoc rid a) := by
  rw [State.perform, h]

theorem perform_fail {c : Nat}
    (h : homeOp a.op (a.remote.getD rid) (accOff a) (s.locVal (accLoc rid a)) (s.locPres (accLoc rid a)) = .fail c) :
    s.perform rid acc a = setAcc s rid acc (fun a => { a with st := .failed c }) := by
  rw [State.perform, h]

theorem perform_defer
    (h : homeOp a.op (a.remote.getD rid) (accOff a) (s.locVal (accLoc rid a)) (s.locPres (accLoc rid a)) = .defer) :
    s.perform rid acc a = s.deferAcc rid acc (accLoc rid a) a.op := by
  rw [State.perform, h]

end

/-! ## The way of an access to its home (R71, R94, R379) -/

section
variable {s : State} {rid acc : Nat} {r : Region} {a : Access}
variable (h : HasAccess s rid acc r a) (hst : a.st = .travel) (hhome : a.home = none) (hnone : r.st ≠ rNone) (hdying : r.st ≠ rDying) (hout : r.st ≠ rOut)
  (hq : isQueueOp a.op = false) (hord : mustPrecede s r acc a a.rel = true)
include h hst hhome hnone hdying hout hq hord

theorem homeAccess_local (h1 : a.sp ≠ 1) (h3 : a.sp ≠ 3) (hrel : mustPrecede s r acc a (isRelease s rid a) = true) :
    s.homeAccess rid acc = s.perform rid acc a := by
  obtain ⟨hr, ha⟩ := h
  simp [State.homeAccess, region_of_tfind hr, ha, hst, hhome, hnone, hdying, hout, hq, hord, h1, h3, hrel]

section
variable (h1 : a.sp = 1) (hcap : capRemote (capEntry r a.capx) = false) (hmig : pageFrozen (s.part r.part) a.addr = false) (hpause : pagePaused r a.addr = false)
include h1 hcap hmig hpause

theorem homeAccess_stalls {s1 : State} {t : TrapInfo} (hx : s.xlate r.part (clusterOf r (ownerTile r a)) a.addr 0 a.op = (s1, .error t)) :
    s.homeAccess rid acc = s1.stall rid acc a t := by
  obtain ⟨hr, ha⟩ := h
  simp [State.homeAccess, region_of_tfind hr, ha, hst, hhome, hnone, hdying, hout, hq, hord, h1, hcap, hmig, hpause, hx]

theorem homeAccess_dram {s1 : State} {pa : Nat} (hx : s.xlate r.part (clusterOf r (ownerTile r a)) a.addr 0 a.op = (s1, .ok (.dram pa)))
    (hrel : mustPrecede s1 r acc { a with pa := pa } (isRelease s1 rid { a with pa := pa }) = true) :
    s.homeAccess rid acc = (setAcc s1 rid acc (fun _ => { a with pa := pa })).perform rid acc { a with pa := pa } := by
  obtain ⟨hr, ha⟩ := h
  simp only [hst, hhome, h1] at hrel
  simp [State.homeAccess, region_of_tfind hr, ha, hst, hhome, hnone, hdying, hout, hq, hord, h1, hcap, hmig, hpause, hx, hrel]

end
end

/-! ## Queue operations at their queue (R240, R241) -/

section
variable {s : State} {rid acc pa : Nat} {a : Access} (hloc : a.remote = none)
include hloc

theorem queueAt_bad (h : queueBad s (capEntry (s.region rid) a.capx) (a.addr - capBase (capEntry (s.region rid) a.capx)) pa = true) :
    s.queueAt rid acc a pa = .did (setAcc s rid acc (fun a => { a with st := .failed 0x10 })) := by
  simp [State.queueAt, hloc, h]

section
variable (h : queueBad s (capEntry (s.region rid) a.capx) (a.addr - capBase (capEntry (s.region rid) a.capx)) pa = false)
include h

theorem queueAt_empty (hn : s.queueNext pa a.op = none) : s.queueAt rid acc a pa = .empty := by
  simp [State.queueAt, hloc, h, hn]

theorem queueAt_unmoved {hd tl : Word} {i : Nat} (hn : s.queueNext pa a.op = some (false, hd, tl, i)) :
    s.queueAt rid acc a pa = .did (doneQueue s rid acc {} false) := by
  simp [State.queueAt, hloc, h, hn]

theorem queueAt_moved {hd tl : Word} {i item : Nat} {s3 : State} (hn : s.queueNext pa a.op = some (true, hd, tl, i))
    (hi : s.queueItem rid acc a pa i = (s3, .ok (some item))) :
    s.queueAt rid acc a pa =
      .did (doneQueue (s3.queueMove pa item a.op hd tl).1 rid acc (s3.queueMove pa item a.op hd tl).2 true) := by
  simp [State.queueAt, hloc, h, hn, hi]

end

/-- An item on its descriptor's page lies behind the descriptor. -/
theorem queueItem_samePage {i : Nat} (h : (a.addr + 64 + 8 * i) / 2 ^ 16 = a.addr / 2 ^ 16) :
    s.queueItem rid acc a pa i = (s, .ok (some (pa + 64 + 8 * i))) := by
  unfold State.queueItem
  simp only [hloc, h, Option.isSome_none, Bool.false_eq_true, if_false, if_true]

/-- An item on another page than its descriptor is translated by itself (log 39). -/
theorem queueItem_otherPage {i item : Nat} {s3 : State} (h : (a.addr + 64 + 8 * i) / 2 ^ 16 ≠ a.addr / 2 ^ 16)
    (hmig : pageFrozen (s.part (s.region rid).part) (a.addr + 64 + 8 * i) = false) (hpause : pagePaused (s.region rid) (a.addr + 64 + 8 * i) = false)
    (hx : s.xlate (s.region rid).part (clusterOf (s.region rid) (ownerTile (s.region rid) a)) (a.addr + 64 + 8 * i) 0 a.op = (s3, .ok (.dram item))) :
    s.queueItem rid acc a pa i = (s3, .ok (some item)) := by
  unfold State.queueItem
  simp only [hloc, h, hmig, hpause, hx, Option.isSome_none, Bool.false_eq_true, Bool.or_self, if_false]

end

/-! ## The way of a queue operation to its queue (R240, R396) -/

section
variable {s : State} {rid acc : Nat} {r : Region} {a : Access}

/-- A queue operation that has reached the controller is checked. -/
theorem queueAccess_of (h : HasAccess s rid acc r a) (hst : a.st = .travel) (h1 : a.sp = 1) (hnone : r.st ≠ rNone) (hdying : r.st ≠ rDying)
    (hout : r.st ≠ rOut) (hq : isQueueOp a.op = true) : s.queueAccess rid acc = s.queueGo r rid acc a := by
  obtain ⟨hr, ha⟩ := h
  simp [State.queueAccess, region_of_tfind hr, ha, hst, hnone, hdying, hout, hq, h1]

variable (hord : mustPrecede s r acc a a.rel = true)
include hord

theorem queueGo_badCap (h : HasAccess s rid acc r a) {c : Nat} (hc : queueCap (sealOf s r.part) r.part (queueRight a.op) (capEntry r a.capx) = some c) :
    s.queueGo r rid acc a = setAcc s rid acc (fun a => { a with st := .failed c }) := by
  rw [setAcc_of h]
  simp [State.queueGo, hord, hc, setAcc_of h]

variable (hc : queueCap (sealOf s r.part) r.part (queueRight a.op) (capEntry r a.capx) = none)
include hc

theorem queueGo_outOfBounds (hlen : capLen (capEntry r a.capx) < a.addr - capBase (capEntry r a.capx) + 64) :
    s.queueGo r rid acc a = setAcc s rid acc (fun a => { a with st := .failed 0x10 }) := by
  simp [State.queueGo, hord, hc, hlen]

theorem queueGo_takes (hlen : a.addr - capBase (capEntry r a.capx) + 64 ≤ capLen (capEntry r a.capx))
    (hmig : pageFrozen (s.part r.part) a.addr = false) (hpause : pagePaused r a.addr = false) {s1 : State} {pa : Nat}
    (hx : s.xlate r.part (clusterOf r (ownerTile r a)) a.addr 0 a.op = (s1, .ok (.dram pa))) :
    s.queueGo r rid acc a = (setAcc s1 rid acc (fun a => { a with pa := pa })).queueTake rid acc { a with pa := pa } pa := by
  simp [State.queueGo, hord, hc, Nat.not_lt.2 hlen, hmig, hpause, hx]

end

section
variable {s s' : State} {rid acc pa : Nat} {a : Access}

theorem queueTake_did (h : s.queueAt rid acc a pa = .did s') : s.queueTake rid acc a pa = s'.wake := by
  rw [State.queueTake, h]

theorem queueTake_empty (h : s.queueAt rid acc a pa = .empty) : s.queueTake rid acc a pa = s.deferAcc rid acc (.dram pa) a.op := by
  rw [State.queueTake, h]

end

/-! ## The clauses -/

theorem exec_homeAccess (s : State) (rid acc : Nat) : exec (.homeAccess rid acc) s = .next (s.homeAccess rid acc).wake := rfl

theorem exec_deferralAdmit {s : State} {rid acc : Nat} {r : Region} {a : Access} (h : HasAccess s rid acc r a) (hst : a.st = .waiting) (h3 : a.sp ≠ 3) :
    exec (.deferralAdmit rid acc) s = .next (s.admitOne rid acc a).wake := by
  obtain ⟨hr, ha⟩ := h
  show execDeferralAdmit rid acc s = _
  rw [execDeferralAdmit, region_of_tfind hr, ha]
  exact congrArg Host.Outcome.next (if_pos ⟨hst, h3⟩)

theorem exec_queueControllerOp {s : State} {rid acc : Nat} {r : Region} {a : Access} (h : HasAccess s rid acc r a) (hst : a.st = .travel)
    (h1 : a.sp = 1) (hnone : r.st ≠ rNone) (hdying : r.st ≠ rDying) (hout : r.st ≠ rOut) (hq : isQueueOp a.op = true) :
    exec (.queueControllerOp rid acc) s = .next (s.queueGo r rid acc a) :=
  congrArg Host.Outcome.next (queueAccess_of h hst h1 hnone hdying hout hq)

/-- An access to a word of the region's MTs performs there, fails there, or is deferred there (R82, R83, R89). -/
theorem homeAccess_mt {s : State} {rid acc : Nat} {r : Region} {a : Access} (h : HasAccess s rid acc r a) (h1 : a.sp ≠ 1)
    (hgo : s.homeAccess rid acc = s.perform rid acc a) :
    let l := Loc.mt rid (a.addr / 8 * 8)
    let x := homeOp a.op (a.remote.getD rid) (a.addr % 8) (s.locVal l) (s.locPres l)
    (∀ (ans : Val) (new : Option Val) (pres : Option Bool), x = .done ans new pres → s.homeAccess rid acc =
      State.release (1 + (s.deferredAt l).length) (setAcc (s.apply l new pres) rid acc (fun a => { a with st := .done, ans := ans })) l) ∧
    (∀ c : Nat, x = .fail c → s.homeAccess rid acc = s.setRegion rid { r with flight := tset r.flight acc { a with st := .failed c } }) ∧
    (x = .defer → s.homeAccess rid acc = s.deferAcc rid acc l a.op) := by
  intro l x
  have hl : accLoc rid a = l := accLoc_of_notGlobal h1
  have hx : homeOp a.op (a.remote.getD rid) (accOff a) (s.locVal (accLoc rid a)) (s.locPres (accLoc rid a)) = x := by
    rw [hl, accOff_of_notGlobal h1]
  refine ⟨fun ans new pres hd => ?_, fun c hf => ?_, fun hd => ?_⟩
  · rw [hgo, perform_done (hx.trans hd), hl]
  · rw [hgo, perform_fail (hx.trans hf), setAcc_of h]
  · rw [hgo, perform_defer (hx.trans hd), hl]

/-- Where the item of a queue lies: behind its descriptor on the same page, else where its own address leads (log 39). -/
theorem queueItem_of_page {s s3 : State} {rid acc pa i item : Nat} {a : Access} (hloc : a.remote = none)
    (h : let va := a.addr + 64 + 8 * i
      (va / 2 ^ 16 = a.addr / 2 ^ 16 ∧ s3 = s ∧ item = pa + 64 + 8 * i) ∨
        (va / 2 ^ 16 ≠ a.addr / 2 ^ 16 ∧ pageFrozen (s.part (s.region rid).part) va = false ∧ pagePaused (s.region rid) va = false ∧
          s.xlate (s.region rid).part (clusterOf (s.region rid) (ownerTile (s.region rid) a)) va 0 a.op = (s3, .ok (.dram item)))) :
    s.queueItem rid acc a pa i = (s3, .ok (some item)) := by
  obtain ⟨hpage, rfl, rfl⟩ | ⟨hpage, hmig, hpause, hx⟩ := h
  · exact queueItem_samePage hloc hpage
  · exact queueItem_otherPage hloc hpage hmig hpause hx

/-- Settles O28: an access of the MTs, one of DRAM that stalls or performs, one that waited for a place, and a queue operation, each by its way. -/
theorem homeSteps : Obligations.HomeSteps := by
  refine ⟨?_, ?_, ?_, ?_, ?_⟩
  · intro s rid acc r a h hst h1 h3 hhome hnone hdying hout hq hord hrel l x
    obtain ⟨hdone, hfail, hdefer⟩ := homeAccess_mt h h1 (homeAccess_local h hst hhome hnone hdying hout hq hord h1 h3 hrel)
    refine ⟨fun ans new pres hx => ?_, fun c hx => ?_, fun hx hk => ?_, fun hx hk => ?_⟩
    · rw [exec_homeAccess, hdone ans new pres hx]
    · rw [exec_homeAccess, hfail c hx]
    · rw [exec_homeAccess, hdefer hx, deferAcc_takesPlace h hk]
    · rw [exec_homeAccess, hdefer hx, deferAcc_waits h hk]
  · intro s rid acc r a s1 t h hst h1 hhome hnone hdying hout hq hord hcap hmig hpause hx
    rw [exec_homeAccess, homeAccess_stalls h hst hhome hnone hdying hout hq hord h1 hcap hmig hpause hx]
  · intro s rid acc r a s1 pa ans new pres h hst h1 hhome hnone hdying hout hq hord hcap hmig hpause hx hrel s2 l hdone
    have hl : accLoc rid { a with pa := pa } = l := accLoc_of_global h1
    have hoff : accOff { a with pa := pa } = pa % 8 := accOff_of_global h1
    rw [exec_homeAccess, homeAccess_dram h hst hhome hnone hdying hout hq hord h1 hcap hmig hpause hx hrel,
      perform_done (by rw [hl, hoff]; exact hdone), hl]
  · intro s rid acc r a h hst h3 l hk s1
    rw [exec_deferralAdmit h hst h3, admitOne_of_room hk, setAcc_of h]
  · intro s rid acc r a h hst hloc h1 hnone hdying hout hq hord e chk failed
    rw [exec_queueControllerOp h hst h1 hnone hdying hout hq]
    refine ⟨fun c hc => ?_, fun hc hlen => ?_, ?_⟩
    · rw [queueGo_badCap hord h hc]
    · rw [queueGo_outOfBounds hord hc hlen]
    · intro s1 pa hc hlen hmig hpause hx s2 e2 bad
      rw [queueGo_takes hord hc hlen hmig hpause hx]
      refine ⟨fun hb => ?_, fun hb hn => ?_, fun hd tl i hb hn => ?_, fun hd tl i item s3 hb hn hi => ?_⟩
      · rw [queueTake_did (queueAt_bad (a := { a with pa := pa }) hloc hb)]
      · rw [queueTake_empty (queueAt_empty (a := { a with pa := pa }) hloc hb hn)]
      · rw [queueTake_did (queueAt_unmoved (a := { a with pa := pa }) hloc hb hn)]
      · rw [queueTake_did (queueAt_moved (a := { a with pa := pa }) hloc hb hn (queueItem_of_page (a := { a with pa := pa }) hloc hi))]

end Sys2Proof.Machine
end

section
/-! Settles O54, O55 and O56 (R104, R116, R137, R327, R329, R339): the fields of a word and the word of its fields, for TI words and for hart
words; the instruction of an OP, of a funct7 and of a CSR number; when a word decodes and what an instruction encodes to, each said once. -/

namespace Sys2Proof

/-! ## Fields of a TI word (R104) -/

section
variable (op : BitVec 8) (t : Ti) {w : BitVec 64}

@[simp] theorem validOf_tiWord : validOf (tiWord op t) = true := by
  rw [validOf, BitVec.getLsbD_eq_extractLsb']
  simp (disch := omega) only [tiWord, BitVec.extractLsb'_append_eq_of_le, Nat.reduceSub, BitVec.extractLsb'_eq_self]
  rfl

@[simp] theorem opOf_tiWord : opOf (tiWord op t) = op := by
  simp (disch := omega) only [opOf, tiWord, BitVec.extractLsb'_append_eq_of_le, BitVec.extractLsb'_append_eq_of_add_le, Nat.reduceSub,
    BitVec.extractLsb'_eq_self]

@[simp] theorem tiOf_tiWord : tiOf (tiWord op t) = t := by
  simp (disch := omega) only [tiOf, litOf, condOf, tiWord, BitVec.extractLsb'_append_eq_of_le, BitVec.extractLsb'_append_eq_of_add_le,
    Nat.reduceSub, BitVec.extractLsb'_eq_self]

/-- The fields of R104 are adjacent and leave no bit out. -/
theorem tiWord_opOf_tiOf (h : validOf w = true) : tiWord (opOf w) (tiOf w) = w := by
  have hv : (1 : BitVec 1) = w.extractLsb' 63 1 := by
    rw [validOf, BitVec.getLsbD_eq_extractLsb', beq_iff_eq] at h
    exact h.symm
  simp (disch := omega) only [tiWord, opOf, tiOf, litOf, condOf, hv, BitVec.extractLsb'_append_extractLsb'_eq_extractLsb']
  exact BitVec.extractLsb'_eq_self

end

/-! ## The instruction of an OP (R116) -/

/-- What Laws.Code says of each instruction by its name, of every instruction at once. -/
theorem code_statement (i : Instr) : Laws.Code.Statement i := by
  intro op t h
  cases i <;> cases h <;> exact ⟨by decide, rfl⟩

theorem peOf_bind_peCode_of_mem {ops : List Nat} {op : Nat} {t : Ti}
    (htable : (ops.map fun n => (peOf n t).bind peCode) = ops.map fun n => (peOf n t).map fun _ => (n, t)) (hop : op ∈ ops) :
    (peOf op t).bind peCode = (peOf op t).map fun _ => (op, t) :=
  List.map_inj_left.1 htable op hop

/-- Every OP that has an instruction is the OP of that instruction: the two tables agree, a quarter of the OPs at a time. -/
theorem peOf_bind_peCode {op : Nat} (hop : op < 256) (t : Ti) : (peOf op t).bind peCode = (peOf op t).map fun _ => (op, t) := by
  have hquarter : op ∈ List.range' 0 64 ∨ op ∈ List.range' 64 64 ∨ op ∈ List.range' 128 64 ∨ op ∈ List.range' 192 64 := by
    simp only [List.mem_range'_1]
    omega
  obtain h | h | h | h := hquarter <;> exact peOf_bind_peCode_of_mem rfl h

/-- An OP and its instruction determine each other. -/
theorem peOf_eq_some_iff {op : BitVec 8} {t : Ti} {i : Instr} : peOf op.toNat t = some i ↔ peCode i = some (op.toNat, t) := by
  constructor
  · intro h
    simpa [h] using peOf_bind_peCode op.isLt t
  · intro h
    exact (code_statement i _ t h).2

/-! ## Slots (R104, R137, R138) -/

/-- A slot's word decodes when it is valid, its OP has an instruction and its fields obey their rules. -/
theorem decodeSlot_eq_ok_iff {w : BitVec 64} {i : Instr} :
    decodeSlot w = .ok i ↔ validOf w = true ∧ peOf (opOf w).toNat (tiOf w) = some i ∧ tiWf (opOf w).toNat (tiOf w) = true := by
  unfold decodeSlot
  cases validOf w with
  | false => simp
  | true =>
    cases peOf (opOf w).toNat (tiOf w) with
    | none => simp
    | some j => cases tiWf (opOf w).toNat (tiOf w) <;> simp

theorem decodeSlot_of_invalid {w : BitVec 64} (hv : validOf w = false) : decodeSlot w = .error .invalidSlot := by
  simp [decodeSlot, hv]

theorem decodeSlot_of_noOp {w : BitVec 64} (hv : validOf w = true) (hp : peOf (opOf w).toNat (tiOf w) = none) :
    decodeSlot w = .error .badOp := by
  simp [decodeSlot, hv, hp]

theorem decodeSlot_of_badField {w : BitVec 64} {i : Instr} (hv : validOf w = true) (hp : peOf (opOf w).toNat (tiOf w) = some i)
    (hf : tiWf (opOf w).toNat (tiOf w) = false) : decodeSlot w = .error .badEnc := by
  simp [decodeSlot, hv, hp, hf]

/-! ## Fields of a hart word (R327, R339) -/

def majorOf (w : BitVec 32) : BitVec 7 := w.extractLsb' 0 7
def funct3Of (w : BitVec 32) : BitVec 3 := w.extractLsb' 12 3
def funct7Of (w : BitVec 32) : BitVec 7 := w.extractLsb' 25 7

section
variable (f7 : BitVec 7) (x : Xr) (c : CsrOp) {w : BitVec 32}

theorem crnWord_fields :
    majorOf (crnWord f7 x) = 0x0B#7 ∧ funct3Of (crnWord f7 x) = 0#3 ∧ funct7Of (crnWord f7 x) = f7 ∧ xrOf (crnWord f7 x) = x := by
  simp (disch := omega) only [majorOf, funct3Of, funct7Of, xrOf, crnWord, BitVec.extractLsb'_append_eq_of_le,
    BitVec.extractLsb'_append_eq_of_add_le, Nat.reduceSub, BitVec.extractLsb'_eq_self, BitVec.ofNat_eq_ofNat, and_self]

theorem csrWord_fields : majorOf (csrWord c) = 0x73#7 ∧ csrOf (csrWord c) = c := by
  simp (disch := omega) only [majorOf, csrOf, csrWord, BitVec.extractLsb'_append_eq_of_le, BitVec.extractLsb'_append_eq_of_add_le,
    Nat.reduceSub, BitVec.extractLsb'_eq_self, BitVec.ofNat_eq_ofNat, and_self]

/-- The fields of R327 are adjacent and leave no bit out. -/
theorem crnWord_of_fields (hm : majorOf w = 0x0B#7) (h3 : funct3Of w = 0#3) : crnWord (funct7Of w) (xrOf w) = w := by
  simp (disch := omega) only [crnWord, BitVec.ofNat_eq_ofNat, ← hm, ← h3, majorOf, funct3Of, funct7Of, xrOf,
    BitVec.extractLsb'_append_extractLsb'_eq_extractLsb']
  exact BitVec.extractLsb'_eq_self

theorem csrWord_of_fields (hm : majorOf w = 0x73#7) : csrWord (csrOf w) = w := by
  simp (disch := omega) only [csrWord, BitVec.ofNat_eq_ofNat, ← hm, majorOf, csrOf, BitVec.extractLsb'_append_extractLsb'_eq_extractLsb']
  exact BitVec.extractLsb'_eq_self

end

/-! ## The instruction of a funct7 and of a CSR number (R329, R339) -/

theorem crnOf_eq_some_iff {f7 : Nat} {x : Xr} {i : Instr} : crnOf f7 x = some i ↔ crnCode i = some (f7, x) := by
  constructor
  · intro h
    unfold crnOf at h
    split at h <;> cases h <;> rfl
  · intro h
    unfold crnCode at h
    split at h <;> cases h <;> rfl

/-- An Xcarnar instruction has no OP, and is well formed at every register. -/
theorem peCode_wf_of_crnCode {i : Instr} {f7 : Nat} {x : Xr} (h : crnCode i = some (f7, x)) : f7 < 128 ∧ peCode i = none ∧ i.wf = true := by
  unfold crnCode at h
  split at h <;> cases h <;> exact ⟨by decide, rfl, rfl⟩

/-- The row of the opcode table that a CSR instruction falls under by its CSR number. -/
def csrInstr (c : CsrOp) : Instr :=
  if c.csr = 0x5C4#12 ∨ c.csr = 0x6E4#12 then .crnfrecWrite c
  else if c.csr = 0x6C0#12 then .hcrnpmapWrite c
  else .csrWrite c

theorem csrInstr_eq_crnfrecWrite_iff {c : CsrOp} : csrInstr c = .crnfrecWrite c ↔ c.csr = 0x5C4#12 ∨ c.csr = 0x6E4#12 := by
  unfold csrInstr
  by_cases h : c.csr = 0x5C4#12 ∨ c.csr = 0x6E4#12
  · exact iff_of_true (if_pos h) h
  · rw [if_neg h]
    exact iff_of_false (by split <;> nofun) h

theorem csrInstr_eq_hcrnpmapWrite_iff {c : CsrOp} : csrInstr c = .hcrnpmapWrite c ↔ c.csr = 0x6C0#12 := by
  unfold csrInstr
  by_cases h : c.csr = 0x6C0#12
  · exact iff_of_true (by rw [h]; rfl) h
  · rw [if_neg h]
    exact iff_of_false (by split <;> nofun) h

theorem csrInstr_eq_csrWrite_iff {c : CsrOp} :
    csrInstr c = .csrWrite c ↔ ¬ (c.csr = 0x5C4#12 ∨ c.csr = 0x6E4#12) ∧ c.csr ≠ 0x6C0#12 := by
  unfold csrInstr
  by_cases h : c.csr = 0x5C4#12 ∨ c.csr = 0x6E4#12
  · rw [if_pos h]
    exact iff_of_false nofun fun hn => hn.1 h
  · rw [if_neg h]
    by_cases h' : c.csr = 0x6C0#12
    · rw [if_pos h']
      exact iff_of_false nofun fun hn => hn.2 h'
    · rw [if_neg h']
      exact iff_of_true rfl ⟨h, h'⟩

/-- The operands of the CSR rows of the opcode table. -/
def csrCode (i : Instr) : Option CsrOp :=
  match i with
  | .crnfrecWrite c => some c
  | .hcrnpmapWrite c => some c
  | .csrWrite c => some c
  | _ => none

theorem csrCode_csrInstr (c : CsrOp) : csrCode (csrInstr c) = some c := by
  unfold csrInstr
  split
  · rfl
  · split <;> rfl

/-- What a CSR instruction that decodes names: a listed CSR and a funct3 of RISC-V's CSR instructions. -/
def CsrLegal (c : CsrOp) : Prop := csrListed c.csr.toNat = true ∧ c.f3 ≠ 0#3 ∧ c.f3 ≠ 4#3

theorem csrRange_of_csrListed {n : Nat} (h : csrListed n = true) : csrRange n = true := by
  simp only [csrListed, csrRange, Bool.or_eq_true, Bool.and_eq_true, decide_eq_true_eq] at h ⊢
  omega

theorem wf_crnfrecWrite_iff {c : CsrOp} : (Instr.crnfrecWrite c).wf = true ↔ csrInstr c = .crnfrecWrite c ∧ CsrLegal c := by
  have hlisted : c.csr = 0x5C4#12 ∨ c.csr = 0x6E4#12 → csrListed c.csr.toNat = true := by rintro (h | h) <;> rw [h] <;> rfl
  calc (Instr.crnfrecWrite c).wf = true
    _ ↔ ((c.csr == 0x5C4 || c.csr == 0x6E4) && c.f3 != 0 && c.f3 != 4) = true := Iff.rfl
    _ ↔ (c.csr = 0x5C4#12 ∨ c.csr = 0x6E4#12) ∧ c.f3 ≠ 0#3 ∧ c.f3 ≠ 4#3 := by simp [and_assoc]
    _ ↔ csrInstr c = .crnfrecWrite c ∧ CsrLegal c := by
      rw [csrInstr_eq_crnfrecWrite_iff]
      exact and_congr_right fun h => ⟨fun hf => ⟨hlisted h, hf⟩, fun ⟨_, hf⟩ => hf⟩

theorem wf_hcrnpmapWrite_iff {c : CsrOp} : (Instr.hcrnpmapWrite c).wf = true ↔ csrInstr c = .hcrnpmapWrite c ∧ CsrLegal c := by
  have hlisted : c.csr = 0x6C0#12 → csrListed c.csr.toNat = true := by intro h; rw [h]; rfl
  calc (Instr.hcrnpmapWrite c).wf = true
    _ ↔ (c.csr == 0x6C0 && c.f3 != 0 && c.f3 != 4) = true := Iff.rfl
    _ ↔ c.csr = 0x6C0#12 ∧ c.f3 ≠ 0#3 ∧ c.f3 ≠ 4#3 := by simp [and_assoc]
    _ ↔ csrInstr c = .hcrnpmapWrite c ∧ CsrLegal c := by
      rw [csrInstr_eq_hcrnpmapWrite_iff]
      exact and_congr_right fun h => ⟨fun hf => ⟨hlisted h, hf⟩, fun ⟨_, hf⟩ => hf⟩

theorem wf_csrWrite_iff {c : CsrOp} : (Instr.csrWrite c).wf = true ↔ csrInstr c = .csrWrite c ∧ CsrLegal c := by
  calc (Instr.csrWrite c).wf = true
    _ ↔ (csrListed c.csr.toNat && c.csr != 0x5C4 && c.csr != 0x6E4 && c.csr != 0x6C0 && c.f3 != 0 && c.f3 != 4) = true := Iff.rfl
    _ ↔ csrListed c.csr.toNat = true ∧ (¬ (c.csr = 0x5C4#12 ∨ c.csr = 0x6E4#12) ∧ c.csr ≠ 0x6C0#12) ∧ c.f3 ≠ 0#3 ∧ c.f3 ≠ 4#3 := by
      simp [and_assoc]
    _ ↔ csrInstr c = .csrWrite c ∧ CsrLegal c := by
      rw [csrInstr_eq_csrWrite_iff]
      exact and_left_comm

/-- A CSR row is well formed when its CSR number leads to that row and it is legal. -/
theorem wf_iff_of_csrCode {i : Instr} {c : CsrOp} (h : csrCode i = some c) : i.wf = true ↔ csrInstr c = i ∧ CsrLegal c := by
  unfold csrCode at h
  split at h <;> cases h
  · exact wf_crnfrecWrite_iff
  · exact wf_hcrnpmapWrite_iff
  · exact wf_csrWrite_iff

/-! ## Hart words (R327, R329, R339) -/

/-- A hart's word by its major opcode and funct3: Xcarnar by funct7, a CSR instruction by its CSR number. -/
theorem decodeHart_eq (w : BitVec 32) :
    decodeHart w =
      if majorOf w = 0x0B#7 then
        if funct3Of w ≠ 0#3 then .error .illegal else (crnOf (funct7Of w).toNat (xrOf w)).elim (.error .illegal) .ok
      else if majorOf w = 0x73#7 ∧ funct3Of w ≠ 0#3 ∧ funct3Of w ≠ 4#3 then
        if csrRange (csrOf w).csr.toNat then
          if !csrListed (csrOf w).csr.toNat then .error .illegal else .ok (csrInstr (csrOf w))
        else .error .notInTable
      else .error .notInTable := by
  have hn : ∀ k : BitVec 12, (csrOf w).csr = k ↔ (csrOf w).csr.toNat = k.toNat := fun _ => BitVec.toNat_inj.symm
  have hm : ∀ k : BitVec 7, majorOf w = k ↔ (w.extractLsb' 0 7).toNat = k.toNat := fun _ => BitVec.toNat_inj.symm
  have h3 : ∀ k : BitVec 3, funct3Of w = k ↔ (w.extractLsb' 12 3).toNat = k.toNat := fun _ => BitVec.toNat_inj.symm
  simp only [hm, h3, ne_eq, csrInstr, hn, apply_ite Except.ok, decodeHart, funct7Of]
  cases crnOf (w.extractLsb' 25 7).toNat (xrOf w) <;> rfl

/-- The words that decode: an Xcarnar word whose funct7 has an instruction, and a legal CSR instruction on a listed CSR. -/
theorem decodeHart_eq_ok_iff {w : BitVec 32} {i : Instr} :
    decodeHart w = .ok i ↔
      (majorOf w = 0x0B#7 ∧ funct3Of w = 0#3 ∧ crnOf (funct7Of w).toNat (xrOf w) = some i) ∨
      (majorOf w = 0x73#7 ∧ CsrLegal (csrOf w) ∧ csrInstr (csrOf w) = i) := by
  have hf3 : (csrOf w).f3 = funct3Of w := rfl
  rw [decodeHart_eq, CsrLegal, hf3]
  by_cases hm : majorOf w = 0x0B#7
  · rw [if_pos hm]
    by_cases h3 : funct3Of w = 0#3
    · cases crnOf (funct7Of w).toNat (xrOf w) <;> simp [hm, h3]
    · simp [hm, h3]
  · rw [if_neg hm]
    by_cases hs : majorOf w = 0x73#7 ∧ funct3Of w ≠ 0#3 ∧ funct3Of w ≠ 4#3
    · by_cases hl : csrListed (csrOf w).csr.toNat = true
      · simp [hs, hl, csrRange_of_csrListed hl]
      · cases csrRange (csrOf w).csr.toNat <;> simp [hs, hl]
    · rw [if_neg hs]
      refine iff_of_false nofun ?_
      rintro (⟨h, -, -⟩ | ⟨h7, ⟨-, h0, h4⟩, -⟩)
      · exact hm h
      · exact hs ⟨h7, h0, h4⟩

/-! ## What an instruction encodes to (R104, R327, R339) -/

theorem encode_of_peCode {i : Instr} {op : Nat} {t : Ti} (h : peCode i = some (op, t)) : encode i = some (.ti (tiWord (BitVec.ofNat 8 op) t)) := by
  simp only [encode, h]

theorem encode_of_crnCode {i : Instr} {f7 : Nat} {x : Xr} (h : crnCode i = some (f7, x)) :
    encode i = some (.hart (crnWord (BitVec.ofNat 7 f7) x)) := by
  obtain ⟨-, hp, -⟩ := peCode_wf_of_crnCode h
  simp only [encode, hp, h]

theorem encode_of_csrCode {i : Instr} {c : CsrOp} (h : csrCode i = some c) : encode i = some (.hart (csrWord c)) := by
  unfold csrCode at h
  split at h <;> cases h <;> rfl

/-- An instruction with an encoding has an OP, a funct7 or a CSR number. -/
theorem code_of_encode {i : Instr} {e : Enc} (h : encode i = some e) :
    (∃ op t, peCode i = some (op, t)) ∨ (∃ f7 x, crnCode i = some (f7, x)) ∨ ∃ c, csrCode i = some c := by
  cases hp : peCode i with
  | some p => exact .inl ⟨p.1, p.2, rfl⟩
  | none =>
    cases hc : crnCode i with
    | some p => exact .inr (.inl ⟨p.1, p.2, rfl⟩)
    | none =>
      simp only [encode, hp, hc] at h
      split at h
      · exact .inr (.inr ⟨_, rfl⟩)
      · exact .inr (.inr ⟨_, rfl⟩)
      · exact .inr (.inr ⟨_, rfl⟩)
      · cases h

theorem wf_of_peCode {i : Instr} {op : Nat} {t : Ti} (h : peCode i = some (op, t)) : i.wf = tiWf op t := by
  simp only [Instr.wf, h]

/-! ## Each kind of word, both ways -/

theorem decodeSlot_tiWord {i : Instr} {op : Nat} {t : Ti} (h : peCode i = some (op, t)) (hwf : i.wf = true) :
    decodeSlot (tiWord (BitVec.ofNat 8 op) t) = .ok i := by
  obtain ⟨hop, hpe⟩ := code_statement i op t h
  rw [wf_of_peCode h] at hwf
  rw [decodeSlot_eq_ok_iff]
  simp [Nat.mod_eq_of_lt hop, hpe, hwf]

theorem decodeHart_crnWord {i : Instr} {f7 : Nat} {x : Xr} (h : crnCode i = some (f7, x)) :
    decodeHart (crnWord (BitVec.ofNat 7 f7) x) = .ok i := by
  obtain ⟨hm, h3, h7, hx⟩ := crnWord_fields (BitVec.ofNat 7 f7) x
  obtain ⟨hlt, -, -⟩ := peCode_wf_of_crnCode h
  have hf : (BitVec.ofNat 7 f7).toNat = f7 := Nat.mod_eq_of_lt hlt
  exact decodeHart_eq_ok_iff.2 (.inl ⟨hm, h3, by rw [h7, hx, hf, crnOf_eq_some_iff, h]⟩)

theorem decodeHart_csrWord {i : Instr} {c : CsrOp} (h : csrCode i = some c) (hwf : i.wf = true) : decodeHart (csrWord c) = .ok i := by
  obtain ⟨hm, hc⟩ := csrWord_fields c
  obtain ⟨hi, hl⟩ := (wf_iff_of_csrCode h).1 hwf
  exact decodeHart_eq_ok_iff.2 (.inr ⟨hm, by rwa [hc], by rwa [hc]⟩)

theorem encode_of_decodeSlot {w : BitVec 64} {i : Instr} (h : decodeSlot w = .ok i) : i.wf = true ∧ encode i = some (.ti w) := by
  obtain ⟨hv, hp, hf⟩ := decodeSlot_eq_ok_iff.1 h
  have hc := peOf_eq_some_iff.1 hp
  refine ⟨(wf_of_peCode hc).trans hf, ?_⟩
  rw [encode_of_peCode hc, BitVec.ofNat_toNat, BitVec.setWidth_eq, tiWord_opOf_tiOf hv]

theorem encode_of_decodeHart {w : BitVec 32} {i : Instr} (h : decodeHart w = .ok i) : i.wf = true ∧ encode i = some (.hart w) := by
  obtain ⟨hm, h3, hx⟩ | ⟨hm, hl, rfl⟩ := decodeHart_eq_ok_iff.1 h
  · have hc := crnOf_eq_some_iff.1 hx
    obtain ⟨-, -, hwf⟩ := peCode_wf_of_crnCode hc
    refine ⟨hwf, ?_⟩
    rw [encode_of_crnCode hc, BitVec.ofNat_toNat, BitVec.setWidth_eq, crnWord_of_fields hm h3]
  · have hc := csrCode_csrInstr (csrOf w)
    refine ⟨(wf_iff_of_csrCode hc).2 ⟨rfl, hl⟩, ?_⟩
    rw [encode_of_csrCode hc, csrWord_of_fields hm]

/-- Settles O55: by the code that gives the instruction its encoding, an OP, a funct7 or a CSR number. -/
theorem roundTrip : Obligations.RoundTrip := by
  intro i e hwf he
  obtain ⟨op, t, h⟩ | ⟨f7, x, h⟩ | ⟨c, h⟩ := code_of_encode he
  · cases (encode_of_peCode h).symm.trans he
    exact decodeSlot_tiWord h hwf
  · cases (encode_of_crnCode h).symm.trans he
    exact decodeHart_crnWord h
  · cases (encode_of_csrCode h).symm.trans he
    exact decodeHart_csrWord h hwf

/-- Settles O56: by the kind of the word. -/
theorem wordsHaveOneMeaning : Obligations.WordsHaveOneMeaning := by
  intro i e h
  cases e with
  | ti w => exact encode_of_decodeSlot h
  | hart w => exact encode_of_decodeHart h

/-! ## The words of the spec (R153, R171, R185, R210, R241, R244, R245, R282, R302, R327, R329, R339) -/

theorem decodeHart_of_funct3 {w : BitVec 32} (hm : majorOf w = 0x0B#7) (h3 : funct3Of w ≠ 0#3) : decodeHart w = .error .illegal := by
  rw [decodeHart_eq, if_pos hm, if_pos h3]

theorem decodeHart_of_noFunct7 {w : BitVec 32} (hm : majorOf w = 0x0B#7) (h3 : funct3Of w = 0#3)
    (h7 : crnOf (funct7Of w).toNat (xrOf w) = none) : decodeHart w = .error .illegal := by
  rw [decodeHart_eq, if_pos hm, if_neg (not_not_intro h3), h7]
  rfl

theorem decodeHart_of_unlisted {w : BitVec 32} (hs : majorOf w = 0x73#7 ∧ funct3Of w ≠ 0#3 ∧ funct3Of w ≠ 4#3)
    (hr : csrRange (csrOf w).csr.toNat = true) (hl : csrListed (csrOf w).csr.toNat = false) : decodeHart w = .error .illegal := by
  simp [decodeHart_eq, hs, hr, hl]

theorem decodeHart_of_otherMajor {w : BitVec 32} (hm : majorOf w ≠ 0x0B#7) (hs : majorOf w ≠ 0x73#7) :
    decodeHart w = .error .notInTable := by
  simp [decodeHart_eq, hm, hs]

/-- Settles O54: each word that stands for an instruction has its fields, and each that is refused is refused for its reason. -/
theorem decodeWords : Obligations.DecodeWords := by
  refine ⟨?_, ?_, ?_, ?_, ?_, ?_, ?_, ?_, ?_, ?_, ?_, ?_, ?_, ?_, ?_, ?_, ?_, ?_, ?_, ?_, ?_, ?_⟩
  iterate 10 exact decodeSlot_eq_ok_iff.2 ⟨rfl, rfl, rfl⟩
  · exact decodeSlot_of_invalid rfl
  · exact decodeSlot_of_noOp rfl rfl
  · exact decodeSlot_of_badField rfl rfl rfl
  iterate 2 exact decodeHart_eq_ok_iff.2 (.inl ⟨rfl, rfl, rfl⟩)
  iterate 3 exact decodeHart_eq_ok_iff.2 (.inr ⟨rfl, ⟨rfl, by decide, by decide⟩, rfl⟩)
  · exact decodeHart_of_funct3 rfl (by decide)
  · exact decodeHart_of_noFunct7 rfl rfl rfl
  · exact decodeHart_of_unlisted ⟨rfl, by decide, by decide⟩ rfl rfl
  · exact decodeHart_of_otherMajor (by decide) (by decide)

end Sys2Proof
end

section
/-! Settles O12 (R24, R75, R194): VLD and VST are one firing, the address judged by R194 and then the accesses; its cases, then the accesses of each. -/

namespace Sys2Proof.Machine

/-- What a vector memory instruction does when it fires: a poisoned address and a failed check cancel it; an address that passes gives the place
and the space of the 64 bytes to the accesses. -/
def vectorAccess (t : Ti) (wr : Bool) (go : At → Region → Nat → Nat → Region) (x : At) (r : Region) : Except TrapInfo Region :=
  let a := vIndex r x.key t.sa
  if a.pois then .error { poisonTrap with va := a.bits.toNat }
  else
    match vlocate r x.key a.bits wr with
    | .error e => .error e
    | .ok (p, sp) => .ok (go x r p sp)

/-- The start of a VLD: its eight reads, and the old vector and the mask that its completion merges with what they return (R182). -/
def vldStart (t : Ti) (x : At) (r : Region) (p sp : Nat) : Region :=
  let a := vIndex r x.key t.sa
  let i := vinOf r x.key 0x83 t
  startMem x 0x83 t { a := a, vd := i.d, mask := i.mask, ph := 4, col := colourOf r x.key 0x83 t }
    ((List.range 8).map (fun k => { own := .pe x.key r.seq k, op := .read 8, sp := sp, addr := p + 8 * k, seq := r.seq, ea := a.bits })) r

/-- The start of a VST: one write for each word with a byte of an active lane, which carries the poison of its word (R91). -/
def vstStart (t : Ti) (x : At) (r : Region) (p sp : Nat) : Region :=
  let a := vIndex r x.key t.sa
  let i := vinOf r x.key 0x84 t
  startMem x 0x84 t { a := a, ph := 4 }
    (((List.range 8).filter (fun k => vstBytes t i.mask k != 0)).map (fun k =>
      { own := .pe x.key r.seq k, sp := sp, addr := p + 8 * k, seq := r.seq, ea := a.bits,
        op := .writeMask (vstBytes t i.mask k) { bits := vword i.b.bits k, pois := i.b.pois.getLsbD k } })) r

theorem exec_vld (t : Ti) (s : State) :
    exec (.vld t) s = pe s (fun x r => fire x 0x83 t [] (vectorAccess t false (vldStart t) x) r) := rfl

theorem exec_vst (t : Ti) (s : State) :
    exec (.vst t) s = pe s (fun x r => fire x 0x84 t (popsOf 0x84 t) (vectorAccess t true (vstStart t) x) r) := rfl

/-! ## The firing of a vector access by its address -/

section
variable {s : State} {op : Nat} {t : Ti} {r : Region} {pops : List Nat} {wr : Bool} {go : At → Region → Nat → Nat → Region}

theorem vectorAccess_of_clean (x : At) (ha : (vIndex r x.key t.sa).pois = false) :
    vectorAccess t wr go x r = (vlocate r x.key (vIndex r x.key t.sa).bits wr).map (fun q => go x r q.1 q.2) := by
  refine (if_neg (Bool.eq_false_iff.1 ha)).trans ?_
  cases vlocate r x.key (vIndex r x.key t.sa).bits wr <;> rfl

theorem pe_vectorAccess_issues {p sp : Nat} (h : Fires s op t r) (ha : (vIndex r s.curKey t.sa).pois = false)
    (hl : vlocate r s.curKey (vIndex r s.curKey t.sa).bits wr = .ok (p, sp)) :
    pe s (fun x r => fire x op t pops (vectorAccess t wr go x) r) = .next (s.fired pops (go s.here r p sp)) :=
  pe_fire_ok h ((vectorAccess_of_clean s.here ha).trans (congrArg (Except.map _) hl))

theorem pe_vectorAccess_traps {e : TrapInfo} (h : Fires s op t r) (ha : (vIndex r s.curKey t.sa).pois = false)
    (hl : vlocate r s.curKey (vIndex r s.curKey t.sa).bits wr = .error e) :
    pe s (fun x r => fire x op t pops (vectorAccess t wr go x) r) = .next (s.trapped r e) :=
  pe_fire_err h ((vectorAccess_of_clean s.here ha).trans (congrArg (Except.map _) hl))

theorem pe_vectorAccess_poisoned (h : Fires s op t r) (ha : (vIndex r s.curKey t.sa).pois = true) :
    pe s (fun x r => fire x op t pops (vectorAccess t wr go x) r) =
      .next (s.trapped r { code := 0x21, va := (vIndex r s.curKey t.sa).bits.toNat }) :=
  pe_fire_err h (if_pos ha)

end

/-- Settles O12: VLD and VST are the firing of a vector access, each with its own accesses. -/
theorem vectorMemory : Obligations.VectorMemory := by
  refine ⟨fun t s r p sp h => ?_, fun t s r p sp h => ?_⟩
  · rw [exec_vld]
    exact ⟨pe_vectorAccess_issues h, fun e => pe_vectorAccess_traps h, pe_vectorAccess_poisoned h⟩
  · rw [exec_vst]
    exact ⟨pe_vectorAccess_issues h, fun e => pe_vectorAccess_traps h, pe_vectorAccess_poisoned h⟩

end Sys2Proof.Machine
end

section
/-! Settles O14 (R203, R206, R209, R212-R216, R302): the firing of a multiply by what it takes from its metadata input, that of an accumulator
instruction, and that of an engine instruction by its engine and its address; then each clause by its lemma. -/

namespace Sys2Proof.Machine

/-- Two meanings of a PE instruction that agree on the region that fires agree. -/
theorem pe_congr {s : State} {op : Nat} {t : Ti} {r : Region} {f g : At → Region → Region} (h : Fires s op t r) (hfg : f s.here r = g s.here r) :
    pe s f = pe s g := by
  rw [pe_of f h.1, pe_of g h.1, hfg]

/-- A firing asks its act for the region it fires in, and for no other. -/
theorem fire_congr {x : At} {op : Nat} {t : Ti} {pops : List Nat} {r : Region} {f g : Region → Except TrapInfo Region} (hfg : f r = g r) :
    fire x op t pops f r = fire x op t pops g r := by
  simp only [fire, hfg]

/-- A claim moves handles and no PE (R86). -/
theorem ct_claimAll (r : Region) (qs : List HReq) (key : Nat) : (claimAll r qs).ct key = r.ct key := by
  induction qs generalizing r with
  | nil => rfl
  | cons q qs ih =>
    cases q with
    | claim k h side fill => exact (ih _).trans (ct_updHnd r k h key _)
    | is k h st => exact ih r
    | never => exact ih r

/-! ## The multiplies (R203, R206, R209) -/

/-- A multiply takes n metadata tokens and its cond is `last` (R205, R209): MMA and MMAX take none and their cond is 1; an MMAS that does not stop takes a
whole group, and its cond says whether an L token ends it, or the tokens ahead of an E token. -/
def MmaTakes (r : Region) (key op : Nat) (t : Ti) (n : Nat) (last : Bool) : Prop :=
  (op ≠ 0xA1 ∧ n = 0 ∧ last = true) ∨
  (op = 0xA1 ∧ ∃ m, tdMeta r key t = some m ∧ ((m = .group last ∧ n = tdTm (tdOf r key t)) ∨ (m = .short n ∧ last = false)))

/-- The metadata tokens of a multiply that takes n. -/
def mmaToks (r : Region) (key op : Nat) (t : Ti) (n : Nat) : List Token :=
  if op = 0xA1 then (r.chan key (fld (tdOf r key t) 41 39)).buf.take n else []

/-- The scale tile of an MMAX whose selector stands in bits hi to lo of its descriptor. -/
def mmaScale (r : Region) (key op : Nat) (t : Ti) (hi lo : Nat) : List Val :=
  if op = 0xA2 then hselWords r key (fld (tdOf r key t) hi lo) (16 * (tdK (tdOf r key t) / 32) / 8) else []

/-- A multiply consumes a poisoned word: of its tiles, its scales, its metadata, or of the accumulator unless it starts from zero (R206). -/
def mmaPoison (r : Region) (key op : Nat) (t : Ti) (n : Nat) : Bool :=
  let d := tdOf r key t
  (hselWords r key t.sa.toNat (mmaWords op d).1 ++ hselWords r key t.sb.toNat (mmaWords op d).2
      ++ mmaScale r key op t 51 47 ++ mmaScale r key op t 46 42).any (fun w => w.pois)
    || (mmaToks r key op t n).any (fun k => k.pois.getLsbD 0)
    || (!t.imm.getLsbD 3 && accAnyPois (r.ct key) (tdFp64 d) (t.dst.toNat % 4))

/-- The operation of a multiply that takes n metadata tokens, which finds its PE as c (R202, R206). -/
def mmaOp (x : At) (op : Nat) (t : Ti) (n : Nat) (last : Bool) (c : Ct) (r : Region) : PendOp :=
  { snap := hselWords r x.key t.sa.toNat (mmaWords op (tdOf r x.key t)).1, snab := hselWords r x.key t.sb.toNat (mmaWords op (tdOf r x.key t)).2,
    accL := accLatch c (t.dst.toNat % 4), va := vofWords (mmaScale r x.key op t 51 47), vb := vofWords (mmaScale r x.key op t 46 42),
    vd := { bits := BitVec.ofNat 512 (wordsNat ((mmaToks r x.key op t n).map tokVal)) },
    due := some (x.fc + mmaLat (tdOf r x.key t) - 1), ph := 3, cond := last }

/-- The start of a multiply: its claims, its operation, and the metadata tokens popped (R206, R209). -/
def mmaStart (x : At) (op : Nat) (t : Ti) (n : Nat) (last : Bool) (r : Region) : Region :=
  (List.range n).foldl (fun r' _ => r'.popIn x.key (fld (tdOf r x.key t) 41 39))
    (startOp x op t (mmaOp x op t n last (r.ct x.key) r) (claimAll r (hreqsOf r x.key op t)))

/-- What the firing of a multiply that does not stop gives. -/
def mmaAct (n : Nat) (last : Bool) (op : Nat) (t : Ti) (x : At) (r : Region) : Except TrapInfo Region :=
  if mmaPoison r x.key op t n then .error poisonTrap else .ok (mmaStart x op t n last r)

/-- A multiply latches its accumulator before or after its claims alike. -/
theorem mmaAct_after_claims (n : Nat) (last : Bool) (op : Nat) (t : Ti) (x : At) (r : Region) :
    mmaAct n last op t x r = if mmaPoison r x.key op t n then .error poisonTrap else
      .ok ((List.range n).foldl (fun r' _ => r'.popIn x.key (fld (tdOf r x.key t) 41 39))
        (startOp x op t (mmaOp x op t n last ((claimAll r (hreqsOf r x.key op t)).ct x.key) r) (claimAll r (hreqsOf r x.key op t)))) := by
  rw [mmaAct, mmaStart, ct_claimAll]

/-- What the firing of an MMAS gives in its stop form: its E token is popped (R209). -/
def mmasStop (t : Ti) (x : At) (r : Region) : Except TrapInfo Region :=
  .ok ((r.popIn x.key (fld (tdOf r x.key t) 41 39)).updCt x.key (fun c => predUpd c t false))

theorem fireMma_of_takes {x : At} {op : Nat} {t : Ti} {r : Region} {n : Nat} {last : Bool} (h : MmaTakes r x.key op t n last) :
    fireMma x op t r = fire x op t [] (mmaAct n last op t x) r := by
  have hact := mmaAct_after_claims n last op t x r
  unfold fireMma
  obtain ⟨hop, rfl, rfl⟩ | ⟨rfl, m, hm, ⟨rfl, rfl⟩ | ⟨rfl, rfl⟩⟩ := h
  · rw [if_neg hop]
    exact fire_congr ((if_neg (by simp)).trans hact.symm)
  · rw [if_pos rfl, hm]
    exact fire_congr ((if_neg (by simp)).trans hact.symm)
  · rw [if_pos rfl, hm]
    exact fire_congr ((if_neg (by simp)).trans hact.symm)

theorem fireMma_of_stop {x : At} {t : Ti} {r : Region} (h : tdMeta r x.key t = some .stop) :
    fireMma x 0xA1 t r = fire x 0xA1 t [] (mmasStop t x) r := by
  unfold fireMma
  rw [if_pos rfl, h]
  exact fire_congr (if_pos rfl)

section
variable {s : State} {op : Nat} {t : Ti} {r : Region} {n : Nat} {last : Bool}

theorem pe_fireMma (h : Fires s op t r) (hm : MmaTakes r s.curKey op t n last) :
    pe s (fun x q => fireMma x op t q) = pe s (fun x q => fire x op t [] (mmaAct n last op t x) q) :=
  pe_congr h (fireMma_of_takes hm)

theorem pe_fireMma_starts (h : Fires s op t r) (hm : MmaTakes r s.curKey op t n last) (hp : mmaPoison r s.curKey op t n = false) :
    pe s (fun x q => fireMma x op t q) = .next (s.fired [] (mmaStart s.here op t n last r)) :=
  (pe_fireMma h hm).trans (pe_fire_ok (act := mmaAct n last op t) h (if_neg (Bool.eq_false_iff.1 hp)))

theorem pe_fireMma_poisoned (h : Fires s op t r) (hm : MmaTakes r s.curKey op t n last) (hp : mmaPoison r s.curKey op t n = true) :
    pe s (fun x q => fireMma x op t q) = .next (s.trapped r { code := 0x21 }) :=
  (pe_fireMma h hm).trans (pe_fire_err (act := mmaAct n last op t) h (if_pos hp))

theorem execMmas_stops (h : Fires s 0xA1 t r) (hm : tdMeta r s.curKey t = some .stop) :
    exec (.mmas t) s =
      .next (s.fired [] ((r.popIn s.curKey (fld (tdOf r s.curKey t) 41 39)).updCt s.curKey (fun c => predUpd c t false))) := by
  have hstop : pe s (fun x q => fireMma x 0xA1 t q) = pe s (fun x q => fire x 0xA1 t [] (mmasStop t x) q) := pe_congr h (fireMma_of_stop hm)
  exact hstop.trans (pe_fire_ok h rfl)

theorem mmaPoison_of_noMeta (hop : op ≠ 0xA1) (key : Nat) :
    mmaPoison r key op t n =
      ((hselWords r key t.sa.toNat (mmaWords op (tdOf r key t)).1 ++ hselWords r key t.sb.toNat (mmaWords op (tdOf r key t)).2
        ++ mmaScale r key op t 51 47 ++ mmaScale r key op t 46 42).any (fun w => w.pois)
      || (!t.imm.getLsbD 3 && accAnyPois (r.ct key) (tdFp64 (tdOf r key t)) (t.dst.toNat % 4))) := by
  simp [mmaPoison, mmaToks, hop]

/-- No scale tile belongs to an MMAS. -/
theorem mmaPoison_of_meta (key : Nat) :
    mmaPoison r key 0xA1 t n =
      ((hselWords r key t.sa.toNat (mmaWords 0xA1 (tdOf r key t)).1 ++ hselWords r key t.sb.toNat (mmaWords 0xA1 (tdOf r key t)).2).any (fun w => w.pois)
      || ((r.chan key (fld (tdOf r key t) 41 39)).buf.take n).any (fun k => k.pois.getLsbD 0)
      || (!t.imm.getLsbD 3 && accAnyPois (r.ct key) (tdFp64 (tdOf r key t)) (t.dst.toNat % 4))) := by
  simp [mmaPoison, mmaToks, mmaScale]

/-! ## The accumulator instructions (R212-R216) -/

theorem execAccz_clears (h : Fires s 0xA3 t r) :
    exec (.accz t) s = .next (s.fired [] (r.updCt s.curKey (fun c => predUpd (accZero c false (t.dst.toNat % 4)) t true))) := by
  show execAccz t s = _
  exact pe_fire_ok h rfl

theorem execAccrd_starts (h : Fires s 0xA4 t r) :
    exec (.accrd t) s = .next (s.fired [] (startOp s.here 0xA4 t
      { accL := accLatch (r.ct s.curKey) (t.dst.toNat % 4), due := some (s.fc + accrdLat (tdOf r s.curKey t) - 1), ph := 3, cond := true } r)) := by
  show execAccrd t s = _
  exact pe_fire_ok h rfl

/-- An instruction that computes consumes a poisoned word of its operand tile or of its accumulator; ACCWR moves poison (R214-R216). -/
def accPoison (r : Region) (key op : Nat) (t : Ti) : Bool :=
  let d := tdOf r key t
  (hselWords r key t.sa.toNat (accSrcWords op d)).any (fun w => w.pois) || accAnyPois (r.ct key) (tdFp64 d) (t.dst.toNat % 4)

theorem pe_fireAcc_starts {lat : Word → Nat} (h : Fires s op t r) (hp : op = 0xA5 ∨ accPoison r s.curKey op t = false) :
    pe s (fun x q => fireAcc x op t lat q) = .next (s.fired [] (startOp s.here op t
      { snap := hselWords r s.curKey t.sa.toNat (accSrcWords op (tdOf r s.curKey t)), accL := accLatch (r.ct s.curKey) (t.dst.toNat % 4),
        due := some (s.fc + lat (tdOf r s.curKey t) - 1), ph := 3, cond := true }
      (claimAll r (hreqsOf r s.curKey op t)))) := by
  have hgo : ¬ (op != 0xA5 && accPoison r s.curKey op t) = true := by
    obtain rfl | hclean := hp
    · simp
    · simp [hclean]
  exact pe_fire_ok h (if_neg hgo)

theorem pe_fireAcc_poisoned {lat : Word → Nat} (h : Fires s op t r) (hop : op ≠ 0xA5) (hp : accPoison r s.curKey op t = true) :
    pe s (fun x q => fireAcc x op t lat q) = .next (s.trapped r { code := 0x21 }) := by
  have hbad : (op != 0xA5 && accPoison r s.curKey op t) = true := by simp [hop, hp]
  exact pe_fire_err h (if_pos hbad)

/-- ACCWR, ACCSCL and ACCADD are one firing, each with its own opcode and latency. -/
theorem exec_acc {i : Instr} {lat : Nat} {d : Word}
    (hi : (i = .accwr t ∧ op = 0xA5 ∧ lat = if tdFp64 d then 32 else 16) ∨ (i = .accscl t ∧ op = 0xA6 ∧ lat = 4) ∨
      (i = .accadd t ∧ op = 0xA7 ∧ lat = if tdFp64 d then 32 else 16)) :
    ∃ f : Word → Nat, f d = lat ∧ exec i s = pe s (fun x q => fireAcc x op t f q) := by
  obtain ⟨rfl, rfl, rfl⟩ | ⟨rfl, rfl, rfl⟩ | ⟨rfl, rfl, rfl⟩ := hi
  · exact ⟨fun d => if tdFp64 d then 32 else 16, rfl, rfl⟩
  · exact ⟨fun _ => 4, rfl, rfl⟩
  · exact ⟨fun d => if tdFp64 d then 32 else 16, rfl, rfl⟩

end

/-! ## The engine instructions (R302) -/

section
variable {s : State} {op sl bytes : Nat} {reads : Word → Bool} {t : Ti} {r : Region}

/-- NLBIN, NLMOVE and NLCLR are one firing, each with its own opcode and the bytes of its first read; an NLBIN of no record reads nothing. -/
theorem exec_nl {i : Instr} (hi : (i = .nlbin t ∧ op = 0xE4 ∧ bytes = 8) ∨ (i = .nlmove t ∧ op = 0xE6 ∧ bytes = 8) ∨
      (i = .nlclr t ∧ op = 0xE8 ∧ bytes = 64)) (h : Fires s op t r) :
    ∃ reads : Word → Bool, (∀ b, reads b = true ↔ (op ≠ 0xE4 ∨ fld b 16 0 ≠ 0)) ∧
      exec i s = pe s (fun x q => fireNl x op t (sealOf s r.part) bytes reads q) := by
  rw [← sealNow_of_fires h]
  obtain ⟨rfl, rfl, rfl⟩ | ⟨rfl, rfl, rfl⟩ | ⟨rfl, rfl, rfl⟩ := hi
  · exact ⟨fun b => fld b 16 0 != 0, fun b => by simp, rfl⟩
  · exact ⟨fun _ => true, fun b => by simp, rfl⟩
  · exact ⟨fun _ => true, fun b => by simp, rfl⟩

section
variable (h : Fires s op t r) (hp : ¬ ((s.opnds op t r).a.pois || (op != 0xE8 && (s.opnds op t r).b.pois)) = true)
include h hp

theorem pe_fireNl_unbound (he : nleCount r ≤ t.imm.toNat % 64) :
    pe s (fun x q => fireNl x op t sl bytes reads q) =
      .next (s.trapped r { code := 0x13, aux := t.imm.toNat % 64, unit := t.imm.toNat % 64 }) :=
  pe_fire_err h (congrArg (nlUnit _) ((if_neg hp).trans (if_pos he)))

section
variable (he : ¬ nleCount r ≤ t.imm.toNat % 64)
include he

/-- A bound engine takes an operation that reads nothing, or whose address may be read. -/
theorem pe_fireNl_starts (hr : reads (s.opnds op t r).b.bits = false ∨
      ∃ p : Place, locate r s.curKey sl (s.opnds op t r).a.bits bytes [bR] false false = .ok p) :
    pe s (fun x q => fireNl x op t sl bytes reads q) = .next (s.started op t r
      { a := (s.opnds op t r).a, b := (s.opnds op t r).b, ph := 10, col := colourOf r s.curKey op t }) := by
  refine pe_fire_ok h (congrArg (nlUnit (t.imm.toNat % 64)) (a₂ := .ok _) ((if_neg hp).trans ((if_neg he).trans ?_)))
  by_cases hn : (!reads (s.opnds op t r).b.bits) = true
  · exact if_pos hn
  · obtain ⟨p, hl⟩ := hr.resolve_left (by simpa using hn)
    refine (if_neg hn).trans ?_
    split
    next e hl' => cases hl.symm.trans hl'
    next p' hl' => rfl

theorem pe_fireNl_badAddress {e : TrapInfo} (hr : reads (s.opnds op t r).b.bits = true)
    (hl : locate r s.curKey sl (s.opnds op t r).a.bits bytes [bR] false false = .error e) :
    pe s (fun x q => fireNl x op t sl bytes reads q) = .next (s.trapped r { e with unit := t.imm.toNat % 64 }) := by
  have hn : ¬ (!reads (s.opnds op t r).b.bits) = true := by simp [hr]
  refine pe_fire_err h (congrArg (nlUnit _) (a₂ := .error e) ((if_neg hp).trans ((if_neg he).trans ((if_neg hn).trans ?_))))
  split
  next e' hl' => cases hl'.symm.trans hl; rfl
  next p hl' => cases hl.symm.trans hl'

end
end

/-- NLSWEEP and NLSTAT are one firing, each with its own opcode. -/
theorem exec_nl0 {i : Instr} (hi : (i = .nlsweep t ∧ op = 0xE5) ∨ (i = .nlstat t ∧ op = 0xE7)) :
    exec i s = pe s (fun x q => fireNl0 x op t q) := by
  obtain ⟨rfl, rfl⟩ | ⟨rfl, rfl⟩ := hi <;> rfl

theorem pe_fireNl0_unbound (h : Fires s op t r) (he : nleCount r ≤ t.imm.toNat % 64) :
    pe s (fun x q => fireNl0 x op t q) = .next (s.trapped r { code := 0x13, aux := t.imm.toNat % 64, unit := t.imm.toNat % 64 }) :=
  pe_fire_err h (if_pos he)

theorem pe_fireNl0_starts (h : Fires s op t r) (he : ¬ nleCount r ≤ t.imm.toNat % 64) :
    pe s (fun x q => fireNl0 x op t q) = .next (s.fired [] (startOp s.here op t { ph := 10, col := colourOf r s.curKey op t } r)) :=
  pe_fire_ok h (if_neg he)

end

/-- Settles O14: the multiplies and the accumulator instructions, then the engine instructions, each by its firing. -/
theorem tensorAndEngineStarts : Obligations.TensorAndEngineStarts := by
  refine ⟨⟨fun t s r op i hi h => ?_, fun t s r h hm => execMmas_stops h hm, fun t s r m n l h hm hn => ?_, fun t s r h => execAccz_clears h,
    fun t s r h => execAccrd_starts h, fun t s r i op lat hi h => ?_⟩, fun i op t n hi s r h ha hb => ?_, fun i op t hi s r h => ?_⟩
  · intro d a b n sa sb bad
    have hop : op ≠ 0xA1 := by omega
    have hm : MmaTakes r s.curKey op t 0 true := .inl ⟨hop, rfl, rfl⟩
    have hbad := mmaPoison_of_noMeta (r := r) (t := t) (n := 0) hop s.curKey
    obtain ⟨rfl, rfl⟩ | ⟨rfl, rfl⟩ := hi
    all_goals exact ⟨fun hp => pe_fireMma_starts h hm (hbad.trans hp), fun hp => pe_fireMma_poisoned h hm (hbad.trans hp)⟩
  · intro d a b toks bad
    have htakes : MmaTakes r s.curKey 0xA1 t n l := .inr ⟨rfl, m, hm, hn⟩
    have hbad : mmaPoison r s.curKey 0xA1 t n = bad := mmaPoison_of_meta s.curKey
    exact ⟨fun hp => pe_fireMma_starts h htakes (hbad.trans hp), fun hp => pe_fireMma_poisoned h htakes (hbad.trans hp)⟩
  · intro d ws bad
    obtain ⟨f, rfl, hexec⟩ := exec_acc (s := s) hi
    rw [hexec]
    exact ⟨fun hp => pe_fireAcc_starts h hp, fun hop hp => pe_fireAcc_poisoned h hop hp⟩
  · intro o e
    obtain ⟨reads, hreads, hexec⟩ := exec_nl hi h
    have hp : ¬ (o.a.pois || (op != 0xE8 && o.b.pois)) = true := by
      obtain rfl | hb := hb
      · simp [o, ha]
      · simp [o, ha, hb]
    rw [hexec]
    refine ⟨pe_fireNl_unbound h hp, fun he hr => pe_fireNl_starts h hp (Nat.not_le.2 he) (hr.imp_left fun hno => ?_),
      fun he hr x hl => pe_fireNl_badAddress h hp (Nat.not_le.2 he) ((hreads _).2 hr) hl⟩
    obtain ⟨hop, h0⟩ := hno
    exact Bool.eq_false_iff.2 fun hr => ((hreads _).1 hr).elim (absurd hop) (absurd h0)
  · rw [exec_nl0 hi]
    exact ⟨pe_fireNl0_unbound h, fun he => pe_fireNl0_starts h (Nat.not_le.2 he)⟩

end Sys2Proof.Machine
end

section
/-! Settles O13 (R240, R282): what a queue instruction does by its address, then what an expert-queue instruction does by the tile and the queue of its
address. -/

namespace Sys2Proof.Machine

/-! ## The queue instructions (R240) -/

section
variable {s : State} {op : Nat} {t : Ti} {r : Region} {rel : Bool} {f : Opnds → MOp}

/-- QENQ, QDEQ and QSTEAL are one firing, each with its own opcode and the operation that it asks of the controller. -/
theorem exec_queue {i : Instr} (hi : (i = .qenq t ∧ op = 0xEB ∧ rel = true ∧ f = (fun o => .qenq o.b)) ∨
      (i = .qdeq t ∧ op = 0xEC ∧ rel = false ∧ f = (fun _ => .qdeq)) ∨ (i = .qsteal t ∧ op = 0xED ∧ rel = false ∧ f = (fun _ => .qsteal))) :
    exec i s = pe s (fun x q => fireQueue x op t rel f q) := by
  obtain ⟨rfl, rfl, rfl, rfl⟩ | ⟨rfl, rfl, rfl, rfl⟩ | ⟨rfl, rfl, rfl, rfl⟩ := hi <;> rfl

theorem pe_fireQueue_poisoned (h : Fires s op t r) (ha : (s.opnds op t r).a.pois = true) :
    pe s (fun x q => fireQueue x op t rel f q) = .next (s.trapped r { code := 0x21, va := (s.opnds op t r).a.bits.toNat }) :=
  pe_fire_err h (if_pos ha)

section
variable (h : Fires s op t r) (ha : (s.opnds op t r).a.pois = false)
include h ha

theorem pe_fireQueue_badSpace (hg : fld (s.opnds op t r).a.bits 63 62 ≠ 1) :
    pe s (fun x q => fireQueue x op t rel f q) = .next (s.trapped r { code := 0x14, va := (s.opnds op t r).a.bits.toNat, aux := 64 }) :=
  pe_fire_err h ((if_neg (Bool.eq_false_iff.1 ha)).trans (if_pos hg))

section
variable (hg : fld (s.opnds op t r).a.bits 63 62 = 1)
include hg

theorem pe_fireQueue_misaligned (hal : (s.opnds op t r).a.bits.toNat % 64 ≠ 0) :
    pe s (fun x q => fireQueue x op t rel f q) = .next (s.trapped r { code := 0x15, va := (s.opnds op t r).a.bits.toNat, aux := 64 }) :=
  pe_fire_err h ((if_neg (Bool.eq_false_iff.1 ha)).trans ((if_neg (not_not_intro hg)).trans (if_pos hal)))

/-- A multiple of 64 in global memory is not judged further when the instruction fires: its capability and its descriptor are the controller's. -/
theorem pe_fireQueue_issues (hal : (s.opnds op t r).a.bits.toNat % 64 = 0) :
    let o := s.opnds op t r
    let ea := o.a.bits
    pe s (fun x q => fireQueue x op t rel f q) =
      .next (s.fired (popsOf op t) (startMem s.here op t { a := o.a, b := o.b, ph := 4, col := colourOf r s.curKey op t }
        [accessOf s.curKey r.seq 0 { ea := ea, op := f o, rel := rel }
          (.glob (fld ea 61 54) (capBase (capEntry r (fld ea 61 54)) + fld ea 53 0) false)] r)) :=
  pe_fire_ok h ((if_neg (Bool.eq_false_iff.1 ha)).trans ((if_neg (not_not_intro hg)).trans (if_neg (not_not_intro hal))))

end
end
end

/-! ## The address of an expert queue (R282) -/

/-- The trap of a bad queue address. -/
def exqTrap (a : Word) (code : Nat) : TrapInfo := { code := code, va := a.toNat, aux := 8 }

section
variable {r : Region} {a : Word}

theorem exqAddr_badSpace (hs : fld a 63 62 ≠ 0 ∨ fld a 61 32 ≠ 0) : exqAddr r a = .error (exqTrap a 0x14) := if_pos hs

variable (h0 : fld a 63 62 = 0) (h1 : fld a 61 32 = 0)
include h0 h1

theorem exqAddr_misaligned (hal : a.toNat % 8 ≠ 0) : exqAddr r a = .error (exqTrap a 0x15) :=
  (if_neg (by omega)).trans (if_pos hal)

/-- An aligned address of the MT space names a queue of an EXQ tile of the Last, or none. -/
theorem exqAddr_aligned (hal : a.toNat % 8 = 0) :
    let key := mtAddrKey a.toNat
    let q := a.toNat % 2 ^ 19 / 8
    exqAddr r a = if r.w * r.h ≤ fld a 31 22 ∨ planeMode (r.pl key) ≠ 7 ∨ exqN (r.pl key) ≤ q then .error (exqTrap a 0x13) else .ok (key, q) := by
  have hq : fld a 18 0 / 8 = a.toNat % 2 ^ 19 / 8 := by simp [fld]
  intro key q
  unfold exqAddr
  rw [if_neg (by omega), if_neg (not_not_intro hal)]
  simp only [hq]
  rfl

end

/-! ## The expert-queue instructions (R282) -/

section
variable {s : State} {op : Nat} {t : Ti} {r : Region} {cb : Bool}

/-- EQPUSH, EQFLUSH, EQSTAT and EQPRI are one firing, each with its own opcode; EQPUSH and EQPRI consume b. -/
theorem exec_exq {i : Instr} (hi : (i = .eqpush t ∧ op = 0xE0 ∧ cb = true) ∨ (i = .eqflush t ∧ op = 0xE1 ∧ cb = false) ∨
      (i = .eqstat t ∧ op = 0xE2 ∧ cb = false) ∨ (i = .eqpri t ∧ op = 0xE3 ∧ cb = true)) :
    exec i s = pe s (fun x q => fireEq x op t cb q) := by
  obtain ⟨rfl, rfl, rfl⟩ | ⟨rfl, rfl, rfl⟩ | ⟨rfl, rfl, rfl⟩ | ⟨rfl, rfl, rfl⟩ := hi <;> rfl

variable (h : Fires s op t r) (hp : ((s.opnds op t r).a.pois || (cb && (s.opnds op t r).b.pois)) = false)
include h hp

theorem pe_fireEq_badAddress {e : TrapInfo} (he : exqAddr r (s.opnds op t r).a.bits = .error e) :
    pe s (fun x q => fireEq x op t cb q) = .next (s.trapped r e) := by
  refine pe_fire_err h ((if_neg (Bool.eq_false_iff.1 hp)).trans ?_)
  split
  next e' he' => cases he'.symm.trans he; rfl
  next key q he' => cases he'.symm.trans he

/-- A good address sends the request to its tile and queue. -/
theorem pe_fireEq_sends {key q : Nat} (he : exqAddr r (s.opnds op t r).a.bits = .ok (key, q)) :
    let o := s.opnds op t r
    pe s (fun x q => fireEq x op t cb q) =
      .next (s.fired (popsOf op t) (startMem s.here op t
        { a := o.a, b := o.b, c := tget (r.ct s.curKey).g {} (t.imm.toNat % 16), ph := 9, col := colourOf r s.curKey op t }
        [{ own := .pe s.curKey r.seq 0, op := .read 8, sp := 3, addr := (key * 16 + q) * 8, seq := r.seq, ea := o.a.bits }] r)) := by
  refine pe_fire_ok h ((if_neg (Bool.eq_false_iff.1 hp)).trans ?_)
  split
  next e' he' => cases he'.symm.trans he
  next key' q' he' => cases he'.symm.trans he; rfl

end

/-- Settles O13: a queue instruction by its address, and an expert-queue instruction by the checks of its tile and queue. -/
theorem queueIssues : Obligations.QueueIssues := by
  refine ⟨fun i op t rel f hi s r h => ?_, fun i op t cb hi s r h ha hb => ?_⟩
  · rw [exec_queue hi]
    exact ⟨pe_fireQueue_poisoned h, pe_fireQueue_badSpace h, pe_fireQueue_misaligned h, pe_fireQueue_issues h⟩
  · intro o a q key
    have hp : (o.a.pois || (cb && o.b.pois)) = false := by
      cases cb with
      | false => simp [o, ha]
      | true => simp [o, ha, hb rfl]
    rw [exec_exq hi]
    refine ⟨fun hs => pe_fireEq_badAddress h hp (exqAddr_badSpace hs), fun h0 h1 hal => pe_fireEq_badAddress h hp (exqAddr_misaligned h0 h1 hal),
      fun h0 h1 hal hn => ?_, fun h0 h1 hal hl hm hn => ?_⟩
    · exact pe_fireEq_badAddress h hp ((exqAddr_aligned h0 h1 hal).trans (if_pos hn))
    · have hok : ¬(r.w * r.h ≤ fld a 31 22 ∨ planeMode (r.pl key) ≠ 7 ∨ exqN (r.pl key) ≤ q) := by omega
      exact pe_fireEq_sends h hp ((exqAddr_aligned h0 h1 hal).trans (if_neg hok))

end Sys2Proof.Machine
end

section
/-! Settles O46 (R242, R386, R430, R441, R442, R444, R446): when a service core takes a call, what its reads and writes of memory give, then each call. -/

namespace Sys2Proof.Machine

/-! ## Taking a call (R430, R441) -/

/-- A service core looks at a SYSC and finds its call: the state after the look, the number and the arguments; its partition has a place for it, and no earlier
call on its id waits. -/
def TakesCall (s s1 : State) (rid key id n : Nat) (a : List Word) : Prop :=
  (s.sysNote (s.region rid).part).sysTry rid key id = (s1, .call n a) ∧
    (s1.part (s1.region rid).part).calls.length < (s1.arrival rid key id).sysq ∧ s1.sysBehind rid key id n a = false

theorem sysTake_of_takes {s s1 : State} {rid key id n : Nat} {a : List Word} (h : TakesCall s s1 rid key id n a)
    (f : State → Region → List Word → State) : s.sysTake rid key id n f = .next (f s1 (s1.region rid) a).wake := by
  obtain ⟨htry, hroom, hturn⟩ := h
  unfold State.sysTake
  simp only [htry, hroom, hturn, and_self, if_true]
  rfl

/-! ## Memory of a call (R376, R443, R470) -/

section
variable {s s2 : State} {rid key id n : Nat} {w : Word} {ps : List (Nat × Nat)}

/-- Bytes that no migration holds back, that translate on this device and that are not poisoned reach the call. -/
theorem svcRead_of (hheld : s.svcHeld (s.region rid) w n = false)
    (hmap : s.svcMap (s.region rid).part (clusterOf (s.region rid) key) (ptrVa (s.region rid) w) n (.read 8) = (s2, .ok (some ps)))
    (hpois : s2.poisPieces ps = false) (k : State → List Byte → State) : s.svcRead rid key id w n k = k s2 (s2.readPieces ps) := by
  unfold State.svcRead
  simp only [hheld, hmap, hpois, Bool.false_eq_true, if_false]

theorem svcWrite_of {bs : List Byte} (hn : bs.length = n) (hheld : s.svcHeld (s.region rid) w n = false)
    (hmap : s.svcMap (s.region rid).part (clusterOf (s.region rid) key) (ptrVa (s.region rid) w) n (.write 8 {}) = (s2, .ok (some ps)))
    (k : State → State) : s.svcWrite rid key id w bs k = k (s2.writePieces ps bs) := by
  subst hn
  unfold State.svcWrite
  simp only [hheld, hmap, Bool.false_eq_true, if_false]

end

/-! ## The calls (R386, R442, R444, R446) -/

section
variable {s s1 : State} {rid tile op : Nat} {a : List Word}

/-- FREAD, FCLOSE and FSIZE read no memory: each is a call on its file id. -/
theorem fileCalls_forward :
    (TakesCall s s1 rid tile op 2 a → exec (.fread rid tile op) s = .next (s1.fileCall (s1.region rid) tile op 2 a []).wake) ∧
    (TakesCall s s1 rid tile op 4 a → exec (.fclose rid tile op) s = .next (s1.fileCall (s1.region rid) tile op 4 a []).wake) ∧
    (TakesCall s s1 rid tile op 5 a → exec (.fsize rid tile op) s = .next (s1.fileCall (s1.region rid) tile op 5 a []).wake) := by
  show (_ → execFread rid tile op s = _) ∧ (_ → execFclose rid tile op s = _) ∧ (_ → execFsize rid tile op s = _)
  exact ⟨fun h => sysTake_of_takes h _, fun h => sysTake_of_takes h _, fun h => sysTake_of_takes h _⟩

theorem execSlisten_listens (h : TakesCall s s1 rid tile op 0x11 a) :
    let port := (a.getD 0 0).toNat
    let blg := (a.getD 1 0).toNat
    let part := (s1.region rid).part
    let s2 := ({ s1 with fresh := s1.fresh + 1 } : State).updPart part (fun p => { p with lists := tset p.lists s1.fresh (port, blg) })
    exec (.slisten rid tile op) s =
      .next (({ s2 with out := s2.out ++ [Out.listen part s1.fresh port blg] } : State).sysAnswer rid tile op (BitVec.ofNat 64 s1.fresh)).wake := by
  show execSlisten rid tile op s = _
  rw [execSlisten, sysTake_of_takes h]
  rfl

theorem execSaccept_waits (h : TakesCall s s1 rid tile op 0x12 a)
    (hl : (tfind (s1.part (s1.region rid).part).lists (a.getD 0 0).toNat).isSome = true) :
    exec (.saccept rid tile op) s =
      .next (s1.sysOpen (s1.region rid).part { rid := rid, key := tile, op := op, num := 0x12, args := a, lst := (a.getD 0 0).toNat }).1.wake := by
  have hknown : ¬ (tfind (s1.part (s1.region rid).part).lists (a.getD 0 0).toNat).isNone = true := by simpa [Option.isSome_iff_ne_none] using hl
  show execSaccept rid tile op s = _
  exact (sysTake_of_takes h _).trans (congrArg after (if_neg hknown))

/-- A connection that has ended, or whose FIN has gone, is closed with no FIN of its own. -/
theorem execSclose_frees {c : Conn} (h : TakesCall s s1 rid tile op 0x13 a)
    (hc : tfind (s1.part (s1.region rid).part).conns (a.getD 0 0).toNat = some c) (hfin : c.st = 3 ∨ c.finTx = true) :
    exec (.sclose rid tile op) s =
      .next ((s1.updPart (s1.region rid).part (fun p => { p with conns := tdel p.conns (a.getD 0 0).toNat })).sysAnswer rid tile op 0).wake := by
  show execSclose rid tile op s = _
  rw [execSclose, sysTake_of_takes h]
  simp only [hc, if_pos hfin]

section
variable {s2 : State} {ps : List (Nat × Nat)}

theorem execMheat_reads {pa k : Nat} (h : TakesCall s s1 rid tile op 0x21 a) (hheld : s1.svcHeld (s1.region rid) (a.getD 0 0) 1 = false)
    (hmap : s1.svcMap (s1.region rid).part (clusterOf (s1.region rid) tile) (ptrVa (s1.region rid) (a.getD 0 0)) 1 (.read 1) = (s2, .ok (some ((pa, k) :: ps)))) :
    exec (.mheat rid tile op) s =
      .next (s2.sysAnswer rid tile op (BitVec.ofNat 64 (rdNat s2.mem (heatAddr (s2.part (s1.region rid).part) pa) 4))).wake := by
  show execMheat rid tile op s = _
  rw [execMheat, sysTake_of_takes h]
  simp only [hheld, hmap, Bool.false_eq_true, if_false]

theorem execMzero_clears (h : TakesCall s s1 rid tile op 0x20 a) (hheld : s1.svcHeld (s1.region rid) (a.getD 0 0) (a.getD 1 0).toNat = false)
    (hmap : s1.svcMap (s1.region rid).part (clusterOf (s1.region rid) tile) (ptrVa (s1.region rid) (a.getD 0 0)) (a.getD 1 0).toNat (.write 8 {}) =
      (s2, .ok (some ps))) :
    exec (.mzero rid tile op) s = .next ((s2.writePieces ps (List.replicate (a.getD 1 0).toNat 0)).sysAnswer rid tile op 0).wake := by
  show execMzero rid tile op s = _
  rw [execMzero, sysTake_of_takes h, svcWrite_of List.length_replicate hheld hmap]

variable (hpois : s2.poisPieces ps = false)
include hpois

theorem execFopen_forwards (h : TakesCall s s1 rid tile op 1 a) (hheld : s1.svcHeld (s1.region rid) (a.getD 0 0) (a.getD 1 0).toNat = false)
    (hmap : s1.svcMap (s1.region rid).part (clusterOf (s1.region rid) tile) (ptrVa (s1.region rid) (a.getD 0 0)) (a.getD 1 0).toNat (.read 8) =
      (s2, .ok (some ps))) :
    exec (.fopen rid tile op) s = .next (s2.fileReq (s1.region rid) tile op 1 a (s2.readPieces ps)).wake := by
  show execFopen rid tile op s = _
  rw [execFopen, sysTake_of_takes h, svcRead_of hheld hmap hpois]

theorem execFwrite_forwards (h : TakesCall s s1 rid tile op 3 a) (hheld : s1.svcHeld (s1.region rid) (a.getD 1 0) (a.getD 2 0).toNat = false)
    (hmap : s1.svcMap (s1.region rid).part (clusterOf (s1.region rid) tile) (ptrVa (s1.region rid) (a.getD 1 0)) (a.getD 2 0).toNat (.read 8) =
      (s2, .ok (some ps))) :
    exec (.fwrite rid tile op) s = .next (s2.fileCall (s1.region rid) tile op 3 a (s2.readPieces ps)).wake := by
  show execFwrite rid tile op s = _
  rw [execFwrite, sysTake_of_takes h, svcRead_of hheld hmap hpois]

theorem execSconnect_sends (h : TakesCall s s1 rid tile op 0x10 a) (hheld : s1.svcHeld (s1.region rid) (a.getD 0 0) 18 = false)
    (hmap : s1.svcMap (s1.region rid).part (clusterOf (s1.region rid) tile) (ptrVa (s1.region rid) (a.getD 0 0)) 18 (.read 8) = (s2, .ok (some ps))) :
    let o := s2.sysOpen (s1.region rid).part { rid := rid, key := tile, op := op, num := 0x10, args := a, data := s2.readPieces ps }
    exec (.sconnect rid tile op) s = .next ({ o.1 with out := o.1.out ++ [Out.syn (s1.region rid).part o.2 (s2.readPieces ps)] } : State).wake := by
  show execSconnect rid tile op s = _
  rw [execSconnect, sysTake_of_takes h, svcRead_of hheld hmap hpois]

end
end

/-- Settles O46: each call by its lemma, once a service core has taken it. -/
theorem systemCalls : Obligations.SystemCalls := by
  intro s s1 rid tile op n a htry r p hroom hturn arg va
  have htakes : TakesCall s s1 rid tile op n a := ⟨htry, hroom, hturn⟩
  obtain ⟨hread, hclose, hsize⟩ := fileCalls_forward (s := s) (s1 := s1) (rid := rid) (tile := tile) (op := op) (a := a)
  refine ⟨?_, ?_, ?_, fun s2 ps hpois => ⟨?_, ?_, ?_⟩, fun s2 ps => ?_, fun s2 pa k ps => ?_, ?_, ?_, fun c => ?_⟩
  all_goals rintro rfl
  · exact hread htakes
  · exact hclose htakes
  · exact hsize htakes
  · exact execFopen_forwards hpois htakes
  · exact execFwrite_forwards hpois htakes
  · exact execSconnect_sends hpois htakes
  · exact execMzero_clears htakes
  · exact execMheat_reads htakes
  · exact execSlisten_listens htakes
  · exact execSaccept_waits htakes
  · exact execSclose_frees htakes

end Sys2Proof.Machine
end

section
/-! Settles O60 (R229, R230, R233, R234, R242, R243, R269, R283, R287-R289, R311): an operation that is taken off its tile stands in neither of its planes, through
all that its completion does; then what LONG_OP_COMPLETE does, by the kind of the operation and its phase; then each kind. -/

namespace Sys2Proof.Machine

/-! ## The Insole plane of a tile under a channel operation (R405) -/

/-- The Insole plane of every tile is the same. -/
structure KeepIns (r r' : Region) : Prop where
  ins (k : Nat) : (r'.tile k).ins = (r.tile k).ins

theorem KeepIns.refl (r : Region) : KeepIns r r := ⟨fun _ => rfl⟩

theorem KeepIns.trans {a b c : Region} (h : KeepIns a b) (g : KeepIns b c) : KeepIns a c := ⟨fun k => (g.ins k).trans (h.ins k)⟩

theorem keepIns_updPl (r : Region) (key : Nat) (f : Plane → Plane) : KeepIns r (r.updPl key f) := by
  refine ⟨fun k => ?_⟩
  rw [Region.updPl, Region.setPl, tile_setTile]
  split
  next e => rw [e]
  next => rfl

theorem keepIns_foldl {α : Type} (l : List α) (f : Region → α → Region) (h : ∀ r a, KeepIns r (f r a)) (r : Region) : KeepIns r (l.foldl f r) := by
  induction l generalizing r with
  | nil => exact KeepIns.refl r
  | cons a l ih => exact (h r a).trans (ih _)

theorem keepIns_sendOut (fc : Nat) (r : Region) (p : Plane) (key o : Nat) (tok : Token) : KeepIns r (r.sendOut fc p key o tok) := by
  unfold Region.sendOut
  split
  · exact keepIns_foldl _ _ (fun r d => keepIns_updPl ..) r
  · split
    · split
      · exact KeepIns.refl r
      · exact ⟨(keepIns_updPl r key (fun p => { p with credit := tset p.credit o (tget p.credit 0 o - 1) })).ins⟩
    · split
      · split <;> exact ⟨fun _ => rfl⟩
      · exact KeepIns.refl r

theorem keepIns_drainList (fc key : Nat) (l : List Emit) (b : List Nat) (r : Region) : KeepIns r (Region.drainList fc key l b r).2 := by
  induction l generalizing b r with
  | nil => exact KeepIns.refl r
  | cons e rest ih =>
    unfold Region.drainList
    dsimp only
    generalize (if e.old = true then (r.tile key).ins else r.pl key) = p
    cases e.tok with
    | none => exact ih _ r
    | some tok =>
      dsimp only
      split
      · exact ih _ r
      · exact (keepIns_foldl e.outs _ (fun r o => keepIns_sendOut ..) r).trans (ih _ _)

theorem keepIns_drainOut (fc : Nat) (r : Region) (key : Nat) : KeepIns r (r.drainOut fc key) := by
  unfold Region.drainOut
  exact (keepIns_drainList fc key _ [] r).trans (keepIns_updPl ..)

theorem keepIns_emit (fc : Nat) (r : Region) (key : Nat) (outs : List Nat) (tok : Token) : KeepIns r (r.emit fc key outs tok) := by
  unfold Region.emit
  split
  · exact KeepIns.refl r
  · exact (keepIns_updPl ..).trans (keepIns_drainOut ..)

theorem keepIns_fill (fc : Nat) (r : Region) (key op : Nat) (tok : Token) : KeepIns r (r.fill fc key op tok) :=
  (keepIns_updPl ..).trans (keepIns_drainOut ..)

theorem keepIns_unreserve (fc : Nat) (r : Region) (key op : Nat) : KeepIns r (r.unreserve fc key op) :=
  (keepIns_updPl ..).trans (keepIns_drainOut ..)

theorem keepIns_freeHnd (fc : Nat) (r : Region) (key h : Nat) : KeepIns r (freeHnd fc r key h) := by
  have hfree := keepIns_updPl r key (fun p => { p with hs := tupd p.hs {} h (fun x => { x with st := hFree, nxt := none, space := none, moved := true }) })
  unfold freeHnd
  dsimp only
  split
  · exact hfree.trans (keepIns_emit ..)
  · exact hfree

/-! ## An operation that is no more -/

section
variable {r r' : Region} {key id : Nat} {o : PendOp}

theorem op?_eq_none_iff : r.op? key id = none ↔ tfind (r.ct key).ops id = none ∧ tfind (r.tile key).ins.ct.ops id = none := by
  unfold Region.op?
  cases tfind (r.ct key).ops id <;> simp

/-- What leaves every context and every Insole plane alone brings no operation back. -/
theorem op?_none_of_keep (h : r.op? key id = none) (hct : KeepCt r r') (hins : KeepIns r r') : r'.op? key id = none := by
  rw [op?_eq_none_iff] at h ⊢
  obtain ⟨hact, hold⟩ := h
  exact ⟨by rw [hct.1 key]; exact hact, by rw [hins.ins key]; exact hold⟩

theorem op?_none_of_updCt (h : r.op? key id = none) {f : Ct → Ct} (hf : ∀ c, (f c).ops = c.ops) : (r.updCt key f).op? key id = none := by
  rw [op?_eq_none_iff] at h ⊢
  obtain ⟨hact, hold⟩ := h
  exact ⟨by rw [ct_updCt_same, hf]; exact hact, by rw [Region.updCt, (keepIns_updPl r key _).ins]; exact hold⟩

@[simp] theorem predUpd_ops (c : Ct) (t : Ti) (cond : Bool) : (predUpd c t cond).ops = c.ops := by
  unfold predUpd
  split <;> rfl

/-- The context of a tile without one of its operations: the operation, its marks and its slot's hold are gone. -/
def dropCt (r : Region) (key id : Nat) (o : PendOp) (c : Ct) : Ct :=
  { pendMarks r key o.code o.ti false c with ops := tdel c.ops id, hold := tdel c.hold o.slot }

theorem tile_dropOp (r : Region) (key id : Nat) (o : PendOp) (k : Nat) : (dropOp r key id o).tile k = (r.updCt key (dropCt r key id o)).tile k := rfl

theorem ops_dropOp (r : Region) (key id : Nat) (o : PendOp) : ((dropOp r key id o).ct key).ops = tdel (r.ct key).ops id := by
  rw [Region.ct, Region.pl, tile_dropOp]
  exact congrArg Ct.ops (ct_updCt_same r key (dropCt r key id o))

theorem keepIns_dropOp (r : Region) (key id : Nat) (o : PendOp) : KeepIns r (dropOp r key id o) :=
  ⟨fun k => by rw [tile_dropOp]; exact (keepIns_updPl r key _).ins k⟩

variable (h : tfind (r.tile key).ins.ct.ops id = none)
include h

theorem op?_dropOp : (dropOp r key id o).op? key id = none := by
  refine op?_eq_none_iff.2 ⟨?_, ?_⟩
  · rw [ops_dropOp, tfind_tdel, if_pos rfl]
  · rw [(keepIns_dropOp r key id o).ins, h]

/-- A completion without a result: the operation goes, and its cond updates the predicate. -/
theorem op?_dropOp_predUpd (cond : Bool) : ((dropOp r key id o).updCt key (fun c => predUpd c o.ti cond)).op? key id = none :=
  op?_none_of_updCt (op?_dropOp h) (fun c => predUpd_ops c o.ti cond)

theorem op?_completeS (fc : Nat) (v : Val) (cond : Bool) : (completeS fc r key id o v cond).op? key id = none := by
  unfold completeS
  refine op?_none_of_updCt ?_ (fun c => predUpd_ops c o.ti cond)
  split
  · exact op?_none_of_keep (op?_dropOp h) (keepCt_fill ..) (keepIns_fill ..)
  · exact op?_none_of_updCt (op?_dropOp h) (fun _ => rfl)

theorem op?_failOp (fc : Nat) (e : TrapInfo) : (failOp fc r key id o e).op? key id = none :=
  op?_none_of_keep (r' := (dropOp r key id o).unreserve fc key id) (op?_dropOp h) (keepCt_unreserve ..) (keepIns_unreserve ..)

end

/-- An operation that is replaced is the new one, in whichever plane it stands. -/
theorem op?_setOp (r : Region) (key id : Nat) (o : PendOp) : (r.setOp key id o).op? key id = some o := by
  unfold Region.setOp
  split
  next h _ =>
    have hact : tfind (r.tile key).act.ct.ops id = none := h
    simp [Region.op?, Region.ct, Region.pl, hact]
  next => simp [Region.op?]

/-! ## LONG_OP_COMPLETE (R22, R29, R59) -/

section
variable {s : State} {rid key id : Nat} {r : Region} {o : PendOp}

theorem region_at_of_completes (h : Completes s rid key id r o) : tfind s.regions rid = some r := by
  obtain ⟨hr, -⟩ := h
  exact hr

theorem op?_of_completes (h : Completes s rid key id r o) : r.op? key id = some o := by
  obtain ⟨-, hop, -⟩ := h
  simp [Region.op?, hop]

/-- An operation of the active plane completes there. -/
theorem completeLong_of_completes (h : Completes s rid key id r o) : s.completeLong rid key id = s.completeHere rid key id := by
  obtain ⟨hr, hop, -⟩ := h
  simp [State.completeLong, State.inPlane, region_of_tfind hr, hop]

theorem exec_longOpComplete (h : Completes s rid key id r o) : exec (.longOpComplete rid key id) s = .next (s.completeHere rid key id).wake := by
  show execLongOpComplete rid key id s = _
  rw [execLongOpComplete, completeLong_of_completes h]

theorem endIfGone_wake (s : State) (rid key id slot : Nat) :
    (if ((s.region rid).op? key id).isNone then s.endWait rid key slot else s).wake = s.ended rid key id slot := rfl

/-- A wait declaration acts on its object once its access has ended. -/
theorem exec_longOpComplete_wait (h : Completes s rid key id r o) (hc : o.code = 0xDA ∨ o.code = 0xDB ∨ o.code = 0xDC) (hd : accsDone r o = true) :
    exec (.longOpComplete rid key id) s = .next ((s.completeWait rid key id o).ended rid key id o.slot) := by
  have hcall : o.code ≠ 0xF0 := by omega
  rw [exec_longOpComplete h, ← endIfGone_wake]
  have hop := op?_of_completes h
  obtain ⟨hr, -, -, hrun, -⟩ := h
  simp only [State.completeHere, region_of_tfind hr, hop, hrun, hcall, hc, hd, Bool.not_true, Bool.false_eq_true, false_and, if_false, if_true]

/-- A call that has not been taken is looked at. -/
theorem exec_longOpComplete_call (h : Completes s rid key id r o) (hc : o.code = 0xF0) (hph : o.ph = 5) :
    exec (.longOpComplete rid key id) s = .next ((s.sysImmediate rid key id).ended rid key id o.slot) := by
  rw [exec_longOpComplete h, ← endIfGone_wake]
  have hop := op?_of_completes h
  obtain ⟨hr, -, -, hrun, -⟩ := h
  simp only [State.completeHere, region_of_tfind hr, hop, hrun, hc, hph, Bool.not_true, Bool.false_eq_true, and_self, if_false, if_true]

/-- Every other operation completes within its region. -/
theorem exec_longOpComplete_region (h : Completes s rid key id r o) (hw : ¬(o.code = 0xDA ∨ o.code = 0xDB ∨ o.code = 0xDC))
    (hcall : o.code ≠ 0xF0 ∨ (o.ph ≠ 5 ∧ o.ph ≠ phSvc)) :
    exec (.longOpComplete rid key id) s = .next ((s.setRegion rid (completeOp s s.fc r key id o)).ended rid key id o.slot) := by
  rw [exec_longOpComplete h, ← endIfGone_wake]
  have hop := op?_of_completes h
  obtain ⟨hr, -, -, hrun, -⟩ := h
  have hnow : ¬(o.code = 0xF0 ∧ o.ph = 5) := by omega
  have hsvc : ¬(o.code = 0xF0 ∧ o.ph = phSvc) := by omega
  simp only [State.completeHere, region_of_tfind hr, hop, hrun, hnow, hsvc, hw, onRegion_of _ hr, Bool.not_true, Bool.false_eq_true, if_false]

/-- An operation that leaves its tile has finished: the wait of its slot ends. -/
theorem ended_setRegion_of_gone {r' : Region} (h : r'.op? key id = none) : (s.setRegion rid r').ended rid key id o.slot = s.finished rid key o r' := by
  rw [State.ended, region_setRegion_same, h]
  rfl

theorem exec_longOpComplete_gone (h : Completes s rid key id r o) (hw : ¬(o.code = 0xDA ∨ o.code = 0xDB ∨ o.code = 0xDC))
    (hcall : o.code ≠ 0xF0 ∨ (o.ph ≠ 5 ∧ o.ph ≠ phSvc)) {r' : Region} (hr' : completeOp s s.fc r key id o = r') (hgone : r'.op? key id = none) :
    exec (.longOpComplete rid key id) s = .next (s.finished rid key o r') := by
  rw [exec_longOpComplete_region h hw hcall, hr', ended_setRegion_of_gone hgone]

/-! ## What a due operation does in its region, by its phase -/

/-- An operation that may complete is held back neither by its fc nor by a lower slot. -/
theorem notHeld_of_completes (h : Completes s rid key id r o) : (!opDue s.fc o || (o.due.isSome && !slotFirst s.fc r key o)) = false := by
  obtain ⟨-, -, -, -, hdue, hnone | hfirst⟩ := h
  · simp [hdue, hnone]
  · simp [hdue, hfirst]

theorem completeOp_earlier (h : Completes s rid key id r o) (hph : o.ph = 5) (he : earlierDone r key id = false) :
    completeOp s s.fc r key id o = r := by
  simp [completeOp, notHeld_of_completes h, hph, he]

theorem completeOp_fence (h : Completes s rid key id r o) (hph : o.ph = 5) (hc : o.code = 0xD9) (he : earlierDone r key id = true) :
    completeOp s s.fc r key id o = completeFence r key id o := by
  simp [completeOp, notHeld_of_completes h, hph, hc, he]

theorem completeOp_handle (h : Completes s rid key id r o) (hph : o.ph = 5) (hc : o.code = 0xD5 ∨ o.code = 0xD7) (he : earlierDone r key id = true) :
    completeOp s s.fc r key id o = completeHnd s.fc r key id o := by
  have hfence : o.code ≠ 0xD9 := by omega
  simp [completeOp, notHeld_of_completes h, hph, hfence, hc, he]

theorem completeOp_answered (h : Completes s rid key id r o) (hph : o.ph = 6) (hc : o.code ≠ 0xF0 ∨ r.st ≠ rFrozen) :
    completeOp s s.fc r key id o = completeS s.fc r key id o o.res o.cond := by
  have hgo : ¬(o.code = 0xF0 ∧ r.st = rFrozen) := fun ⟨hcall, hfrozen⟩ => hc.elim (· hcall) (· hfrozen)
  simp [completeOp, notHeld_of_completes h, hph, hgo]

theorem completeOp_status (h : Completes s rid key id r o) (hph : o.ph = 8) : completeOp s s.fc r key id o = completeScstat s.fc r key id o := by
  simp [completeOp, notHeld_of_completes h, hph]

theorem completeOp_queue (h : Completes s rid key id r o) (hph : o.ph = 9) : completeOp s s.fc r key id o = completeEq s s.fc r key id o := by
  simp [completeOp, notHeld_of_completes h, hph]

end

/-! ## Fences and handles (R229, R230) -/

section
variable {s : State} {rid key id : Nat} {r : Region} {o : PendOp} (h : Completes s rid key id r o)
include h

theorem ins_of_completes : tfind (r.tile key).ins.ct.ops id = none := by
  obtain ⟨-, -, hins, -⟩ := h
  exact hins

theorem longOpComplete_fence (hph : o.ph = 5) (hc : o.code = 0xD9) (he : earlierDone r key id = true) :
    exec (.longOpComplete rid key id) s = .next (s.finished rid key o ((dropOp r key id o).updCt key (fun c => predUpd c o.ti true))) :=
  exec_longOpComplete_gone h (by omega) (.inl (by omega)) (completeOp_fence h hph hc he) (op?_dropOp_predUpd (ins_of_completes h) true)

/-- A fence and a handle operation wait for the accesses that their PE issued before them. -/
theorem longOpComplete_earlier (hph : o.ph = 5) (hc : o.code = 0xD5 ∨ o.code = 0xD7 ∨ o.code = 0xD9) (he : earlierDone r key id = false) :
    exec (.longOpComplete rid key id) s = .next ((s.setRegion rid r).ended rid key id o.slot) := by
  rw [exec_longOpComplete_region h (by omega) (.inl (by omega)), completeOp_earlier h hph he]

section
variable {k n : Nat} (hph : o.ph = 5) (he : earlierDone r key id = true) (hsel : hselOf r key (o.ti.imm.toNat % 32) = some (k, n))
include hph he hsel

theorem longOpComplete_hfin (hc : o.code = 0xD7) (hst : (r.hnd k n).st = hFilling) :
    exec (.longOpComplete rid key id) s = .next (s.finished rid key o
      ((dropOp (r.updHnd k n (fun x => { x with st := hFull, moved := true })) key id o).updCt key (fun c => predUpd c o.ti true))) := by
  refine exec_longOpComplete_gone h (by omega) (.inl (by omega)) ?_ (op?_dropOp_predUpd ?_ true)
  · rw [completeOp_handle h hph (.inr hc) he]
    simp [completeHnd, hsel, hndMay, hc, hst]
  · rw [Region.updHnd, (keepIns_updPl r k _).ins, ins_of_completes h]

theorem longOpComplete_hrel (hc : o.code = 0xD5) (hst : (r.hnd k n).st = hFull ∨ (r.hnd k n).st = hDraining) :
    exec (.longOpComplete rid key id) s = .next (s.finished rid key o
      ((dropOp (freeHnd s.fc r k n) key id o).updCt key (fun c => predUpd c o.ti true))) := by
  refine exec_longOpComplete_gone h (by omega) (.inl (by omega)) ?_ (op?_dropOp_predUpd ?_ true)
  · have hmay : hndMay 0xD5 (r.hnd k n).st = true := (hndMay_iff _ _).2 hst
    rw [completeOp_handle h hph (.inl hc) he]
    simp [completeHnd, hsel, hmay, hc]
  · rw [(keepIns_freeHnd s.fc r k n).ins, ins_of_completes h]

/-- A handle that has left the state it was found in when the instruction fired is a trap at completion. -/
theorem longOpComplete_handleMoved (hc : (o.code = 0xD7 ∧ (r.hnd k n).st ≠ hFilling) ∨
      (o.code = 0xD5 ∧ (r.hnd k n).st ≠ hFull ∧ (r.hnd k n).st ≠ hDraining)) :
    exec (.longOpComplete rid key id) s = .next (s.finished rid key o
      (failOp s.fc r key id o { code := 0x2A, aux := (r.hnd k n).st.toNat * 32 + o.ti.imm.toNat % 32 })) := by
  have hcode : o.code = 0xD5 ∨ o.code = 0xD7 := hc.symm.imp And.left And.left
  have hmay : hndMay o.code (r.hnd k n).st = false := by
    rw [Bool.eq_false_iff, Ne, hndMay_iff]
    obtain ⟨hc, hst⟩ | ⟨hc, hfull, hdrain⟩ := hc
    · rwa [if_pos hc]
    · rw [if_neg (by omega)]
      exact not_or.2 ⟨hfull, hdrain⟩
  refine exec_longOpComplete_gone h (by omega) (.inl (by omega)) ?_ (op?_failOp (ins_of_completes h) _ _)
  rw [completeOp_handle h hph hcode he]
  simp [completeHnd, hsel, hmay, handleTrap]

end

/-! ## Answered operations and SCSTAT (R22, R243, R269) -/

theorem longOpComplete_answered (hph : o.ph = 6) (hw : o.code ∉ [0xDA, 0xDB, 0xDC]) (hc : o.code ≠ 0xF0 ∨ r.st ≠ rFrozen) :
    exec (.longOpComplete rid key id) s = .next (s.finished rid key o (completeS s.fc r key id o o.res o.cond)) :=
  exec_longOpComplete_gone h (by simpa using hw) (.inr (by rw [hph]; decide)) (completeOp_answered h hph hc) (op?_completeS (ins_of_completes h) _ _ _)

/-- SCSTAT delivers the status word of its copy; its cond is that the copy is complete. -/
theorem longOpComplete_scstat (hph : o.ph = 8) (hc : o.code = 0xEA) {w : Word} (hw : copyStatus r (o.a.bits.toNat % 2 ^ 16) = w) :
    exec (.longOpComplete rid key id) s = .next (s.finished rid key o (completeS s.fc r key id o { bits := w } (fld w 63 62 == 2))) := by
  subst hw
  exact exec_longOpComplete_gone h (by omega) (.inl (by omega)) (completeOp_status h hph) (op?_completeS (ins_of_completes h) _ _ _)

end

section
variable {r : Region} {n : Nat}

theorem copyStatus_unknown (hage : 64 ≤ (r.cpyid + 2 ^ 16 - n - 1) % 2 ^ 16) : copyStatus r n = 0 := if_pos hage

section
variable (hage : (r.cpyid + 2 ^ 16 - n - 1) % 2 ^ 16 < 64)
include hage

theorem copyStatus_running {x : Nat} {z : Strm} (hf : r.copies.find? (fun c => c.2.cid == n) = some (x, z)) :
    copyStatus r n = BitVec.ofNat 64 (2 ^ 62 + dBoxes z.desc * 2 ^ 16 + z.done.length) := by
  rw [copyStatus, if_neg (Nat.not_le.2 hage), hf]

theorem copyStatus_ended {w : Word} {b : Nat} (hf : r.copies.find? (fun c => c.2.cid == n) = none) (hw : tfind r.cstat n = some (w, b)) :
    copyStatus r n = w := by
  rw [copyStatus, if_neg (Nat.not_le.2 hage), hf, hw]

end
end

/-! ## The queue instructions at their tile (R283, R287-R289) -/

section
variable {s : State} {rid key id n : Nat} {r : Region} {o : PendOp} {a : Access} (h : Completes s rid key id r o) (hph : o.ph = 9) (haccs : o.accs = [n])
  (ha : tfind r.flight n = some a)
include h hph haccs ha

/-- A push has entered its queue, and the ring holds its record if it went there. -/
theorem longOpComplete_eqpush (hc : o.code = 0xE0) (hst : a.st = .done) (hu : unitOpen r (a.addr / 8 / 16) id = false) :
    exec (.longOpComplete rid key id) s = .next (s.finished rid key o
      (completeS s.fc { r with flight := r.flight.filter (fun b => b.2.own != Owner.unit (a.addr / 8 / 16) id) } key id o o.res true)) := by
  have hins := ins_of_completes h
  refine exec_longOpComplete_gone h (by omega) (.inl (by omega)) ?_ (op?_completeS ?_ _ _ _)
  · rw [completeOp_queue h hph]
    simp [completeEq, haccs, ha, hc, hst, hu]
  · exact hins

variable (hst : a.st = .travel) (hlive : unitLive r (a.addr / 8 / 16) = true) (hord : mustPrecede s r n a false = true)
include hst hlive hord

/-- A flush leaves its mark behind the entries of its queue, and waits for its token. -/
theorem longOpComplete_eqflush (hc : o.code = 0xE1) :
    let tk := a.addr / 8 / 16
    let q := a.addr / 8 % 16
    let p := r.pl tk
    exec (.longOpComplete rid key id) s = .next ((s.setRegion rid ((doneAcc r n a).setQ tk q (fun z =>
      { z with flush := z.flush ++
          [{ mark := p.u.qord, tile := key, op := id, col := o.col, n := ((p.u.ents ++ p.u.ring).filter (fun e => e.q == q)).length, fc := s.fc }] }))).ended rid key id o.slot) := by
  intro tk q p
  rw [exec_longOpComplete_region h (by omega) (.inl (by omega)), completeOp_queue h hph]
  simp [completeEq, haccs, ha, hc, hst, hlive, hord, tk, q, p]

theorem longOpComplete_eqstat (hc : o.code = 0xE2) :
    let w := exqStatus (r.pl (a.addr / 8 / 16)) s.fc (a.addr / 8 % 16)
    exec (.longOpComplete rid key id) s = .next (s.finished rid key o (completeS s.fc r key id o { bits := w } (fld w 59 24 != 0))) := by
  refine exec_longOpComplete_gone h (by omega) (.inl (by omega)) ?_ (op?_completeS (ins_of_completes h) _ _ _)
  rw [completeOp_queue h hph]
  simp [completeEq, haccs, ha, hc, hst, hlive, hord]

/-- The class is set, and the one it replaces is the result. -/
theorem longOpComplete_eqpri (hc : o.code = 0xE3) :
    let tk := a.addr / 8 / 16
    let q := a.addr / 8 % 16
    let old := (exqSt (r.pl tk) q).cls
    exec (.longOpComplete rid key id) s = .next (s.finished rid key o
      (completeS s.fc (r.setQ tk q (fun z => { z with cls := BitVec.ofNat 2 (fld o.b.bits 1 0) })) key id o
        { bits := BitVec.ofNat 64 old.toNat } (old != 0))) := by
  intro tk q old
  refine exec_longOpComplete_gone h (by omega) (.inl (by omega)) ?_ (op?_completeS ?_ _ _ _)
  · rw [completeOp_queue h hph]
    simp [completeEq, haccs, ha, hc, hst, hlive, hord, tk, q, old]
  · rw [Region.setQ, (keepIns_updPl r tk _).ins, ins_of_completes h]

end

/-! ## Wait declarations (R233, R234) -/

/-- What WREG, WHOLD and WDROP end with: the operation completes in its region with a value, whose cond says whether it is 0. -/
def State.waitFin (s : State) (rid key id : Nat) (o : PendOp) (v : Word) : State :=
  onRegion s rid (fun r => completeS s.fc r key id o { bits := v } (v != 0))

section
variable {s : State} {rid key id n : Nat} {r : Region} {o : PendOp} {a : Access} {obj : Word}

/-- The single access of a wait declaration has ended, so its object is known. -/
theorem accsDone_of_done (haccs : o.accs = [n]) (ha : tfind r.flight n = some a) (hst : a.st = .done) : accsDone r o = true := by
  simp [accsDone, opAccs, haccs, ha, hst]

/-- An explicit entry of the slot of an operation. -/
def ownEntry (rid key : Nat) (o : PendOp) (e : Wfe) : Bool :=
  e.exp && e.rid == rid && e.page == keyPage key && e.pos == keyPos key && e.slot == o.slot

variable (hr : tfind s.regions rid = some r) (haccs : o.accs = [n]) (ha : tfind r.flight n = some a) (hobj : s.objOf r a = some obj)
include hr haccs ha hobj

/-- The object of a wait declaration is the one its access reached. -/
theorem objOf_opAccs : (((opAccs (s.region rid) o).head?.bind (s.objOf (s.region rid))).getD 0) = obj := by
  simp [region_of_tfind hr, opAccs, haccs, ha, hobj]

theorem completeWait_known (hc : o.code = 0xDA) (hown : s.entries.any (fun e => ownEntry rid key o e && e.obj == obj) = true) :
    s.completeWait rid key id o = s.waitFin rid key id o 1 := by
  unfold State.completeWait
  simp only [objOf_opAccs hr haccs ha hobj, hc]
  exact if_pos hown

/-- A WREG on a new object registers it: tracked, untracked, or refused. -/
theorem completeWait_registers (hc : o.code = 0xDA) (hown : s.entries.any (fun e => ownEntry rid key o e && e.obj == obj) = false) {s1 : State} {v : Nat}
    (hreg : s.register rid key o.slot (o.ti.imm.toNat % 16) obj true = (s1, v)) :
    s.completeWait rid key id o =
      if v = 2 then onRegion s1 rid (fun r => failOp s1.fc r key id o { code := 0x29, elem := o.ti.imm.toNat % 16, aux := obj.toNat })
      else s1.waitFin rid key id o (BitVec.ofNat 64 v) := by
  unfold State.completeWait
  simp only [objOf_opAccs hr haccs ha hobj, hc]
  refine (if_neg (Bool.eq_false_iff.1 hown)).trans ?_
  rw [wKind, hreg]
  by_cases hv : v = 2
  · subst hv
    rfl
  · rw [if_neg hv]
    split
    next heq => cases heq; exact absurd rfl hv
    next heq => cases heq; rfl

theorem completeWait_declares (hc : o.code = 0xDB) :
    s.completeWait rid key id o = (s.declare rid (o.ti.imm.toNat % 16) obj).waitFin rid key id o 1 := by
  unfold State.completeWait
  simp only [objOf_opAccs hr haccs ha hobj, hc]
  rfl

/-- WDROP withdraws a declaration, or the slot's own entries of its kind on the object. -/
theorem completeWait_drops (hc : o.code = 0xDC) :
    s.completeWait rid key id o =
      (if o.ti.imm.getLsbD 4 then s.undeclare rid (o.ti.imm.toNat % 16) obj
       else (s.dropEntries (fun e => ownEntry rid key o e && e.kind == o.ti.imm.toNat % 16 && e.obj == obj)).endUntracked rid key o.slot
        (some (o.ti.imm.toNat % 16, obj))).waitFin rid key id o 1 := by
  unfold State.completeWait
  simp only [objOf_opAccs hr haccs ha hobj, hc]
  split <;> rfl

end

/-! ## System calls that end at once (R242, R243) -/

section
variable {s s2 : State} {rid key id : Nat} {r : Region} (hr : tfind s.regions rid = some r)
include hr

theorem sysImmediate_answers {i : Int} (h : (s.sysNote r.part).sysTry rid key id = (s2, .stat i)) :
    s.sysImmediate rid key id = s2.sysAnswer rid key id (kv i) := by
  simp only [State.sysImmediate, region_of_tfind hr, h]

theorem sysImmediate_stalls {x : TrapInfo} (h : (s.sysNote r.part).sysTry rid key id = (s2, .stall x)) :
    s.sysImmediate rid key id = s2.sysStall rid key id x := by
  simp only [State.sysImmediate, region_of_tfind hr, h]

end

/-! ## NLSTAT (R300, R311) -/

/-- The statuses asked for in an fc: those of both planes of each tile. -/
def nlAsks (r : Region) : List (Nat × Nat × PendOp) :=
  (r.tiles.map (fun t => ((t.2.act.ct.ops ++ t.2.ins.ct.ops).filter (fun x => x.2.ph == 12)).map (fun x => (t.1, x.1, x.2)))).flatten

/-- The status that is asked for alone is taken at the end of the fc. -/
theorem nlSample_of_single {r : Region} {key id : Nat} {o : PendOp} (h : nlAsks r = [(key, id, o)]) :
    (nlSample r).op? key id =
      some { o with ph := 6, res := { bits := nlStatus r (opEng o) }, cond := fld (nlStatus r (opEng o)) 39 23 != 0 } := by
  rw [nlAsks] at h
  rw [nlSample, h]
  exact op?_setOp ..

/-- Settles O60: each kind of operation by its lemma, in the order of the phases. -/
theorem syncCompletes : Obligations.SyncCompletes := by
  refine ⟨fun s rid key id r o h => ?_, fun s rid key id n r o a h hph haccs ha => ?_, fun s rid key id n r o a obj h haccs ha hst hobj => ?_,
    fun s s2 rid key id r o h hc hph => ?_, fun r key id o h => nlSample_of_single h⟩
  · intro fin sel n age
    refine ⟨longOpComplete_fence h, longOpComplete_earlier h, fun k i hph he hsel => ?_, longOpComplete_answered h, fun hph hc => ⟨fun hage => ?_,
      fun x z hage hf => ?_, fun w b hage hf hw => ?_⟩⟩
    · exact ⟨longOpComplete_hfin h hph he hsel, longOpComplete_hrel h hph he hsel, longOpComplete_handleMoved h hph he hsel⟩
    · exact longOpComplete_scstat h hph hc (copyStatus_unknown hage)
    · exact longOpComplete_scstat h hph hc (copyStatus_running hage hf)
    · exact longOpComplete_scstat h hph hc (copyStatus_ended hage hf hw)
  · intro tk q p
    exact ⟨longOpComplete_eqpush h hph haccs ha, fun hst hlive hord => ⟨longOpComplete_eqflush h hph haccs ha hst hlive hord,
      longOpComplete_eqstat h hph haccs ha hst hlive hord, longOpComplete_eqpri h hph haccs ha hst hlive hord⟩⟩
  · intro kind fin mine
    have hr := region_at_of_completes h
    have hend {s' : State} (hc : o.code = 0xDA ∨ o.code = 0xDB ∨ o.code = 0xDC) (hs' : s.completeWait rid key id o = s') :
        exec (.longOpComplete rid key id) s = .next (s'.ended rid key id o.slot) := by
      rw [exec_longOpComplete_wait h hc (accsDone_of_done haccs ha hst), hs']
    have hdrops (hc : o.code = 0xDC) := completeWait_drops hr haccs ha hobj (key := key) (id := id) hc
    exact ⟨fun hc hown => hend (.inl hc) (completeWait_known hr haccs ha hobj hc hown),
      fun hc hown s1 v hreg =>
        ⟨fun hv => hend (.inl hc) ((completeWait_registers hr haccs ha hobj hc hown hreg).trans (if_neg hv)),
          fun hv => hend (.inl hc) ((completeWait_registers hr haccs ha hobj hc hown hreg).trans (if_pos hv))⟩,
      fun hc => hend (.inr (.inl hc)) (completeWait_declares hr haccs ha hobj hc),
      fun hc hbit => hend (.inr (.inr hc)) ((hdrops hc).trans (congrArg (State.waitFin · rid key id o 1) (if_pos hbit))),
      fun hc hbit => hend (.inr (.inr hc)) ((hdrops hc).trans (congrArg (State.waitFin · rid key id o 1) (if_neg (Bool.eq_false_iff.1 hbit))))⟩
  · have hr := region_at_of_completes h
    refine ⟨fun i htry => ?_, fun x htry => ?_⟩
    · rw [exec_longOpComplete_call h hc hph, sysImmediate_answers hr htry]
      rfl
    · rw [exec_longOpComplete_call h hc hph, sysImmediate_stalls hr htry]

end Sys2Proof.Machine
end

section
/-! Settles O24 (R273, R418): the words of a vector and the fields of an entry's mark word, each put together again. -/

namespace Sys2Proof.Machine

/-! ## A channel entry (R418) -/

/-- The 64-bit digits of a number below 2^(64 n), put together again. -/
theorem foldr_words (n v : Nat) :
    ((List.range n).map (fun k => v / 2 ^ (64 * k) % 2 ^ 64)).foldr (fun x acc => x + 2 ^ 64 * acc) 0 = v % 2 ^ (64 * n) := by
  induction n generalizing v with
  | zero => simp [Nat.mod_one]
  | succ n ih =>
    have hshift (k : Nat) : v / 2 ^ (64 * (k + 1)) = v / 2 ^ 64 / 2 ^ (64 * k) := by
      rw [Nat.div_div_eq_div_mul, ← Nat.pow_add, Nat.mul_succ, Nat.add_comm]
    have hmod : v % 2 ^ (64 * (n + 1)) = v % 2 ^ 64 + 2 ^ 64 * (v / 2 ^ 64 % 2 ^ (64 * n)) := by
      rw [← Nat.mod_mul, ← Nat.pow_add, Nat.mul_succ, Nat.add_comm]
    rw [hmod, ← ih, List.range_succ_eq_map, List.map_cons, List.map_map, List.foldr_cons]
    simp [Function.comp_def, hshift]

/-- The words of a vector make the vector. -/
theorem vofWords_vwords (v : BitVec 512) : (vofWords ((List.range 8).map (fun k => { bits := vword v k }))).bits = v := by
  have hv : v.toNat % 2 ^ (64 * 8) = v.toNat := by rw [show 64 * 8 = 512 from rfl, v.toNat_mod_cancel]
  simp only [vofWords, List.map_map, Function.comp_def, vword, BitVec.toNat_ofNat, foldr_words, hv, BitVec.ofNat_toNat, BitVec.setWidth_eq]

/-- A field of a word given as a number. -/
theorem fld_ofNat {n : Nat} (h : n < 2 ^ 64) (hi lo : Nat) : fld (BitVec.ofNat 64 n) hi lo = n / 2 ^ lo % 2 ^ (hi + 1 - lo) := by
  rw [fld, BitVec.toNat_ofNat, Nat.mod_eq_of_lt h]

theorem ofNat_eq_of_toNat {w n : Nat} {x : BitVec w} (h : n = x.toNat) : BitVec.ofNat w n = x := by rw [h, BitVec.ofNat_toNat, BitVec.setWidth_eq]

theorem entryTok_vector (t : Token) : entryTok true (entryWords true t) = t := by
  have hp := t.pois.isLt
  have hc := t.col.isLt
  have hm := t.mark.isLt
  have hn : t.pois.toNat + t.col.toNat * 2 ^ 8 + t.mark.toNat * 2 ^ 18 < 2 ^ 64 := by omega
  have hpay : (vofWords (((entryWords true t).take 8).map (fun w => { bits := w }))).bits = t.pay := vofWords_vwords t.pay
  have hmeta : (entryWords true t).getD 8 0 = BitVec.ofNat 64 (t.pois.toNat + t.col.toNat * 2 ^ 8 + t.mark.toNat * 2 ^ 18) := rfl
  simp only [entryTok, if_true, hpay, hmeta, fld_ofNat hn]
  rw [ofNat_eq_of_toNat (x := t.pois) (by omega), ofNat_eq_of_toNat (x := t.col) (by omega), ofNat_eq_of_toNat (x := t.mark) (by omega)]

/-- A scalar token uses the low word of its payload and one poison bit (R12). -/
theorem entryTok_scalar (t : Token) (hpay : t.pay.toNat < 2 ^ 64) (hpois : t.pois.toNat < 2) : entryTok false (entryWords false t) = t := by
  have hc := t.col.isLt
  have hm := t.mark.isLt
  have hn : t.mark.toNat + t.col.toNat * 4 + t.pois.toNat % 2 * 2 ^ 12 < 2 ^ 64 := by omega
  have hmeta : (entryWords false t).getD 1 0 = BitVec.ofNat 64 (t.mark.toNat + t.col.toNat * 4 + t.pois.toNat % 2 * 2 ^ 12) := rfl
  have hword : ((entryWords false t).getD 0 0).zeroExtend 512 = t.pay := by
    have h0 : (entryWords false t).getD 0 0 = vword t.pay 0 := rfl
    refine BitVec.eq_of_toNat_eq ?_
    rw [h0, BitVec.toNat_setWidth_of_le (by decide), vword, BitVec.toNat_ofNat, Nat.mul_zero, Nat.pow_zero, Nat.div_one, Nat.mod_eq_of_lt hpay]
  simp only [entryTok, Bool.false_eq_true, if_false, hword, hmeta, fld_ofNat hn]
  rw [ofNat_eq_of_toNat (x := t.pois) (by omega), ofNat_eq_of_toNat (x := t.col) (by omega), ofNat_eq_of_toNat (x := t.mark) (by omega)]

/-- Settles O24: a vector entry and a scalar entry, each read back. -/
theorem entryRoundTrip : Obligations.EntryRoundTrip := ⟨entryTok_vector, entryTok_scalar⟩

end Sys2Proof.Machine
end

section
/-! Settles O23 (R273, R274, R276-R278): what a unit's step does to its own tile, then the steps of each unit. -/

namespace Sys2Proof.Machine

/-! ## The event of a unit (R271) -/

section
variable {s : State} {rid key mode : Nat} {r : Region}

theorem unitEv_of_runs (h : UnitRuns s rid key mode r) (f : Nat → Region → Region) :
    unitEv s rid key mode f = .next (s.setRegion rid (f s.fc r)) := by
  obtain ⟨hr, hlive, hmode⟩ := h
  simp [unitEv, onRegion_of _ hr, hlive, hmode]

/-- The mark of a data token is neither C nor E. -/
theorem mark_of_data {m : BitVec 2} (h : m = mkD ∨ m = mkL) : m ≠ mkC ∧ m ≠ mkE := by
  rcases h with rfl | rfl <;> decide

end

/-! ## The tile of a unit after a step -/

section
variable (r : Region) (key : Nat)

@[simp] theorem pl_updU_same (f : MtU → MtU) : (r.updU key f).pl key = { r.pl key with u := f (r.pl key).u } := pl_updPl_same ..

/-- A change of a unit's state is known by what it makes of that state. -/
theorem updU_congr {f g : MtU → MtU} (h : f (r.pl key).u = g (r.pl key).u) : r.updU key f = r.updU key g := by
  simp only [Region.updU, Region.updPl, h]

@[simp] theorem chan_updU (k j n : Nat) (f : MtU → MtU) : (r.updU k f).chan j n = r.chan j n := by
  simp only [Region.chan, Region.updU, pl_updPl]; split
  · next h => subst h; rfl
  · rfl

@[simp] theorem chan_useU (k j n i : Nat) : (r.useU k i).chan j n = r.chan j n := by
  simp only [Region.chan, Region.useU, pl_updPl]; split
  · next h => subst h; rfl
  · rfl

@[simp] theorem u_useU (i : Nat) : ((r.useU key i).pl key).u = (r.pl key).u := by simp [Region.useU]

@[simp] theorem u_popIn (i : Nat) : ((r.popIn key i).pl key).u = (r.pl key).u := by simp [Region.popIn, Region.updIn]

@[simp] theorem mode_popIn (i : Nat) : ((r.popIn key i).pl key).mode = (r.pl key).mode := by simp [Region.popIn, Region.updIn]

@[simp] theorem seq_popIn (i : Nat) : (r.popIn key i).seq = r.seq := updIn_seq ..

@[simp] theorem flight_popIn (i : Nat) : (r.popIn key i).flight = r.flight := updIn_flight ..

@[simp] theorem buf_popIn_same (i : Nat) : ((r.popIn key i).chan key i).buf = (r.chan key i).buf.drop 1 := by
  rw [Region.popIn, chan_updIn]; simp

end

/-! ## FIFO and LINE (R273, R274) -/

section
variable {key : Nat} {r : Region} {t : Token}

theorem fifoTake_of_head (ht : r.head key (fifoChan (r.pl key)) = some t)
    (hroom : fifoCount (r.pl key) + (if r.usedU key uGive then 1 else 0) < fifoCap (r.pl key)) (hu : r.usedU key uTake = false) :
    fifoTake key r =
      ((mtWriteWords (r.popIn key (fifoChan (r.pl key))) (fifoAt (r.pl key) key (r.pl key).u.rtail) (entryWords (fifoVec (r.pl key)) t)).updU key
        (fun u => { u with rtail := u.rtail + 1 })).useU key uTake := by
  have hgo : ¬(fifoCap (r.pl key) ≤ fifoCount (r.pl key) + (if r.usedU key uGive then 1 else 0) ∨ r.usedU key uTake = true) := by
    rw [hu]
    exact not_or.2 ⟨Nat.not_le.2 hroom, Bool.false_ne_true⟩
  simp only [fifoTake, ht, if_neg hgo]

theorem fifoGive_of_entry (fc : Nat) (hn : (if r.usedU key uTake then 1 else 0) < fifoCount (r.pl key)) (hu : r.usedU key uGive = false)
    (hs : r.outSpace key (fifoChan (r.pl key)) = true) :
    fifoGive fc key r =
      ((r.emit fc key [fifoChan (r.pl key)] (entryTok (fifoVec (r.pl key))
        ((r.mtWords (fifoAt (r.pl key) key (r.pl key).u.rhead) (fifoEntry (r.pl key) / 8)).map (fun v => v.bits)))).updU key
        (fun u => { u with rhead := u.rhead + 1 })).useU key uGive := by
  have hgo : ¬(fifoCount (r.pl key) ≤ (if r.usedU key uTake then 1 else 0) ∨ r.usedU key uGive = true ∨ (!r.outSpace key (fifoChan (r.pl key))) = true) := by
    rw [hu, hs]; simp; omega
  simp only [fifoGive, if_neg hgo]

/-- A data token whose column has not all its rows is stored. -/
theorem lineToken_stores (fc : Nat) (ht : r.head key 0 = some t) (hd : t.mark = mkD ∨ t.mark = mkL) (hrow : (r.pl key).u.rows + 1 < lineNl (r.pl key)) :
    lineToken fc key r =
      ((r.popIn key 0).mtWrite (lineAt (r.pl key) key (r.pl key).u.rows (r.pl key).u.col) 8 (tokVal t)).updU key (fun u =>
        if (r.pl key).u.col + 1 = lineWd (r.pl key) then { u with rows := (r.pl key).u.rows + 1, col := 0 } else { u with col := (r.pl key).u.col + 1 }) := by
  obtain ⟨hC, hE⟩ := mark_of_data hd
  have hmore : decide (lineNl (r.pl key) ≤ (r.pl key).u.rows + 1) = false := decide_eq_false (Nat.not_le.2 hrow)
  simp only [lineToken, ht, if_neg hC, if_neg hE, hmore, Bool.false_and, Bool.false_eq_true, if_false]

/-- One whose column has all its rows is stored, and the column emitted where every output has space. -/
theorem lineToken_emits (fc : Nat) (ht : r.head key 0 = some t) (hd : t.mark = mkD ∨ t.mark = mkL) (hrow : lineNl (r.pl key) ≤ (r.pl key).u.rows + 1)
    (hs : ∀ o < lineNl (r.pl key), r.outSpace key o = true) :
    let p := r.pl key
    let r1 := (r.popIn key 0).mtWrite (lineAt p key p.u.rows p.u.col) 8 (tokVal t)
    let r2 := (List.range (lineNl p)).foldl (fun r k =>
      r.emit fc key [k] (tokS (r.mtRead (lineAt p key (p.u.rows + 1 - lineNl p + k) p.u.col) 8) t.mark t.col)) r1
    lineToken fc key r = r2.updU key (fun u =>
      if p.u.col + 1 = lineWd p then { u with rows := p.u.rows + 1, col := 0 } else { u with col := p.u.col + 1 }) := by
  obtain ⟨hC, hE⟩ := mark_of_data hd
  have hroom : (List.range (lineNl (r.pl key))).all (fun o => r.outSpace key o) = true := by simpa using hs
  simp only [lineToken, ht, if_neg hC, if_neg hE, decide_eq_true hrow, hroom, Bool.not_true, Bool.and_false, Bool.false_eq_true, if_false, if_true]

end

/-! ## Tables (R272, R276, R277) -/

/-- The check of an element asks for the capabilities, the size of the Last and the modes of its MTs, which no change of a plane beside its mode
touches. -/
theorem tblAddr_updPl {r : Region} {key : Nat} {f : Plane → Plane} (hf : ∀ p, (f p).mode = p.mode) : tblAddr (r.updPl key f) = tblAddr r := by
  have hmode (k : Nat) : ((r.updPl key f).pl k).mode = (r.pl k).mode := by
    rw [pl_updPl]; split
    · next h => rw [h, hf]
    · rfl
  have hres (k : Nat) : mtReserved ((r.updPl key f).pl k) = mtReserved (r.pl k) := by simp only [mtReserved, planeMode, hmode]
  have hmt : mtOk (r.updPl key f) = mtOk r := by funext a n; simp only [mtOk, hres]; rfl
  funext sl base n idx rights
  simp only [tblAddr, hmt]
  rfl

theorem tblAddr_popIn (r : Region) (key i : Nat) : tblAddr (r.popIn key i) = tblAddr r := tblAddr_updPl fun _ => rfl

theorem tblAddr_updU (r : Region) (key : Nat) (f : MtU → MtU) : tblAddr (r.updU key f) = tblAddr r := tblAddr_updPl fun _ => rfl

/-! ## GATH (R276) -/

section
variable (r : Region) (key : Nat)

@[simp] theorem greqs_gathTook (side : Nat) : ((gathTook key side r).pl key).u.greqs = (r.pl key).u.greqs := by simp [gathTook]

@[simp] theorem mode_gathTook (side : Nat) : ((gathTook key side r).pl key).mode = (r.pl key).mode := by simp [gathTook]

@[simp] theorem reqOrd_gathTook (side : Nat) : ((gathTook key side r).pl key).u.reqOrd = (r.pl key).u.reqOrd := by simp [gathTook]

@[simp] theorem chan_gathTook (side j n : Nat) : (gathTook key side r).chan j n = r.chan j n := by simp [gathTook]

theorem tblAddr_gathTook (side : Nat) : tblAddr (gathTook key side r) = tblAddr r := tblAddr_updU ..

@[simp] theorem greqs_addReq (q : GReq) : ((addReq key q r).pl key).u.greqs = (r.pl key).u.greqs ++ [q] := by simp [addReq]

@[simp] theorem chan_addReq (q : GReq) (j n : Nat) : (addReq key q r).chan j n = r.chan j n := by simp [addReq]

end

section
variable {key : Nat} {r : Region} {q : GReq}

/-- The access that a request asks for. -/
def reqAccess (key : Nat) (r : Region) (q : GReq) : Access :=
  { own := .unit key q.ord, op := if q.kind = 1 then .write (tblEsz (r.pl key)) q.val else .read (tblEsz (r.pl key)), sp := q.loc.1, addr := q.loc.2.1,
    capx := q.loc.2.2, seq := r.seq }

@[simp] theorem pl_issue (a : Access) (k : Nat) : (issue a r).1.pl k = r.pl k := rfl

@[simp] theorem snd_issue (a : Access) : (issue a r).2 = r.seq := rfl

theorem issueReq_eq : issueReq key q r = (issue (reqAccess key r q) r).1.updU key (fun u =>
    { u with greqs := u.greqs.map (fun x => if x.ord = q.ord then { x with acc := (issue (reqAccess key r q) r).2 } else x) }) := rfl

theorem tfind_issueReq : tfind (issueReq key q r).flight r.seq = some (reqAccess key r q) := by
  rw [issueReq_eq, updU_flight]
  exact tfind_tset_same ..

theorem reqAccess_gather (hk : q.kind = 0) : reqAccess key r q =
    { own := .unit key q.ord, op := .read (tblEsz (r.pl key)), sp := q.loc.1, addr := q.loc.2.1, capx := q.loc.2.2, seq := r.seq } := by
  rw [reqAccess, hk]
  rfl

theorem kind_of_reqDue {kind : Nat} (h : reqDue r key kind = some q) : q.kind = kind := by
  have hq := List.find?_some h
  simp only [Bool.and_eq_true, beq_iff_eq] at hq
  obtain ⟨⟨hkind, -⟩, -⟩ := hq
  exact hkind

/-- A gather taken when no request is under way. -/
theorem gathStep_takes {t : Token} {a : Nat × Nat × Nat} (fc sl : Nat) (ht : r.head key 0 = some t) (hd : t.mark = mkD ∨ t.mark = mkL)
    (hg : (r.pl key).u.greqs = []) (hf : (r.pl key).u.first = 1) (hp : (tokVal t).pois = false)
    (ha : tblAddr r sl ((r.pl key).mode.getD 1 0) (tblEsz (r.pl key)) (tokVal t).bits [bR] = .ok a) :
    gathStep fc sl key r =
      addReq key { kind := 0, idx := (tokVal t).bits, tok := t, loc := a, ord := (r.pl key).u.reqOrd } (gathTook key 1 (r.popIn key 0)) := by
  obtain ⟨hC, hE⟩ := mark_of_data hd
  have hdue : reqDue r key 0 = none := by rw [reqDue, hg]; rfl
  simp only [gathStep, hg, List.filter_nil, hdue, ht, hf, ne_eq, not_true, if_false, if_neg hC, if_neg hE, hp, Bool.false_eq_true, tblAddr_gathTook,
    tblAddr_popIn, ha]

/-- Behind a gather that is not answered, the next that is due is issued. -/
theorem gathStep_issues (fc sl : Nat) (hq : reqDue r key 0 = some q)
    (hfront : ∀ (x : GReq) (rest : List GReq), (r.pl key).u.greqs.filter (fun x => x.kind == 0 || x.kind == 2) = x :: rest →
      x.kind = 0 ∧ accIs r x.acc ≠ some .done ∧ ∀ c : Nat, accIs r x.acc ≠ some (.failed c)) :
    gathStep fc sl key r = issueReq key q r := by
  unfold gathStep
  cases hm : (r.pl key).u.greqs.filter (fun x => x.kind == 0 || x.kind == 2) with
  | nil => simp only [hm, hq]
  | cons x rest =>
    obtain ⟨hk, hnotDone, hnotFailed⟩ := hfront x rest hm
    have hkind : ¬ x.kind = 2 := by omega
    simp only [hm, if_neg hkind]
    cases hst : accIs r x.acc with
    | none => simp only [hq]
    | some st =>
      cases st with
      | done => exact absurd hst hnotDone
      | failed c => exact absurd hst (hnotFailed c)
      | _ => simp only [hq]

/-- An answered gather returns its element, extended as the mode says. -/
theorem gathStep_returns {rest : List GReq} (fc sl : Nat) (hs : r.outSpace key 0 = true) (hg : (r.pl key).u.greqs = q :: rest) (hk : q.kind = 0)
    (hacc : accIs r q.acc = some .done) :
    let n := tblEsz (r.pl key)
    let v := accAns r q.acc
    let x : Word := if bitOf ((r.pl key).mode.getD 0 0) 57 then sxTo (8 * n) v.bits.toNat else lowBytes n v.bits
    let r1 := r.emit fc key [0] (tokS { v with bits := x } q.tok.mark q.tok.col)
    gathStep fc sl key r =
      (dropNum r1 q.acc).updU key (fun u => { u with greqs := u.greqs.filter (fun x => x.ord != q.ord) }) := by
  have hmine : (r.pl key).u.greqs.filter (fun x => x.kind == 0 || x.kind == 2) = q :: rest.filter (fun x => x.kind == 0 || x.kind == 2) := by
    rw [hg]; exact List.filter_cons_of_pos (by simp [hk])
  have hkind : ¬ q.kind = 2 := by omega
  simp only [gathStep, hmine, if_neg hkind, hacc, hs, if_true, modeW]
  rfl

/-- A performed scatter at the front gives its ordering token. -/
theorem scatToken_gives {rest : List GReq} (fc : Nat) (hs : r.outSpace key 1 = true) (hg : (r.pl key).u.greqs = q :: rest) (hk : q.kind = 1)
    (hacc : accIs r q.acc = some .done) :
    scatToken fc key r = (dropNum (r.emit fc key [1] (tokS { bits := q.idx } mkD q.tok.col)) q.acc).updU key
      (fun u => { u with greqs := u.greqs.filter (fun x => x.ord != q.ord) }) := by
  have hmine : (r.pl key).u.greqs.filter (fun x => x.kind == 1 || x.kind == 3) = q :: rest.filter (fun x => x.kind == 1 || x.kind == 3) := by
    rw [hg]; exact List.filter_cons_of_pos (by simp [hk])
  simp [scatToken, hs, hmine, hk, hacc]

/-- The request of a scatter whose index and value are taken. -/
def scatReq (r : Region) (key : Nat) (t w : Token) (a : Nat × Nat × Nat) : GReq :=
  { kind := 1, idx := (tokVal t).bits, tok := t, loc := a, val := tokVal w, ord := (r.pl key).u.reqOrd }

/-- The tile that has taken it. -/
def scatTaken (r : Region) (key : Nat) (t w : Token) (a : Nat × Nat × Nat) : Region :=
  addReq key (scatReq r key t w a) ((gathTook key 2 (r.popIn key 1)).popIn key 2)

/-- A scatter is taken with its value, and issued at once where it waits for no gather. -/
theorem scatStep_takes {t w : Token} {a : Nat × Nat × Nat} (sl : Nat) (ht : r.head key 1 = some t) (hw : r.head key 2 = some w)
    (hd : t.mark = mkD ∨ t.mark = mkL) (hf : (r.pl key).u.first = 2) (hcan : scatCan r key = true) (hp : (tokVal t).pois = false)
    (ha : tblAddr r sl ((r.pl key).mode.getD 1 0) (tblEsz (r.pl key)) (tokVal t).bits [bW] = .ok a) (hdue : reqDue r key 1 = none) :
    scatStep sl key r = if reqFree (scatTaken r key t w a) key (scatReq r key t w a) then issueReq key (scatReq r key t w a) (scatTaken r key t w a)
      else scatTaken r key t w a := by
  obtain ⟨hC, hE⟩ := mark_of_data hd
  have hgo : ¬((r.pl key).u.first ≠ 2 ∨ (!scatCan r key) = true) := by simp [hf, hcan]
  simp only [scatStep, hdue, if_neg hgo, ht, hw, if_neg hC, if_neg hE, hp, Bool.false_eq_true, if_false, ha]
  rfl

section
variable {t w : Token} {a : Nat × Nat × Nat} (hord : ∀ x ∈ (r.pl key).u.greqs, x.ord < (r.pl key).u.reqOrd)

theorem greqs_scatTaken : ((scatTaken r key t w a).pl key).u.greqs = (r.pl key).u.greqs ++ [scatReq r key t w a] := by simp [scatTaken]

theorem seq_scatTaken : (scatTaken r key t w a).seq = r.seq := by
  rw [scatTaken, addReq, updU_seq, seq_popIn, gathTook, updU_seq, seq_popIn]

theorem flight_scatTaken : (scatTaken r key t w a).flight = r.flight := by
  rw [scatTaken, addReq, updU_flight, flight_popIn, gathTook, updU_flight, flight_popIn]

theorem mode_scatTaken : ((scatTaken r key t w a).pl key).mode = (r.pl key).mode := by simp [scatTaken, addReq]

theorem reqAccess_scatTaken : reqAccess key (scatTaken r key t w a) (scatReq r key t w a) =
    { own := .unit key (r.pl key).u.reqOrd, op := .write (tblEsz (r.pl key)) (tokVal w), sp := a.1, addr := a.2.1, capx := a.2.2, seq := r.seq } := by
  have hn : tblEsz ((scatTaken r key t w a).pl key) = tblEsz (r.pl key) := by rw [tblEsz, modeW, mode_scatTaken]; rfl
  rw [reqAccess, seq_scatTaken, hn]
  rfl

include hord

/-- A scatter just taken waits for the gathers of its element that are not issued. -/
theorem reqFree_scatTaken : reqFree (scatTaken r key t w a) key (scatReq r key t w a) =
    !(r.pl key).u.greqs.any (fun x => x.kind == 0 && x.acc == 0 && x.loc.1 == a.1 && x.loc.2.1 / 8 == a.2.1 / 8) := by
  simp only [reqFree, greqs_scatTaken, List.all_append, List.all_cons, List.all_nil, Nat.lt_irrefl, decide_false, Bool.false_and, Bool.not_false,
    Bool.and_true]
  rw [List.not_any_eq_all_not, Bool.eq_iff_iff, List.all_eq_true, List.all_eq_true]
  refine forall₂_congr fun x hx => ?_
  have hbefore : decide (x.ord < (scatReq r key t w a).ord) = true := decide_eq_true (hord x hx)
  have hkind : (scatReq r key t w a).kind = 1 := rfl
  rw [hbefore, if_pos hkind, Bool.true_and, Bool.and_comm (sameElem x _), Bool.and_assoc (x.kind == 0 && x.acc == 0)]
  rfl

/-- Its access is its own: the requests before it have other ordinals. -/
theorem greqs_issueReq_scatTaken : ((issueReq key (scatReq r key t w a) (scatTaken r key t w a)).pl key).u.greqs =
    (r.pl key).u.greqs ++ [{ scatReq r key t w a with acc := r.seq }] := by
  have hold : (r.pl key).u.greqs.map (fun x => if x.ord = (scatReq r key t w a).ord then { x with acc := r.seq } else x) = (r.pl key).u.greqs :=
    (List.map_congr_left fun x hx => if_neg (Nat.ne_of_lt (hord x hx))).trans (List.map_id _)
  rw [issueReq_eq, pl_updU_same, pl_issue, snd_issue, seq_scatTaken, greqs_scatTaken, List.map_append, hold, List.map_singleton, if_pos rfl]

end

end

/-! ## SUU (R277) -/

section
variable {key : Nat} {r : Region} {q : SUpd}

/-- An index with its value enters an empty window. -/
theorem suuStep_takes {t w : Token} {a : Nat × Nat × Nat} (fc sl : Nat) (ht : r.head key 0 = some t) (hw : r.head key 1 = some w)
    (hd : t.mark = mkD ∨ t.mark = mkL) (hq : (r.pl key).u.sreqs = []) (hp : (tokVal t).pois = false)
    (ha : tblAddr ((r.popIn key 0).popIn key 1) sl ((r.pl key).mode.getD 1 0) (tblEsz (r.pl key)) (tokVal t).bits [bW, bA] = .ok a) :
    suuStep fc sl key 0 r = ((r.popIn key 0).popIn key 1).updU key (fun u =>
      { u with sreqs := u.sreqs ++ [{ addr := a.2.1, vals := [tokVal w], ord := (r.pl key).u.reqOrd }], reqOrd := u.reqOrd + 1 }) := by
  obtain ⟨hC, hE⟩ := mark_of_data hd
  have hretire : suuRetire fc key r = none := by simp [suuRetire, hq]
  have hroom : ¬ 32 ≤ ([] : List SUpd).length := by decide
  simp only [suuStep, if_true, hretire, suuTake, ht, hw, if_neg hC, if_neg hE, hq, List.filter_nil, if_neg hroom, hp, Bool.false_eq_true, if_false, ha]

/-- An update that waits for none before it is issued, at the table's space. -/
theorem suuIssue_of_free {k : Nat} (hk : (r.pl key).u.sreqs[k]? = some q) (hacc : q.acc = 0) (hends : q.ends = none)
    (hord : suuOrdered (r.pl key) = true → ∀ x ∈ (r.pl key).u.sreqs.take k, x.ends.isSome = true ∨ x.acc ≠ 0) :
    let b := (r.pl key).mode.getD 1 0
    let g := decide (fld b 63 62 = 1)
    let a : Access := { own := .unit key q.ord, op := suuEvent (r.pl key) q, sp := if g then 1 else 0, addr := q.addr, capx := if g then fld b 61 54 else 0,
                        seq := r.seq }
    suuIssue key k r = (issue a r).1.updU key (fun u =>
      { u with sreqs := u.sreqs.map (fun x => if x.ord = q.ord then { x with acc := (issue a r).2 } else x) }) := by
  have hfirst : (suuOrdered (r.pl key) && ((r.pl key).u.sreqs.take k).any (fun x => x.ends.isNone && x.acc == 0)) = false := by
    rw [Bool.and_eq_false_imp]
    intro ho
    rw [List.any_eq_false]
    intro x hx
    rcases hord ho x hx with h | h
    · simp [Option.isSome_iff_ne_none.1 h]
    · simp [h]
  have hgo : ¬(q.acc ≠ 0 ∨ q.ends.isSome = true ∨
      (suuOrdered (r.pl key) && ((r.pl key).u.sreqs.take k).any (fun x => x.ends.isNone && x.acc == 0)) = true) := by
    rw [hfirst, hends, hacc]; simp
  simp only [suuIssue, hk, if_neg hgo, issueUnit]
  by_cases hg : fld ((r.pl key).mode.getD 1 0) 63 62 = 1 <;> simp only [hg, if_true, if_false, decide_true, decide_false, Bool.false_eq_true]

/-- The second of two updates of a location joins the first, which is its neighbour, so ORDERED allows it too. -/
theorem suuMerge_pair {x : SUpd} (hs : (r.pl key).u.sreqs = [x, q]) (hx : x.acc = 0) (hq : q.acc = 0) (hxe : x.ends = none) (hqe : q.ends = none)
    (haddr : x.addr = q.addr) (hord : x.ord ≠ q.ord) :
    suuMerge key 1 r = r.updU key (fun u => { u with sreqs := [{ x with vals := x.vals ++ q.vals }] }) := by
  have hearlier : ((lenum ([x, q].take 1)).filter (fun y => y.2.acc == 0 && y.2.ends.isNone && y.2.addr == q.addr)).getLast? = some (0, x) := by
    simp [lenum, hx, hxe, haddr]
  have hsecond : [x, q][1]? = some q := rfl
  have hgo : ¬(q.acc ≠ 0 ∨ q.ends.isSome = true ∨ (suuOrdered (r.pl key) && 0 + 1 != 1) = true) := by simp [hq, hqe]
  simp only [suuMerge, hs, hsecond, hearlier, if_neg hgo]
  refine updU_congr r key ?_
  simp [hs, hord]

/-- The event of an update of two values: one sum rounded once, or the function of both. -/
theorem suuEvent_pair {p : Plane} {v w : Val} (hv : q.vals = [v, w]) :
    (suuOp p = 2 → suuEvent p q = .fsum (tblEsz p) [v, w]) ∧
    (suuOp p ≠ 2 → suuEvent p q = .rmw (redFn (suuOp p)) (tblEsz p) false
      { bits := rmwVal (redFn (suuOp p)) (tblEsz p) (lowBytes (tblEsz p) v.bits) w.bits, pois := v.pois || w.pois } {}) := by
  exact ⟨fun h => by simp [suuEvent, hv, h], fun h => by simp [suuEvent, hv, h]⟩

end

/-! ## COMP (R278) -/

section
variable {key : Nat} {r : Region}

/-- A vector token is stored word by word, with the poison of each. -/
def compStore (r : Region) (a : Nat) (v : VVal) : Region :=
  (List.range 8).foldl (fun r k => r.mtWrite (a + 8 * k) 8 { bits := vword v.bits k, pois := v.pois.getLsbD k }) r

/-- A store changes no tile. -/
theorem tiles_compStore (r : Region) (a : Nat) (v : VVal) : (compStore r a v).tiles = r.tiles :=
  List.foldlRecOn (motive := fun r' : Region => r'.tiles = r.tiles) _ _ rfl fun _ h _ _ => h

theorem pl_compStore (r : Region) (a : Nat) (v : VVal) (k : Nat) : (compStore r a v).pl k = r.pl k := by
  simp only [Region.pl, Region.tile, tiles_compStore]

theorem chan_compStore (r : Region) (a : Nat) (v : VVal) (k n : Nat) : (compStore r a v).chan k n = r.chan k n := by
  simp only [Region.chan, pl_compStore]

theorem compStep_takes {t : Token} (fc : Nat) (col : BitVec 10) (ht : r.head key 8 = some t) (hd : t.mark = mkD ∨ t.mark = mkL)
    (hrows : (r.pl key).u.rows ≠ 4 * compEsz (r.pl key)) :
    compStep fc key col r = ((compStore (r.popIn key 8) (mtAddr key (compBase (r.pl key)) + 64 * (r.pl key).u.rows) (tokVVal t)).useU key uTake).updU key
      (fun u => { u with rows := u.rows + 1 }) := by
  obtain ⟨hC, hE⟩ := mark_of_data hd
  simp only [compStep, if_neg hrows, ht, if_neg hC, if_neg hE]
  rfl

theorem compStep_emits (fc : Nat) (col : BitVec 10) (hrows : (r.pl key).u.rows = 4 * compEsz (r.pl key)) (ht : r.usedU key uTake = false)
    (he : r.usedU key uEmit = false) (hs : r.outSpace key 8 = true) :
    let v := compToken r key (r.pl key).u.outIx
    compStep fc key col r = ((r.emit fc key [8] (tokV v.1 (if v.2 then mkL else mkD) col)).useU key uEmit).updU key (fun u =>
      if v.2 then { u with rows := 0, outIx := 0 } else { u with outIx := u.outIx + 1 }) := by
  have hgo : ¬(r.usedU key uTake = true ∨ r.usedU key uEmit = true ∨ (!r.outSpace key 8) = true) := by simp [ht, he, hs]
  simp only [compStep, if_pos hrows, if_neg hgo]

end

/-! ## The events -/

section
variable {s : State} {rid key : Nat} {r : Region}

theorem exec_fifoTake (h : UnitRuns s rid key 1 r) : exec (.fifoTake rid key) s = .next (s.setRegion rid (fifoTake key r)) := by
  obtain ⟨hr, hlive, hmode⟩ := h
  show execFifoTake rid key s = _
  simp [execFifoTake, onRegion_of _ hr, hlive, hmode]

theorem exec_fifoGive (h : UnitRuns s rid key 1 r) : exec (.fifoGive rid key) s = .next (s.setRegion rid (fifoGive s.fc key r)) := by
  show execFifoGive rid key s = _
  rw [execFifoGive, unitEv_of_runs h]

theorem exec_lineToken (h : UnitRuns s rid key 2 r) : exec (.lineToken rid key) s = .next (s.setRegion rid (lineToken s.fc key r)) := by
  show execLineToken rid key s = _
  rw [execLineToken, unitEv_of_runs h]

theorem exec_gathMtGather (h : UnitRuns s rid key 4 r) :
    exec (.gathMtGather rid key) s = .next (s.setRegion rid (gathStep s.fc (sealOf s r.part) key r)) := by
  show execGathMtGather rid key s = _
  rw [execGathMtGather, unitEv_of_runs h]

theorem exec_gathMtScatter (h : UnitRuns s rid key 4 r) :
    exec (.gathMtScatter rid key) s = .next (s.setRegion rid (scatStep (sealOf s r.part) key r)) := by
  show execGathMtScatter rid key s = _
  rw [execGathMtScatter, unitEv_of_runs h]

theorem exec_gathMtOrderingToken (h : UnitRuns s rid key 4 r) :
    exec (.gathMtOrderingToken rid key) s = .next (s.setRegion rid (scatToken s.fc key r)) := by
  show execGathMtOrderingToken rid key s = _
  rw [execGathMtOrderingToken, unitEv_of_runs h]

theorem exec_suuUpdate (h : UnitRuns s rid key 5 r) (sel : Nat) :
    exec (.suuUpdate rid key sel) s = .next (s.setRegion rid (suuStep s.fc (sealOf s r.part) key sel r)) := by
  show execSuuUpdate rid key sel s = _
  rw [execSuuUpdate, unitEv_of_runs h]

/-- A COMP step draws the colour of its record's tokens (log 20). -/
theorem exec_compTileRecord (h : UnitRuns s rid key 6 r) :
    exec (.compTileRecord rid key) s = .next (({ s with freeC := s.freeC + 1 } : State).setRegion rid
      (compStep s.fc key ((Config.freeWord s.freeC).truncate 10) r)) := by
  have hdrawn : UnitRuns { s with freeC := s.freeC + 1 } rid key 6 r := h
  show execCompTileRecord rid key s = _
  rw [execCompTileRecord, State.freeW]
  exact unitEv_of_runs hdrawn _

/-- A scatter that is taken: with its access where no gather of its element is still to be issued. -/
theorem gathMtScatter_takes {t w : Token} {a : Nat × Nat × Nat} (h : UnitRuns s rid key 4 r) (ht : r.head key 1 = some t) (hw : r.head key 2 = some w)
    (hd : t.mark = mkD ∨ t.mark = mkL) (hf : (r.pl key).u.first = 2) (hcan : scatCan r key = true) (hp : (tokVal t).pois = false)
    (ha : tblAddr r (sealOf s r.part) ((r.pl key).mode.getD 1 0) (tblEsz (r.pl key)) (tokVal t).bits [bW] = .ok a) (hdue : reqDue r key 1 = none)
    (hord : ∀ x ∈ (r.pl key).u.greqs, x.ord < (r.pl key).u.reqOrd) :
    let waits := (r.pl key).u.greqs.any (fun x => x.kind == 0 && x.acc == 0 && x.loc.1 == a.1 && x.loc.2.1 / 8 == a.2.1 / 8)
    ∃ r' : Region, exec (.gathMtScatter rid key) s = .next (s.setRegion rid r') ∧
      (r'.pl key).u.greqs = (r.pl key).u.greqs ++ [{ scatReq r key t w a with acc := (if waits then 0 else r.seq) }] ∧
      (waits = true → r'.flight = r.flight) ∧
      (waits = false → tfind r'.flight r.seq = some
        { own := .unit key (r.pl key).u.reqOrd, op := .write (tblEsz (r.pl key)) (tokVal w), sp := a.1, addr := a.2.1, capx := a.2.2, seq := r.seq }) := by
  intro waits
  have hfree : reqFree (scatTaken r key t w a) key (scatReq r key t w a) = !waits := reqFree_scatTaken hord
  refine ⟨_, by rw [exec_gathMtScatter h, scatStep_takes (sealOf s r.part) ht hw hd hf hcan hp ha hdue, hfree], ?_⟩
  cases waits with
  | true => exact ⟨greqs_scatTaken, fun _ => flight_scatTaken, nofun⟩
  | false =>
    refine ⟨greqs_issueReq_scatTaken hord, nofun, fun _ => ?_⟩
    show tfind (issueReq key (scatReq r key t w a) (scatTaken r key t w a)).flight r.seq = _
    rw [← reqAccess_scatTaken, ← seq_scatTaken, tfind_issueReq]

end

/-- Settles O23: each clause is the step of its unit in a state where that unit runs. -/
theorem unitSteps : Obligations.UnitSteps := by
  refine ⟨fun s rid key r t h ht hroom hu => ?_, fun s rid key r h hn hu hs => ?_, fun s rid key r t h ht hd hrow => ?_,
    fun s rid key r t h ht hd hrow hs => ?_, fun s rid key r t h ht hd hg hf hp => ?_,
    fun s rid key r t w a h ht hw hd hf hcan hp ha hdue hord => ?_, fun s rid key r q h hq hfront => ?_,
    fun s rid key r q rest h hs hg hk hacc => ?_, fun s rid key r q rest h hs hg hk hacc => ?_,
    fun s rid key r t w a h ht hw hd hq hp ha => ?_, fun s rid key k r q h hk hacc hends hord => ?_,
    fun s rid key r x q h hs hx hq hxe hqe haddr hord => ?_, fun p q v w hv => suuEvent_pair hv,
    fun s rid key r t hr hlive hmode ht hd hrows => ?_, fun s rid key r h hrows ht he hs => ?_⟩
  · rw [exec_fifoTake h, fifoTake_of_head ht hroom hu]
  · rw [exec_fifoGive h, fifoGive_of_entry s.fc hn hu hs]
  · rw [exec_lineToken h, lineToken_stores s.fc ht hd hrow]
  · rw [exec_lineToken h, lineToken_emits s.fc ht hd hrow hs]
  · intro sl a ha
    refine ⟨_, by rw [exec_gathMtGather h, gathStep_takes s.fc sl ht hd hg hf hp ha], ?_, ?_⟩
    · simp [hg]
    · simp
  · exact gathMtScatter_takes h ht hw hd hf hcan hp ha hdue hord
  · rw [exec_gathMtGather h, gathStep_issues s.fc _ hq hfront, issueReq_eq, reqAccess_gather (kind_of_reqDue hq)]
  · rw [exec_gathMtGather h, gathStep_returns s.fc _ hs hg hk hacc]
    rfl
  · rw [exec_gathMtOrderingToken h, scatToken_gives s.fc hs hg hk hacc]
    rfl
  · refine ⟨_, by rw [exec_suuUpdate h, suuStep_takes s.fc _ ht hw hd hq hp ha], ?_⟩
    simp [hq]
  · have hodd : (2 * k + 1) % 2 = 1 := by omega
    have hk' : (2 * k + 1) / 2 = k := by omega
    rw [exec_suuUpdate h, suuStep, if_neg (by omega), if_pos hodd, hk', suuIssue_of_free hk hacc hends hord]
  · rw [exec_suuUpdate h, suuStep, if_neg (by decide), if_neg (by decide), suuMerge_pair hs hx hq hxe hqe haddr hord]
  · refine ⟨_, by rw [exec_compTileRecord ⟨hr, hlive, hmode⟩, compStep_takes s.fc _ ht hd hrows], ?_, ?_⟩
    · simp [pl_compStore]
    · simp [chan_compStore]
  · exact ⟨_, by rw [exec_compTileRecord h, compStep_emits s.fc _ hrows ht he hs]⟩

end Sys2Proof.Machine
end

section
/-! Settles O22 (R267, R269): what a completion leaves of the copies, the contexts that COPY_START finds new, then each way a SCOPY goes on. -/

namespace Sys2Proof.Machine

/-! ## What a channel operation changes (R14, R218) -/

/-- Two regions differ at most in their tiles, in what their streams hold and in what leaves over Welt links. -/
def ChannelsOnly (r r' : Region) : Prop := ∃ tiles strms tx, r' = { r with tiles := tiles, strms := strms, tx := tx }

theorem ChannelsOnly.refl (r : Region) : ChannelsOnly r r := ⟨r.tiles, r.strms, r.tx, rfl⟩

theorem ChannelsOnly.trans {a b c : Region} (h : ChannelsOnly a b) (g : ChannelsOnly b c) : ChannelsOnly a c := by
  obtain ⟨_, _, _, rfl⟩ := h
  obtain ⟨tiles, strms, tx, rfl⟩ := g
  exact ⟨tiles, strms, tx, rfl⟩

theorem channelsOnly_updPl (r : Region) (key : Nat) (f : Plane → Plane) : ChannelsOnly r (r.updPl key f) := ⟨(r.updPl key f).tiles, r.strms, r.tx, rfl⟩

theorem channelsOnly_foldl {α : Type} (l : List α) (f : Region → α → Region) (h : ∀ r a, ChannelsOnly r (f r a)) (r : Region) :
    ChannelsOnly r (l.foldl f r) :=
  List.foldlRecOn (motive := ChannelsOnly r) l f (.refl r) fun _ hb a _ => hb.trans (h _ a)

theorem channelsOnly_sendOut (fc : Nat) (r : Region) (p : Plane) (key o : Nat) (tok : Token) : ChannelsOnly r (r.sendOut fc p key o tok) := by
  unfold Region.sendOut
  split
  · exact channelsOnly_foldl _ _ (fun r d => channelsOnly_updPl ..) r
  · split
    · split
      · exact .refl r
      · exact ⟨_, r.strms, _, rfl⟩
    · split
      · split
        · exact .refl r
        · exact ⟨r.tiles, _, r.tx, rfl⟩
      · exact .refl r

theorem channelsOnly_drainList (fc key : Nat) (l : List Emit) (b : List Nat) (r : Region) : ChannelsOnly r (Region.drainList fc key l b r).2 := by
  induction l generalizing b r with
  | nil => exact .refl r
  | cons e rest ih =>
    unfold Region.drainList
    dsimp only
    generalize (if e.old = true then (r.tile key).ins else r.pl key) = p
    cases e.tok with
    | none => exact ih _ r
    | some tok =>
      dsimp only
      split
      · exact ih _ r
      · exact (channelsOnly_foldl e.outs _ (fun r o => channelsOnly_sendOut ..) r).trans (ih _ _)

theorem channelsOnly_drainOut (fc : Nat) (r : Region) (key : Nat) : ChannelsOnly r (r.drainOut fc key) := by
  unfold Region.drainOut
  exact (channelsOnly_drainList fc key _ [] r).trans (channelsOnly_updPl ..)

theorem channelsOnly_fill (fc : Nat) (r : Region) (key op : Nat) (tok : Token) : ChannelsOnly r (r.fill fc key op tok) :=
  (channelsOnly_updPl ..).trans (channelsOnly_drainOut ..)

theorem ChannelsOnly.copies {r r' : Region} (h : ChannelsOnly r r') : r'.copies = r.copies := by
  obtain ⟨_, _, _, rfl⟩ := h
  rfl

/-- A completion moves an operation, its accesses and its result: no copy. -/
theorem copies_completeS (fc : Nat) (r : Region) (key id : Nat) (o : PendOp) (v : Val) (cond : Bool) : (completeS fc r key id o v cond).copies = r.copies := by
  have hdrop : (dropOp r key id o).copies = r.copies := rfl
  unfold completeS
  rw [updCt_copies]
  split
  · exact (channelsOnly_fill ..).copies.trans hdrop
  · rw [updCt_copies, hdrop]

/-! ## Contexts that are new -/

theorem isNone_tfind_of_mem {α : Type} {t : Tab α} {x : Nat × α} (h : x ∈ t) : (tfind t x.1).isNone = false := by
  induction t with
  | nil => cases h
  | cons c t ih =>
    obtain ⟨k, v⟩ := c
    by_cases hk : k = x.1
    · rw [tfind, if_pos hk, Option.isNone_some]
    · have hx : x ∈ t := (List.mem_cons.1 h).resolve_left fun e => hk (by rw [e])
      rw [tfind, if_neg hk, ih hx]

/-- Of a table with one key set, a test that no earlier entry meets leaves that key at most. -/
theorem filter_tset {α : Type} {t : Tab α} {k : Nat} {v : α} {p : Nat × α → Bool} (h : ∀ x ∈ t, p x = false) :
    (tset t k v).filter p = if p (k, v) then [(k, v)] else [] := by
  induction t with
  | nil => simp [tset, List.filter_cons]
  | cons c t ih =>
    obtain ⟨j, w⟩ := c
    have hrest : t.filter p = [] := List.filter_eq_nil_iff.2 fun x hx => by simp [h x (List.mem_cons_of_mem _ hx)]
    have hfirst : p (j, w) = false := h _ List.mem_cons_self
    have ih := ih fun x hx => h x (List.mem_cons_of_mem _ hx)
    unfold tset
    split
    · rw [List.filter_cons, hrest]
    · split
      · rw [List.filter_cons, List.filter_cons_of_neg (by simp [hfirst]), hrest]
      · rw [List.filter_cons_of_neg (by simp [hfirst]), ih]

/-- The contexts of a region that another had none of. -/
def newCopies (old : Tab Strm) (r : Region) : Tab Strm := r.copies.filter (fun x => (tfind old x.1).isNone)

theorem newCopies_same {r r' : Region} (h : r'.copies = r.copies) : newCopies r.copies r' = [] := by
  rw [newCopies, h, List.filter_eq_nil_iff]
  exact fun x hx => by rw [isNone_tfind_of_mem hx]; exact Bool.false_ne_true

theorem newCopies_tset {r r' : Region} {n : Nat} {z : Strm} (h : r'.copies = tset r.copies n z) :
    newCopies r.copies r' = if (tfind r.copies n).isNone then [(n, z)] else [] := by
  rw [newCopies, h, filter_tset fun x hx => isNone_tfind_of_mem hx]

/-! ## COPY_START (R267) -/

/-- The region of a launch: the next id is taken, a status of 64 launches before is forgotten, a demoted scope is noted, and the context stands. -/
def launched (r : Region) (key : Nat) (o : PendOp) (d : List Word) (dem : Bool) : Region :=
  let r1 := sdemSet dem { r with cpyid := (r.cpyid + 1) % 2 ^ 16, cstat := tdel r.cstat ((r.cpyid + 2 ^ 16 - 64) % 2 ^ 16) }
  let z : Strm := { tile := key, desc := d, st := 1, copy := true, cid := r.cpyid, cw := o.b.bits, compl := if o.ti.sb = 15 then 2 else 0,
                    ended := cpOverlaps r1 d }
  { r1 with copies := tset r1.copies (copyBase + r1.seq) z, seq := r1.seq + 1 }

/-- The context of the launch. -/
theorem launched_copies (r : Region) (key : Nat) (o : PendOp) (d : List Word) (dem : Bool) :
    ∃ z : Strm, (launched r key o d dem).copies = tset r.copies (copyBase + r.seq) z ∧ z.desc = d ∧ z.cid = r.cpyid ∧ z.st = 1 ∧ z.copy = true := by
  cases dem <;> exact ⟨_, rfl, rfl, rfl, rfl, rfl⟩

theorem launched_cpyid (r : Region) (key : Nat) (o : PendOp) (d : List Word) (dem : Bool) :
    (launched r key o d dem).cpyid = (r.cpyid + 1) % 2 ^ 16 := by
  cases dem <;> rfl

theorem launched_tiles (r : Region) (key : Nat) (o : PendOp) (d : List Word) (dem : Bool) : (launched r key o d dem).tiles = r.tiles := by
  cases dem <;> rfl

section
variable {s : State} {rid key id : Nat} {r : Region} {o : PendOp}

/-- A SCOPY of the active plane starts there; a context that it adds gets its extents and its descriptors. -/
theorem exec_copyStart (hr : HasRegion s rid r) (hop : tfind (r.ct key).ops id = some o) {r' : Region}
    (hr' : copyStart s.fc (sealOf s r.part) (partFpol (s.part r.part)) key id r = r') :
    exec (.copyStart rid key id) s =
      .next ((newCopies r.copies r').foldl (fun s x => onRegion (s.copyExtents rid x.1) rid (copyDescs x.1)) (s.setRegion rid r')) := by
  subst hr'
  show execCopyStart rid key id s = _
  simp only [execCopyStart, State.inPlane, region_of_tfind hr, hop, Option.isNone_some, Bool.false_and, Bool.false_eq_true, if_false, onRegion_of _ hr,
    region_setRegion_same, newCopies]

/-- A SCOPY with every earlier access of its PE done reads a block that is not poisoned. -/
structure ReadsBlock (r : Region) (key id : Nat) (o : PendOp) (d : List Word) : Prop where
  op : tfind (r.ct key).ops id = some o
  run : opsRun r = true
  code : o.code = 0xE9
  phase : o.ph ≠ phClaim
  turn : earlierDone r key id = true
  clean : (r.mtWords (o.a.bits.toNat % 2 ^ 32) 8).any (fun v => v.pois) = false
  block : (r.mtWords (o.a.bits.toNat % 2 ^ 32) 8).map (fun v => v.bits) = d

variable {d : List Word} (h : ReadsBlock r key id o d) (fc sl fpol : Nat)
include h

theorem op?_of_readsBlock : r.op? key id = some o := by rw [Region.op?, h.op]

theorem mayStart_of_readsBlock : (!(r.st == rRunning || r.st == rFrozen || r.st == rIdle) || o.code != 0xE9) = false := by
  have hrun : (r.st == rRunning || r.st == rFrozen || r.st == rIdle) = true := h.run
  simp [hrun, h.code]

theorem copyStart_invalid (hv : cpBlockValid r d = false) :
    copyStart fc sl fpol key id r = completeS fc r key id o { bits := BitVec.ofInt 64 (-1) } false := by
  simp only [copyStart, op?_of_readsBlock h, mayStart_of_readsBlock h, if_neg h.phase, h.turn, h.clean, h.block, hv, Bool.not_true, Bool.not_false,
    Bool.false_eq_true, if_false, if_true]
  rfl

theorem copyStart_launches {dem : Bool} (hv : cpBlockValid r d = true) (hc : cpCheck r sl fpol d = .ok dem) (hchan : dChan d = true) :
    copyStart fc sl fpol key id r = completeS fc (launched r key o d dem) key id o { bits := BitVec.ofNat 64 r.cpyid } true := by
  simp only [copyStart, op?_of_readsBlock h, mayStart_of_readsBlock h, if_neg h.phase, h.turn, h.clean, h.block, hv, hc, hchan, Bool.not_true,
    Bool.false_eq_true, if_false, if_true]
  rfl

end

section
variable {s : State} {rid key id : Nat} {r : Region} {o : PendOp} {d : List Word} (hr : HasRegion s rid r) (h : ReadsBlock r key id o d)
include hr h

theorem copyStart_refused (hv : cpBlockValid r d = false) :
    exec (.copyStart rid key id) s = .next (s.setRegion rid (completeS s.fc r key id o { bits := BitVec.ofInt 64 (-1) } false)) := by
  rw [exec_copyStart hr h.op (copyStart_invalid h _ _ _ hv), newCopies_same (copies_completeS ..), List.foldl_nil]

/-- A launch: the SCOPY completes with the id, and a context that stands under a new number gets its extents and descriptors. -/
theorem copyStart_accepted {dem : Bool} (hv : cpBlockValid r d = true) (hc : cpCheck r (sealOf s r.part) (partFpol (s.part r.part)) d = .ok dem)
    (hchan : dChan d = true) :
    let s1 := s.setRegion rid (completeS s.fc (launched r key o d dem) key id o { bits := BitVec.ofNat 64 r.cpyid } true)
    exec (.copyStart rid key id) s =
      .next (if (tfind r.copies (copyBase + r.seq)).isNone then
        onRegion (s1.copyExtents rid (copyBase + r.seq)) rid (copyDescs (copyBase + r.seq)) else s1) := by
  obtain ⟨z, hz, -⟩ := launched_copies r key o d dem
  rw [exec_copyStart hr h.op (copyStart_launches h _ _ _ hv hc hchan), newCopies_tset ((copies_completeS ..).trans hz)]
  split <;> rfl

end

/-! ## COPY_COMPLETE (R267) -/

theorem copyComplete_ends {c : Nat} {r : Region} (hs : hasStrm r c = true) (hlive : strmLive r c = true) (hcopy : (r.strm c).copy = true)
    (hdone : (r.strm c).done.length = dBoxes (r.strm c).desc) (hcompl : (r.strm c).compl = 2) (hchan : dChan (r.strm c).desc = true) :
    copyComplete c r = cpEnd c 2 0 r := by
  simp only [copyComplete, hs, hlive, hcopy, hdone, hcompl, hchan, Bool.not_true, Bool.false_eq_true, ne_eq, not_true, or_false, if_false, if_true]

/-- Settles O22: a SCOPY whose block is refused, one that launches, and the end of a copy. -/
theorem copySteps : Obligations.CopySteps := by
  refine ⟨fun s rid key id r o hr hop hrun hcode hph hturn => ?_, fun s rid c r hr hs hlive hcopy hdone hcompl hchan => ?_⟩
  · intro ws d hclean
    have h : ReadsBlock r key id o d := ⟨hop, hrun, hcode, hph, hturn, hclean, rfl⟩
    refine ⟨copyStart_refused hr h, fun dem hv hc hchan => ⟨launched r key o d dem, copyStart_accepted hr h hv hc hchan, launched_cpyid .., launched_tiles ..,
      ?_⟩⟩
    obtain ⟨z, hz, hfields⟩ := launched_copies r key o d dem
    exact ⟨z, by rw [hz, tfind_tset_same], hfields⟩
  · show execCopyComplete rid c s = _
    rw [execCopyComplete, onRegion_of _ hr, copyComplete_ends hs hlive hcopy hdone hcompl hchan]

end Sys2Proof.Machine
end

section
/-! Settles O21 (R249, R252-R255, R257, R262, R263, R378, R433): each step of a stream in its region, then the events. -/

namespace Sys2Proof.Machine

/-! ## Start and boxes (R252, R257, R262) -/

section
variable {s : State} {rid c : Nat} {r : Region}

theorem streamStart_passes (hr : HasRegion s rid r) (hc : canStart r c = true) {dem : Bool}
    (hk : startCheck r (sealOf s r.part) (partFpol (s.part r.part)) (r.strm c).desc = .ok dem) :
    s.streamStart rid c = s.setRegion rid (startDesc c 0 0 (strmAddr r c 0) ((sdemSet dem r).setStrm c (fun z => { z with st := 1 }))) := by
  simp only [State.streamStart, region_of_tfind hr, hc, hk, onRegion_of _ hr, Bool.not_true, Bool.false_eq_true, if_false]

theorem streamStart_traps (hr : HasRegion s rid r) (hc : canStart r c = true) {e : TrapInfo}
    (hk : startCheck r (sealOf s r.part) (partFpol (s.part r.part)) (r.strm c).desc = .error e) :
    s.streamStart rid c = s.setRegion rid ((strmTrap r c e).setStrm c (fun z => { z with halt := 1 })) := by
  simp only [State.streamStart, region_of_tfind hr, hc, hk, onRegion_of _ hr, Bool.not_true, Bool.false_eq_true, if_false]

/-- A box without permit on one tile claims its handle there. -/
theorem boxStart_claims (ho : boxOpen r c = true) (ht : portTaken r c = false) (hp : dPerm (r.strm c).desc = false)
    (hts : mcTiles r (r.strm c).tile (r.strm c).desc = [(r.strm c).tile])
    (hmay : portMay r (r.strm c).tile (dEndp (r.strm c).desc % 8) (!dWrite (r.strm c).desc) = true) :
    boxStart c r = (r.updHnd (r.strm c).tile (dEndp (r.strm c).desc % 8)
        (fun x => { x with nxt := some (if dWrite (r.strm c).desc then hDraining else hFilling) })).setStrm c
      (fun y => { y with box := some (r.strm c).done.length }) := by
  have hskip : permitSkip r c = false := by simp [permitSkip, hp]
  have hturn : ¬(boxOpen r c = false ∨ portTaken r c = true) := by simp [ho, ht]
  have hone : decide (1 < [(r.strm c).tile].length) = false := rfl
  simp only [boxStart, hskip, if_neg hturn, hp, hts, List.all_cons, List.all_nil, hmay, hone, List.foldl_cons, List.foldl_nil, Bool.false_and, Bool.and_true,
    Bool.not_true, Bool.false_eq_true, if_false]
  cases dWrite (r.strm c).desc <;> rfl

/-- A box of a stream on a channel is noted when its elements are done. -/
theorem boxComplete_notes {b : Nat} (fc : Nat) (hs : hasStrm r c = true) (hcopy : (r.strm c).copy = false) (hnew : (r.strm c).done.contains b = false)
    (hb : b < dBoxes (r.strm c).desc) (hst : (r.strm c).st ≠ 0) (hdone : boxDone r c b = true) (hchan : dChan (r.strm c).desc = true) :
    boxComplete fc c b r = strmFinish c (r.setStrm c (fun z => { z with done := nset z.done b true })) := by
  simp only [boxComplete, hs, hcopy, hnew, Nat.not_le.2 hb, hst, hdone, hchan, Bool.not_true, Bool.false_eq_true, or_self, if_false, if_true]

end

/-! ## Completion words and taps (R262, R263) -/

/-- Where the word of a stream lies: global by its capability, else in an MT. -/
def auxPlace (r : Region) (w : Word) : Nat × Nat × Nat := if fld w 63 62 = 1 then (1, (globVa r w).1, (globVa r w).2) else (0, w.toNat, 0)

section
variable {c : Nat} {r : Region}

theorem streamCompletion_issues (hlive : strmLive r c = true) (hst : (r.strm c).st = 1) (hcopy : (r.strm c).copy = false) (h0 : (r.strm c).compl = 0)
    (hk : dAuxk (r.strm c).desc = 1) (hchan : dChan (r.strm c).desc = true) (hdone : (r.strm c).done.length = dBoxes (r.strm c).desc)
    (htaps : (r.strm c).taps = 0) (heos : dEos (r.strm c).desc = false) (hf : r.flight = []) :
    let ad := auxPlace r (dAux (r.strm c).desc)
    streamCompletion c r = (issue { own := strmOwner c 0 2, op := .rmw .add 8 false { bits := 1 } {}, sp := ad.1, addr := ad.2.1, capx := ad.2.2,
                                    seq := r.seq } r).1.setStrm c (fun y => { y with compl := 1 }) := by
  have hgo : ¬((!strmLive r c) = true ∨ (r.strm c).copy = true ∨ (r.strm c).st ≠ 1) := by simp [hlive, hcopy, hst]
  have hall : ((r.strm c).done.length == dBoxes (r.strm c).desc) = true := beq_iff_eq.2 hdone
  simp only [streamCompletion, if_neg hgo, hk, hchan, h0, hall, hf, List.all_nil, htaps, heos, Bool.true_or, Bool.not_false, and_self, if_true]
  rfl

theorem tapArrival_issues (hlive : strmLive r c = true) (hcopy : (r.strm c).copy = false) (htaps : (r.strm c).taps ≠ 0) (hf : r.flight = []) :
    let ad := auxPlace r (dAux (r.strm c).desc)
    tapArrival c r = (issue { own := strmOwner c 0 3, op := .barr false, sp := ad.1, addr := ad.2.1, capx := ad.2.2, seq := r.seq } r).1 := by
  have hgo : ¬((!strmLive r c) = true ∨ (r.strm c).copy = true) := by simp [hlive, hcopy]
  have hnone : findAcc r (strmOwner c 0 3) = none := by rw [findAcc, hf]; rfl
  simp only [tapArrival, if_neg hgo, hnone, hf, List.all_nil, htaps, Bool.not_true, Bool.and_false, Bool.false_eq_true, or_self, if_false]
  rfl

end

/-! ## What a write stream takes (R254, R412) -/

/-- The contexts below `copyBase` are those of the streams. -/
theorem strm_of_stream {r : Region} {c : Nat} (hc : c < copyBase) : r.strm c = tget r.strms {} c := if_pos hc

section
variable {c : Nat} {r : Region} (hlive : strmLive r c = true) (hcopy : (r.strm c).copy = false) (hw : dWrite (r.strm c).desc = true)
  (hchan : dChan (r.strm c).desc = true)
include hlive hcopy hw hchan

theorem takes_of_write : ¬((!strmLive r c) = true ∨ (r.strm c).copy = true ∨ (!dWrite (r.strm c).desc) = true ∨ (!dChan (r.strm c).desc) = true) := by
  simp [hlive, hcopy, hw, hchan]

theorem writeStreamTake_discards (fc : Nat) {tok : Token} {rest : List Token} (hh : (r.strm c).held = tok :: rest) (hk : tokHw tok = true) :
    writeStreamTake fc c r =
      (r.setStrm c (fun z => { z with held := rest, tokIx := 0, stop := z.stop || tokIsPmark tok })).drainOut fc (r.strm c).tile := by
  simp only [writeStreamTake, if_neg (takes_of_write hlive hcopy hw hchan), hh, hk, if_true]

theorem writeStreamTake_drains (fc : Nat) (hh : (r.strm c).held = []) : writeStreamTake fc c r = r.drainOut fc (r.strm c).tile := by
  simp only [writeStreamTake, if_neg (takes_of_write hlive hcopy hw hchan), hh]

end

section
variable {c key o : Nat} {r : Region} {tok : Token} (hq : (r.pl key).outq = [{ op := 0, outs := [o], tok := some tok }])
  (hd : outDests (r.pl key) o = []) (hwelt : weltOf (r.pl key) o = none) (hdr : r.drainOf (r.pl key) key o = some c)
include hd hwelt hdr

/-- An output that a write stream drains has room while the stream holds no token. -/
theorem hasRoom_of_drained (hh : (tget r.strms {} c).held = []) : r.hasRoom (r.pl key) key o tok = true := by
  simp only [Region.hasRoom, hd, hwelt, hdr, hh, List.isEmpty_nil, Option.isSome_none, Bool.not_true, Bool.false_eq_true, if_false, Bool.or_true]

variable (hswap : tokIsSwap tok = false)
include hswap

/-- What it is given goes to the stream. -/
theorem sendOut_of_drained (fc : Nat) :
    r.sendOut fc (r.pl key) key o tok = { r with strms := tupd r.strms {} c (fun st => { st with held := st.held ++ [tok] }) } := by
  simp [Region.sendOut, hd, hwelt, hdr, hswap]

include hq

theorem drainOut_of_drained (fc : Nat) (hh : (tget r.strms {} c).held = []) :
    r.drainOut fc key =
      ({ r with strms := tupd r.strms {} c (fun st => { st with held := st.held ++ [tok] }) } : Region).updPl key (fun p => { p with outq := [] }) := by
  simp only [Region.drainOut, hq, Region.drainList, List.any_cons, List.any_nil, List.contains_nil, hasRoom_of_drained hd hwelt hdr hh, Bool.not_true,
    Bool.or_self, Bool.false_eq_true, if_false, List.foldl_cons, List.foldl_nil, sendOut_of_drained hd hwelt hdr hswap]

end

/-! ## The next element of a read stream (R249, R253) -/

/-- A key set twice holds the later value. -/
theorem tset_tset {α : Type} (t : Tab α) (k : Nat) (v w : α) : tset (tset t k v) k w = tset t k w := by
  induction t with
  | nil => simp [tset]
  | cons c t ih =>
    obtain ⟨j, x⟩ := c
    by_cases hj : j = k
    · simp [tset, hj]
    · by_cases hk : k < j
      · simp [tset, hj, hk]
      · simp [tset, hj, hk, ih]

theorem onRegion_setRegion (s : State) (rid : Nat) (r : Region) (f : Region → Region) : onRegion (s.setRegion rid r) rid f = s.setRegion rid (f r) := by
  rw [onRegion_of (r := r) f (tfind_tset_same ..), State.setRegion, setRegion_regions, tset_tset]
  rfl

section
variable {s : State} {rid c : Nat} {r : Region}

/-- An access of an MT is issued at once. -/
theorem strmIssue_mt (hr : HasRegion s rid r) (hc : c < copyBase) (e aux dst : Nat) {a : Nat × Nat × Nat} (ha : a.1 = 0) (op : MOp) :
    strmIssue s rid c e aux dst a op =
      (s.setRegion rid (issue { own := .strm c e aux, op := op, sp := 0, addr := a.2.1, capx := a.2.2, seq := r.seq } r).1, true) := by
  have hmay : strmMay s r (r.strm c) a op = .ok (some none) := if_pos (.inl (by omega))
  simp only [strmIssue, region_of_tfind hr, hmay, if_pos hc, onRegion_of _ hr, ha]

/-- A read stream on a channel that still has an element to read, with a place for its token, and nothing that stops it. -/
structure MayRead (r : Region) (c : Nat) : Prop where
  chan : dChan (r.strm c).desc = true
  plain : dExp (r.strm c).desc = false
  goes : (r.strm c).stop = false
  noSwap : swapWaits r (r.strm c).tile = false
  more : (r.strm c).next < dN (r.strm c).desc
  room : readRoom r (r.strm c) = true

theorem issueRead_mt (hr : HasRegion s rid r) (hc : c < copyBase) (h : MayRead r c) (ha : (strmAddr r c (r.strm c).next).1 = 0) :
    s.issueRead rid c = s.setRegion rid
      ((issue { own := .strm c (r.strm c).next 0, op := .read (dEsz (r.strm c).desc), sp := 0, addr := (strmAddr r c (r.strm c).next).2.1,
                capx := (strmAddr r c (r.strm c).next).2.2, seq := r.seq } r).1.setStrm c (fun y => { y with next := (r.strm c).next + 1 })) := by
  have hgo : ¬(dN (r.strm c).desc ≤ (r.strm c).next ∨ readRoom r (r.strm c) = false ∨ (dChan (r.strm c).desc && ((r.strm c).stop ||
      (swapWaits r (r.strm c).tile && (r.strm c).next % Nat.max 1 (dBxe (r.strm c).desc) == 0))) = true) := by
    simp [h.more, h.room, h.goes, h.noSwap]
  simp only [State.issueRead, region_of_tfind hr, h.chan, if_true] at hgo ⊢
  simp only [if_neg hgo, strmIssue_mt hr hc _ _ _ ha, h.plain, Bool.not_true, Bool.false_eq_true, false_and, if_false, onRegion_setRegion]

/-- With nothing on its way and no tail to send, the step of a running read stream is its next read. -/
theorem streamElement_reads (hr : HasRegion s rid r) (hlive : strmLive r c = true) (hst : (r.strm c).st = 1) (hcopy : (r.strm c).copy = false)
    (hw : dWrite (r.strm c).desc = false) (heos : dEos (r.strm c).desc = false) (hpm : (r.strm c).pmark = false) (hhalt : (r.strm c).halt ≠ 4)
    (hf : r.flight = []) : s.streamElement rid c = s.issueRead rid c := by
  have hdeliver : deliverElem s.fc c r = none := by
    have hnone : findAcc r (strmOwner c (r.strm c).got 0) = none := by rw [findAcc, hf]; rfl
    simp only [deliverElem, hnone]
  have htail : strmTail s.fc c r = none := by simp [strmTail, hpm, heos]
  simp only [State.streamElement, region_of_tfind hr, hlive, hst, hcopy, hw, hdeliver, htail, hhalt, Bool.not_true, ne_eq, not_true, false_and,
    Bool.false_eq_true, or_self, if_false]

/-! ## Extents (R378) -/

/-- A page that no extent covers is walked, and its leaf installed. -/
theorem refill_installs {va x n : Nat} {l : Leaf} (hr : HasRegion s rid r) (hlive : strmLive r c = true) (hst : (r.strm c).st = 1)
    (hwant : (wantAddr r c).find? (fun a => a.1 == 1 && !capRemote (capEntry r a.2.2) && (extFind (r.strm c) a.2.1).isNone) = some (1, va, x))
    (hfrozen : pageFrozen (s.part r.part) va = false) (hpause : pagePaused r va = false) (hwalk : s.walk r.part va = .ok (l, n)) :
    s.refill rid c = s.addExt rid c (extentOf s r.part va l) := by
  have hgo : ¬((!strmLive r c) = true ∨ (r.strm c).st ≠ 1) := by simp [hlive, hst]
  simp only [State.refill, region_of_tfind hr, if_neg hgo, hwant, hfrozen, hpause, hwalk, Bool.or_self, Bool.false_eq_true, if_false]

end

/-- Settles O21: each event is its step in the region. -/
theorem streamSteps : Obligations.StreamSteps := by
  refine ⟨⟨fun s rid c r hr hc => ⟨fun dem hk => ?_, fun e hk => ?_⟩, fun s rid c r hr ho ht => ?_, fun s rid c r hr hlive => ?_,
    fun s rid c r hr hlive => ?_, fun s rid c r tok rest hr hlive hcopy hw hchan hh hk => ?_, fun s rid c r hr hlive => ?_⟩,
    fun s rid c r hr hc hlive => ?_, fun s rid c r va x n l hr hlive hst hwant hfrozen hpause hwalk => ?_,
    fun s rid c b r hr hc hs hcopy hnew hb hst hdone hchan => ?_⟩
  · show execStreamStart rid c s = _
    rw [execStreamStart, streamStart_passes hr hc hk]
    rfl
  · show execStreamStart rid c s = _
    rw [execStreamStart, streamStart_traps hr hc hk]
  · intro z h hp hts hmay
    show execBoxStart rid c s = _
    rw [execBoxStart, onRegion_of _ hr, boxStart_claims ho ht hp hts hmay]
  · intro z ad hst hcopy h0 hk hchan hdone htaps heos hf
    show execStreamCompletionWord rid c s = _
    rw [execStreamCompletionWord, onRegion_of _ hr, streamCompletion_issues hlive hst hcopy h0 hk hchan hdone htaps heos hf]
    rfl
  · intro z ad hcopy htaps hf
    show execTapArrival rid c s = _
    rw [execTapArrival, onRegion_of _ hr, tapArrival_issues hlive hcopy htaps hf]
    rfl
  · show execWriteStreamTake rid c s = _
    rw [execWriteStreamTake, onRegion_of _ hr, writeStreamTake_discards hlive hcopy hw hchan s.fc hh hk]
  · intro z hcopy hw hchan hh
    refine ⟨?_, fun o tok hc hq hd hwelt hdr hswap => ?_⟩
    · show execWriteStreamTake rid c s = _
      rw [execWriteStreamTake, onRegion_of _ hr, writeStreamTake_drains hlive hcopy hw hchan s.fc hh]
    · have hh' : (tget r.strms {} c).held = [] := by rwa [← strm_of_stream hc]
      rw [drainOut_of_drained hq hd hwelt hdr hswap s.fc hh']
      refine ⟨?_, by rw [pl_updPl_same]⟩
      rw [strm_of_stream hc, updPl_strms, tget_tupd, if_pos rfl, hh', List.nil_append]
  · intro z a hst hcopy hw hchan hexp heos hpm hstop hhalt hswap hmore hroom hf ha
    show execStreamElement rid c s = _
    rw [execStreamElement, if_pos hc, streamElement_reads hr hlive hst hcopy hw heos hpm hhalt hf,
      issueRead_mt hr hc ⟨hchan, hexp, hstop, hswap, hmore, hroom⟩ ha]
  · show execExtentRefill rid c s = _
    rw [execExtentRefill, refill_installs hr hlive hst hwant hfrozen hpause hwalk]
  · show execBoxComplete rid c b s = _
    rw [execBoxComplete, onRegion_of _ hr, if_pos hc, boxComplete_notes s.fc hs hcopy hnew hb hst hdone hchan]

end Sys2Proof.Machine
end

section
/-! Settles O25 (R283, R285-R287, R291, R295, R296): what a step leaves of a tile's queues, then the steps of the push, the choice, the batch, the flush
and the ring, and those of the combine tile. -/

namespace Sys2Proof.Machine

/-! ## The queues of a tile after a step -/

section
variable (r : Region) (key : Nat)

/-- A queue that is set is the new one. -/
@[simp] theorem exqSt_setQ (q : Nat) (f : QSt → QSt) : exqSt ((r.setQ key q f).pl key) q = f (exqSt (r.pl key) q) := by
  rw [Region.setQ, pl_updPl_same, exqSt, tget_tset_same]

/-- What leaves the queues of a unit alone leaves each queue. -/
theorem exqSt_updU {f : MtU → MtU} (hf : (f (r.pl key).u).qs = (r.pl key).u.qs) (q : Nat) :
    exqSt ((r.updU key f).pl key) q = exqSt (r.pl key) q := by
  rw [pl_updU_same]
  simp only [exqSt, exqWord, hf]

/-- An operation that is replaced leaves every unit. -/
@[simp] theorem u_setOp (id k : Nat) (o : PendOp) : ((r.setOp key id o).pl k).u = (r.pl k).u := by
  unfold Region.setOp
  split
  · simp only [Region.pl, tile_setTile]
    split
    next h => rw [h]
    next => rfl
  · rw [Region.updCt, pl_updPl]
    split
    next h => rw [h]
    next => rfl

@[simp] theorem flight_setOp (id : Nat) (o : PendOp) : (r.setOp key id o).flight = r.flight := by
  unfold Region.setOp
  split <;> rfl

/-- A trap of a unit leaves every plane. -/
@[simp] theorem pl_unitTrap (t : TrapInfo) (k : Nat) : (unitTrap r key t).pl k = r.pl k := rfl

end

/-! ## Pushes (R283) -/

/-- Access `a` is that of an EQPUSH, operation `id` of tile `k`, whose queue's tile runs. -/
structure IsPush (r : Region) (a : Access) (k id : Nat) (o : PendOp) : Prop where
  owner : ∃ ix, a.own = .pe k id ix
  op : r.op? k id = some o
  code : o.code = 0xE0
  space : a.sp = 3
  live : unitLive r (a.addr / 8 / 16) = true

/-- The region once the entry of a push has entered the store of its tile: the tile has taken its push of this fc, and the access is done. -/
def pushStored (acc : Nat) (a : Access) (e : QEnt) (r : Region) : Region :=
  let key := a.addr / 8 / 16
  doneAcc (((r.updU key (fun u => { u with ents := u.ents ++ [e] })).updU key (fun u => { u with qord := u.qord + 1 })).useU key uPush) acc a

theorem ents_pushStored (acc : Nat) (a : Access) (e : QEnt) (r : Region) :
    ((pushStored acc a e r).pl (a.addr / 8 / 16)).u.ents = (r.pl (a.addr / 8 / 16)).u.ents ++ [e] := by
  have hpl (r' : Region) (k : Nat) : (doneAcc r' acc a).pl k = r'.pl k := rfl
  simp [pushStored, hpl]

theorem tfind_pushStored (acc : Nat) (a : Access) (e : QEnt) (r : Region) :
    tfind (pushStored acc a e r).flight acc = some { a with st := .done } := tfind_tset_same ..

section
variable {r : Region} {acc k id : Nat} {a : Access} {o : PendOp} (hacc : tfind r.flight acc = some a) (h : IsPush r a k id o) (s : State) (fc : Nat)
include hacc h

theorem exqPush_arrives (hst : a.st = .travel) (hord : mustPrecede s r acc a false = true) :
    exqPush s fc acc r = { r with flight := tset r.flight acc { a with st := .waiting, pa := fc } } := by
  obtain ⟨⟨ix, hown⟩, hop, hcode, hsp, hlive⟩ := h
  have hgo : ¬(o.code ≠ 0xE0 ∨ a.sp ≠ 3 ∨ (!unitLive r (a.addr / 8 / 16)) = true) := by simp [hcode, hsp, hlive]
  simp only [exqPush, hacc, hown, hop, if_neg hgo, if_pos hst, if_pos hord]

/-- One whose turn it is enters the store where there is a place, and no earlier entry is in the ring. -/
theorem exqPush_stores (hst : a.st = .waiting) (hnext : pushNext fc acc a r = true) (hu : r.usedU (a.addr / 8 / 16) uPush = false)
    (hroom : exqStored (r.tile (a.addr / 8 / 16)) < 2048) (hring : (r.pl (a.addr / 8 / 16)).u.ring = []) :
    let p := r.pl (a.addr / 8 / 16)
    let q := a.addr / 8 % 16
    let r1 := pushStored acc a { q := q, stamp := p.u.lclk, ord := p.u.qord, fc := fc, w0 := o.b, w1 := o.c } r
    exqPush s fc acc r = r1.setOp k id { o with res := { bits := BitVec.ofNat 64 (exqCount (r1.pl (a.addr / 8 / 16)) q) }, cond := true } := by
  obtain ⟨⟨ix, hown⟩, hop, hcode, hsp, hlive⟩ := h
  have hgo : ¬(o.code ≠ 0xE0 ∨ a.sp ≠ 3 ∨ (!unitLive r (a.addr / 8 / 16)) = true) := by simp [hcode, hsp, hlive]
  have harrived : a.st ≠ .travel := by rw [hst]; nofun
  have hturn : ¬(a.st ≠ .waiting ∨ r.usedU (a.addr / 8 / 16) uPush = true ∨ (!pushNext fc acc a r) = true) := by simp [hst, hu, hnext]
  have hplace : exqStored (r.tile (a.addr / 8 / 16)) < 2048 ∧ (r.pl (a.addr / 8 / 16)).u.ring.isEmpty = true := ⟨hroom, by rw [hring]; rfl⟩
  simp only [exqPush, hacc, hown, hop, if_neg hgo, if_neg harrived, if_neg hturn, if_pos hplace]
  rfl

end

/-! ## Ages and the choice (R285) -/

section
variable {key q : Nat} {r : Region}

theorem ageQueue_stamps {fc : Nat} (hq : q < exqN (r.pl key)) (ha : exqAged (r.pl key) fc q = true) (hx : (exqSt (r.pl key) q).x = none) :
    ageQueue fc key q r = r.setQ key q (fun z => { z with x := some (r.pl key).u.lclk }) := if_pos ⟨hq, ha, by rw [hx]; rfl⟩

/-- An idle emitter takes the queue picked: its stamp goes, and it sends a flush token where one is due, else a batch. -/
theorem exqChoose_takes {fc : Nat} (hb : ((ageAll fc key r).pl key).u.batch = none) (hu : (ageAll fc key r).usedU key uEmit = false)
    (hpick : exqPick ((ageAll fc key r).pl key) fc = some q) :
    let r' := exqChoose fc key r
    (exqSt (r'.pl key) q).x = none ∧ (r'.pl key).u.batch = some (q, 0, exqDue ((ageAll fc key r).pl key) q) := by
  have hidle : ¬(((ageAll fc key r).pl key).u.batch.isSome = true ∨ (ageAll fc key r).usedU key uEmit = true) := by simp [hb, hu]
  simp only [exqChoose, if_neg hidle, hpick]
  by_cases hdue : exqDue ((ageAll fc key r).pl key) q = true
  · rw [if_pos hdue, hdue]
    exact ⟨by rw [exqSt_updU _ _ rfl, exqSt_setQ], by rw [pl_updU_same]⟩
  · rw [if_neg hdue, eq_false_of_ne_true hdue]
    exact ⟨by rw [exqSt_updU _ _ rfl, exqSt_setQ], by rw [pl_updU_same]⟩

end

/-! ## Tokens of the emitter (R286, R287) -/

section
variable {key q n : Nat} {r : Region} (fc : Nat) (hu : r.usedU key uEmit = false) (hs : r.outSpace key (exqOut (r.pl key) q) = true)
include hu hs

/-- The emitter has sent nothing in this fc, and its output has space. -/
theorem exq_maySend : ¬(r.usedU key uEmit = true ∨ (!r.outSpace key (exqOut (r.pl key) q)) = true) := by simp [hu, hs]

/-- Word 0 of the batch's oldest entry goes out, and the entry stays. -/
theorem exqToken_word0 {e : QEnt} {rest : List QEnt} (hb : (r.pl key).u.batch = some (q, n, false))
    (he : (r.pl key).u.ents.filter (fun e => e.chosen) = e :: rest) (hn : n % 2 ≠ 1) :
    exqToken fc key r = ((r.emit fc key [exqOut (r.pl key) q] (tokS e.w0 mkD (BitVec.ofNat 10 (e.w0.bits.toNat % 2 ^ 10)))).useU key uEmit).updU key
      (fun u => { u with batch := some (q, n + 1, false) }) := by
  have hcol : fld e.w0.bits 9 0 = e.w0.bits.toNat % 2 ^ 10 := by simp [fld]
  simp only [exqToken, hb, he, if_neg (exq_maySend hu hs), hn, decide_false, Bool.false_and, Bool.false_eq_true, if_false, hcol]

/-- Its word 1 goes out, and the entry with it; with the last one the batch is over. -/
theorem exqToken_word1 {e : QEnt} {rest : List QEnt} (hb : (r.pl key).u.batch = some (q, n, false))
    (he : (r.pl key).u.ents.filter (fun e => e.chosen) = e :: rest) (hn : n % 2 = 1) :
    exqToken fc key r =
      (((r.emit fc key [exqOut (r.pl key) q] (tokS e.w1 (if rest = [] then mkL else mkD) (BitVec.ofNat 10 (e.w0.bits.toNat % 2 ^ 10)))).useU key uEmit).setQ
        key q (fun z => { z with flush := z.flush.map (fun f => if f.fc = fc ∧ e.ord < f.mark then { f with n := f.n - 1 } else f) })).updU key
      (fun u => { u with ents := u.ents.filter (fun z => z.ord != e.ord), batch := if rest = [] then none else some (q, n + 1, false) }) := by
  have hcol : fld e.w0.bits 9 0 = e.w0.bits.toNat % 2 ^ 10 := by simp [fld]
  simp only [exqToken, hb, he, if_neg (exq_maySend hu hs), hn, decide_true, Bool.true_and, if_true, hcol, List.isEmpty_iff]

theorem exqFlush_sends {f : Flush} {rest : List Flush} (hb : (r.pl key).u.batch = some (q, n, true)) (hf : (exqSt (r.pl key) q).flush = f :: rest) :
    exqFlush fc key r =
      answerOp ((((r.emit fc key [exqOut (r.pl key) q] { mark := mkE, col := f.col }).useU key uEmit).setQ key q (fun z => { z with flush := rest })).updU key
        (fun u => { u with batch := none })) f.tile f.op { bits := BitVec.ofNat 64 f.n } (f.n != 0) := by
  simp only [exqFlush, hb, hf, if_neg (exq_maySend hu hs)]

end

/-! ## The ring (R291) -/

theorem exqRefill_reads {key : Nat} {r : Region} {e : QEnt} {rest : List QEnt} (fc : Nat) (hring : (r.pl key).u.ring = e :: rest) (hf : r.flight = [])
    (hroom : exqStored (r.tile key) < 2048) :
    exqRefill fc key r = issueAll (ringAccs r key refillTag (r.pl key).u.rhead.toNat [.read 8, .read 8, .read 8, .read 8]) r := by
  simp only [exqRefill, hring, hf, List.filter_nil, List.isEmpty_nil, List.all_nil, hroom, and_self, if_true]

/-! ## The combine tile (R295, R296) -/

section
variable {key : Nat} {r : Region} {a b : Token}

/-- A clean pair whose slot is open joins the window under its id. -/
theorem excPair_records (ha : r.head key 0 = some a) (hb : r.head key 8 = some b) (hda : a.mark = mkD ∨ a.mark = mkL) (hdb : b.mark = mkD ∨ b.mark = mkL)
    (hpa : (tokVal a).pois = false) (hpb : b.pois = 0) (hok : excBad (r.pl key).u (tokVal a) = false) :
    let h := excHdr (tokVal a).bits
    excPair key r = ((r.popIn key 0).popIn key 8).updU key (fun u =>
      { u with win := tset u.win h.1 (tget u.win [] h.1 ++ [(h.2.1, tokVal a, tokVVal b)]) }) := by
  obtain ⟨haC, haE⟩ := mark_of_data hda
  obtain ⟨hbC, hbE⟩ := mark_of_data hdb
  have hrow : (tokVVal b).pois = 0 := hpb
  simp only [excPair, ha, hb, beq_eq_false_iff_ne.2 haC, beq_eq_false_iff_ne.2 haE, beq_eq_false_iff_ne.2 hbC, beq_eq_false_iff_ne.2 hbE, hpa, hrow, hok,
    bne_self_eq_false, Bool.or_self, Bool.and_self, Bool.false_eq_true, if_false]

/-- The colour of what a complete id leaves: that of the header of slot 0. -/
def excCol (got : List (Nat × Val × VVal)) : BitVec 10 :=
  BitVec.ofNat 10 (((got.find? (fun g => g.1 == 0)).map (fun g => fld g.2.1.bits 9 0)).getD 0)

theorem excCol_of_slot0 {got : List (Nat × Val × VVal)} {g : Nat × Val × VVal} (hg : got.find? (fun g => g.1 == 0) = some g) :
    excCol got = BitVec.ofNat 10 (g.2.1.bits.toNat % 2 ^ 10) := by
  simp [excCol, hg, fld]

section
variable (fc : Nat) (hc : excComplete (r.pl key).u ((r.pl key).u.wbase.toNat % 2 ^ 24) = true) (hu : r.usedU key uEmit = false)
  (h0 : r.outSpace key 0 = true) (h8 : r.outSpace key 8 = true)
include hc hu h0 h8

/-- Id W is complete, nothing has been sent in this fc, and both outputs have space. -/
theorem exc_mayEmit : ¬((!excComplete (r.pl key).u ((r.pl key).u.wbase.toNat % 2 ^ 24)) = true ∨ r.usedU key uEmit = true ∨ (!r.outSpace key 0) = true ∨
    (!r.outSpace key 8) = true) := by
  rw [hc]
  simp [hu, h0, h8]

/-- Poisoned pairs are discarded from the window, with a trap. -/
theorem excEmit_discards :
    let w := (r.pl key).u.wbase.toNat % 2 ^ 24
    let got := tget (r.pl key).u.win [] w
    got.any excPois = true →
    excEmit fc key r = unitTrap (r.updU key (fun u => { u with win := tset u.win w (got.filter (fun x => !excPois x)) })) key { code := 0x21, elem := w } := by
  intro w got hp
  simp only [excEmit, if_neg (exc_mayEmit hc hu h0 h8)]
  exact if_pos hp

/-- Without poison, the id and its row go out and the window moves on. -/
theorem excEmit_sends :
    let w := (r.pl key).u.wbase.toNat % 2 ^ 24
    let got := tget (r.pl key).u.win [] w
    got.any excPois = false →
    excEmit fc key r =
      (((r.emit fc key [0] (tokS { bits := BitVec.ofNat 64 w } mkD (excCol got))).emit fc key [8] (tokV { bits := excRow got } mkD (excCol got))).updU key
        (fun u => { u with win := tdel u.win w, wbase := BitVec.ofNat 64 ((w + 1) % 2 ^ 24) })).useU key uEmit := by
  intro w got hp
  simp only [excEmit, if_neg (exc_mayEmit hc hu h0 h8)]
  exact if_neg (ne_true_of_eq_false hp)

end

/-- E tokens at both heads pass when no id holds a slot. -/
theorem excEnd_passes (fc : Nat) (ha : r.head key 0 = some a) (hb : r.head key 8 = some b) (hma : a.mark = mkE) (hmb : b.mark = mkE)
    (hw : (r.pl key).u.win = []) (h0 : r.outSpace key 0 = true) (h8 : r.outSpace key 8 = true) :
    excEnd fc key r = (((r.popIn key 0).popIn key 8).emit fc key [0] a).emit fc key [8] b := by
  have hnone (w : Nat) : excComplete (r.pl key).u w = false := by simp [excComplete, hw, tget]
  simp only [excEnd, ha, hb, hma, hmb, hnone, hw, h0, h8, bne_self_eq_false, List.isEmpty_nil, Bool.not_true, Bool.or_self, Bool.false_eq_true, or_self,
    if_false]

end

/-! ## The events -/

section
variable {s : State} {rid key : Nat} {r : Region}

theorem exec_exqPushAccept {acc : Nat} (hr : HasRegion s rid r) : exec (.exqPushAccept rid acc) s = .next (s.setRegion rid (exqPush s s.fc acc r)) := by
  show execExqPushAccept rid acc s = _
  rw [execExqPushAccept, onRegion_of _ hr]

/-- A region that was not running makes the tests and the choice of R285 by events of their own in its first fc. -/
theorem exqFirst_of_notCounted (hfirst : r.cnt ≠ rRunning) : exqFirst r = true := bne_iff_ne.2 hfirst

theorem exec_queueAged (h : UnitRuns s rid key 7 r) (hfirst : r.cnt ≠ rRunning) (q : Nat) :
    exec (.queueAged rid key q) s = .next (s.setRegion rid (ageQueue s.fc key q r)) := by
  show execQueueAged rid key q s = _
  rw [execQueueAged, unitEv_of_runs h, if_pos (exqFirst_of_notCounted hfirst)]

theorem exec_exqChoose (h : UnitRuns s rid key 7 r) (hfirst : r.cnt ≠ rRunning) :
    exec (.exqChoose rid key) s = .next (s.setRegion rid (exqChoose s.fc key r)) := by
  show execExqChoose rid key s = _
  rw [execExqChoose, unitEv_of_runs h, if_pos (exqFirst_of_notCounted hfirst)]

theorem exec_exqBatchToken (h : UnitRuns s rid key 7 r) : exec (.exqBatchToken rid key) s = .next (s.setRegion rid (exqToken s.fc key r)) := by
  show execExqBatchToken rid key s = _
  rw [execExqBatchToken, unitEv_of_runs h]

theorem exec_exqFlushToken (h : UnitRuns s rid key 7 r) : exec (.exqFlushToken rid key) s = .next (s.setRegion rid (exqFlush s.fc key r)) := by
  show execExqFlushToken rid key s = _
  rw [execExqFlushToken, unitEv_of_runs h]

theorem exec_exqRingRefill (h : UnitRuns s rid key 7 r) : exec (.exqRingRefill rid key) s = .next (s.setRegion rid (exqRefill s.fc key r)) := by
  show execExqRingRefill rid key s = _
  rw [execExqRingRefill, unitEv_of_runs h]

theorem exec_excPair (h : UnitRuns s rid key 8 r) : exec (.excPair rid key) s = .next (s.setRegion rid (excPair key r)) := by
  show execExcPair rid key s = _
  rw [execExcPair, unitEv_of_runs h]

theorem exec_excEmit (h : UnitRuns s rid key 8 r) : exec (.excEmit rid key) s = .next (s.setRegion rid (excEmit s.fc key r)) := by
  show execExcEmit rid key s = _
  rw [execExcEmit, unitEv_of_runs h]

theorem exec_excEnd (h : UnitRuns s rid key 8 r) : exec (.excEnd rid key) s = .next (s.setRegion rid (excEnd s.fc key r)) := by
  show execExcEnd rid key s = _
  rw [execExcEnd, unitEv_of_runs h]

end

/-- Settles O25: each event of an expert queue, then of the combine tile, is its step in a state where the unit runs. -/
theorem expertQueueSteps : Obligations.ExpertQueueSteps := by
  refine ⟨⟨fun s rid acc k id r a o ix hacc hown hop => ?_, fun s rid key q r h hfirst hq ha hx => ?_, fun fc key q r => exqChoose_takes,
    fun s rid key r => exec_exqChoose, fun s rid key q n r e rest h hb he hu hs => ?_, fun s rid key q n r f rest h hb hf hu hs => ?_,
    fun s rid key r e rest h hring hf hroom => ?_⟩, fun s rid key r a b h ha hb hda hdb hpa hpb hok => ?_, fun s rid key r h => ?_,
    fun s rid key r a b h ha hb hma hmb hw h0 h8 => ?_⟩
  · intro key q hcode hsp hlive
    obtain ⟨hr, hfl⟩ := hacc
    have hpush : IsPush r a k id o := ⟨⟨ix, hown⟩, hop, hcode, hsp, hlive⟩
    refine ⟨fun hst hord => ?_, fun hst hnext hu hroom hring => ⟨_, by rw [exec_exqPushAccept hr, exqPush_stores hfl hpush s s.fc hst hnext hu hroom hring],
      ?_, ?_⟩⟩
    · rw [exec_exqPushAccept hr, exqPush_arrives hfl hpush s s.fc hst hord]
    · rw [flight_setOp, tfind_pushStored]
    · rw [u_setOp, ents_pushStored]
  · exact ⟨_, by rw [exec_queueAged h hfirst, ageQueue_stamps hq ha hx], by rw [exqSt_setQ]⟩
  · intro col tok r1 r2
    rw [exec_exqBatchToken h]
    by_cases hn : n % 2 = 1
    · simp only [exqToken_word1 s.fc hu hs hb he hn, r2, r1, tok, col, hn, true_and, if_true]
    · simp only [exqToken_word0 s.fc hu hs hb he hn, r2, r1, tok, col, hn, false_and, if_false]
  · rw [exec_exqFlushToken h, exqFlush_sends s.fc hu hs hb hf]
  · rw [exec_exqRingRefill h, exqRefill_reads s.fc hring hf hroom]
  · rw [exec_excPair h, excPair_records ha hb hda hdb hpa hpb hok]
  · intro w got hc hu h0 h8
    refine ⟨fun hp => ⟨_, by rw [exec_excEmit h, excEmit_discards s.fc hc hu h0 h8 hp], ?_, ?_⟩, fun hp => ⟨_, excCol got,
      by rw [exec_excEmit h, excEmit_sends s.fc hc hu h0 h8 hp], fun g _ => excCol_of_slot0, rfl⟩⟩
    · rw [pl_unitTrap, pl_updU_same]
    · rw [pl_unitTrap, pl_updU_same, tget_tset_same]
  · rw [exec_excEnd h, excEnd_passes s.fc ha hb hma hmb hw h0 h8]

end Sys2Proof.Machine
end
